-- ==== Sys2Proof/Word.lean ====
section
/-! DEFINITION. The word types of the Mirdin 7128: 32-bit words (R39), bytes, 12-bit tenant numbers (R2),
29-bit parcels (R65). -/

namespace Sys2Proof

/-- A 32-bit data word (R39). -/
abbrev Word := BitVec 32

/-- A byte, the smallest addressable unit (R362). -/
abbrev Byte := BitVec 8

/-- A 29-bit parcel of a code store (R65). -/
abbrev Parcel := BitVec 29

/-- A 12-bit tenant ID (R2); tenant 0 is Headland. -/
abbrev TenantId := BitVec 12

/-- A 20-bit object generation (R30). -/
abbrev Gen := BitVec 20

end Sys2Proof
end

