-- ==== Sys2Proof/Syntax.lean ====
section
/-! DEFINITION. The commands of the block: one constructor of `Instr` per row of the table of steps. The rows are
of three kinds: operations that a thread issues (they name the thread), accesses that reach a block (they name the
requester, which the packet header carries, R241), and happenings (an edge, a frame, a tick, an alarm), which carry
what the outside world shows the device. -/

namespace Sys2Proof

/-- A data register d0 to d15 (R73). -/
abbrev DReg := Fin 16

/-- A capability register c0 to c7 (R68, R73). -/
abbrev CReg := Fin 8

/-- A thread's place: the logical core (a group's leader, R202) and the issue slot (R111). -/
structure ThreadId where
  core : Fin 128
  slot : Fin 8
deriving DecidableEq, Repr

/-- The requester of an access that reaches a block: TENANT.CUR of the context that made it, and its place (R241). -/
structure Agent where
  ten : TenantId
  core : Fin 128
  slot : Fin 8
deriving DecidableEq, Repr

/-- What the members of a core group drive in one issue cycle (R204, R205): all alike, one member in the minority,
or no two alike. The disturbance is the outside world's. -/
inductive Upset where
  | agree
  | minority (m : Fin 3)
  | allDiffer
deriving DecidableEq, Repr

/-- The source of a CGET form: a capability register or PCC (R101). -/
inductive CapSrc where
  | reg (c : CReg)
  | pcc
deriving DecidableEq, Repr

/-- The answer to an access that leaves the device (R290, R292). -/
inductive Answer where
  | data (v : Word)
  | poisoned
  | error
deriving DecidableEq, Repr

/-- What the supply or clock monitors name as the scope of an alarm (R310): one cove or every cove. -/
inductive CoveScope where
  | one (n : Fin 16)
  | all
deriving DecidableEq, Repr

/-- A declared phase of a tide source (R176): a whole-turn fraction in 2^-16 ripple, or the count of an edge or
encoder step that only fixes the phase up to whole counts. -/
inductive Measured where
  | phase (m : Nat)
  | edge (rising : Bool) (since : Nat)
  | index (since : Nat)
  | count (forward : Bool) (since : Nat)
  | pair
deriving DecidableEq, Repr

/-- One append of a returning Afmus frame, as the device parses it (R264). `crcOk` and `tagOk` are the outcomes of
the two checks, which the wire decides. -/
structure Append where
  pos : BitVec 8
  kind : BitVec 8
  badRx : Bool
  nrec : Nat
  records : List (Nat × Nat × List (BitVec 8))
  ident : BitVec 64
  version : BitVec 8
  descs : List (BitVec 32)
  crcOk : Bool
  tagOk : Bool
  offset : Nat
deriving DecidableEq, Repr

/-- What has returned of a frame whose /T/ is missing at the deadline: the LOOP of its /S/, if that came back, and the appends that are
complete (R263, R275). -/
structure LateFrame where
  loop : Option Nat
  appends : List Append
deriving DecidableEq, Repr

/-- A byte of a link's line outside the device's frame: its offset, and the tick at which it comes (R275, R276). -/
structure LineByte where
  offset : Nat
  tick : Nat
deriving DecidableEq, Repr

/-- A moment of a link: which, and the tick (R266). -/
structure LinkMoment where
  link : Fin 4
  tick : Nat
deriving DecidableEq, Repr

/-- A run of an SHX: so many engine clocks, and the bits that its data ball shows at the sampling edges among them (R197). -/
structure ShiftRun where
  clocks : Nat
  bits : List Bool
deriving DecidableEq, Repr

/-- What triggers an Ebb save: PFW_N low for so many nanoseconds, or a supply too low, with the tick (R310, R314). -/
structure PowerFail where
  pfwLow : Option Nat
  tick : Nat
deriving DecidableEq, Repr

/-- A received Ethernet frame without its FCS, from the destination address on, and whether its FCS and its coding were good (R285). -/
structure EthFrame where
  payload : List Byte
  fcsOk : Bool
deriving DecidableEq, Repr

/-- A CAN or CAN FD frame (R287): identifier and the flags FDF, BRS, ESI, IDE, RTR. -/
structure CanFrame where
  ident : BitVec 29
  fdf : Bool
  brs : Bool
  esi : Bool
  ide : Bool
  rtr : Bool
  data : List Byte
  crcOk : Bool
deriving DecidableEq, Repr

/-- The fault confinement states of a CAN controller (R287). -/
inductive CanState where
  | errorActive
  | errorPassive
  | busOff
deriving DecidableEq, Repr

/-- A character as a UART hears it (R288): its data, its errors, and the tick of its start bit. -/
structure UartChar where
  data : Byte
  parityBad : Bool
  framingBad : Bool
  at_ : Nat
deriving DecidableEq, Repr

/-- When something begins and when it ends, in ticks of the tide clock: a transfer's first clock edge or start condition, and its end (R284). -/
structure Span where
  start : Nat
  stop : Nat
deriving DecidableEq, Repr

/-- How the last try of an I²C transfer ends on the bus (R293). -/
inductive I2cEnd where
  | done
  | nak
  | pecMismatch
deriving DecidableEq, Repr

/-- How an I²C transfer goes on the bus: the tries that lost arbitration, and the end of the last one (R293). -/
structure I2cRun where
  lost : Fin 3
  last : I2cEnd
deriving DecidableEq, Repr

/-- A clock of an I²C bus that is held low: the tries that lost arbitration before, and the transfer's time (R293). -/
structure I2cHold where
  lost : Fin 2
  span : Span
deriving DecidableEq, Repr

/-- What a request from PCIe names (R289, R290): a memory address, an I/O address, or a word of the function's own configuration space. -/
inductive PcieTarget where
  | mem (adr : Nat)
  | io (adr : BitVec 32)
  | config (reg : Fin 1024)
deriving DecidableEq, Repr

/-- The checks of a TLP as it arrives: LCRC and ECRC (R289, R342). -/
inductive PcieCheck where
  | good
  | lcrc
  | ecrc
deriving DecidableEq, Repr

/-- What a boot source offers the boot ROM (R322, R323): an image, the SHA-384 of its public key, the slot that FLAGS.KEY names, and
the outcome of the signature's and the GCM tag's checks of step 3. -/
structure BootImage where
  present : Bool
  key : Fin 2
  keyHash : BitVec 384
  sigOk : Bool
  version : Nat
  enc : Bool
  gcmOk : Bool
  code : List Parcel
  data : List Word
  entry : Nat
deriving DecidableEq, Repr

/-- The two lists of the Tide Table's edges (R190). -/
inductive EdgeLevel where
  | low
  | high
  | toggle
deriving DecidableEq, Repr

/-- What a memory controller finds at the end of its training (R294). -/
inductive Training where
  | ready
  | refused
  | failed
  | absent
deriving DecidableEq, Repr

/-- What a scrubber step belongs to: a cove's SRAM and code store, or an external memory channel's patrol scrub (R52). -/
inductive ScrubUnit where
  | cove (n : Fin 16)
  | memory (c : Fin 2)
deriving DecidableEq, Repr

/-- The commands of the Mirdin 7128, one constructor per row of the table of steps. -/
inductive Instr where
  -- the issue wheel and fetch
  | issueTurn (core : Fin 128) (upset : Upset) (at_ : Nat)
  | parcelFetch (core : Fin 128)
  -- integer arithmetic, logic and shifts
  | mov (th : ThreadId) (d a : DReg)
  | movs (th : ThreadId) (d a : DReg) (nf : Bool)
  | movi (th : ThreadId) (d : DReg) (imm : BitVec 5)
  | add (th : ThreadId) (d a b : DReg) (nf : Bool)
  | addi (th : ThreadId) (d a : DReg) (imm : BitVec 13) (nf : Bool)
  | sub (th : ThreadId) (d a b : DReg) (nf : Bool)
  | adc (th : ThreadId) (d a b : DReg) (nf : Bool)
  | sbc (th : ThreadId) (d a b : DReg) (nf : Bool)
  | neg (th : ThreadId) (d a : DReg) (nf : Bool)
  | cmp (th : ThreadId) (a b : DReg)
  | cmpi (th : ThreadId) (a : DReg) (imm : BitVec 13)
  | and (th : ThreadId) (d a b : DReg) (nf : Bool)
  | andi (th : ThreadId) (d a : DReg) (imm : BitVec 13) (nf : Bool)
  | or (th : ThreadId) (d a b : DReg) (nf : Bool)
  | ori (th : ThreadId) (d a : DReg) (imm : BitVec 13) (nf : Bool)
  | xor (th : ThreadId) (d a b : DReg) (nf : Bool)
  | xori (th : ThreadId) (d a : DReg) (imm : BitVec 13) (nf : Bool)
  | andn (th : ThreadId) (d a b : DReg) (nf : Bool)
  | tst (th : ThreadId) (a b : DReg)
  | tsti (th : ThreadId) (a : DReg) (imm : BitVec 13)
  | not (th : ThreadId) (d a : DReg) (nf : Bool)
  | min (th : ThreadId) (d a b : DReg)
  | max (th : ThreadId) (d a b : DReg)
  | minu (th : ThreadId) (d a b : DReg)
  | maxu (th : ThreadId) (d a b : DReg)
  | shl (th : ThreadId) (d a b : DReg) (nf : Bool)
  | shr (th : ThreadId) (d a b : DReg) (nf : Bool)
  | sar (th : ThreadId) (d a b : DReg) (nf : Bool)
  | ror (th : ThreadId) (d a b : DReg) (nf : Bool)
  | shli (th : ThreadId) (d a : DReg) (amt : BitVec 5) (nf : Bool)
  | shri (th : ThreadId) (d a : DReg) (amt : BitVec 5) (nf : Bool)
  | sari (th : ThreadId) (d a : DReg) (amt : BitVec 5) (nf : Bool)
  | rori (th : ThreadId) (d a : DReg) (amt : BitVec 5) (nf : Bool)
  -- multiply, MAC and divide
  | mul (th : ThreadId) (d a b : DReg) (nf : Bool)
  | mulh (th : ThreadId) (d a b : DReg) (nf : Bool)
  | mulhu (th : ThreadId) (d a b : DReg) (nf : Bool)
  | mulq (th : ThreadId) (d a b : DReg) (nf : Bool)
  | muli (th : ThreadId) (d a : DReg) (imm : BitVec 13) (nf : Bool)
  | mac (th : ThreadId) (d a b : DReg) (nf : Bool)
  | msub (th : ThreadId) (d a b : DReg) (nf : Bool)
  | macQ (th : ThreadId) (d a b : DReg) (nf : Bool)
  | msubQ (th : ThreadId) (d a b : DReg) (nf : Bool)
  | macL (th : ThreadId) (d a b : DReg) (nf : Bool)
  | msubL (th : ThreadId) (d a b : DReg) (nf : Bool)
  | div (th : ThreadId) (d a b : DReg)
  | divu (th : ThreadId) (d a b : DReg)
  | rem (th : ThreadId) (d a b : DReg)
  | remu (th : ThreadId) (d a b : DReg)
  | sqrt (th : ThreadId) (d a : DReg)
  | sqrtQ (th : ThreadId) (d a : DReg)
  -- phase
  | padd (th : ThreadId) (d a b : DReg) (nf : Bool)
  | psub (th : ThreadId) (d a b : DReg) (nf : Bool)
  | pdiff (th : ThreadId) (d a b : DReg)
  | psin (th : ThreadId) (d a : DReg)
  | pcos (th : ThreadId) (d a : DReg)
  | pcvt (th : ThreadId) (d a b : DReg)
  | pnow (th : ThreadId) (d b : DReg)
  | ldp (th : ThreadId) (d : DReg) (imm : BitVec 17)
  -- select and branch
  | sel (th : ThreadId) (cond : BitVec 4) (d a b : DReg)
  | b (th : ThreadId) (cond : BitVec 4) (off : BitVec 17)
  | bl (th : ThreadId) (cond : BitVec 4) (off : BitVec 17)
  | ldiLo (th : ThreadId) (d : DReg) (imm : BitVec 17)
  | ldiHi (th : ThreadId) (d : DReg) (imm : BitVec 16)
  | nop (th : ThreadId)
  -- loads, stores, atomics
  | ldB (th : ThreadId) (d : DReg) (c : CReg) (disp : BitVec 14)
  | ldBu (th : ThreadId) (d : DReg) (c : CReg) (disp : BitVec 14)
  | ldH (th : ThreadId) (d : DReg) (c : CReg) (disp : BitVec 14)
  | ldHu (th : ThreadId) (d : DReg) (c : CReg) (disp : BitVec 14)
  | ldW (th : ThreadId) (d : DReg) (c : CReg) (disp : BitVec 14)
  | stB (th : ThreadId) (d : DReg) (c : CReg) (disp : BitVec 14)
  | stH (th : ThreadId) (d : DReg) (c : CReg) (disp : BitVec 14)
  | stW (th : ThreadId) (d : DReg) (c : CReg) (disp : BitVec 14)
  | ldC (th : ThreadId) (cd : CReg) (c : CReg) (disp : BitVec 14)
  | stC (th : ThreadId) (cd : CReg) (c : CReg) (disp : BitVec 14)
  | ldAcq (th : ThreadId) (d : DReg) (c : CReg) (disp : BitVec 14)
  | stRel (th : ThreadId) (d : DReg) (c : CReg) (disp : BitVec 14)
  | ldxB (th : ThreadId) (d : DReg) (a : CReg) (b : DReg)
  | ldxBu (th : ThreadId) (d : DReg) (a : CReg) (b : DReg)
  | ldxH (th : ThreadId) (d : DReg) (a : CReg) (b : DReg)
  | ldxHu (th : ThreadId) (d : DReg) (a : CReg) (b : DReg)
  | ldxW (th : ThreadId) (d : DReg) (a : CReg) (b : DReg)
  | stxB (th : ThreadId) (d : DReg) (a : CReg) (b : DReg)
  | stxH (th : ThreadId) (d : DReg) (a : CReg) (b : DReg)
  | stxW (th : ThreadId) (d : DReg) (a : CReg) (b : DReg)
  | ldWS (th : ThreadId) (d : DReg) (c : CReg) (k : BitVec 2)
  | stWS (th : ThreadId) (d : DReg) (c : CReg) (k : BitVec 2)
  | cas (th : ThreadId) (d : DReg) (a : CReg) (b : DReg)
  | amoAdd (th : ThreadId) (d : DReg) (a : CReg) (b : DReg)
  | escalationEntry (core : Fin 128)
  | accessResponse (th : ThreadId) (answer : Answer)
  | postedStoreError (core : Fin 128)
  | postedStoreDrain (core : Fin 128)
  | pld (th : ThreadId) (d : DReg) (a : CReg) (b : DReg)
  -- capabilities
  | cmov (th : ThreadId) (cd ca : CReg)
  | cadd (th : ThreadId) (cd ca : CReg) (b : DReg)
  | caddi (th : ThreadId) (cd ca : CReg) (imm : BitVec 13)
  | csetc (th : ThreadId) (cd ca : CReg) (b : DReg)
  | csetbnd (th : ThreadId) (cd ca : CReg) (b : DReg)
  | csetbndX (th : ThreadId) (cd ca : CReg) (b : DReg)
  | candr (th : ThreadId) (cd ca : CReg) (imm : BitVec 7)
  | cspan (th : ThreadId) (cd ca : CReg) (b : DReg)
  | cseal (th : ThreadId) (cd ca cb : CReg)
  | cunseal (th : ThreadId) (cd ca cb : CReg)
  | cgetC (th : ThreadId) (d : DReg) (src : CapSrc)
  | cgetB (th : ThreadId) (d : DReg) (src : CapSrc)
  | cgetLast (th : ThreadId) (d : DReg) (src : CapSrc)
  | cgetR (th : ThreadId) (d : DReg) (src : CapSrc)
  | cgetOt (th : ThreadId) (d : DReg) (src : CapSrc)
  | cgetTag (th : ThreadId) (d : DReg) (src : CapSrc)
  | cgetE (th : ThreadId) (d : DReg) (ca : CReg)
  | cgran (th : ThreadId) (d a : DReg)
  | cpcc (th : ThreadId) (cd : CReg)
  | cmint (th : ThreadId) (cd ca : CReg) (b : DReg) (rights : BitVec 2)
  -- handle and space operations
  | hld (th : ThreadId) (d : DReg) (ca : CReg) (b : DReg)
  | hst (th : ThreadId) (ca : CReg) (b d : DReg)
  | sld (th : ThreadId) (d : DReg) (ca : CReg) (b : DReg)
  | sst (th : ThreadId) (ca : CReg) (b d : DReg)
  | tstat (th : ThreadId) (d : DReg) (ca : CReg)
  | tstop (th : ThreadId) (ca : CReg)
  | tresume (th : ThreadId) (ca : CReg)
  -- control, gates, waits
  | jr (th : ThreadId) (ca : CReg)
  | jrl (th : ThreadId) (ca : CReg)
  | gcall (th : ThreadId) (ca : CReg)
  | gret (th : ThreadId)
  | rfe (th : ThreadId)
  | trap (th : ThreadId) (n : BitVec 8)
  | sleep (th : ThreadId)
  | wake (th : ThreadId) (a : DReg)
  | tmark (th : ThreadId)
  | waitTide (th : ThreadId) (t : Fin 16) (imm : BitVec 17)
  | waitTideR (th : ThreadId) (a b : DReg)
  | waitComplete (th : ThreadId) (at_ : Nat)
  | mfs (th : ThreadId) (d : DReg) (n : BitVec 13)
  | mts (th : ThreadId) (n : BitVec 13) (a : DReg)
  | mfsc (th : ThreadId) (cd : CReg) (n : BitVec 13)
  | mtsc (th : ThreadId) (n : BitVec 13) (ca : CReg)
  | wheelWrite (who : Agent) (core : Fin 128) (v : Word)
  -- the bank window and the banks
  | hold (who : Agent) (core : Fin 128) (slot : Fin 8) (level : BitVec 2)
  | release (who : Agent) (core : Fin 128) (slot : Fin 8) (level : BitVec 2)
  | releaseRun (who : Agent) (core : Fin 128) (slot : Fin 8) (level : BitVec 2)
  | create (who : Agent) (core : Fin 128) (slot : Fin 8) (level : BitVec 2)
  | discard (who : Agent) (core : Fin 128) (slot : Fin 8) (level : BitVec 2)
  | bankSpill (core : Fin 128)
  | bankFill (core : Fin 128) (slot : Fin 8)
  | vectorBufferReload (core : Fin 128)
  | eventDispatch (core : Fin 128)
  -- translation
  | tlbw (th : ThreadId) (a b : DReg)
  | tlbr (th : ThreadId) (d a : DReg)
  | tlbiVa (th : ThreadId) (cd : CReg) (a b : DReg)
  | tlbiT (th : ThreadId) (cd : CReg) (b : DReg)
  | tlbiAll (th : ThreadId) (cd : CReg)
  | tlbiReceive (core : Option (Fin 128))
  | wld (th : ThreadId) (d a b : DReg)
  -- fences
  | fenceL (th : ThreadId)
  | fenceM (th : ThreadId)
  | fenceIo (th : ThreadId)
  | fenceT (th : ThreadId)
  | fenceC (th : ThreadId)
  | fenceComplete (th : ThreadId)
  -- block instructions; `units` is how many units run before the instruction is abandoned
  | movb (th : ThreadId) (cd ca : CReg) (b : DReg) (units : Nat)
  | fillb (th : ThreadId) (cd : CReg) (a b : DReg) (units : Nat)
  | crcb (th : ThreadId) (d : DReg) (ca : CReg) (b : DReg) (units : Nat)
  | tagz (th : ThreadId) (cd : CReg) (b : DReg) (units : Nat)
  | pstoreN (th : ThreadId) (cd ca : CReg) (b : DReg) (units : Nat)
  -- the scrubber
  | scrubStep (unit : ScrubUnit)
  | repairQueueRewrite (cove : Fin 16)
  -- the tenant table
  | mint (who : Agent)
  | start (who : Agent)
  | stop (who : Agent)
  | resume (who : Agent)
  | retire (who : Agent)
  | tenCmdUnknown (who : Agent) (code : BitVec 4)
  | tenCmdComplete
  | tenantCommandArrive (core : Fin 128)
  | tenPhysWrite (who : Agent) (last : Bool) (v : Word)
  | tenUnwrittenRead (who : Agent)
  -- the Tidemark and the cove modes
  | checkpoint (core : Fin 128)
  | checkpointCommit (core : Fin 128) (upset : Upset)
  | rollback (core : Fin 128) (cause : BitVec 4)
  | glitchAlarm (scope : CoveScope)
  | restoreComplete (core : Fin 128)
  | replayCatchUp (core : Fin 128)
  | change (who : Agent) (cove : Fin 16) (mode : BitVec 2)
  | rotate (who : Agent) (cove : Fin 16) (lcore : BitVec 4)
  | restart (who : Agent) (cove : Fin 16) (lcore : BitVec 4) (differ pass : BitVec 8)
  | cmodeUnknown (who : Agent) (cove : Fin 16) (code : BitVec 3)
  | copyEnd (cove : Fin 16)
  | selfTestSchedulePoint (cove : Fin 16)
  | coreTestComplete (cove : Fin 16) (phys : Fin 8) (pass : Bool)
  | sliceComplete (cove : Fin 16) (pass : Bool)
  | bankTestComplete (cove : Fin 16) (pass : Bool)
  -- the event controller
  | eventArrival (src : Fin 2048) (at_ : Nat)
  | coalesceTimeout (src : Fin 2048) (at_ : Nat)
  | evcSelect (at_ : Nat)
  | urgentEntry (src : Fin 2048) (at_ : Nat)
  | enSet (ten : TenantId) (src : Fin 2048) (at_ : Nat)
  | enClr (ten : TenantId) (src : Fin 2048) (at_ : Nat)
  | enClrEffect (src : Fin 2048) (at_ : Nat)
  | pendSet (ten : TenantId) (src : Fin 2048) (at_ : Nat)
  | pendClr (ten : TenantId) (src : Fin 2048)
  | coalWrite (th : ThreadId) (src : Fin 2048) (v : Word)
  | evcBindWrite (ten : TenantId) (src : Fin 2048) (v : Word)
  | maskWrite (ten : TenantId) (src : Fin 2048) (k : Fin 4) (v : Word) (at_ : Nat)
  | enablePendingDirectWrite (who : Agent) (pending : Bool) (k : Fin 64) (v : Word) (at_ : Nat)
  | enablePendingAliasWrite (who : Agent) (pending set : Bool) (k : Fin 64) (v : Word) (at_ : Nat)
  | evcClaimRead (who : Agent) (page : Fin 128)
  | evcDoneWrite (who : Agent) (page : Fin 128)
  | wakeLatchCatch (k : Fin 64)
  | wakeLatchClear (who : Agent) (hi : Bool) (v : Word)
  | wakeBallEdge (k : Fin 64) (at_ : Nat)
  -- tides
  | tideMeasurement (t : Fin 16) (m : Measured) (at_ : Nat)
  | encoderReversal (t : Fin 16) (at_ : Nat)
  | slackWaterEntry (t : Fin 16) (at_ : Nat)
  | fallbackApply (t : Fin 16) (at_ : Nat)
  | tsrcWrite (ten : TenantId) (t : Fin 16) (v : Word) (at_ : Nat)
  -- tide entries
  | entryPhaseWrite (ten : TenantId) (e : Fin 4096) (v : Word) (at_ : Nat)
  | entryCtrlWrite (ten : TenantId) (e : Fin 4096) (v : Word) (at_ : Nat)
  | entryArgWrite (ten : TenantId) (e : Fin 4096) (v : Word) (at_ : Nat)
  | entryBindWrite (ten : TenantId) (e : Fin 4096) (v : Word)
  | entryFire (e : Fin 4096) (at_ : Nat)
  | entryDispatch (at_ : Nat)
  | entryStage (e : Fin 4096) (at_ : Nat)
  | commitPoint (e : Fin 4096) (at_ : Nat)
  | edgePlace (e : Fin 4096) (at_ : Nat)
  | forceWrite (ten : TenantId) (o : Fin 64) (v : Word)
  | ocfgWrite (ten : TenantId) (o : Fin 64) (v : Word)
  | ownWrite (ten : TenantId) (o : Fin 64) (v : Word)
  -- modulator inputs
  | modulatorSample (m : Fin 32) (bits : List Bool) (at_ : Nat)
  | modClockLost (m : Fin 32)
  | mcfgWrite (ten : TenantId) (m : Fin 32) (v : Word)
  -- wave engines
  | halt (ten : TenantId) (e : Fin 16)
  | wcmdResume (ten : TenantId) (e : Fin 16)
  | wcmdReset (ten : TenantId) (e : Fin 16)
  | trigger (ten : TenantId) (e : Fin 16)
  | waveProgWrite (ten : TenantId) (e : Fin 16) (adr : Fin 64) (v : Word)
  | waveRxRead (ten : TenantId) (e : Fin 16)
  | weHalt (e : Fin 16)
  | weSet (e : Fin 16)
  | weDir (e : Fin 16)
  | waitp (e : Fin 16) (pins : BitVec 4)
  | waitpTimeout (e : Fin 16) (at_ : Nat)
  | shx (e : Fin 16) (run : ShiftRun)
  | dly (e : Fin 16)
  | ldc (e : Fin 16)
  | djnz (e : Fin 16)
  | jmp (e : Fin 16)
  | jpin (e : Fin 16) (pins : BitVec 4)
  | stamp (e : Fin 16) (at_ : Nat)
  | tide (e : Fin 16)
  | push (e : Fin 16)
  | pull (e : Fin 16)
  | evt (e : Fin 16) (at_ : Nat)
  | clr (e : Fin 16)
  -- mesh and Churn
  | undertowPacket (port : Fin 131)
  | chStop (who : Agent) (ch : Fin 512)
  | flush (who : Agent) (ch : Fin 512)
  | chCmdUnknown (who : Agent) (code : BitVec 4) (ch : Fin 512)
  | chPoolWrite (who : Agent) (v : Word)
  | tcapWrite (who : Agent) (v : Word)
  | cbindWrite (ten : TenantId) (ch : Fin 512) (v : Word)
  | cctrlWrite (ten : TenantId) (ch : Fin 512) (v : Word)
  | tailWrite (ten : TenantId) (ch : Fin 512) (v : Word)
  | cxeWrite (ten : TenantId) (ch : Fin 512) (second : Bool) (word : Fin 4) (v : Word)
  | startWrite (ten : TenantId) (ch : Fin 512) (v : Word)
  | descriptorProcess (ch : Fin 512)
  | descriptorComplete (ch : Fin 512) (at_ : Nat)
  -- Afmus Link
  | cycleStart (l : Fin 4) (at_ : Nat)
  | freezePoint (m : LinkMoment)
  | frameReturn (l : Fin 4) (loop : Nat) (devOk : Bool) (appends : List Append) (malformed : Option (Fin 31 × Nat)) (at_ : Nat)
  | frameDeadline (l : Fin 4) (back : LateFrame) (at_ : Nat)
  | joiningTimeout (l : Fin 4) (pos : Fin 31)
  | positionLeft (l : Fin 4) (pos : Fin 31) (at_ : Nat)
  | linkUp (l : Fin 4) (loop : Nat)
  | linkDown (l : Fin 4) (at_ : Nat)
  | lctrlWrite (who : Agent) (l : Fin 4) (v : Word)
  | lperiodWrite (who : Agent) (l : Fin 4) (v : Word)
  | bind (who : Agent) (l : Fin 4) (pos : BitVec 5)
  | unbind (who : Agent) (l : Fin 4) (pos : BitVec 5)
  | evict (who : Agent) (l : Fin 4) (pos : BitVec 5)
  | quarantine (who : Agent) (l : Fin 4) (pos : BitVec 5)
  | linkRelease (who : Agent) (l : Fin 4) (pos : BitVec 5)
  | keyclr (who : Agent) (l : Fin 4) (pos : BitVec 5)
  | lcmdUnknown (who : Agent) (l : Fin 4) (code : BitVec 4) (pos : BitVec 5)
  | akeyWrite (who : Agent) (l : Fin 4) (v : Word)
  -- standard interfaces
  | ethernetFrameReceive (p : Fin 6) (f : EthFrame) (at_ : Nat)
  | ethernetFrameTransmit (p : Fin 6) (at_ : Nat)
  | ethernetLinkChange (p : Fin 6) (up : Bool) (at_ : Nat)
  | ptpStepWrite (who : Agent) (p : Fin 6) (v : Word)
  | ptpNsRead (who : Agent) (p : Fin 6)
  | txtsRead (who : Agent) (p : Fin 6) (k : Fin 3)
  | ptpTargetTime (p : Fin 6) (at_ : Nat)
  | canFrameReceive (c : Fin 4) (f : CanFrame) (at_ : Nat)
  | canFrameTransmit (c : Fin 4) (at_ : Nat)
  | canErrorStateChange (c : Fin 4) (st : CanState) (at_ : Nat)
  | busOffRecovery (c : Fin 4) (at_ : Nat)
  | uartRecordEnd (u : Fin 8) (chars : List (Byte × Nat)) (parity framing : List Nat) (brk : Bool) (at_ : Nat)
  | uartTransmit (u : Fin 8) (at_ : Nat)
  | pcieInboundWrite (t : PcieTarget) (data : List Byte) (ep : Bool) (check : PcieCheck) (at_ : Nat)
  | pcieInboundRead (t : PcieTarget) (at_ : Nat)
  | pcieMsiReceive (data : Word) (at_ : Nat)
  | pcieOutboundCompletion (th : ThreadId) (answer : Answer)
  | pcieCompletionTimeout (th : ThreadId)
  | pcieLinkDown (at_ : Nat)
  | pcieLinkUp (at_ : Nat)
  | xspiCommand (data : List Byte) (strobe : Bool) (span : Span)
  | xspiWindowRead (th : ThreadId) (answer : Answer)
  | i2cTransfer (i : Fin 4) (data : List Byte) (run : I2cRun) (span : Span)
  | i2cClockTimeout (i : Fin 4) (hold : I2cHold)
  | smbalert (i : Fin 4) (at_ : Nat)
  | memoryTrainingComplete (c : Fin 2) (ok : Bool)
  | bypass (tdi : List Bool)
  | idcode (tdi : List Bool)
  | samplePreload (tdi : List Bool)
  | extest (tdi : List Bool)
  | clamp (tdi : List Bool)
  | highz (tdi : List Bool)
  | hykiowReadWord (adr : Option (BitVec 40))
  | hykiowWriteWord (adr : BitVec 40) (v : Word)
  | hykiowStatus
  -- power, clocks, reset and the Cave
  | profileWrite (who : Agent) (v : Word)
  | profileSwitch
  | profileChangeComplete
  | thermalForcedNeap
  | ungate (who : Agent)
  | clkgate (who : Agent)
  | pwrgate (who : Agent)
  | gdHold (who : Agent)
  | unhold (who : Agent)
  | gdReset (who : Agent)
  | gdCmdUnknown (who : Agent) (code : BitVec 4)
  | gatingComplete (dom : Fin 45)
  | blkGateWrite (who : Agent) (dom : Fin 45) (v : Word) (at_ : Nat)
  | enter (who : Agent)
  | standbyRestart (at_ : Nat)
  | arm (who : Agent)
  | disarm (who : Agent)
  | ebbTrigger (cause : PowerFail)
  | ebbSeal
  | ebbReturn (restore at_ : Nat)
  | epochCmd (who : Agent) (v : Word)
  | epochRebuild (dom : Fin 45) (at_ : Nat)
  | sysReset (who : Agent) (v : Word)
  | otpRollback (who : Agent) (n : BitVec 8)
  | otpRevoke (who : Agent) (k : Bool)
  | otpBootcfg (who : Agent) (v : BitVec 8)
  | powerOnReset (aonLost : Bool)
  | poreset
  | watchdogExpiry
  | watchdogHalf (at_ : Nat)
  | aonKick (who : Agent)
  | aonAlarm (k : Fin 2) (at_ : Nat)
  | aonCntLoRead (who : Agent)
  | supplyWarning (at_ : Nat)
  | supplyGlitch (sram : Bool) (cove : Fin 16) (at_ : Nat)
  | clockMonitorAlarm (scope : CoveScope) (at_ : Nat)
  | tidePllLoss (at_ : Nat)
  | crystalLoss (at_ : Nat)
  | crystalLossTimeout (at_ : Nat)
  | thermalWarning (at_ : Nat)
  | bootRomRun (images : List BootImage)
  | bootRetry
  -- register pages, features and fault injection
  | featAcceptWrite (who : Agent) (page : BitVec 12) (v : Word)
  | flock (who : Agent) (page : BitVec 12)
  | featureSetApply (core : Fin 128)
  | pageOwnWrite (who : Agent) (page : BitVec 12) (v : Word)
  | errStatusClear (who : Agent) (page : BitVec 12) (v : Word)
  | injHitClear (who : Agent) (page : BitVec 12) (v : Word)
  | errEventSet (who : Agent) (page : BitVec 12) (v : Word)
  | errEventClr (who : Agent) (page : BitVec 12) (v : Word)
  | injUnlock (who : Agent) (v : Word) (at_ : Nat)
  | injLock (who : Agent)
  | injectionWindowExpiry (at_ : Nat)
  | injCtrlWrite (who : Agent) (page : BitVec 12) (d : Fin 32) (v : Word)
  | injectionFire (page : BitVec 12) (d : Fin 32) (at_ : Nat)
  | hykEnWrite (who : Agent) (v : Word)
  | counterRcRead (who : Agent) (page : BitVec 12) (off : BitVec 12)
  | registerWrite (who : Agent) (page : BitVec 12) (off : BitVec 12) (v : Word)
  -- supplies, crystal, clocks returning
  | supplyReturn
  | powerOff
  | vddIo33Fall
  | crystalReturn
  | tidePllRelock (at_ : Nat)
  | thermalAlarmClear
  | modClockReturn (m : Fin 32)
  | unsolicited (l : Fin 4) (byte : LineByte)
deriving DecidableEq, Repr

end Sys2Proof
end

