-- ==== Sys2Proof/Machine/Bits.lean ====
section
/-! DEFINITION. Bit fields, saturation and rounding. -/

namespace Sys2Proof.Machine

/-- The field [hi:lo] of a word, as a number. -/
def fld (w : Word) (hi lo : Nat) : Nat := (w.toNat >>> lo) % 2 ^ (hi + 1 - lo)

/-- Bit i of a word. -/
def bit (w : Word) (i : Nat) : Bool := w.toNat.testBit i

/-- A number placed at bit lo of a word. -/
def at_ (v lo : Nat) : Word := BitVec.ofNat 32 (v <<< lo)

/-- A flag placed at bit i of a word. -/
def flagAt (b : Bool) (i : Nat) : Word := if b then BitVec.ofNat 32 (1 <<< i) else 0

/-- A word with its field [hi:lo] replaced. -/
def withFld (w : Word) (hi lo v : Nat) : Word :=
  BitVec.ofNat 32 (w.toNat - (fld w hi lo) <<< lo + (v % 2 ^ (hi + 1 - lo)) <<< lo)

/-- A word made of a number. -/
def word (n : Nat) : Word := BitVec.ofNat 32 n

/-- One more, saturating at 0xFFFF_FFFF (R53, R127, R209). -/
def satInc (w : Word) : Word := if w = 0xFFFFFFFF#32 then w else w + 1

/-- One more, saturating at 0xFFFF. -/
def satInc16 (w : BitVec 16) : BitVec 16 := if w = 0xFFFF#16 then w else w + 1

/-- a / b rounded toward minus infinity. -/
def floorDiv (a b : Int) : Int := Int.fdiv a b

/-- Word w with every bit of the mask cleared. -/
def clearBits (w mask : Word) : Word := w &&& ~~~mask

/-- Bit i of a 32-bit mask as a word. -/
def bitMask (i : Nat) : Word := BitVec.ofNat 32 (1 <<< i)

/-- The list of the numbers of the bits set in a word. -/
def bitsSet (w : Word) : List Nat := (List.range 32).filter fun i => bit w i

/-- The 64-bit signed value of two words, high word first. -/
def pair64 (hi lo : Word) : Int := (hi ++ lo : BitVec 64).toInt

/-- One bit of the reflected CRC-32C (R110, R262). -/
def crcBit (c : Word) : Word := if bit c 0 then (c >>> 1) ^^^ 0x82F63B78#32 else c >>> 1

/-- A byte folded into a CRC. -/
def crcByte (c : Word) (b : Byte) : Word := (List.range 8).foldl (fun x _ => crcBit x) (c ^^^ b.setWidth 32)

/-- The little-endian bytes of a number of so many bytes. -/
def leBytes : Nat → Nat → List Byte
  | 0, _ => []
  | n + 1, v => BitVec.ofNat 8 v :: leBytes n (v / 256)

end Sys2Proof.Machine
end

