-- ==== Sys2Proof/Machine/Tbl.lean ====
section
/-! DEFINITION. Sparse tables: association lists by a natural-number key, in strictly rising order. A key that is not
listed reads as the default of its table. -/

namespace Sys2Proof.Machine

/-- A sparse table by key. -/
structure Tbl (α : Type) where
  cells : List (Nat × α)
deriving DecidableEq, Repr

/-- The listed value at a key. -/
def cellsFind {α : Type} : List (Nat × α) → Nat → Option α
  | [], _ => none
  | (j, v) :: r, k => if j = k then some v else cellsFind r k

/-- Put a value at a key, keeping the order. -/
def cellsPut {α : Type} : List (Nat × α) → Nat → α → List (Nat × α)
  | [], k, v => [(k, v)]
  | (j, w) :: r, k, v =>
    if k < j then (k, v) :: (j, w) :: r
    else if k = j then (k, v) :: r
    else (j, w) :: cellsPut r k v

/-- Take a key out. -/
def cellsErase {α : Type} : List (Nat × α) → Nat → List (Nat × α)
  | [], _ => []
  | (j, w) :: r, k => if j = k then r else (j, w) :: cellsErase r k

/-- Every key of the list lies above the bound, and the keys rise strictly. -/
def cellsSorted {α : Type} : Option Nat → List (Nat × α) → Bool
  | _, [] => true
  | none, (k, _) :: r => cellsSorted (some k) r
  | some b, (k, _) :: r => decide (b < k) && cellsSorted (some k) r

/-- The table with nothing listed. -/
def Tbl.empty {α : Type} : Tbl α := ⟨[]⟩

/-- What the table holds at a key, under its defaults. -/
def Tbl.get {α : Type} (dflt : Nat → α) (t : Tbl α) (k : Nat) : α :=
  match cellsFind t.cells k with
  | some v => v
  | none => dflt k

/-- The table with a value put at a key. -/
def Tbl.put {α : Type} (t : Tbl α) (k : Nat) (v : α) : Tbl α := ⟨cellsPut t.cells k v⟩

/-- The table with a value put at a key in canonical form: a value equal to the default is not listed. -/
def Tbl.set {α : Type} [DecidableEq α] (dflt : Nat → α) (t : Tbl α) (k : Nat) (v : α) : Tbl α :=
  if v = dflt k then ⟨cellsErase t.cells k⟩ else ⟨cellsPut t.cells k v⟩

/-- Strictly rising keys. -/
def Tbl.sorted {α : Type} (t : Tbl α) : Bool := cellsSorted none t.cells

/-- Strictly rising keys, and no entry equal to what an unlisted key reads as. -/
def Tbl.canonical {α : Type} [DecidableEq α] (dflt : Nat → α) (t : Tbl α) : Bool :=
  t.sorted && t.cells.all fun e => decide (e.2 ≠ dflt e.1)

end Sys2Proof.Machine
end

