-- ==== Sys2Proof/Machine/State.lean ====
section
/-! DEFINITION. The state of the Mirdin 7128: every register, memory, queue and status the spec gives the device, as
plain data; the reasons a step can stop; and the state right after reset. -/

namespace Sys2Proof.Machine

/-! ## Why a step stops -/

/-- Reasons a step ends in a fault of the model. The device reports its own faults to its threads as traps (R139),
which are next states; nothing in the spec stops the whole device with an error, so there is one reason only. -/
inductive Fault where
  /-- Raised by no command: the type needs a constructor. Safe. -/
  | none_
deriving DecidableEq, Repr

/-- Reasons a command has no meaning. -/
inductive Refusal where
  /-- Raised by an arm of `exec` whose command has no meaning yet, by its mnemonic. Safe: nothing is claimed. -/
  | notModelled (mnemonic : String)
deriving DecidableEq, Repr

/-! ## Words, tags and capabilities -/

/-- The two-bit tag of a memory word (R42). -/
inductive Tag where
  | written
  | capability
  | unwritten
  | poisoned
deriving DecidableEq, Repr

/-- What the check bits of a stored word, beat or parcel say at its next check (R48). -/
inductive EccKind where
  | clean
  | dataBit
  | checkBit
  | double
  | beyond
deriving DecidableEq, Repr

/-- The check-bit state of a stored word or parcel, and whether an injection caused it (R338). -/
structure Ecc where
  kind : EccKind
  inj : Bool
deriving DecidableEq, Repr

/-- Check bits that agree with the word. -/
def Ecc.clean : Ecc := { kind := .clean, inj := false }

/-- A capability: its two words and its tag (R16). -/
structure Cap where
  w0 : Word
  w1 : Word
  tag : Bool
deriving DecidableEq, Repr

/-- The null capability (R16). -/
def Cap.null : Cap := { w0 := 0, w1 := 0, tag := false }

/-! ## Threads and cores -/

/-- THREAD_STATE less its reserved bits (R133). -/
structure ThreadState where
  xdepth : BitVec 7
  level : BitVec 2
  pcode : BitVec 6
  wp : Bool
  pf : Bool
  h : Bool
  m : Bool
deriving DecidableEq, Repr

/-- One context: the registers of R73 and the per-thread system registers that the image lays out (R122). -/
structure Ctx where
  d : Vector Word 16
  c : Vector Cap 8
  pcc : Cap
  flg : BitVec 4
  addrmode : BitVec 24
  progValid : Bool
  progDone : BitVec 30
  ts : ThreadState
  home : TenantId
  cur : TenantId
  tideAuth : Cap
  tvec : Cap
  xstk : Cap
  entry : Cap
  record : Vector Word 16
deriving DecidableEq, Repr

/-- The slot states of R112. -/
inductive SlotState where
  | empty
  | active
  | sleeping
  | waiting
  | parked
  | held
deriving DecidableEq, Repr

/-- The fences of R59. -/
inductive FenceKind where
  | l
  | m
  | io
  | t
  | c
deriving DecidableEq, Repr

/-- The data access of a fault (R136 words 3 and 4): the physical address where the record holds one, and the kind; the
capability register where one took part. -/
structure AccInfo where
  pa : Option Nat
  write : Bool
  capacc : Bool
  size : Nat
  creg : Option Nat
deriving DecidableEq, Repr

/-- A fault: its code (R54), the operation (0 long or none, 1 first short, 2 second short), the parcel as fetched, the
access, DETAIL, and whether it is of the kind that PF suppresses (R136, R140). -/
structure FaultInfo where
  code : Nat
  op : Nat
  parcel : Word
  vaddr : Option Word
  acc : Option AccInfo
  detail : Word
  probe : Bool
deriving DecidableEq, Repr

/-- What keeps an ACTIVE slot from issuing until something answers (R87, R108, R104, R34). -/
inductive Wait where
  | none
  /-- An access that the model has performed; the response is on its way (R87). -/
  | access
  /-- An access that left the device, to PCIe or else to the flash, and the operations of the parcel that made it: the parcel
  takes effect when the answer is there. -/
  | outside (pcie : Bool) (ops : List Instr)
  | fence (k : FenceKind)
  /-- TMARK, until the checkpoint commits (R105). -/
  | commit
  /-- A handle write to an event source that the event controller acknowledges once it has taken effect (R234). -/
  | event (src : Fin 2048)
  /-- TSTOP or TRESUME, until the tenant table has judged it (R103). -/
  | table
  /-- An escalation that waits for the core's other level-2 context (R151): the fault, TRAPNO and CODE2. -/
  | escalate (f : FaultInfo) (trapno code2 : Nat)
deriving DecidableEq, Repr

/-- A wait on a tide's phase (R182). -/
structure TideWait where
  tide : Fin 16
  target : Word
  done : Bool
deriving DecidableEq, Repr

/-- A fetched parcel in a fetch buffer: its code address, its bits, and whether its store found it uncorrectable. -/
structure Fetched where
  adr : Nat
  bits : Parcel
  bad : Bool
deriving DecidableEq, Repr

/-- One issue slot (R111 to R113). `prior` is what a HELD slot returns to, `under` what a PARKED thread was doing
(R104, R182). `busy` lists registers whose Result count has not elapsed, by the cycle at which it does (R86). -/
structure Slot where
  st : SlotState
  prior : SlotState
  made : Bool
  under : SlotState
  top : Fin 3
  wait : Wait
  buf : List Fetched
  tideWait : Option TideWait
  busy : List (Nat × Nat)
  /-- Issue cycles that a block instruction has used since its last word step (R109). -/
  spent : Nat
  /-- Answers from outside that the parcel at hand has not used yet. -/
  answers : List Answer
  /-- The physical addresses that the parcel at hand was given, by virtual address, before it went outside (R165). -/
  given : List (Word × Nat)
  /-- PROG is of the parcel before the one that the top context issues next: PF suppressed a fault of a block instruction (R140,
  R143). -/
  stale : Bool
  /-- The tenant whose GCALL or GRET parks the thread (R35), if that is why it is parked. -/
  crossing : Option TenantId
  /-- While its parcel's access waits for its response: the context before the parcel, from which it executes again after an Ebb save
  (R314). -/
  before : Option Ctx
deriving DecidableEq, Repr

/-- A register bank that holds a context (R121, R123): `used` is the cycle of its last issue or fill. -/
structure Bank where
  slot : Fin 8
  level : Fin 3
  used : Nat
  ctx : Ctx
deriving DecidableEq, Repr

/-- A TLB entry as stored (R156), and when it last matched (R162). -/
structure TlbEntry where
  w0 : Word
  w1 : Word
  w2 : Word
  w3 : Word
  last : Nat
deriving DecidableEq, Repr

/-- What a checkpoint shadow holds of a core (R206): contexts, TLB, victim-hint state, WHEEL, the free-turn state and
the per-core system state. ESC_STACK has no image word and stays with its slot and level (log entry 20). -/
structure Arch where
  slots : Vector Slot 8
  banks : Vector (Option Bank) 12
  escs : Tbl Cap
  wheel : Word
  /-- The owners of the wheel's positions in this revolution (R115). -/
  owners : List (Option (Fin 8))
  lastFree : Fin 8
  /-- A RELEASE of slot 0 that is still in progress, or a RELEASE.RUN (true): BUSY of the bank window (R125). -/
  bankJob : Option Bool
  tlb : Tbl TlbEntry
  tlbSeq : Nat
  groups : BitVec 4
deriving DecidableEq, Repr

/-- A record of the Tidemark log (R210), with its position where it has one. -/
inductive LogRec where
  | undo (idx : Nat) (old : Word) (tag : Tag)
  | value (v : Word) (tag : Tag) (code : Nat) (second : Bool) (slot : Nat) (pos : Nat)
  | event (src : Nat) (pos : Nat)
  /-- Kind 2 keeps for whose sake a crossing is parked, which the ring does not hold. -/
  | thread (slot kind : Nat) (why : Option TenantId) (pos : Nat)
  | tlbi (va : Word) (form : Nat) (ten : TenantId) (headland : Bool) (pos : Nat)
  | release (digest : Word) (pos : Nat)
  | issue (issuers : List Nat) (gap : Nat)
  | mark (seq pos : Nat)
  | extend (delta : Nat)
deriving DecidableEq, Repr

/-- TM_STATUS.STATE (R209). -/
inductive TmState where
  | run
  | commit
  | restore
  | replay
  | copy
  | stopped
deriving DecidableEq, Repr

/-- The Tidemark of a core group (R206 to R213). `ctrlNext` and its like wait for the next commit. `issues` is the
issue trace: irregular cycles by position. `extra` holds committed states of contexts filled since the commit. -/
structure Tidemark where
  st : TmState
  ctrl : Word
  logBase : Word
  priv : Word
  ctrlNext : Word
  logNext : Word
  privNext : Word
  pos : Nat
  lastPos : Nat
  seq : Nat
  log : List LogRec
  written : Nat
  issues : List (Nat × Nat)
  regularRun : Nat
  pendingIssues : List Nat
  shadow : Option Arch
  pending : Option Arch
  extra : List ((Nat × Nat) × Ctx)
  sig : BitVec 64
  commits : Word
  rollbacks : Word
  diverge : Word
  lastCause : BitVec 4
  lastPosition : Nat
  repeats : Nat
  goal : Nat
  values : List LogRec
  releases : List LogRec
  inputs : List LogRec
  replayIssues : List (Nat × Nat)
  restored : List Nat
  /-- The words of the private region that the span has stored to, once for each store: what restore changes, and replay passes (R213). -/
  undone : List Nat
  /-- The tide waits that the Tide Table held at a rollback, by slot (R182). -/
  waits : List (Nat × TideWait)
deriving DecidableEq, Repr

/-- What a target made of a posted store (R87). -/
inductive PostedKind where
  | accepted
  | refused
  | privRegion
  | lost
  | outside
deriving DecidableEq, Repr

/-- An entry of the posted-store queue (R129). -/
structure Posted where
  pa : Nat
  kind : PostedKind
  inj : Bool
  /-- The slot whose thread made it, and whether it is a device access (R59, R129, R159). -/
  slot : Fin 8
  dev : Bool
  /-- What goes out to PCIe when the entry leaves the queue. -/
  data : List Word
deriving DecidableEq, Repr

/-- A TLBI on its way to the cores (R164): form 1 VA, 2 T, 3 ALL. -/
structure Tlbi where
  form : Nat
  va : Word
  ten : TenantId
  headland : Bool
  core : Nat
  slot : Nat
  /-- The cores that have not acknowledged, and the Churn as number 128. -/
  owing : List Nat
deriving DecidableEq, Repr

/-- The service of an event source at a core (R231, R232). -/
structure Served where
  src : Fin 2048
  dispatched : Bool
  claimed : Bool
  urgent : Bool
  word : Word
deriving DecidableEq, Repr

/-- A WAKE action or a wait completion that is held for a slot of a group which takes no inputs now (R211, R218, R305, R306). -/
structure HeldWake where
  core : Nat
  slot : Fin 8
  wait : Bool
deriving DecidableEq, Repr

/-- A tenant command on its way to a core group (R34): STOP, RESUME or START of a tenant. -/
structure TenArrive where
  ten : TenantId
  stop : Bool
deriving DecidableEq, Repr

/-- One logical core. -/
structure Core where
  arch : Arch
  tm : Tidemark
  cyc : Nat
  vbuf : List Fetched
  vvalid : Bool
  bankResult : BitVec 2
  bankLevel : BitVec 2
  bankSlot : Fin 8
  spillCnt : Word
  fillCnt : Word
  stolenCnt : Word
  freeCnt : Word
  posted : List Posted
  tlbWin : Vector Word 8
  mpuBase : Vector Word 16
  mpuAttr : Vector Word 16
  lost : Bool
  stopped : Bool
  served : Option Served
  /-- The cycle in which a dispatched handler's first instruction issues (R130). -/
  firstIssue : Option Nat
  arrivals : List TenArrive
  gated : Bool
deriving DecidableEq, Repr

/-! ## Coves -/

/-- The cove modes (R202), in the order of their MODE codes. -/
inductive CoveMode where
  | split
  | pair
  | pairSpares
  | triple
deriving DecidableEq, Repr

/-- The roles of CORE_ROLE (R216), in the order of their codes. -/
inductive Role where
  | single
  | leader
  | follower
  | spare
  | test
  | failed
  | lost
  | copying
deriving DecidableEq, Repr

/-- A copy in progress or waiting for its group's commit (R218): the source group's leader, the indices that join, the
member whose number a spare takes at the end, with that spare (R220, R222), and whether it has started. -/
structure CopyJob where
  leader : Fin 8
  targets : List (Fin 8)
  swap : Option (Fin 8 × Fin 8)
  started : Bool
deriving DecidableEq, Repr

/-- What a cove's self-test has under way (R320). -/
inductive TestStep where
  | none
  | core (phys : Fin 8)
  | slice (leader : Fin 8)
deriving DecidableEq, Repr

/-- An entry of the scrubber's repair queue (R52): a word index of the SRAM, or a parcel. -/
inductive Repair where
  | word (idx : Nat)
  | parcel (idx : Nat)
deriving DecidableEq, Repr

/-- A word that a cluster cache holds, with its tag, and whether it has been stored to since its line was filled (R51, R59). -/
structure CacheWord where
  w : Word
  tag : Tag
  dirty : Bool
deriving DecidableEq, Repr

/-- One cove: its redundancy page, its memory page, its cluster cache and its self-test. `cache` holds the 64-byte lines of external
memory by line number (R59, R62). -/
structure Cove where
  mode : CoveMode
  busy : Bool
  result : BitVec 2
  reason : BitVec 4
  coreMap : Vector (Fin 8) 8
  role : Vector Role 8
  onPerm : Bool
  glitchCnt : Word
  permCnt : Word
  rotateCnt : Word
  copies : List CopyJob
  toSplit : List (Fin 8)
  fenced : List (Fin 8)
  /-- A spare that votes as a third member while its group replays a permanent fault (R219): leader and spare. -/
  trial : List (Fin 8 × Fin 8)
  tested : List (Fin 8)
  scrubCtrl : Word
  scrubPos : BitVec 15
  codePos : BitVec 18
  scrubPasses : Word
  eccData : Word
  eccCheck : Word
  eccUncorr : Word
  eccLast : Word
  codeData : Word
  codeCheck : Word
  codeUncorr : Word
  repairs : List Repair
  /-- Parcels of this cove overwritten by a thread since its last FENCE.C. -/
  dirty : List (ThreadId × Nat)
  stestCtrl : Word
  stestPhase : Word
  stestResult : BitVec 2
  stestPhys : Fin 8
  stestNext : Fin 8
  stestBank : Fin 16
  stestPasses : Word
  step : TestStep
  bankTest : Option (Fin 16)
  replacedBanks : List (Fin 16)
  turnsSince : Nat
  /-- The physical cores out of service, with EPOCH as each recorded it when it left (R318). -/
  away : List (Fin 8 × Word)
  cache : Tbl (Vector CacheWord 16)
deriving DecidableEq, Repr

/-! ## The tenant table -/

/-- TEN_STATE.STATE (R33). -/
inductive TenantState where
  | free
  | building
  | running
  | stopped
  | retiring
deriving DecidableEq, Repr

/-- One tenant's row of the tenant table (R33). `moved`: an allotment write was accepted while STOPPED (R34). -/
structure Tenant where
  gen : Gen
  st : TenantState
  base : Word
  last : Word
  unwritten : Word
  moved : Bool
deriving DecidableEq, Repr

/-- The commands of TEN_CMD (R33). -/
inductive TenCmd where
  | mint
  | start
  | stop
  | resume
  | retire
  | unknown
deriving DecidableEq, Repr

/-- A command that waits in the tenant table (R34): a held TEN_CMD write, or a handle command of a thread. -/
structure TenHeld where
  cmd : TenCmd
  ten : TenantId
  handle : Option ThreadId
deriving DecidableEq, Repr

/-- The tenant table's own registers (R33, R34). `result` is 0 DONE, 1 BUSY, 2 REFUSED. -/
structure TenTable where
  sel : TenantId
  result : BitVec 2
  reason : BitVec 4
  busyRef : Bool
  current : Option TenHeld
  held : List TenHeld
deriving DecidableEq, Repr

/-! ## The Tide Table -/

/-- TSTATE.STATE (R175), in the order of its codes. -/
inductive TideState where
  | off
  | acquiring
  | locked
  | slack
  | switched
  | held
  | safe
deriving DecidableEq, Repr

/-- A stretch of a tide's prediction from a tick on (R177): phase `p` in 2^-16 ripple, rate `w` and correction `k` in
2^-32 ripple a tick, the correction over `iv` ticks; `len` is the TLEN of an internal tide, or of the one that a SWITCHED tide
takes its rate from. -/
structure TideSeg where
  t0 : Nat
  p : Int
  w : Int
  k : Int
  iv : Nat
  len : Option Word
deriving DecidableEq, Repr

/-- What a tide's tracker holds beside its count, as it stood before a measurement (R177): a later measurement of the same 16 Tide
Table cycles is used in that one's place (R176). -/
structure Tracker where
  st : TideState
  err : Int
  losses : BitVec 16
  rejected : BitVec 16
  t0 : Nat
  w : Int
  k : Int
  iv : Nat
  mp : Int
  tm : Nat
  measured : Bool
  ret : Bool
  good : Nat
  bad : Nat
  rejects : Nat
deriving DecidableEq, Repr

/-- A tide: its fields and its tracker (R175, R177). Phases are integers of 2^-16 ripple, rates of 2^-32 ripple a tick.
`segs` are the stretches before the present one, newest first; `seen` the tick of the last measurement that arrived,
`ret` that the next one is a return, `slackAt` the phase at which slack water began, `altLen` the TLEN that a SWITCHED tide's rate
comes from, `stamp` the tick of the last measurement, `base` the tracker before the measurements of the 16 Tide Table cycles named,
and `discardTo` the tick up to which an injection discards measurements (R342). -/
structure Tide where
  tsrc : Word
  tlen : Word
  tlim : Word
  tgain : Word
  tfall : Word
  tofs : Word
  tev : Word
  st : TideState
  err : Int
  slackTurns : Nat
  back : Bool
  losses : BitVec 16
  rejected : BitVec 16
  p : Int
  t0 : Nat
  w : Int
  k : Int
  iv : Nat
  mp : Int
  tm : Nat
  measured : Bool
  ret : Bool
  good : Nat
  bad : Nat
  rejects : Nat
  count : Int
  reversal : Int
  seen : Nat
  intervals : List Nat
  slackAt : Int
  altLen : Option Word
  stamp : Nat
  base : Option (Nat × Tracker)
  safeHold : Bool
  segs : List TideSeg
  discardTo : Nat
deriving DecidableEq, Repr

/-- An edge past its commit point (R188): its tick and target, the output, the level (0 low, 1 high, 2 toggle), the
width of its pulse, the owner that placed it, its tide, and whether its entry still lives. -/
structure EdgeJob where
  tick : Nat
  target : Word
  out : Fin 64
  lv : Nat
  pulse : Option Nat
  owner : TenantId
  tide : Fin 16
  live : Bool
deriving DecidableEq, Repr

/-- The return edge of a pulse, staged and committed on its own (R188). -/
structure RetEdge where
  tide : Fin 16
  target : Word
  out : Fin 64
  level : Bool
  tick : Option Nat
  committed : Bool
deriving DecidableEq, Repr

/-- A tide entry (R183) and its firing in progress (R187, R188). `staged` is its computed tick, `job` the committed
edge, `due` a firing that waits for dispatch with the phase of TIDE2 at its tick, `atOnce` that a late target is to be
performed at once, `rets` return edges on their way, and `later` writes that wait for the firing to complete. -/
structure Entry where
  ctrl : Word
  phase : Word
  step : Word
  count : Word
  arg : Word
  armed : Bool
  staged : Option Nat
  late : Bool
  refused : Bool
  missed : BitVec 16
  target : Word
  fired : Word
  snap : Word
  bind : Word
  job : Option EdgeJob
  due : Option (Word × Word)
  atOnce : Bool
  rets : List RetEdge
  later : List (Nat × Word)
deriving DecidableEq, Repr

/-- A tidal output (R190, R191, R349). `level` is the level that the entries have asked for and `prior` the one before
the last edge; `edgeAt` the tick the last edge was fixed for and the tick it was placed at; `turnOn` the end of a
complementary pair's dead time. `keptSafe` and `keptPaired` hold while `kept`. -/
structure Output where
  ocfg : Word
  own : Word
  force : BitVec 2
  oerr : Word
  lastEdge : Word
  level : Bool
  prior : Bool
  edgeAt : Option (Nat × Nat)
  edgeEntry : Nat
  keptSafe : Bool
  keptPaired : Bool
  kept : Bool
  turnOn : Nat
deriving DecidableEq, Repr

/-- A modulator input and its window (R193 to R195). `hist` are the last bits of its stream, newest first, and `taken` those of them
since the last sample; `value` is the last sample in units of 2^-30, `doneAt` the tick of the edge that completed it, `stampAt` that tick less
the filter's delay, and `epoch`
counts the windows opened. -/
structure ModInput where
  mcfg : Word
  mbind : Word
  clkLost : Bool
  settling : Nat
  last : Word
  mdrop : Word
  window : Option (Nat × Nat)
  deposited : Nat
  hist : List Bool
  taken : Nat
  value : Option Int
  doneAt : Option Nat
  stampAt : Nat
  epoch : Nat
deriving DecidableEq, Repr

/-- An open window's inputs, their samples and its event (R195). -/
structure Window where
  inputs : List Nat
  n : Nat
  src : Option Nat
deriving DecidableEq, Repr

/-- WSTAT.STATE (R196), in the order of its codes. -/
inductive WaveState where
  | idle
  | running
  | halted
  | fault
deriving DecidableEq, Repr

/-- An SHX in progress (R197 to R199): its word, SR before it, the bits done, the engine clocks
spent on the next one, and whether that has had its second edge. -/
structure Shx where
  ins : BitVec 16
  sr : BitVec 64
  bits : Nat
  clk : Nat
  back : Bool
deriving DecidableEq, Repr

/-- A wave engine (R196 to R199). -/
structure Wave where
  wcfg : Word
  wbind : Word
  st : WaveState
  pc : BitVec 6
  pgen : BitVec 8
  disc : Bool
  part : BitVec 7
  wref : Bool
  ovr : Bool
  tmo : Bool
  rxovr : Bool
  outs : BitVec 4
  dirs : BitVec 4
  pins : BitVec 4
  txLo : Word
  txHi : Word
  rx : List Word
  sr : BitVec 64
  cnt : BitVec 7
  t : Bool
  prog : Vector (BitVec 16) 64
  stampTick : Nat
  bumped : Bool
  progWritten : Bool
  shx : Option Shx
  waiting : Bool
deriving DecidableEq, Repr

/-! ## The event controller -/

/-- STATE.SVC (R227). -/
inductive Svc where
  | idle
  | delivered
  | active
deriving DecidableEq, Repr

/-- The arrivals at a source in one EVC cycle (R239): the tick of the first, COUNT and SAT before it, and how many. -/
structure Fresh where
  tick : Nat
  count : BitVec 8
  sat : Bool
  n : Nat
deriving DecidableEq, Repr

/-- An event source (R227). `coalAt` is when the first arrival that found COUNT at 0 came, with the COAL word and the
tide phase it goes by; `selAt` since when the source has been selectable, less the pauses of its age, `waited` the age so far
while it pauses (R235), `enClrAt` and `maskClr` the writes that clear and have not taken effect (R234). -/
structure Source where
  en : Bool
  pend : Bool
  urgent : Bool
  sat : Bool
  svc : Svc
  last : BitVec 7
  everDelivered : Bool
  count : BitVec 8
  coal : Word
  age : Word
  mask : Vector Word 4
  bind : Word
  coalAt : Option (Nat × Word × Word)
  selAt : Option Nat
  waited : Option Nat
  fresh : Option Fresh
  enClrAt : List Nat
  pendClrAt : Option Nat
  maskClr : List (Nat × Nat)
deriving DecidableEq, Repr

/-- The event controller's own registers (R229). -/
structure Evc where
  sel : BitVec 11
  urgents : List (Fin 2048)
  urgCnt : Word
  wakeEn : BitVec 64
  wakeLatch : BitVec 64
deriving DecidableEq, Repr

/-! ## The Churn -/

/-- CSTAT.STATE (R251). -/
inductive ChState where
  | stopped
  | run
  | waitStart
  | fault
  | stale
deriving DecidableEq, Repr

/-- A record that waits in a channel's cells: its words, how many at its end arrived poisoned (R290), whether it ends
its descriptor (R284), the modulator input and window that it is a sample of (R194, R195), and the link and cycle whose input it
is (R266). -/
structure Record where
  words : List Word
  poisoned : Nat
  ends : Bool
  sample : Option (Fin 32 × Nat)
  cycle : Option (Nat × Word)
deriving DecidableEq, Repr

/-- A descriptor that a channel has taken (R254): its capabilities, LEN and EVT. -/
structure Desc where
  a : Cap
  b : Cap
  len : Nat
  evt : Bool
deriving DecidableEq, Repr

/-- A Churn channel (R251). `queue` is the data its cells hold on the way to memory, `stream` what its interface still holds back of a
record that the cells do not take whole, `out` the data on the way to an interface, `taken` what that has taken of the descriptor
already, `need` the words of the record last refused for lack of cells, `begun` that the descriptor at HEAD has been begun, `desc` the descriptor in progress, `done` its bytes so far, `moved` that its data have been moved and it waits to
complete, and `cut` that it was ended short by its link (R297). -/
structure Channel where
  cbind : Word
  cctrl : Word
  st : ChState
  miss : Bool
  exh : Bool
  need : Nat
  code : BitVec 6
  ring : Word
  tail : BitVec 12
  head : BitVec 12
  drops : Word
  cxe0 : Vector Word 4
  cxe1 : Vector Word 4
  startWaiting : Bool
  dropArmed : Bool
  queue : List Record
  out : List Word
  begun : Bool
  stream : Option Record
  taken : List Word
  desc : Option Desc
  done : Nat
  moved : Bool
  cut : Bool
deriving DecidableEq, Repr

/-- The Churn page's own registers (R250). -/
structure Churn where
  plain : BitVec 14
  sel : BitVec 9
  cmdStatus : BitVec 2
  tcapSel : TenantId
  tcap : Tbl (BitVec 14)
deriving DecidableEq, Repr

/-- A packet of the Undertow lane at a port (R245). -/
structure UPacket where
  cls : Nat
  port : Nat
  seq : Nat
deriving DecidableEq, Repr

/-- The Undertow lane: packets that wait at their senders, those in the flit buffers of an input port, 2 for each class (R244), and how
many of each link's last 16 cycles classes 1 to 3 took (R246). -/
structure Undertow where
  waiting : List UPacket
  held : List UPacket
  seq : Nat
  crossed : List UPacket
  recent : Tbl (List Bool)
deriving DecidableEq, Repr

/-! ## Afmus Link -/

/-- LSTAT.LINK (R278). -/
inductive LinkState where
  | off
  | training
  | up
  | down
deriving DecidableEq, Repr

/-- The states of a position (R269), in the order of their codes. -/
inductive PosState where
  | absent
  | joining
  | verifying
  | active
  | left
  | quarantined
deriving DecidableEq, Repr

/-- What an LCMD asks for at the next cycle start (R279). -/
inductive PosCmd where
  | none
  | evict
  | quarantine
  | release
deriving DecidableEq, Repr

/-- A position of a link (R269 to R277). `ackSeq` is the newest accepted SSEQ, `lastData` its data, `depSeq` the SSEQ
last deposited, `quiet` the cycles since an ASSIGN without a valid append, `output` the output in its segment, `loaded` says that it was
loaded at the last freeze point, and `reached` that its violations have reached QTH (R276). -/
structure Position where
  st : PosState
  bound : Bool
  key : Option (Vector Word 8)
  dupf : Bool
  rank : BitVec 5
  version : BitVec 8
  ident : BitVec 64
  maxIn : Nat
  maxOut : Nat
  descs : List Word
  viol : Word
  naks : Word
  blockViol : Nat
  misses : Nat
  validRun : Nat
  sends : Nat
  quiet : Nat
  ackSeq : Option (BitVec 16)
  lastData : List Byte
  depSeq : Option (BitVec 16)
  nak : Bool
  output : List Byte
  outNew : Bool
  loaded : Bool
  reached : Bool
  cmd : PosCmd
deriving DecidableEq, Repr

/-- An ASSIGN entry of a control segment (R262). -/
structure Assign where
  ident : BitVec 64
  pos : Nat
  result : Nat
deriving DecidableEq, Repr

/-- A segment of a frame (R262): of a position, or with POS 0xFF the control segment; its TAG where it carries one. -/
structure Segment where
  pos : BitVec 8
  flags : BitVec 8
  len : BitVec 16
  ack : BitVec 16
  data : List Byte
  tag : Option (BitVec 64)
deriving DecidableEq, Repr

/-- The device part of a frame (R262), with its beacon (R263). -/
structure DevicePart where
  kind : BitVec 8
  linkf : BitVec 8
  seq : BitVec 16
  nseg : BitVec 8
  jmax : BitVec 8
  dlen : BitVec 16
  beacon : Vector Word 4
  segs : List Segment
  crc : Word
deriving DecidableEq, Repr

/-- One Afmus link (R265 to R279). `loop` is the LOOP of the cycle in progress and `loopSeen` the last one measured;
`closed` says that the cycle's appends have been taken, `badCrc` that its device part went out with a bad CRC, `part` is the device part of
the last frame, `frozen` says that the freeze point before the next start has passed, `deadline` is the tick by which /T/ must have returned,
`retrain` that EN was cleared and set within the cycle (R279), and `owed` lists the cycles whose event CYCLE waits for their records to
be written (R266). -/
structure Link where
  lctrl : Word
  lperiod : Word
  lctrlNext : Word
  lperiodNext : Word
  link : LinkState
  pref : Bool
  cycle : Word
  loop : Word
  loopSeen : Nat
  session : Word
  late : Word
  skip : Word
  psel : BitVec 5
  bindLo : Word
  bindHi : Word
  cmdReason : BitVec 4
  cmdResult : BitVec 2
  akey : Vector Word 8
  vlog : List (Word × Word)
  vlogCount : Nat
  vlogIdx : BitVec 8
  silent : Nat
  sinceRoll : Nat
  roll : Bool
  rollNext : Bool
  lastStart : Nat
  started : Bool
  closed : Bool
  badCrc : Bool
  assigns : List Assign
  part : DevicePart
  frozen : Bool
  deadline : Nat
  retrain : Bool
  owed : List Word
  positions : Tbl Position
deriving DecidableEq, Repr

/-! ## Standard interfaces -/

/-- An Ethernet port (R285, R286). The PTP clock is held in units of 2^-28 ns, at the 4 ns clock number `ptpAt`;
`setup` holds the choice of one-step and the filters by their number. -/
structure Eth where
  stamp : Word
  mode : Word
  ptpInc : Word
  ptpNs : Nat
  ptpAt : Nat
  capNs : Nat
  txNs : Word
  txSec : Word
  txTag : Word
  txFull : Bool
  up : Bool
  dropped : Word
  setup : Tbl Word
  sent : List (List Word)
deriving DecidableEq, Repr

/-- A CAN FD controller (R287); `setup` holds its modes, rates and filters by their number. -/
structure Can where
  stamp : Word
  st : CanState
  autorec : Bool
  errors : Word
  setup : Tbl Word
  sent : List (List Word)
deriving DecidableEq, Repr

/-- A UART (R288): its settings, when DE was or is asserted and its last stop bit ends, and the record in progress with its stamp. -/
structure Uart where
  stamp : Word
  idle : BitVec 8
  echoSup : Bool
  lead : BitVec 8
  lag : BitVec 8
  baud : Word
  seven : Bool
  parity : BitVec 2
  twoStop : Bool
  spans : List (Nat × Nat)
  txEnd : Nat
  heard : List UartChar
  mark : Word
  sent : List (List Word)
deriving DecidableEq, Repr

/-- What the PCIe controller sends: memory writes, the answers to requests, and configuration requests (R289, R290). -/
inductive PcieTlp where
  | write (adr : Nat) (data : List Byte)
  | unsupported
  | completion (data : Word)
  | configWrite (adr data : Word)
  | configRead (adr : Word)
deriving DecidableEq, Repr

/-- The PCIe controller (R289 to R291). -/
structure Pcie where
  stamp : Word
  root : Bool
  ob : Word
  txa : Vector Word 8
  cplto : Word
  up : Bool
  badMsi : Word
  discarded : Word
  unsupported : Word
  bar0 : BitVec 64
  bar2 : Word
  memBase : Word
  msix : Tbl Word
  cfgAddr : Word
  aer : Word
  sent : List PcieTlp
deriving DecidableEq, Repr

/-- The xSPI controller (R292). -/
structure Xspi where
  stamp : Word
  sent : List (List Word)
deriving DecidableEq, Repr

/-- An I²C controller (R293). -/
structure I2c where
  stamp : Word
  sent : List (List Word)
deriving DecidableEq, Repr

/-- A memory controller (R51, R52, R294): the result of its training once it has ended, whether it has started, its patrol scrub
with the beat that is next, and its error counters. -/
structure MemCtl where
  training : Option Training
  started : Bool
  scrubCtrl : Word
  scrubPos : Nat
  scrubPasses : Word
  eccData : Word
  eccCheck : Word
  eccUncorr : Word
deriving DecidableEq, Repr

/-- The JTAG instructions (R295) and HYKIOW (R296). -/
inductive JtagIr where
  | bypass
  | idcode
  | samplePreload
  | extest
  | clamp
  | highz
  | hykiow
deriving DecidableEq, Repr

/-- JTAG and the Hykiow port: the selected instruction, what the last scan shifted out, the waiting result, and the
access that waits for a replay: its address and a write's data. -/
structure Jtag where
  ir : JtagIr
  out : List Bool
  preload : List Bool
  drives : Bool
  hykStatus : BitVec 2
  hykCode : BitVec 6
  hykData : Word
  hykWait : Option (Nat × Option Word)
deriving DecidableEq, Repr

/-! ## Power, clocks, reset -/

/-- What the device as a whole is doing (R306, R308, R314, R323). -/
inductive Phase where
  | off
  | reset
  | boot
  | bootWait
  | run
  | standby
  | saving
  | saved
deriving DecidableEq, Repr

/-- GD_STATE.STATE (R302), in the order of its codes. -/
inductive GateState where
  | on
  | clk
  | pwr
  | reset
  | going
deriving DecidableEq, Repr

/-- Who applied a gate (R302). -/
inductive GateBy where
  | none
  | headland
  | harbour
deriving DecidableEq, Repr

/-- BLK_GATE.STATUS (R303). -/
inductive GateStatus where
  | none
  | applied
  | deferred
  | refused
deriving DecidableEq, Repr

/-- A gate domain (R302 to R304). `next` is where a GOING domain goes; `epoch` what it recorded as it left (R318). -/
structure Gate where
  st : GateState
  next : GateState
  deferred : Bool
  req : BitVec 2
  gateBy : GateBy
  hold : BitVec 12
  reqTen : TenantId
  status : GateStatus
  reqShown : BitVec 2
  epoch : Option Word
deriving DecidableEq, Repr

/-- The profiles (R12), in the order of their codes. -/
inductive Profile where
  | neap
  | mean
  | spring
deriving DecidableEq, Repr

/-- An entry of the persistence list as armed (R313). -/
structure PList where
  adr : Nat
  granules : Nat
deriving DecidableEq, Repr

/-- An entry of the code list as armed (R313). -/
structure CList where
  cove : Fin 16
  first : Nat
  count : Nat
  offset : Nat
deriving DecidableEq, Repr

/-- The power page's registers and what stands behind them (R300, R301, R306); `gdDom` is the domain of the gate command in
progress. -/
structure Power where
  busy : Bool
  result : BitVec 2
  current : Profile
  target : BitVec 2
  changeTo : Profile
  switched : Bool
  critical : Bool
  gdSel : BitVec 6
  gdDom : BitVec 6
  gdReason : BitVec 4
  gdResult : BitVec 2
  armed : Bool
  ebbReason : BitVec 4
  granules : BitVec 15
  plist : Word
  pcount : Word
  clist : Word
  ccount : Word
  armedP : List PList
  armedC : List CList
  ebbEpoch : Word
  epoch : Word
  resetKey : Bool
  stbyIn : Bool
  stbyReason : BitVec 8
  restarts : BitVec 16
  monitorsOff : Bool
  /-- An accepted ENTER waits for a group that catches up (R306). -/
  entering : Bool
deriving DecidableEq, Repr

/-- The always-on domain (R311). The counter read `cnt` at tide tick `cntAt`; the watchdog counts from `wdAt`, and `wdHalf` says that its
half has raised; `rang` is the count at which an alarm last raised; `lost`: VDD_AON was lost since the last Ebb save. -/
structure Aon where
  cnt : BitVec 48
  cntAt : Nat
  capture : BitVec 16
  alarm0 : Word
  alarm1 : Word
  alctrl : BitVec 2
  rang : Vector (Option (BitVec 48)) 2
  lost : Bool
  wdEn : Bool
  wdMs : BitVec 16
  wdAt : Nat
  wdHalf : Bool
  cause : BitVec 4
  resumed : Bool
  returns : BitVec 16
  outLo : Word
  outHi : Word
  outCapture : Word
  boot : Word
deriving DecidableEq, Repr

/-- The one-time programmable fields (R321). -/
structure Otp where
  keyhash0 : BitVec 384
  keyhash1 : BitVec 384
  revoke : BitVec 2
  rollback : Nat
  imgkey : BitVec 256
  bootcfg : BitVec 8
deriving DecidableEq, Repr

/-- What the outside world does to supplies, crystal and clocks (R308, R310, R349). -/
structure Board where
  pfwLow : Bool
  crystalLost : Bool
  coasting : Bool
  tidePllLost : Bool
  io33Low : Bool
  supplyBack : Bool
deriving DecidableEq, Repr

/-! ## Register pages and injection -/

/-- The common frame of a register page (R327, R331, R338). -/
structure Frame where
  accept : Word
  active : Word
  flock : Bool
  owner : TenantId
  lock : Bool
  errStatus : Word
  errEvent : Word
  injHit : Word
  counts : Tbl Word
  inj : Tbl Word
deriving DecidableEq, Repr

/-- An injection that has fired and waits for its detector's next opportunity (R340). -/
structure Waiting where
  page : Nat
  d : Nat
  word : Word
deriving DecidableEq, Repr

/-- The injection page (R339). -/
structure Inj where
  open_ : Bool
  openAt : Nat
  endAt : Nat
  window : Word
  first : Option (Agent × Nat)
  waiting : List Waiting
  next : Tbl Nat
deriving DecidableEq, Repr

/-- What the feature acceptance still has to reach (R84): the cores that have not applied the set. -/
structure Feat where
  set : BitVec 4
  owing : List Nat
deriving DecidableEq, Repr

/-! ## The whole -/

/-- The parts of the state that the Ebb image holds (R316). -/
structure Image where
  epoch : Word
  sealed : Bool
  consumed : Bool
  haltTick : Nat
  haltCnt : BitVec 48
  cores : Tbl Core
  coves : Tbl Cove
  tenants : Tbl Tenant
  tides : Tbl Tide
  entries : Tbl Entry
  outputs : Tbl Output
  mods : Tbl ModInput
  waves : Tbl Wave
  sources : Tbl Source
  wakeEn : BitVec 64
  channels : Tbl Channel
  tcap : Tbl (BitVec 14)
  links : Tbl Link
  eths : Tbl Eth
  cans : Tbl Can
  uarts : Tbl Uart
  pcie : Pcie
  xspi : Xspi
  i2cs : Tbl I2c
  scrubs : Tbl Word
  gates : Tbl Gate
  persistent : List (Nat × Word × Tag)
  armedP : List PList
  armedC : List CList
deriving DecidableEq, Repr

/-- The state of the device, and the queue of the commands that wait, first in first out. -/
structure State where
  /-- Memory bytes by physical address (R39); an unlisted byte is 0, which no read of an Unwritten word shows. -/
  mem : List Host.Cell
  /-- Word tags by word address / 4 (R42); an unlisted word is Unwritten. -/
  tags : Tbl Tag
  /-- Check-bit state of memory words by address / 4 (R48). -/
  ecc : Tbl Ecc
  /-- Code-store parcels by cove × 2^18 + index (R65). -/
  code : Tbl Parcel
  codeEcc : Tbl Ecc
  cores : Tbl Core
  coves : Tbl Cove
  tenants : Tbl Tenant
  tenTable : TenTable
  /-- Generations of channels, tide entries and event sources, held in the Cave (R30). -/
  chGens : Tbl Gen
  entryGens : Tbl Gen
  srcGens : Tbl Gen
  tides : Tbl Tide
  entries : Tbl Entry
  outputs : Tbl Output
  mods : Tbl ModInput
  windows : List Window
  waves : Tbl Wave
  sources : Tbl Source
  evc : Evc
  churn : Churn
  channels : Tbl Channel
  undertow : Undertow
  tlbis : List Tlbi
  links : Tbl Link
  eths : Tbl Eth
  cans : Tbl Can
  uarts : Tbl Uart
  pcie : Pcie
  xspi : Xspi
  i2cs : Tbl I2c
  memCtl : Tbl MemCtl
  jtag : Jtag
  power : Power
  gates : Tbl Gate
  aon : Aon
  otp : Otp
  board : Board
  phase : Phase
  /-- The tide tick from which the boot ROM waits to start again (R325). -/
  bootAt : Nat
  image : Option Image
  /-- Cave words stored since the last FENCE.M or save that made them durable: address / 4 and the value before. -/
  undurable : List (Nat × Word × Tag)
  /-- What the Tide Table holds for the EVC and the slots while their clocks are stopped (R306): sources; core, slot. -/
  heldEvents : List (Fin 2048)
  heldWakes : List HeldWake
  frames : Tbl Frame
  inj : Inj
  feat : Feat
  hykEn : Bool
  /-- The tide tick of the latest timed command (R173). -/
  now : Nat
  /-- Free values drawn so far (the model's own, log entry 5). -/
  free : Nat
  /-- The commands that wait, first in first out (the row's cut). -/
  pending : List Instr
deriving DecidableEq, Repr

/-! ## Reset values -/

/-- The registers of a context with nothing set (R73, R133). -/
def Ctx.fresh : Ctx :=
  { d := Vector.replicate 16 0, c := Vector.replicate 8 Cap.null, pcc := Cap.null, flg := 0, addrmode := 0,
    progValid := false, progDone := 0,
    ts := { xdepth := 0, level := 0, pcode := 0, wp := false, pf := false, h := false, m := true },
    home := 0, cur := 0, tideAuth := Cap.null, tvec := Cap.null, xstk := Cap.null, entry := Cap.null,
    record := Vector.replicate 16 0 }

/-- An EMPTY slot. -/
def Slot.fresh : Slot :=
  { st := .empty, prior := .empty, made := false, under := .empty, top := 0, wait := .none, buf := [], tideWait := none,
    busy := [], spent := 0, answers := [], given := [], stale := false, crossing := none, before := none }

/-- An invalid TLB entry with the reset values of R156. -/
def TlbEntry.reset : TlbEntry := { w0 := 0, w1 := 0, w2 := 0x08000000#32, w3 := 0, last := 0 }

/-- The placement of the reset shares by R115: two turns each, in slot order, twice. -/
def resetOwners : List (Option (Fin 8)) :=
  [some 0, some 1, some 2, some 3, some 4, some 5, some 6, some 7, some 0, some 1, some 2, some 3, some 4, some 5, some 6, some 7]

/-- A core's architectural state at reset: every slot EMPTY, WHEEL 0x2222_2222 (R114), TLB invalid (R155). -/
def Arch.reset : Arch :=
  { slots := Vector.replicate 8 Slot.fresh, banks := Vector.replicate 12 none, escs := Tbl.empty,
    wheel := 0x22222222#32, owners := resetOwners, lastFree := 7, bankJob := none, tlb := Tbl.empty, tlbSeq := 0, groups := 0xF#4 }

/-- The Tidemark at reset (R209): TM_CTRL, TM_LOG 0x70 + index, TM_PRIV. -/
def Tidemark.reset (i : Nat) : Tidemark :=
  { st := .run, ctrl := 0x00140000#32, logBase := BitVec.ofNat 32 (0x70 + i % 8), priv := 0x1#32,
    ctrlNext := 0x00140000#32, logNext := BitVec.ofNat 32 (0x70 + i % 8), privNext := 0x1#32,
    pos := 0, lastPos := 0, seq := 0, log := [], written := 0, issues := [], regularRun := 0, pendingIssues := [],
    shadow := none, pending := none, extra := [], sig := 0, commits := 0, rollbacks := 0,
    diverge := 0, lastCause := 0, lastPosition := 0, repeats := 0, goal := 0, values := [], releases := [], inputs := [],
    replayIssues := [], restored := [], undone := [], waits := [] }

/-- A logical core at reset. -/
def Core.reset (i : Nat) : Core :=
  { arch := Arch.reset, tm := Tidemark.reset i, cyc := 0, vbuf := [],
    vvalid := false, bankResult := 0, bankLevel := 0, bankSlot := 0, spillCnt := 0, fillCnt := 0, stolenCnt := 0,
    freeCnt := 0, posted := [], tlbWin := Vector.replicate 8 0, mpuBase := Vector.replicate 16 0,
    mpuAttr := Vector.replicate 16 0, lost := false, stopped := false, served := none, firstIssue := none, arrivals := [],
    gated := false }

/-- A cove at reset: cove 0 in Triple, the others in Split (R203, R216). -/
def Cove.reset (n : Nat) : Cove :=
  { mode := if n = 0 then .triple else .split, busy := false, result := 0, reason := 0,
    coreMap := Vector.ofFn fun i => i,
    role := if n = 0 then #v[.leader, .follower, .follower, .leader, .follower, .follower, .spare, .spare]
      else Vector.replicate 8 .single,
    onPerm := false, glitchCnt := 0, permCnt := 0, rotateCnt := 0, copies := [], toSplit := [], fenced := [], trial := [],
    tested := [], scrubCtrl := 0x00100001#32, scrubPos := 0, codePos := 0, scrubPasses := 0, eccData := 0, eccCheck := 0,
    eccUncorr := 0, eccLast := 0, codeData := 0, codeCheck := 0, codeUncorr := 0, repairs := [], dirty := [],
    stestCtrl := 0, stestPhase := 0, stestResult := 0, stestPhys := 0, stestNext := 0, stestBank := 0, stestPasses := 0,
    step := .none, bankTest := none, replacedBanks := [], turnsSince := 0, away := [], cache := Tbl.empty }

/-- A tenant at reset (R33, R34): FREE with BASE 1 and LAST 0; tenant 0 RUNNING with the whole space. -/
def Tenant.reset (t : Nat) : Tenant :=
  if t = 0 then { gen := 0, st := .running, base := 0, last := 0xFFFFFFFF#32, unwritten := 0, moved := false }
  else { gen := 0, st := .free, base := 1, last := 0, unwritten := 0, moved := false }

/-- A tide at reset (R175). -/
def Tide.reset : Tide :=
  { tsrc := 0, tlen := 0x04C4B400#32, tlim := 0x01000100#32, tgain := 0x28#32, tfall := 0x04080000#32, tofs := 0,
    tev := 0, st := .off, err := 0, slackTurns := 0, back := false, losses := 0, rejected := 0, p := 0, t0 := 0, w := 0,
    k := 0, iv := 0, mp := 0, tm := 0, measured := false, ret := false, good := 0, bad := 0, rejects := 0, count := 0,
    reversal := 0, seen := 0, intervals := [], slackAt := 0, altLen := none, stamp := 0, base := none, safeHold := false, segs := [], discardTo := 0 }

/-- A tide entry at reset (R183). -/
def Entry.reset : Entry :=
  { ctrl := 0, phase := 0, step := 0, count := 0, arg := 0, armed := false, staged := none, late := false,
    refused := false, missed := 0, target := 0, fired := 0, snap := 0, bind := 0, job := none, due := none,
    atOnce := false, rets := [], later := [] }

/-- A tidal output at reset (R190): not enabled, so it drives its SAFE level, low. -/
def Output.reset : Output :=
  { ocfg := 0, own := 0, force := 0, oerr := 0, lastEdge := 0, level := false, prior := false, edgeAt := none,
    edgeEntry := 0, keptSafe := false, keptPaired := false, kept := false, turnOn := 0 }

/-- A modulator input at reset (R193). -/
def ModInput.reset : ModInput :=
  { mcfg := 0x002C0800#32, mbind := 0, clkLost := false, settling := 3, last := 0, mdrop := 0, window := none,
    deposited := 0, hist := [], taken := 0, value := none, doneAt := none, stampAt := 0, epoch := 0 }

/-- A wave engine at reset (R196). -/
def Wave.reset : Wave :=
  { wcfg := 0, wbind := 0, st := .idle, pc := 0, pgen := 0, disc := false, part := 0, wref := false, ovr := false,
    tmo := false, rxovr := false, outs := 0, dirs := 0, pins := 0, txLo := 0, txHi := 0, rx := [], sr := 0, cnt := 0,
    t := false, prog := Vector.replicate 64 0, stampTick := 0, bumped := false, progWritten := false, shx := none,
    waiting := false }

/-- An event source at reset (R227). -/
def Source.reset : Source :=
  { en := false, pend := false, urgent := false, sat := false, svc := .idle, last := 0, everDelivered := false,
    count := 0, coal := 0x01000000#32, age := 0x64#32, mask := Vector.replicate 4 0, bind := 0, coalAt := none,
    selAt := none, waited := none, fresh := none, enClrAt := [], pendClrAt := none, maskClr := [] }

/-- A channel at reset (R251). -/
def Channel.reset : Channel :=
  { cbind := 0, cctrl := 0, st := .stopped, miss := false, exh := false, code := 0, ring := 0, tail := 0, head := 0,
    drops := 0, cxe0 := Vector.replicate 4 0, cxe1 := Vector.replicate 4 0, startWaiting := false, dropArmed := true,
    queue := [], out := [], begun := false, stream := none, taken := [], need := 0, desc := none, done := 0, moved := false
    cut := false }

/-- A position at reset (R269, R278). -/
def Position.reset : Position :=
  { st := .absent, bound := false, key := none, dupf := false, rank := 0, version := 0, ident := 0, maxIn := 0,
    maxOut := 0, descs := [], viol := 0, naks := 0, blockViol := 0, misses := 0, validRun := 0, sends := 0, quiet := 0,
    ackSeq := none, lastData := [], depSeq := none, nak := false, output := [], outNew := false, loaded := false,
    reached := false, cmd := .none }

/-- No frame has gone out: LOOP reads all ones (R278). -/
def DevicePart.none : DevicePart :=
  { kind := 0, linkf := 0, seq := 0, nseg := 0, jmax := 0, dlen := 0, beacon := #v[0, 0, 0xFFFFFFFF#32, 0], segs := [], crc := 0 }

/-- A link at reset (R278). -/
def Link.reset : Link :=
  { lctrl := 0x00101008#32, lperiod := 0x00102710#32, lctrlNext := 0x00101008#32, lperiodNext := 0x00102710#32,
    link := .off, pref := false, cycle := 0, loop := 0xFFFFFFFF#32, loopSeen := 0, session := 0, late := 0, skip := 0,
    psel := 1, bindLo := 0, bindHi := 0, cmdReason := 0, cmdResult := 0, akey := Vector.replicate 8 0, vlog := [],
    vlogCount := 0, vlogIdx := 0, silent := 0, sinceRoll := 0, roll := false, rollNext := false, lastStart := 0,
    started := false, closed := true, badCrc := false, assigns := [], part := DevicePart.none, frozen := false,
    deadline := 0, retrain := false, owed := [], positions := Tbl.empty }

/-- An Ethernet port at reset (R286). -/
def Eth.reset : Eth :=
  { stamp := 0, mode := 0, ptpInc := 0x40000000#32, ptpNs := 0, ptpAt := 0, capNs := 0, txNs := 0, txSec := 0,
    txTag := 0, txFull := false, up := false, dropped := 0, setup := Tbl.empty, sent := [] }

/-- A CAN controller at reset: error-active, no automatic recovery (R287). -/
def Can.reset : Can := { stamp := 0, st := .errorActive, autorec := false, errors := 0, setup := Tbl.empty, sent := [] }

/-- A UART at reset (R288). -/
def Uart.reset : Uart :=
  { stamp := 0, idle := 1, echoSup := false, lead := 0, lag := 0, baud := 300, seven := false, parity := 0, twoStop := false,
    spans := [], txEnd := 0, heard := [], mark := 0, sent := [] }

/-- The PCIe controller at reset (R290). -/
def Pcie.reset : Pcie :=
  { stamp := 0, root := false, ob := 0, txa := Vector.replicate 8 0, cplto := 0x2710#32, up := false, badMsi := 0,
    discarded := 0, unsupported := 0, bar0 := 0, bar2 := 0, memBase := 0, msix := Tbl.empty, cfgAddr := 0, aer := 0, sent := [] }

/-- The xSPI controller at reset (R292). -/
def Xspi.reset : Xspi := { stamp := 0, sent := [] }

/-- An I²C controller at reset (R293). -/
def I2c.reset : I2c := { stamp := 0, sent := [] }

/-- A memory controller at reset: training has not ended (R294, R323). -/
def MemCtl.reset : MemCtl := { training := none, started := false, scrubCtrl := 0x00100001#32, scrubPos := 0, scrubPasses := 0, eccData := 0, eccCheck := 0, eccUncorr := 0 }

/-- A gate domain at reset: ON, nothing requested (R302). -/
def Gate.reset : Gate :=
  { st := .on, next := .on, deferred := false, req := 0, gateBy := .none, hold := 0, reqTen := 0, status := .none,
    reqShown := 0, epoch := none }

/-- The features that a page offers on stepping B0 (R336). -/
def featOffer (page : Nat) : Word :=
  if page = 0 then 0xF#32 else if 0x020 ≤ page ∧ page < 0x024 then 0x1#32 else 0

/-- The pages whose ownership word is locked at reset (R333). -/
def lockedPage (page : Nat) : Bool := decide (page < 0x024)

/-- A page's common frame at reset (R327, R331, R338). -/
def Frame.reset (page : Nat) : Frame :=
  { accept := featOffer page, active := featOffer page, flock := false, owner := 0, lock := lockedPage page,
    errStatus := 0, errEvent := 0xFFFFFFFF#32, injHit := 0, counts := Tbl.empty, inj := Tbl.empty }

/-- The power page at reset: Mean, nothing in progress, Ebb save not armed (R300). -/
def Power.reset : Power :=
  { busy := false, result := 0, current := .mean, target := 1, changeTo := .mean, switched := false, critical := false,
    gdSel := 0, gdDom := 0, gdReason := 0, gdResult := 0, armed := false, ebbReason := 0, granules := 0, plist := 0, pcount := 0,
    clist := 0, ccount := 0, armedP := [], armedC := [], ebbEpoch := 0, epoch := 0, resetKey := false, stbyIn := false,
    stbyReason := 0, restarts := 0, monitorsOff := false, entering := false }

/-- The always-on domain at its own reset (R311): AON_CAUSE 1. -/
def Aon.reset : Aon :=
  { cnt := 0, cntAt := 0, capture := 0, alarm0 := 0, alarm1 := 0, alctrl := 0, rang := #v[none, none], lost := false, wdEn := false, wdMs := 0, wdAt := 0,
    wdHalf := false, cause := 1,
    resumed := false, returns := 0, outLo := 0, outHi := 0, outCapture := 0, boot := 0 }

/-- The state right after reset release of a new device: a power-on reset (cause 1) with nothing in the Cave, before
the boot ROM runs (R308, R323). Every field is at the value that the spec gives; those the spec leaves open are log
entries 1 to 4 and 11. -/
def State.reset : State :=
  { mem := [], tags := Tbl.empty, ecc := Tbl.empty, code := Tbl.empty, codeEcc := Tbl.empty, cores := Tbl.empty,
    coves := Tbl.empty, tenants := Tbl.empty,
    tenTable := { sel := 0, result := 0, reason := 0, busyRef := false, current := none, held := [] },
    chGens := Tbl.empty, entryGens := Tbl.empty, srcGens := Tbl.empty, tides := Tbl.empty, entries := Tbl.empty,
    outputs := Tbl.empty, mods := Tbl.empty, windows := [], waves := Tbl.empty, sources := Tbl.empty,
    evc := { sel := 0, urgents := [], urgCnt := 0, wakeEn := 0, wakeLatch := 0 },
    churn := { plain := 0, sel := 0, cmdStatus := 0, tcapSel := 0, tcap := Tbl.empty }, channels := Tbl.empty,
    undertow := { waiting := [], held := [], seq := 0, crossed := [], recent := Tbl.empty }, tlbis := [], links := Tbl.empty,
    eths := Tbl.empty, cans := Tbl.empty, uarts := Tbl.empty, pcie := Pcie.reset, xspi := Xspi.reset, i2cs := Tbl.empty,
    memCtl := Tbl.empty,
    jtag := { ir := .idcode, out := [], preload := [], drives := false, hykStatus := 0, hykCode := 0,
              hykData := 0, hykWait := none },
    power := Power.reset, gates := Tbl.empty, aon := Aon.reset,
    otp := { keyhash0 := 0, keyhash1 := 0, revoke := 0, rollback := 0, imgkey := 0, bootcfg := 0x07#8 },
    board := { pfwLow := false, crystalLost := false, coasting := false, tidePllLost := false, io33Low := false,
               supplyBack := false },
    phase := .boot, bootAt := 0, image := none, undurable := [], heldEvents := [], heldWakes := [], frames := Tbl.empty,
    inj := { open_ := false, openAt := 0, endAt := 0, window := 0x3E8#32, first := none, waiting := [], next := Tbl.empty },
    feat := { set := 0xF#4, owing := [] }, hykEn := false, now := 0, free := 0, pending := [] }

end Sys2Proof.Machine
end

