-- ==== Sys2Proof/Machine/CapOps.lean ====
section
/-! DEFINITION. Capabilities as values: their fields, the decoding and encoding of bounds, space capabilities, handles,
and the derivations of R25 and R28. -/

namespace Sys2Proof.Machine

/-! ## Fault codes (R54) -/

def fCAP_TAG : Nat := 0x01
def fCAP_BOUNDS : Nat := 0x02
def fCAP_RIGHTS : Nat := 0x03
def fCAP_SEALED : Nat := 0x04
def fUNWRITTEN_READ : Nat := 0x05
def fPOISONED_READ : Nat := 0x06
def fALIGN : Nat := 0x07
def fTLB_MISS : Nat := 0x08
def fTLB_FIRST_ACCESS : Nat := 0x09
def fTLB_FIRST_WRITE : Nat := 0x0A
def fPAGE_PERM : Nat := 0x0B
def fWALK_BUS : Nat := 0x0C
def fWALK_DEVICE : Nat := 0x0D
def fMPU : Nat := 0x0E
def fRESERVED_OP : Nat := 0x0F
def fPAIR_FORM : Nat := 0x10
def fGATE_ARG : Nat := 0x11
def fGATE_STACK : Nat := 0x12
def fPRIV : Nat := 0x13
def fBUS_ERROR : Nat := 0x14
def fCODE_ECC : Nat := 0x15
def fPHYS_ALLOT : Nat := 0x16
def fXSTK_LIMIT : Nat := 0x17
def fDIV_ZERO : Nat := 0x18

/-! ## Fields (R16, R18, R31) -/

/-- E. -/
def Cap.e (c : Cap) : Nat := fld c.w1 31 27

/-- RIGHTS. -/
def Cap.rights (c : Cap) : Nat := fld c.w1 6 0

/-- L, a right. -/
def Cap.rL (c : Cap) : Bool := bit c.w1 0

/-- S, a right. -/
def Cap.rS (c : Cap) : Bool := bit c.w1 1

/-- X, a right. -/
def Cap.rX (c : Cap) : Bool := bit c.w1 2

/-- LC, a right. -/
def Cap.rLC (c : Cap) : Bool := bit c.w1 3

/-- SC, a right. -/
def Cap.rSC (c : Cap) : Bool := bit c.w1 4

/-- G, a right. -/
def Cap.rG (c : Cap) : Bool := bit c.w1 5

/-- K: sealed. -/
def Cap.sealed (c : Cap) : Bool := bit c.w1 6

/-- E = 31 marks a space capability (R17). -/
def Cap.isSpace (c : Cap) : Bool := decide (c.e = 31)

/-- OTYPE of a sealed capability. -/
def Cap.otype (c : Cap) : Nat := fld c.w1 12 7

/-- SPACE of a space capability. -/
def Cap.space (c : Cap) : Nat := fld c.w1 26 23

/-- BASE of a space capability. -/
def Cap.spBase (c : Cap) : Nat := fld c.w0 15 0

/-- LIMIT of a space capability. -/
def Cap.spLimit (c : Cap) : Nat := fld c.w0 31 16

/-- The span of a space capability contains a number (R31). -/
def Cap.spans (c : Cap) (n : Nat) : Bool := decide (c.spBase ≤ n) && decide (n < c.spLimit)

/-- The base mantissa, ×8 where sealed (R21). -/
def Cap.bMant (c : Cap) : Nat := if c.sealed then fld c.w1 26 20 * 8 else fld c.w1 26 17

/-- The top mantissa, ×8 where sealed (R21). -/
def Cap.tMant (c : Cap) : Nat := if c.sealed then fld c.w1 19 13 * 8 else fld c.w1 16 7

/-- Decoded bounds (R21). -/
structure Bounds where
  base : Int
  top : Int
  repLo : Int
  repHi : Int
deriving DecidableEq, Repr

/-- The decoding of bounds (R21). -/
def decodeBounds (c : Cap) : Bounds :=
  let e := c.e
  let b := c.bMant
  let t := c.tMant
  if e = 22 then
    { base := (b : Int) * 2 ^ 22, top := if t = 0 then 2 ^ 32 else (t : Int) * 2 ^ 22, repLo := 0, repHi := 2 ^ 32 }
  else
    let cur := c.w0.toNat
    let g := 2 ^ e
    let blk := 2 ^ (e + 10)
    let cblk : Int := (cur / blk : Nat)
    let cpos := cur / g % 1024
    let bblk : Int := if b ≤ cpos then cblk else cblk - 1
    let base : Int := bblk * (blk : Nat) + (b * g : Nat)
    let len := ((t : Int) - (b : Int)) % 1024
    { base := base, top := base + len * (g : Nat), repLo := base, repHi := min (base + (blk : Nat)) (2 ^ 32) }

/-- An encoded span (R24): exponent, mantissas and the rounded bounds. -/
structure Encoded where
  e : Nat
  b : Nat
  t : Nat
  base : Int
  top : Int
deriving DecidableEq, Repr

/-- The search of R24 from an exponent on, over the number of exponents left below 22. -/
def encodeFrom (b0 t0 : Nat) : Nat → Encoded
  | 0 =>
    let lo := b0 / 2 ^ 22
    let hi := (t0 + 2 ^ 22 - 1) / 2 ^ 22
    { e := 22, b := lo, t := hi % 1024, base := (lo * 2 ^ 22 : Nat), top := (hi * 2 ^ 22 : Nat) }
  | k + 1 =>
    let e := 21 - k
    let lo := b0 / 2 ^ e
    let hi := (t0 + 2 ^ e - 1) / 2 ^ e
    if hi - lo ≤ 960 then
      { e := e, b := lo % 1024, t := hi % 1024, base := (lo * 2 ^ e : Nat), top := (hi * 2 ^ e : Nat) }
    else encodeFrom b0 t0 k

/-- The encoding of a span: the smallest exponent at which it fits in 960 granules (R24). -/
def encodeBounds (b0 t0 : Nat) : Encoded := encodeFrom b0 t0 22

/-- The smallest exponent from 0 to 22 for CGRAN, over the number of exponents left below 22. -/
def granFrom (len : Nat) : Nat → Nat
  | 0 => 2 ^ 22
  | k + 1 =>
    let e := 21 - k
    if (len + 2 ^ e - 1) / 2 ^ e * 2 ^ e ≤ 960 * 2 ^ e then 2 ^ e else granFrom len k

/-- CGRAN: the granule for a length (R24, R102). -/
def granule (len : Nat) : Nat := granFrom len 22

/-- Word 1 of an unsealed capability. -/
def packW1 (e b t rights : Nat) : Word := at_ e 27 ||| at_ b 17 ||| at_ t 7 ||| at_ rights 0

/-- A space capability (R31). -/
def spaceCap (space base limit : Nat) (g : Bool) : Cap :=
  { w0 := at_ limit 16 ||| at_ base 0, w1 := at_ 31 27 ||| at_ space 23 ||| flagAt g 5, tag := true }

/-- The rights with LC and SC cleared when X is set (R19). -/
def normRights (r : Nat) : Nat := if r.testBit 2 then r &&& 0x67 else r

/-- A capability with another cursor, its bits otherwise kept. -/
def Cap.withCursor (c : Cap) (w : Word) : Cap := { c with w0 := w }

/-- The cursor moved to a place: the tag is kept only inside the representable region (R22). -/
def Cap.moved (c : Cap) (target : Int) : Cap :=
  let bd := decodeBounds c
  { c with
    w0 := BitVec.ofInt 32 target
    tag := c.tag && decide (bd.repLo ≤ target) && decide (target < bd.repHi) && decide (0 ≤ target) }

/-! ## Derivations: a result, or the fault of the first failing check (R25, R28) -/

/-- The checks that CADD, CADDI and CSETC make of a tagged source (R25). -/
def moveCheck (c : Cap) : Except Nat Unit :=
  if c.tag && c.sealed then .error fCAP_SEALED
  else if c.tag && c.isSpace then .error fCAP_RIGHTS
  else .ok ()

/-- The offset that a modulo register's cursor steps to, wrapped once (R79). -/
def modStep (c : Cap) (x : Int) : Int :=
  let bd := decodeBounds c
  let len := bd.top - bd.base
  let o := (c.w0.toNat : Int) - bd.base + x
  if len ≤ o then o - len else if o < 0 then o + len else o

/-- The modulo step of a tagged capability leaves its ring: the result is untagged, and the spec does not state its
cursor (R79). -/
def modLost (mode : Nat) (c : Cap) (x : Int) : Bool :=
  let bd := decodeBounds c
  decide (mode = 1) && c.tag && !(decide (0 ≤ modStep c x) && decide (modStep c x < bd.top - bd.base))

/-- CADD and CADDI: the cursor plus a signed operand; in modulo mode it wraps once as an access would (R25, R79). The
last argument is the cursor of an untagged result whose step left the ring (log entry 13). -/
def capAdd (mode : Nat) (c : Cap) (x : Int) (lost : Word) : Except Nat Cap := do
  moveCheck c
  if mode = 1 && c.tag then
    if modLost mode c x then .ok { c with w0 := lost, tag := false }
    else .ok { c with w0 := BitVec.ofInt 32 ((decodeBounds c).base + modStep c x) }
  else .ok (c.moved ((c.w0.toNat : Int) + x))

/-- CSETC (R25). -/
def capSetC (c : Cap) (x : Word) : Except Nat Cap := do
  moveCheck c
  .ok (c.moved (x.toNat : Int))

/-- CSETBND and CSETBND.X (R24, R25). -/
def capSetBnd (exact : Bool) (c : Cap) (len : Word) : Except Nat Cap :=
  if !c.tag then .error fCAP_TAG
  else if c.sealed then .error fCAP_SEALED
  else if c.isSpace then .error fCAP_RIGHTS
  else
    let bd := decodeBounds c
    let b0 := c.w0.toNat
    let t0 := b0 + len.toNat
    let en := encodeBounds b0 t0
    if en.base < bd.base ∨ bd.top < en.top then .error fCAP_BOUNDS
    else if exact && !(decide (en.base = (b0 : Int)) && decide (en.top = (t0 : Int))) then .error fCAP_BOUNDS
    else .ok { w0 := c.w0, w1 := packW1 en.e en.b en.t (normRights c.rights), tag := true }

/-- CANDR (R25). -/
def capAndR (c : Cap) (imm : Nat) : Except Nat Cap :=
  if !c.tag then .error fCAP_TAG
  else if c.sealed then .error fCAP_SEALED
  else .ok { c with w1 := withFld c.w1 6 0 (normRights (c.rights &&& imm)) }

/-- CSPAN (R25). -/
def capSpan (c : Cap) (x : Word) : Except Nat Cap :=
  if !c.tag then .error fCAP_TAG
  else if c.sealed then .error fCAP_SEALED
  else if !c.isSpace then .error fCAP_RIGHTS
  else
    let b := fld x 15 0
    let l := fld x 31 16
    if l < b then .error fCAP_BOUNDS
    else if b < c.spBase ∨ c.spLimit < l then .error fCAP_BOUNDS
    else .ok { c with w0 := x }

/-- CSEAL (R28). -/
def capSeal (a b : Cap) : Except Nat Cap :=
  let n := b.spBase
  if !a.tag then .error fCAP_TAG
  else if a.sealed then .error fCAP_SEALED
  else if a.isSpace then .error fCAP_RIGHTS
  else if !b.tag then .error fCAP_TAG
  else if !(b.isSpace && decide (b.space = 0) && decide (b.spBase < b.spLimit)) then .error fCAP_SEALED
  else if n = 0 ∨ (6 ≤ n ∧ n ≤ 15) ∨ 63 < n then .error fCAP_SEALED
  else if a.bMant % 8 ≠ 0 ∨ a.tMant % 8 ≠ 0 then .error fCAP_BOUNDS
  else .ok { a with
    w1 := at_ a.e 27 ||| at_ (a.bMant / 8) 20 ||| at_ (a.tMant / 8) 13 ||| at_ n 7 ||| at_ (a.rights ||| 0x40) 0 }

/-- CUNSEAL (R28). -/
def capUnseal (a b : Cap) : Except Nat Cap :=
  if !a.tag then .error fCAP_TAG
  else if !a.sealed then .error fCAP_SEALED
  else if !b.tag then .error fCAP_TAG
  else if !(b.isSpace && decide (b.space = 0) && b.spans a.otype) then .error fCAP_SEALED
  else
    let g := a.rG && b.rG
    .ok { a with w1 := packW1 a.e a.bMant a.tMant ((a.rights &&& 0x1F) ||| (if g then 0x20 else 0)) }

/-- The handle of an object (R29): OTYPE space + 1, rights K with L, S and G. -/
def mkHandle (space : Nat) (gen : Gen) (n : Nat) (l s g : Bool) : Cap :=
  { w0 := at_ gen.toNat 12 ||| at_ n 0
    w1 := at_ (space + 1) 7 ||| flagAt true 6 ||| flagAt g 5 ||| flagAt s 1 ||| flagAt l 0
    tag := true }

/-- GEN of a handle. -/
def Cap.hGen (c : Cap) : Gen := BitVec.ofNat 20 (fld c.w0 31 12)

/-- The object number of a handle. -/
def Cap.hNum (c : Cap) : Nat := fld c.w0 11 0

/-- The core's checks of a handle: tag, then seal and OTYPE, then the right (R29, R103). -/
def handleCheck (c : Cap) (ok : Nat → Bool) (needS : Bool) : Except Nat Unit :=
  if !c.tag then .error fCAP_TAG
  else if !c.sealed || !ok c.otype then .error fCAP_SEALED
  else if (if needS then !c.rS else !c.rL) then .error fCAP_RIGHTS
  else .ok ()

/-! ## What the CGET forms read (R102) -/

/-- CGET.C. -/
def capGetC (c : Cap) : Word := if c.isSpace then 0 else c.w0

/-- CGET.B. -/
def capGetB (c : Cap) : Word := if c.isSpace then word c.spBase else BitVec.ofInt 32 (decodeBounds c).base

/-- CGET.LAST. -/
def capGetLast (c : Cap) : Word :=
  if c.isSpace then BitVec.ofInt 32 ((c.spLimit : Int) - 1) else BitVec.ofInt 32 ((decodeBounds c).top - 1)

/-- CGET.R. -/
def capGetR (c : Cap) : Word := word c.rights

/-- CGET.OT: 0 if unsealed. -/
def capGetOt (c : Cap) : Word := if c.sealed then word c.otype else 0

/-- CGET.TAG. -/
def capGetTag (c : Cap) : Word := if c.tag then 1 else 0

/-- CGET.E. -/
def capGetE (c : Cap) : Word := word c.e

/-! ## Transfers of control (R19, R104) -/

/-- A code address within a capability's bounds and in a cove: the check of R19 on a target. -/
def targetOk (pcc : Cap) (adr : Int) (cove : Nat) : Bool :=
  let bd := decodeBounds pcc
  decide (bd.base ≤ adr) && decide (adr < bd.top) && decide (0 ≤ adr) && decide (adr / 2 ^ 18 % 16 = (cove : Int))
    && decide (adr < 2 ^ 22)

/-- JR's check of a code capability as a target: tag, seal, X, then R19 (R104). -/
def jumpCheck (c : Cap) (cove : Nat) : Except Nat Unit :=
  if !c.tag then .error fCAP_TAG
  else if c.sealed then .error fCAP_SEALED
  else if !c.rX then .error fCAP_RIGHTS
  else if !targetOk c (c.w0.toNat : Int) cove then .error fCAP_BOUNDS
  else .ok ()

end Sys2Proof.Machine
end

