-- ==== Sys2Proof/Config.lean ====
section
/-! DEFINITION. What one part, its board and its implementation fix, and the values that the spec leaves open. Every
constant here is opaque: nothing in Lean can evaluate it, so a statement about it holds whatever it is. -/

namespace Sys2Proof

/-- A word that the spec leaves undefined, drawn afresh: the argument counts the draws of the run (log entry 5). -/
opaque Config.freeWord : Nat → Word

/-- A choice that the spec leaves open, drawn afresh (log entry 5). -/
opaque Config.freeNat : Nat → Nat

/-- The rounding of an inexact quotient a / b of the tide tracker, of PCVT's tie and of a period: up or down
(log entry 6; R96, R177, R181). -/
opaque Config.roundUp : Int → Int → Bool

/-- Where in its allowed span the sine or the cosine lies, by FRAC and by function (log entry 7; R82). -/
opaque Config.sineOffset : Bool → Nat → Int

/-- The 64-bit signature of a shadow: the order in which CRC-64 runs over it is not given (log entry 8; R206). -/
opaque Config.signature : Nat → BitVec 64

/-- The CRC-32C digest of a released output: the order of kind, address, byte enables and data under it is not given
(log entry 14; R210). -/
opaque Config.releaseDigest : Nat → Nat → Nat → List Word → Word

/-- The class that the code takes three or more flipped bits for, of the four of R48 (log entry 9). -/
opaque Config.beyondClass : Nat → Fin 4

/-- Whether consecutive words of a cove's SRAM lie in different banks, or each bank holds a run of addresses: the map of
addresses to banks is not given (log entry 16). -/
opaque Config.bankInterleaved : Bool

/-- The contents of the boot ROM, by word (log entry 10; R39). -/
opaque Config.bootRom : Nat → Word

/-- What each external memory channel has fitted: nothing, 16, 24 or 32 GiB (log entry 119; R41, R294). -/
opaque Config.memoryFit : Fin 2 → Fin 4

/-- The order of the boot sources of BOOT_SEL and BOOTCFG, as indices into the offered images (R323, R345). -/
opaque Config.bootSel : Fin 4

/-- The outcome of a comparison of SHA-384 trailers that the model does not compute (R314, R317): whether the sealed
image matches when it is read back. -/
opaque Config.trailerMatches : Nat → Bool

/-- The 64-bit AES-256-GMAC tag of R277 under a key, by its 96-bit IV and its additional data, as bytes: the cipher is that of its
published standard and is not computed here (log entry 85). -/
opaque Config.gmac : Vector Word 8 → List Byte → List Byte → BitVec 64

/-- The bin of the 64-bin multicast hash of an address (R285; the hash is not given, log entry 145). -/
opaque Config.ethHash : BitVec 48 → Fin 64

/-- Whether an acceptance filter of a CAN controller, by its two words, takes an identifier of 11 or 29 bits (R287; the filter's form is
not given, log entry 145). -/
opaque Config.canMatch : BitVec 32 → BitVec 32 → Bool → BitVec 29 → Bool

/-- The configuration word of the port itself that an address in the CFG registers names, if it is its own (R289; no given layout, log entry 144). -/
opaque Config.cfgOwn : BitVec 32 → Option (Fin 1024)

/-- The boundary register's cell that drives an output's ball (R295; its order is not given, log entry 34). -/
opaque Config.boundaryCell : Nat → Nat

/-- The page offset of a register that its chapter names without one, by number (log entry 38): 0 CAN_CTRL.AUTOREC, 1 UART_IDLE,
2 ECHO_SUP, 3 the UART's lead, 4 its lag, 5 PCIE_MODE, 6 PCIE_OB, 7 to 14 PCIE_TXA, 15 to 17 the PCIe page's counters, 18 the
Ethernet drops, 19 to 21 a memory controller's counters, 22 its patrol scrub, 23 to 26 a UART's rate, data bits, parity and stop bits, 27 the
choice of one-step, 28 to 31 a CAN controller's two modes and two rates, 32 to 34 the PCIe CFG registers and AER, 40 to 108 an Ethernet
port's filters, 110 to 173 a CAN controller's. -/
opaque Config.regOffset : Nat → Nat

/-- The lowest bit of such a register's field in its word (log entry 38). -/
opaque Config.regBit : Nat → Nat

/-- The core whose MPU judges Hykiow's accesses (log entry 49; R296). -/
opaque Config.hykCore : Fin 128

end Sys2Proof
end

