-- ==== Sys2Proof/Machine/Ops.lean ====
section
/-! DEFINITION. The shared operations: access to the parts of the state, time, the predicted phase of a tide, raising
an event source, detectors and waiting injections, and memory words with their tags and check bits. -/

namespace Sys2Proof.Machine

/-! ## Access to the parts -/

/-- A logical core. -/
def State.core (s : State) (k : Nat) : Core := s.cores.get Core.reset k

/-- Put a logical core. -/
def State.setCore (s : State) (k : Nat) (c : Core) : State := { s with cores := s.cores.put k c }

/-- A cove. -/
def State.cove (s : State) (n : Nat) : Cove := s.coves.get Cove.reset n

/-- Put a cove. -/
def State.setCove (s : State) (n : Nat) (c : Cove) : State := { s with coves := s.coves.put n c }

/-- A tenant's row. -/
def State.tenant (s : State) (t : Nat) : Tenant := s.tenants.get Tenant.reset t

/-- Put a tenant's row. -/
def State.setTenant (s : State) (t : Nat) (v : Tenant) : State := { s with tenants := s.tenants.put t v }

/-- A tide. -/
def State.tide (s : State) (i : Nat) : Tide := s.tides.get (fun _ => Tide.reset) i

/-- Put a tide. -/
def State.setTide (s : State) (i : Nat) (v : Tide) : State := { s with tides := s.tides.put i v }

/-- A tide entry. -/
def State.entry (s : State) (i : Nat) : Entry := s.entries.get (fun _ => Entry.reset) i

/-- Put a tide entry. -/
def State.setEntry (s : State) (i : Nat) (v : Entry) : State := { s with entries := s.entries.put i v }

/-- A tidal output. -/
def State.output (s : State) (i : Nat) : Output := s.outputs.get (fun _ => Output.reset) i

/-- Put a tidal output. -/
def State.setOutput (s : State) (i : Nat) (v : Output) : State := { s with outputs := s.outputs.put i v }

/-- A modulator input. -/
def State.mod (s : State) (i : Nat) : ModInput := s.mods.get (fun _ => ModInput.reset) i

/-- Put a modulator input. -/
def State.setMod (s : State) (i : Nat) (v : ModInput) : State := { s with mods := s.mods.put i v }

/-- A wave engine. -/
def State.wave (s : State) (i : Nat) : Wave := s.waves.get (fun _ => Wave.reset) i

/-- Put a wave engine. -/
def State.setWave (s : State) (i : Nat) (v : Wave) : State := { s with waves := s.waves.put i v }

/-- An event source. -/
def State.source (s : State) (i : Nat) : Source := s.sources.get (fun _ => Source.reset) i

/-- A channel. -/
def State.channel (s : State) (i : Nat) : Channel := s.channels.get (fun _ => Channel.reset) i

/-- Put a channel. -/
def State.setChannel (s : State) (i : Nat) (v : Channel) : State := { s with channels := s.channels.put i v }

/-- A link. -/
def State.link (s : State) (l : Nat) : Link := s.links.get (fun _ => Link.reset) l

/-- Put a link. -/
def State.setLink (s : State) (l : Nat) (v : Link) : State := { s with links := s.links.put l v }

/-- A position of a link. -/
def Link.pos (v : Link) (p : Nat) : Position := v.positions.get (fun _ => Position.reset) p

/-- Put a position of a link. -/
def Link.setPos (v : Link) (p : Nat) (x : Position) : Link := { v with positions := v.positions.put p x }

/-- An Ethernet port. -/
def State.eth (s : State) (i : Nat) : Eth := s.eths.get (fun _ => Eth.reset) i

/-- Put an Ethernet port. -/
def State.setEth (s : State) (i : Nat) (v : Eth) : State := { s with eths := s.eths.put i v }

/-- A CAN controller. -/
def State.can (s : State) (i : Nat) : Can := s.cans.get (fun _ => Can.reset) i

/-- Put a CAN controller. -/
def State.setCan (s : State) (i : Nat) (v : Can) : State := { s with cans := s.cans.put i v }

/-- A UART. -/
def State.uart (s : State) (i : Nat) : Uart := s.uarts.get (fun _ => Uart.reset) i

/-- Put a UART. -/
def State.setUart (s : State) (i : Nat) (v : Uart) : State := { s with uarts := s.uarts.put i v }

/-- An I²C controller. -/
def State.i2c (s : State) (i : Nat) : I2c := s.i2cs.get (fun _ => I2c.reset) i

/-- Put an I²C controller. -/
def State.setI2c (s : State) (i : Nat) (v : I2c) : State := { s with i2cs := s.i2cs.put i v }

/-- A gate domain. -/
def State.gate (s : State) (d : Nat) : Gate := s.gates.get (fun _ => Gate.reset) d

/-- Put a gate domain. -/
def State.setGate (s : State) (d : Nat) (v : Gate) : State := { s with gates := s.gates.put d v }

/-- A page's common frame. -/
def State.frame (s : State) (page : Nat) : Frame := s.frames.get Frame.reset page

/-- Put a page's common frame. -/
def State.setFrame (s : State) (page : Nat) (v : Frame) : State := { s with frames := s.frames.put page v }

/-- A generation of a table of them; a new device's are 0 (R30). -/
def genOf (t : Tbl Gen) (n : Nat) : Gen := t.get (fun _ => 0) n

/-- A generation advanced by one, unless it has reached 0xF_FFFF (R30). -/
def Gen.advance (g : Gen) : Gen := if g = 0xFFFFF#20 then g else g + 1

/-- A free word, and the state with the draw counted (log entry 5). -/
def State.drawWord (s : State) : Word × State := (Config.freeWord s.free, { s with free := s.free + 1 })

/-- A free number below a bound (bound above 0), and the state with the draw counted (log entry 5). -/
def State.drawBelow (s : State) (n : Nat) : Nat × State := (Config.freeNat s.free % n, { s with free := s.free + 1 })

/-! ## Time -/

/-- Time runs on to a tide tick; it never runs back (R173). -/
def State.advance (s : State) (t : Nat) : State := { s with now := max s.now t }

/-- Tide ticks in a microsecond: 7.2 GHz (R173). -/
def ticksPerUs : Nat := 7200

/-- Tide ticks in a core cycle of a profile (R12, R173). -/
def coreTicks : Profile → Nat
  | .neap => 12
  | .mean => 6
  | .spring => 4

/-- Tide ticks in an EVC cycle: two core cycles (R224). -/
def State.evcTicks (s : State) : Nat := 2 * coreTicks s.power.current

/-! ## The prediction of a tide -/

/-- The kind of a tide's source (R175). -/
def Tide.kind (t : Tide) : Nat := fld t.tsrc 30 28

/-- A tide's TSRC.EN (R175). -/
def Tide.en (t : Tide) : Bool := bit t.tsrc 31

/-- The phase of a stretch at a tick, in 2^-32 ripple, by itself: phase_at of R177, or for an internal tide the elapsed
ticks over the turn length, exactly; a turn is TLEN × 0.25 ns, which is TLEN × 9 / 5 ticks (R176). -/
def TideSeg.phase (g : TideSeg) (t : Nat) : Int :=
  let dt : Int := (t : Int) - g.t0
  match g.len with
  | some l => g.p * 2 ^ 16 + floorDiv (dt * 5 * 2 ^ 56) (9 * (max l.toNat 1 : Nat))
  | none => if dt ≤ g.iv then g.p * 2 ^ 16 + (g.w + g.k) * dt else g.p * 2 ^ 16 + g.k * g.iv + g.w * dt

/-- The present stretch of a tide's prediction: frozen in OFF, HELD and SAFE and while an encoder counts backward
(R176, R178, R180); a SWITCHED tide runs at the rate of its ALT. -/
def Tide.seg (t : Tide) : TideSeg :=
  let still : TideSeg := { t0 := t.t0, p := t.p, w := 0, k := 0, iv := 0, len := none }
  match t.st with
  | .off | .held | .safe => still
  | .switched => { still with w := t.w, len := t.altLen }
  | _ =>
    if t.back then still
    else if t.kind = 0 then { still with len := some t.tlen }
    else { still with w := t.w, k := t.k, iv := t.iv }

/-- The newest of a list of stretches, newest first, that had begun at a tick; else the last one. -/
def segAt (t : Nat) : TideSeg → List TideSeg → TideSeg
  | g, [] => g
  | g, h :: r => if g.t0 ≤ t then g else segAt t h r

/-- phase_at of a tide at a tick, in 2^-32 ripple (R177). -/
def State.phaseAt (s : State) (i t : Nat) : Int := (segAt t (s.tide i).seg (s.tide i).segs).phase t

/-- phase_at of a tide now, in 2^-32 ripple. -/
def State.tidePhase (s : State) (i : Nat) : Int := s.phaseAt i s.now

/-- A phase in 2^-32 ripple as a phase word (R80). -/
def phaseWord (q : Int) : Word := BitVec.ofInt 32 (floorDiv q (2 ^ 32))

/-- The predicted phase word of a tide now (R80, R181). -/
def State.tideWord (s : State) (i : Nat) : Word := phaseWord (s.tidePhase i)

/-- The rate of a tide without k, in 2^-32 ripple a tick, as a fraction (num, den): exact for an internal tide (R181). -/
def Tide.rate (t : Tide) : Int × Int :=
  match t.seg.len with
  | some l => (5 * 2 ^ 56, 9 * (max l.toNat 1 : Nat))
  | none => (t.seg.w, 1)

/-- The rate of a tide by its number. -/
def State.tideRate (s : State) (i : Nat) : Int × Int := (s.tide i).rate

/-- A tide that fires nothing and lets every wait complete: OFF, HELD or SAFE (R180, R182, R185). -/
def Tide.still (t : Tide) : Bool := t.st = .off || t.st = .held || t.st = .safe

/-- The signed distance from b to a (R81). -/
def pdiff (a b : Word) : Int := (a - b).toInt

/-! ## The Undertow lane (R244, R245) -/

/-- Ports beside those of the 128 cores: the Churn, the shared blocks' register pages, and the Tide Table with the EVC (R240). -/
def notACore : Nat := 128

/-- The port of the register pages of shared blocks (R240). -/
def sysPort : Nat := 129

/-- The port of the Tide Table and the EVC (R240). -/
def evcPort : Nat := 130

/-- A port has a flit buffer free for a packet's class: 2 are reserved to each class (R244). -/
def Undertow.room (u : Undertow) (p : UPacket) : Bool :=
  decide ((u.held.filter fun q => decide (q.port = p.port) && decide (q.cls = p.cls)).length < 2)

/-- Waiting packets take the flit buffers that are free for them, the oldest first (R244, R245). -/
def Undertow.fill (u : Undertow) : Undertow :=
  u.waiting.foldl (fun v p => if v.room p then { v with waiting := v.waiting.erase p, held := v.held ++ [p] } else v) u

/-- Send a packet of a class to a port. -/
def State.undertowSend (s : State) (cls port : Nat) : State :=
  let p : UPacket := { cls := cls, port := port, seq := s.undertow.seq }
  { s with undertow := ({ s.undertow with waiting := s.undertow.waiting ++ [p], seq := s.undertow.seq + 1 } : Undertow).fill }

/-- A write of tenant 0 to a command register or BLK_CTRL travels in class 0 (R245). -/
def State.class0 (s : State) (who : Agent) (port : Nat) : State := if who.ten = 0 then s.undertowSend 0 port else s

/-! ## Event sources -/

/-- Selectable: enabled, pending and IDLE (R226). -/
def Source.selectable (x : Source) : Bool := x.en && x.pend && decide (x.svc = .idle)

/-- The role of a logical core (R216). -/
def State.role (s : State) (k : Nat) : Role := (s.cove (k / 8)).role[k % 8]'(Nat.mod_lt _ (by decide))

/-- A core that issues for a group: its leader, or a single core (R202). -/
def State.isLeader (s : State) (k : Nat) : Bool := s.role k = .single || s.role k = .leader

/-- Some target of a source exists as a leader and is neither lost nor FAILED (R235). -/
def State.liveTarget (s : State) (x : Source) : Bool :=
  (List.range 4).any fun k => (List.range 32).any fun j =>
    (match x.mask.toList[k]? with
      | some w => bit w j
      | none => false) && s.isLeader (32 * k + j) && !(s.core (32 * k + j)).lost

/-- The age of a selectable source runs on or pauses, as it has a live target or not (R235). -/
def Source.age_ (x : Source) (now : Nat) (live : Bool) : Source :=
  let t := x.selAt.getD now
  let run := match x.waited with
    | some n => now - n
    | none => t
  if live then { x with selAt := some run, waited := none }
  else { x with selAt := some t, waited := some (x.waited.getD (now - t)) }

/-- Put an event source: the moment it became selectable is kept, and it leaves the urgent set when it is no longer
selectable (R235). -/
def State.setSource (s : State) (i : Fin 2048) (x : Source) : State :=
  let x' := if x.selectable then x.age_ s.now (s.liveTarget x) else { x with selAt := none, waited := none, urgent := false }
  { s with
    sources := s.sources.put i x'
    evc := if x'.urgent then s.evc else { s.evc with urgents := s.evc.urgents.filter (· ≠ i) } }

/-- The sources that hold state other than their reset values, in number order. -/
def State.listedSources (s : State) : List (Fin 2048) :=
  s.sources.cells.filterMap fun e => if h : e.1 < 2048 then some ⟨e.1, h⟩ else none

/-- The ages of the sources after a change of which cores are live leaders (R235). -/
def State.ageAll (s : State) : State := s.listedSources.foldl (fun t i => t.setSource i (t.source i)) s

/-- The count threshold of a COAL word: 0 is read as 1 (R228). -/
def cntTh (coal : Word) : Nat := max (fld coal 31 24) 1

/-- One arrival at a source (R226): COUNT, SAT, the coalescing timer from the first arrival that finds COUNT at 0, and
pending at the threshold. -/
def Source.arrive (x : Source) (now : Nat) (phase : Word) : Source :=
  let full := x.count = 255#8
  let count := if full then x.count else x.count + 1
  { x with
    count := count
    sat := x.sat || full
    coalAt := if x.count = 0 then some (now, x.coal, phase) else x.coalAt
    pend := x.pend || decide (cntTh x.coal ≤ count.toNat) }

/-- The EVC cycle in which a tick lies (R224). -/
def State.evcCycle (s : State) (t : Nat) : Nat := t / s.evcTicks

/-- The arrivals of the present EVC cycle with one more (R239). -/
def State.freshened (s : State) (x : Source) : Fresh :=
  match x.fresh with
  | some f => if s.evcCycle f.tick = s.evcCycle s.now then { f with n := f.n + 1 } else ⟨s.now, x.count, x.sat, 1⟩
  | none => ⟨s.now, x.count, x.sat, 1⟩

/-- Count an arrival at a source, whether or not it is enabled (R226). -/
def State.arrive (s : State) (i : Fin 2048) : State :=
  let x := s.source i
  s.setSource i { x.arrive s.now (s.tideWord (fld x.coal 22 19)) with fresh := some (s.freshened x) }

/-- The sources that the coves raise: their arrival notices travel on the Undertow lane in class 3 (R225, R245). -/
def coveSource (i : Nat) : Bool := decide (16 ≤ i) && decide (i < 80)

/-- Raise an event source (R225). While the EVC's clocks are stopped the arrival is held at the crossing, one for each
source (R306). -/
def State.raise (s : State) (i : Fin 2048) : State :=
  if s.phase = .standby then
    { s with heldEvents := if s.heldEvents.contains i then s.heldEvents else s.heldEvents ++ [i] }
  else (if coveSource i then s.undertowSend 3 evcPort else s).arrive i

/-- Raise a source by number; a number outside the 2,048 names none. -/
def State.raiseN (s : State) (n : Nat) : State := if h : n < 2048 then s.raise ⟨n, h⟩ else s

/-- PEND_CLR on a source: pending, COUNT, SAT and the timer are cleared (R226). -/
def Source.pendClr (x : Source) : Source := { x with pend := false, count := 0, sat := false, coalAt := none }

/-! ## Register pages and detectors -/

/-- The index of a core page (R333). -/
def corePage (k : Nat) : Nat := 0x108 + 0x20 * (k / 8) + k % 8

/-- The index of an event page (R333). -/
def eventPage (k : Nat) : Nat := 0x110 + 0x20 * (k / 8) + k % 8

/-- The index of a cove memory page (R333). -/
def covePage (n : Nat) : Nat := 0x100 + 0x20 * n

/-- The index of a redundancy page (R333). -/
def redPage (n : Nat) : Nat := 0x101 + 0x20 * n

/-- The event source that a detection on a page raises (R333, R342); none where the page has none. -/
def detectorSource (page d : Nat) : Option Nat :=
  if page ≤ 0x005 then
    if page = 0x002 ∧ d ≠ 0 then [0, 2, 3, 4, 5, 6, 7, 8, 9][d - 1]?
    else if page = 0x003 ∧ d = 1 then some 15
    else some 96
  else if page = 0x006 then some 81
  else if page = 0x007 then some 82
  else if page = 0x008 then some 80
  else if page = 0x010 then some 84
  else if page = 0x011 then some 85
  else if page = 0x018 ∨ page = 0x019 then some (88 + (page - 0x018))
  else if 0x020 ≤ page ∧ page < 0x024 then some (192 + 8 * (page - 0x020) + 3)
  else if 0x028 ≤ page ∧ page < 0x02E then some (224 + 8 * (page - 0x028) + 1)
  else if 0x030 ≤ page ∧ page < 0x034 then some (272 + 4 * (page - 0x030) + 1)
  else if 0x038 ≤ page ∧ page < 0x040 then some (288 + 2 * (page - 0x038))
  else if page = 0x040 then some 305
  else if page = 0x041 then some 345
  else if 0x044 ≤ page ∧ page < 0x048 then some (346 + 2 * (page - 0x044))
  else if 0x100 ≤ page ∧ page < 0x300 then
    let n := (page - 0x100) / 0x20
    let o := (page - 0x100) % 0x20
    if o = 0 then some (16 + 4 * n)
    else if o = 1 then some (if d = 3 then 18 + 4 * n else 19 + 4 * n)
    else if 8 ≤ o ∧ o < 0x18 then some (17 + 4 * n)
    else none
  else none

/-- How many detectors a page has (R342); 0 at an index that no page has (R333). -/
def detCount (page : Nat) : Nat :=
  if page = 0x002 then 10
  else if page = 0x003 then 2
  else if page ≤ 0x005 then 1
  else if page = 0x006 then 2
  else if page = 0x007 then 3
  else if page = 0x008 then 2
  else if page = 0x010 then 2
  else if page = 0x011 then 3
  else if page = 0x018 ∨ page = 0x019 then 3
  else if 0x020 ≤ page ∧ page < 0x024 then 2
  else if 0x028 ≤ page ∧ page < 0x02E then 2
  else if 0x030 ≤ page ∧ page < 0x034 then 2
  else if 0x038 ≤ page ∧ page < 0x040 then 2
  else if page = 0x040 ∨ page = 0x041 then 2
  else if 0x044 ≤ page ∧ page < 0x048 then 2
  else if 0x100 ≤ page ∧ page < 0x300 then
    let o := (page - 0x100) % 0x20
    if o = 0 ∨ o = 1 then 4
    else if 8 ≤ o ∧ o < 0x10 then 3
    else if 0x10 ≤ o ∧ o < 0x18 then 1
    else 0
  else 0

/-- An index that the block map assigns (R333). -/
def pageAssigned (page : Nat) : Bool := decide (detCount page ≠ 0)

/-- A detection (R338): ERR_STATUS, the count, INJ_HIT where an injection caused it, and the page's detector source
while ERR_EVENT has the bit; the power page's monitors raise their sources whatever ERR_EVENT holds. -/
def State.detect (s : State) (page d : Nat) (injected : Bool := false) : State :=
  let f := s.frame page
  let f' := { f with
    errStatus := f.errStatus ||| bitMask d
    injHit := if injected then f.injHit ||| bitMask d else f.injHit
    counts := f.counts.put d (satInc (f.counts.get (fun _ => 0) d)) }
  let s' := s.setFrame page f'
  if bit f.errEvent d || (decide (page = 0x002) && decide (d ≠ 0)) then
    match detectorSource page d with
    | some n => s'.raiseN n
    | none => s'
  else s'

/-- The first waiting injection of a detector that an opportunity satisfies, taken out (R340). -/
def takeWaiting (page d : Nat) (ok : Word → Bool) : List Waiting → Option (Word × List Waiting)
  | [] => none
  | x :: r =>
    if x.page = page && x.d = d && ok x.word then some (x.word, r)
    else (takeWaiting page d ok r).map fun q => (q.1, x :: q.2)

/-- An opportunity of a detector: the injected word that acts on it, if one waits (R340). -/
def State.takeInj (s : State) (page d : Nat) (ok : Word → Bool) : Option Word × State :=
  match takeWaiting page d ok s.inj.waiting with
  | some (w, r) => (some w, { s with inj := { s.inj with waiting := r } })
  | none => (none, s)

/-- A page's INJ_CTRL registers disarmed. -/
def Frame.disarm (f : Frame) : Frame :=
  { f with inj := ⟨f.inj.cells.map fun e => (e.1, clearBits e.2 0x80000000#32)⟩ }

/-- The window closes: every INJ_CTRL is disarmed, and an injection still due is not performed (R339, R344). -/
def State.injClose (s : State) : State :=
  { s with
    inj := { s.inj with open_ := false, waiting := [], first := none }
    frames := ⟨s.frames.cells.map fun e => (e.1, e.2.disarm)⟩ }

/-- KIND of an INJ_CTRL word (R340). -/
def injKind (w : Word) : Nat := fld w 19 16

/-- The next generation of an object, as the Cave's device area stores it (R30): one that an injection makes uncorrectable reads
as 0xF_FFFF (R342). -/
def State.nextGen (s : State) (g : Gen) : Gen × State :=
  match s.takeInj 0x007 2 (fun _ => true) with
  | (some w, s1) => if injKind w = 3 ∨ injKind w = 4 then (0xFFFFF#20, s1.detect 0x007 2 true) else (Gen.advance g, s1)
  | (none, s1) => (Gen.advance g, s1)

/-- The generation of a channel advances. -/
def State.nextChGen (s : State) (n : Nat) : State :=
  let (g, s1) := s.nextGen (genOf s.chGens n)
  { s1 with chGens := s1.chGens.put n g }

/-- The generation of a tide entry advances. -/
def State.nextEntryGen (s : State) (n : Nat) : State :=
  let (g, s1) := s.nextGen (genOf s.entryGens n)
  { s1 with entryGens := s1.entryGens.put n g }

/-- The generation of an event source advances. -/
def State.nextSrcGen (s : State) (n : Nat) : State :=
  let (g, s1) := s.nextGen (genOf s.srcGens n)
  { s1 with srcGens := s1.srcGens.put n g }

/-! ## The physical map -/

/-- The targets of R39. -/
inductive Region where
  | ext
  | sram (cove : Nat)
  | churn
  | cave
  | bootRom
  | xspi
  | pcie
  | page (index : Nat)
  | nowhere
deriving DecidableEq, Repr

/-- What the device organisations of R294 hold: nothing fitted, 16, 24 or 32 GiB. -/
def fitGiB : Fin 4 → Nat
  | 0 => 0
  | 1 => 16
  | 2 => 24
  | 3 => 32

/-- The data extent of external memory: 15/16 of what the two channels hold together, at most 60 GiB (R2, R41, R294). -/
def extExtent : Nat := (fitGiB (Config.memoryFit 0) + fitGiB (Config.memoryFit 1)) * 2 ^ 30 / 16 * 15

/-- The region of a physical address (R39). -/
def region (pa : Nat) : Region :=
  if pa < 0x1000000000 then .ext
  else if 0xE000000000 ≤ pa ∧ pa < 0xE002000000 then .sram ((pa - 0xE000000000) / 0x200000)
  else if 0xE100000000 ≤ pa ∧ pa < 0xE100800000 then .churn
  else if 0xE200000000 ≤ pa ∧ pa < 0xE201000000 then .cave
  else if 0xE300000000 ≤ pa ∧ pa < 0xE300040000 then .bootRom
  else if 0xE400000000 ≤ pa ∧ pa < 0xE410000000 then .xspi
  else if 0xE800000000 ≤ pa ∧ pa < 0xE900000000 then .pcie
  else if 0xFE00000000 ≤ pa ∧ pa < 0xFE01000000 then .page ((pa - 0xFE00000000) / 0x1000)
  else .nowhere

/-- The software Cave: below it lie the device area and the save image, where every access ends in a bus error (R312). -/
def caveOpen (pa : Nat) : Bool := decide (0xE200700000 ≤ pa)

/-- Targets that hold word tags (R39, R42). -/
def Region.tagged : Region → Bool
  | .ext | .sram _ | .churn | .cave => true
  | _ => false

/-- The first address of a cove's SRAM (R39). -/
def coveBase (n : Nat) : Nat := 0xE000000000 + n * 0x200000

/-- The memory controller that serves an external address: the 4 KiB interleave (R41). -/
def memChannel (pa : Nat) : Nat := pa / 0x1000 % 2

/-! ## Memory bytes, words and tags -/

/-- What an unlisted byte reads as (log entry 2). -/
def byteDefault (_ : Nat) : Byte := 0

/-- Memory is in its canonical form: addresses rise strictly, and no entry equals what an unlisted byte reads as. -/
def Memory.wf (m : List Host.Cell) : Bool := Tbl.canonical byteDefault ⟨m⟩

/-- What an unlisted word's tag is: never written (R42). -/
def tagDefault (_ : Nat) : Tag := .unwritten

/-- A stored byte. -/
def State.byteAt (s : State) (pa : Nat) : Byte := Tbl.get byteDefault ⟨s.mem⟩ pa

/-- Store a byte. -/
def State.putByte (s : State) (pa : Nat) (v : Byte) : State :=
  { s with mem := (Tbl.set byteDefault ⟨s.mem⟩ pa v).cells }

/-- The tag of the word that holds an address. -/
def State.tagAt (s : State) (pa : Nat) : Tag := s.tags.get tagDefault (pa / 4)

/-- Set the tag of the word that holds an address. -/
def State.putTag (s : State) (pa : Nat) (t : Tag) : State := { s with tags := s.tags.set tagDefault (pa / 4) t }

/-- The stored word at an aligned address, little-endian (R362). -/
def State.wordAt (s : State) (pa : Nat) : Word :=
  s.byteAt (pa + 3) ++ s.byteAt (pa + 2) ++ s.byteAt (pa + 1) ++ s.byteAt pa

/-- Store the four bytes of a word at an aligned address, little-endian (R362). -/
def State.putBytes4 (s : State) (pa : Nat) (w : Word) : State :=
  (((s.putByte pa (w.extractLsb' 0 8)).putByte (pa + 1) (w.extractLsb' 8 8)).putByte (pa + 2)
    (w.extractLsb' 16 8)).putByte (pa + 3) (w.extractLsb' 24 8)

/-- What holds the check bits of a word: the word, or in external memory its beat of two words (R48, R51). -/
def eccKey (pa : Nat) : Nat := if pa < 0x1000000000 then pa / 8 * 2 else pa / 4

/-- The check-bit state of a word, or of its beat. -/
def State.eccAt (s : State) (pa : Nat) : Ecc := s.ecc.get (fun _ => Ecc.clean) (eccKey pa)

/-- Set the check-bit state of a word, or of its beat. -/
def State.putEcc (s : State) (pa : Nat) (e : Ecc) : State := { s with ecc := s.ecc.set (fun _ => Ecc.clean) (eccKey pa) e }

/-- The carve-out beat that holds the tags of the 128 bytes around an external address (R41, R51), above every word's key. -/
def carveKey (pa : Nat) : Nat := 2 ^ 38 + pa / 128

/-- The check-bit state of a carve-out beat. -/
def State.carveAt (s : State) (pa : Nat) : Ecc := s.ecc.get (fun _ => Ecc.clean) (carveKey pa)

/-- Set the check-bit state of a carve-out beat. -/
def State.putCarve (s : State) (pa : Nat) (e : Ecc) : State := { s with ecc := s.ecc.set (fun _ => Ecc.clean) (carveKey pa) e }

/-- The SRAM bank of a word index of a cove: how addresses map to banks is not given (log entry 16). -/
def bankOfWord (i : Nat) : Nat := if Config.bankInterleaved then i % 16 else i / 0x8000

/-- The word index at a position of a bank (log entry 16). -/
def wordOfBank (b pos : Nat) : Nat := if Config.bankInterleaved then pos * 16 + b else b * 0x8000 + pos

/-- The page and the detector that check the words of a target, and the place that an injection's SELECT must name
(R341, R342). -/
def eccDetector (pa : Nat) : Option (Nat × Nat × (Word → Bool)) :=
  match region pa with
  | .sram n => some (covePage n, 1, fun w => decide (fld w 3 0 = bankOfWord ((pa - coveBase n) / 4)))
  | .churn => some (0x008, 1, fun w => decide (fld w 13 0 = (pa - 0xE100000000) / 0x200))
  | .cave => some (0x007, 1, fun _ => true)
  | .ext => some (0x018 + memChannel pa, 1, fun _ => true)
  | _ => none

/-- The check-bit state that an injection of a KIND leaves (R341). -/
def injectedEcc (kind : Nat) : Ecc :=
  match kind with
  | 1 => { kind := .dataBit, inj := true }
  | 2 => { kind := .checkBit, inj := true }
  | 3 | 4 | 5 => { kind := .double, inj := true }
  | _ => Ecc.clean

/-! ## Error correction -/

/-- The class a check takes a word for (R48): 0 clean, 1 data, 2 check-only, 3 uncorrectable; beyond the code the class
is open (log entry 9). -/
def Ecc.cls (e : Ecc) (pa : Nat) : Nat :=
  match e.kind with
  | .clean => 0
  | .dataBit => 1
  | .checkBit => 2
  | .double => 3
  | .beyond => (Config.beyondClass pa).val

/-- Record an SRAM error in its cove's counters and ECC_LAST (R48, R53). -/
def Cove.recordEcc (c : Cove) (cls idx : Nat) (scrub : Bool) : Cove :=
  { c with
    eccData := if cls = 1 then satInc c.eccData else c.eccData
    eccCheck := if cls = 2 then satInc c.eccCheck else c.eccCheck
    eccUncorr := if cls = 3 then satInc c.eccUncorr else c.eccUncorr
    eccLast := flagAt true 31 ||| at_ cls 29 ||| flagAt scrub 28 ||| at_ idx 0 }

/-- Put an entry into the repair queue of 8; when it is full, the entry is dropped (R52). -/
def Cove.enqueue (c : Cove) (r : Repair) : Cove :=
  if c.repairs.length < 8 then { c with repairs := c.repairs ++ [r] } else c

/-- A memory controller. -/
def State.memc (s : State) (c : Nat) : MemCtl := s.memCtl.get (fun _ => MemCtl.reset) c

/-- Count an error of a class on a memory controller's page (R51). -/
def MemCtl.count (m : MemCtl) (cls : Nat) : MemCtl :=
  { m with
    eccData := if cls = 1 then satInc m.eccData else m.eccData
    eccCheck := if cls = 2 then satInc m.eccCheck else m.eccCheck
    eccUncorr := if cls = 3 then satInc m.eccUncorr else m.eccUncorr }

/-- Poison words from an aligned address on, with fresh check bits. -/
def State.poison (s : State) (pa : Nat) : Nat → State
  | 0 => s
  | n + 1 => ((s.putTag pa .poisoned).putEcc pa Ecc.clean).poison (pa + 4) n

/-- The tags of words from an aligned address on become Poisoned. -/
def State.poisonTags (s : State) (pa : Nat) : Nat → State
  | 0 => s
  | n + 1 => (s.putTag pa .poisoned).poisonTags (pa + 4) n

/-- The words that an uncorrectable error poisons: the word, or in external memory the two of its beat (R49, R51). -/
def State.poisonFor (s : State) (pa : Nat) : State :=
  match region pa with
  | .ext => s.poison (pa / 8 * 8) 2
  | _ => s.poison (pa / 4 * 4) 1

/-- An error of external memory, counted on its controller's page (R51). -/
def State.countBeat (s : State) (pa cls : Nat) : State :=
  { s with memCtl := s.memCtl.put (memChannel pa) ((s.memc (memChannel pa)).count cls) }

/-- The check of the carve-out beat that holds a word's tag, by any access to the word (R51): an uncorrectable one poisons its 32
words, and a single error is rewritten. -/
def State.checkCarve (s : State) (pa : Nat) : State :=
  let e := s.carveAt pa
  let cls := e.cls (carveKey pa)
  if cls = 0 then s
  else
    let s1 := (s.countBeat pa cls).putCarve pa Ecc.clean
    if cls = 3 then (s1.poisonTags (pa / 128 * 128) 32).detect (0x018 + memChannel pa) 1 e.inj else s1

/-- The check of a word or of its beat by an access or by the scrubber (R48, R49, R51, R52): counters, the repair queue for a single
error, the Poisoned rewrite and the detection for an uncorrectable one. -/
def State.checkBits (s : State) (pa : Nat) (scrub : Bool) : State :=
  let e := s.eccAt pa
  let cls := e.cls pa
  if cls = 0 then s
  else
    let s1 := match region pa with
      | .sram n =>
        let idx := (pa - coveBase n) / 4
        let c := (s.cove n).recordEcc cls idx scrub
        s.setCove n (if cls = 3 || scrub then c else c.enqueue (.word idx))
      | .ext => s.countBeat pa cls
      | _ => s
    if cls = 3 then
      let s2 := s1.poisonFor pa
      match eccDetector pa with
      | some (page, d, _) => s2.detect page d e.inj
      | none => s2
    else if scrub then s1.putEcc pa Ecc.clean
    else match region pa with
      | .sram _ => s1
      | _ => s1.putEcc pa Ecc.clean

/-- The check of a word by an access or by the scrubber; in external memory its beat and the beat of its tag (R51). -/
def State.checkWord (s : State) (pa : Nat) (scrub : Bool) : State :=
  match region pa with
  | .ext => (s.checkBits pa scrub).checkCarve pa
  | _ => s.checkBits pa scrub

/-! ## Words stored -/

/-- The detector of a target takes a waiting injection at a store to a place and corrupts the check bits stored there; KIND 5 those
of the carve-out beat (R341). -/
def State.injectStore (s : State) (pa : Nat) : State :=
  match eccDetector pa with
  | some (page, d, ok) =>
    match s.takeInj page d ok with
    | (some x, s1) => if injKind x = 5 then s1.putCarve pa (injectedEcc 5) else s1.putEcc pa (injectedEcc (injKind x))
    | (none, s1) => s1
  | none => s

/-- Store a word with a tag: fresh check bits, which the detector's waiting injection corrupts (R43, R341). The memory controller
merges a word into its beat and its tag into the carve-out, so it checks both (log entry 120). A Cave word is not durable until
FENCE.M or a save (R312). -/
def State.putWord (s : State) (pa : Nat) (w : Word) (t : Tag) : State :=
  let s0 := match region pa with
    | .cave => { s with undurable := s.undurable ++ [(pa / 4, s.wordAt pa, s.tagAt pa)] }
    | .ext => s.checkWord pa false
    | _ => s
  (((s0.putBytes4 pa w).putTag pa t).putEcc pa Ecc.clean).injectStore pa

/-- Store a doubleword with one tag for both words: in external memory one whole beat, which is not read before (R51). -/
def State.putPair (s : State) (pa : Nat) (w0 w1 : Word) (t0 t1 : Tag) : State :=
  match region pa with
  | .ext =>
    let s0 := s.checkCarve pa
    (((((s0.putBytes4 pa w0).putBytes4 (pa + 4) w1).putTag pa t0).putTag (pa + 4) t1).putEcc pa Ecc.clean).injectStore pa
  | _ => (s.putWord pa w0 t0).putWord (pa + 4) w1 t1

/-- The other word of a doubleword. -/
def matePa (pa : Nat) : Nat := if pa / 4 % 2 = 0 then pa + 4 else pa - 4

/-- A data store over one word: Written; the other word of a Capability doubleword becomes Written too (R43, R44). Where an error
has Poisoned the other word alone, it stays Poisoned, so that no load returns its lost data (R49; log entry 121). -/
def State.storeWord (s : State) (pa : Nat) (w : Word) : State :=
  let mate := matePa pa
  let s0 := if region pa = .ext then s.checkWord pa false else s
  let s1 := if s0.tagAt pa = .capability && s0.tagAt mate = .capability then s0.putTag mate .written else s0
  s1.putWord pa w .written

/-- Store both words of a capability (R43): Capability where it is tagged, Written where it is not. -/
def State.storeCap (s : State) (pa : Nat) (c : Cap) : State :=
  let t := if c.tag then Tag.capability else Tag.written
  s.putPair pa c.w0 c.w1 t t

/-! ## Code stores -/

/-- The index of a code address in the device's code stores: cove × 2^18 + parcel (R19). -/
def codeIndex (adr : Nat) : Nat := adr % 2 ^ 22

/-- A stored parcel; an unlisted one is zero (log entry 3, R323). -/
def State.parcelAt (s : State) (adr : Nat) : Parcel := s.code.get (fun _ => 0) (codeIndex adr)

/-- The check-bit state of a parcel. -/
def State.codeEccAt (s : State) (adr : Nat) : Ecc := s.codeEcc.get (fun _ => Ecc.clean) (codeIndex adr)

/-- Write a parcel with fresh check bits, which CODE ECC's waiting injection corrupts (R110, R341). -/
def State.putParcel (s : State) (adr : Nat) (p : Parcel) : State :=
  let s1 := { s with
    code := s.code.set (fun _ => 0) (codeIndex adr) p
    codeEcc := s.codeEcc.set (fun _ => Ecc.clean) (codeIndex adr) Ecc.clean }
  match s1.takeInj (covePage (codeIndex adr / 2 ^ 18)) 2 (fun w => decide (injKind w ≠ 5)) with
  | (some x, s2) => { s2 with codeEcc := s2.codeEcc.set (fun _ => Ecc.clean) (codeIndex adr) (injectedEcc (injKind x)) }
  | (none, s2) => s2

/-- The check of a parcel by a fetch, a PLD or the scrubber (R50): counts, the repair queue, and one detection for each
check that finds it uncorrectable. Answers whether it is uncorrectable. -/
def State.checkParcel (s : State) (adr : Nat) (scrub : Bool) : Bool × State :=
  let i := codeIndex adr
  let n := i / 2 ^ 18
  let e := s.codeEccAt adr
  let cls := e.cls i
  if cls = 0 then (false, s)
  else if cls = 3 then
    let c := s.cove n
    (true, (s.setCove n { c with codeUncorr := satInc c.codeUncorr }).detect (covePage n) 2 e.inj)
  else
    let c := s.cove n
    let c1 := if cls = 1 then { c with codeData := satInc c.codeData } else { c with codeCheck := satInc c.codeCheck }
    if scrub then
      (false, { s.setCove n c1 with codeEcc := s.codeEcc.set (fun _ => Ecc.clean) i .clean })
    else (false, s.setCove n (c1.enqueue (.parcel (i % 2 ^ 18))))

end Sys2Proof.Machine
end

