-- ==== Sys2Proof/Machine/Threads.lean ====
section
/-! DEFINITION. Threads: contexts in banks and in images, slots, core groups, and whether a thread may issue. -/

namespace Sys2Proof.Machine

/-! ## Words of a context -/

/-- THREAD_STATE as a word (R133). -/
def ThreadState.toWord (t : ThreadState) : Word :=
  at_ t.xdepth.toNat 16 ||| at_ t.level.toNat 12 ||| at_ t.pcode.toNat 6 ||| flagAt t.wp 3 ||| flagAt t.pf 2
    ||| flagAt t.h 1 ||| flagAt t.m 0

/-- THREAD_STATE read from a word; reserved bits are dropped (R6, R133). -/
def ThreadState.ofWord (w : Word) : ThreadState :=
  { xdepth := BitVec.ofNat 7 (fld w 22 16), level := BitVec.ofNat 2 (fld w 13 12), pcode := BitVec.ofNat 6 (fld w 11 6),
    wp := bit w 3, pf := bit w 2, h := bit w 1, m := bit w 0 }

/-- TENANT as a word (R132). -/
def tenantWord (home cur : TenantId) : Word := at_ home.toNat 16 ||| at_ cur.toNat 0

/-- PROG as a word (R143). -/
def progWord (x : Ctx) : Word := flagAt x.progValid 31 ||| at_ x.progDone.toNat 0

/-! ## Banks -/

/-- The context that a list of banks holds for a slot and a level. -/
def findCtx : List (Option Bank) → Fin 8 → Fin 3 → Option Ctx
  | [], _, _ => none
  | some b :: r, sl, lv => if b.slot = sl ∧ b.level = lv then some b.ctx else findCtx r sl lv
  | none :: r, sl, lv => findCtx r sl lv

/-- The resident context of a slot and level, if a bank holds it (R121). -/
def Core.ctx (c : Core) (sl : Fin 8) (lv : Fin 3) : Option Ctx := findCtx c.arch.banks.toList sl lv

/-- A bank with its context replaced, if it is that of the slot and level. -/
def Bank.withCtx (sl : Fin 8) (lv : Fin 3) (x : Ctx) (b : Bank) : Bank :=
  if b.slot = sl ∧ b.level = lv then { b with ctx := x } else b

/-- Put the context of a slot and level where it is resident. -/
def Core.setCtx (c : Core) (sl : Fin 8) (lv : Fin 3) (x : Ctx) : Core :=
  { c with arch := { c.arch with banks := c.arch.banks.map fun b => b.map (Bank.withCtx sl lv x) } }

/-- A slot of a core. -/
def Core.slot (c : Core) (sl : Fin 8) : Slot := c.arch.slots[sl.val]

/-- Put a slot of a core. -/
def Core.setSlot (c : Core) (sl : Fin 8) (x : Slot) : Core :=
  { c with arch := { c.arch with slots := c.arch.slots.set sl.val x } }

/-- Change a core. -/
def State.modCore (s : State) (k : Nat) (f : Core → Core) : State := s.setCore k (f (s.core k))

/-- Change a slot of a core. -/
def State.modSlot (s : State) (k : Nat) (sl : Fin 8) (f : Slot → Slot) : State :=
  s.modCore k fun c => c.setSlot sl (f (c.slot sl))

/-- Change a cove. -/
def State.modCove (s : State) (n : Nat) (f : Cove → Cove) : State := s.setCove n (f (s.cove n))

/-! ## Core groups (R202) -/

/-- The group number of a core index in a mode; spares and the like have none (R202). -/
def groupOf (m : CoveMode) (i : Nat) : Option Nat :=
  match m with
  | .split => some i
  | .pair => some (i / 2)
  | .pairSpares => if i < 6 then some (i / 2) else none
  | .triple => if i < 6 then some (i / 3) else none

/-- The cores of the group that a leader leads, the leader first (R202). -/
def State.members (s : State) (k : Nat) : List Nat :=
  let cv := s.cove (k / 8)
  let same := (List.range 8).filter fun i => decide (groupOf cv.mode i = groupOf cv.mode (k % 8)) && decide (i ≠ k % 8)
    && decide (s.role (8 * (k / 8) + i) = .follower)
  k :: same.map fun i => 8 * (k / 8) + i

/-- The leader of the group that a core belongs to: itself unless it follows (R202). -/
def State.leaderOf (s : State) (k : Nat) : Nat :=
  let cv := s.cove (k / 8)
  if s.role k = .follower then
    match (List.range 8).find? fun i => decide (groupOf cv.mode i = groupOf cv.mode (k % 8)) && s.isLeader (8 * (k / 8) + i) with
    | some i => 8 * (k / 8) + i
    | none => k
  else k

/-- The groups of a cove, by their leaders. -/
def State.leaders (s : State) (n : Nat) : List Nat :=
  ((List.range 8).map fun i => 8 * n + i).filter fun k => s.isLeader k

/-- The device's groups, by their leaders. -/
def State.allLeaders (s : State) : List Nat := (List.range 128).filter fun k => s.isLeader k

/-- A group that issues original parcels: it has a leader, is neither lost, stopped nor gated, does not roll back,
replay or copy, and the device runs (R153, R211, R218, R302, R308). -/
def State.coreRuns (s : State) (k : Nat) : Bool :=
  let c := s.core k
  decide (s.phase = .run) && s.isLeader k && !c.lost && !c.stopped && !c.gated
    && (decide (c.tm.st = .run) || decide (c.tm.st = .commit))

/-- The resident top context of a thread (R111). -/
def State.topCtx (s : State) (th : ThreadId) : Option Ctx :=
  let c := s.core th.core
  c.ctx th.slot (c.slot th.slot).top

/-- Put the resident top context of a thread. -/
def State.setTop (s : State) (th : ThreadId) (x : Ctx) : State :=
  s.modCore th.core fun c => c.setCtx th.slot (c.slot th.slot).top x

/-- The top context of a thread that may issue its next parcel now: the slot is ACTIVE, waits for nothing and is
resident (R113); else none. -/
def State.ready (s : State) (th : ThreadId) : Option Ctx :=
  let sl := (s.core th.core).slot th.slot
  if s.coreRuns th.core && decide (sl.st = .active) && decide (sl.wait = .none) then s.topCtx th else none

/-! ## Images (R122) -/

/-- The slots of a core. -/
def slots8 : List (Fin 8) := [0, 1, 2, 3, 4, 5, 6, 7]

/-- The physical address of the image of a context. -/
def imageAddr (k : Nat) (sl lv : Nat) : Nat := coveBase (k / 8) + 0x1F4000 + (k % 8) * 0x1800 + (3 * sl + lv) * 0x100

/-- Store a list of capabilities from an address on. -/
def State.storeCaps (s : State) (pa : Nat) : List Cap → State
  | [] => s
  | c :: r => (s.storeCap pa c).storeCaps (pa + 8) r

/-- Store a list of data words from an address on, Written. -/
def State.storeWords (s : State) (pa : Nat) : List Word → State
  | [] => s
  | w :: r => (s.putWord pa w .written).storeWords (pa + 4) r

/-- Write a context to its image. -/
def State.writeImage (s : State) (k : Nat) (sl lv : Nat) (x : Ctx) : State :=
  let a := imageAddr k sl lv
  let s1 := s.storeWords a x.d.toList
  let s2 := s1.storeCaps (a + 0x40) (x.c.toList ++ [x.pcc])
  let s3 := s2.storeWords (a + 0x88)
    [x.flg.setWidth 32, x.addrmode.setWidth 32, progWord x, x.ts.toWord, tenantWord x.home x.cur, 0]
  let s4 := s3.storeCaps (a + 0xA0) [x.tideAuth, x.tvec, x.xstk, x.entry]
  s4.storeWords (a + 0xC0) x.record.toList

/-- The capability in two words as a load reads it: tagged only if both words carry Capability (R16). -/
def State.capAt (s : State) (pa : Nat) : Cap :=
  { w0 := s.wordAt pa, w1 := s.wordAt (pa + 4),
    tag := decide (s.tagAt pa = .capability) && decide (s.tagAt (pa + 4) = .capability) }

/-- The context that an image holds. -/
def State.imageCtx (s : State) (k : Nat) (sl lv : Nat) : Ctx :=
  let a := imageAddr k sl lv
  let prog := s.wordAt (a + 0x90)
  let ten := s.wordAt (a + 0x98)
  { d := Vector.ofFn fun i => s.wordAt (a + 4 * i.val)
    c := Vector.ofFn fun i => s.capAt (a + 0x40 + 8 * i.val)
    pcc := s.capAt (a + 0x80)
    flg := (s.wordAt (a + 0x88)).setWidth 4
    addrmode := (s.wordAt (a + 0x8C)).setWidth 24
    progValid := bit prog 31
    progDone := prog.setWidth 30
    ts := ThreadState.ofWord (s.wordAt (a + 0x94))
    home := BitVec.ofNat 12 (fld ten 27 16)
    cur := BitVec.ofNat 12 (fld ten 11 0)
    tideAuth := s.capAt (a + 0xA0)
    tvec := s.capAt (a + 0xA8)
    xstk := s.capAt (a + 0xB0)
    entry := s.capAt (a + 0xB8)
    record := Vector.ofFn fun i => s.wordAt (a + 0xC0 + 4 * i.val) }

/-- A fill reads the 64 words of an image: each is checked, and a Poisoned or Unwritten one is reported (R124). -/
def State.checkImage (s : State) (k : Nat) (sl lv : Nat) : Bool × State :=
  let a := imageAddr k sl lv
  let words := (List.range 64).map fun i => a + 4 * i
  let s1 := words.foldl (fun t pa => t.checkWord pa false) s
  (words.all fun pa => s1.tagAt pa = .written || s1.tagAt pa = .capability, s1)

/-- A context wherever it is: in a bank, else in its image. -/
def State.anyCtx (s : State) (k : Nat) (sl : Fin 8) (lv : Fin 3) : Ctx :=
  match (s.core k).ctx sl lv with
  | some x => x
  | none => s.imageCtx k sl lv

/-- Change a context wherever it is. -/
def State.modAny (s : State) (k : Nat) (sl : Fin 8) (lv : Fin 3) (f : Ctx → Ctx) : State :=
  match (s.core k).ctx sl lv with
  | some x => s.modCore k fun c => c.setCtx sl lv (f x)
  | none => s.writeImage k sl lv (f (s.imageCtx k sl lv))

/-- WP in a context wherever it is: in an image, bit 3 of word 0x25 (R104, R133). -/
def State.setWp (s : State) (k : Nat) (sl : Fin 8) (lv : Fin 3) (on : Bool) : State :=
  match (s.core k).ctx sl lv with
  | some x => s.modCore k fun c => c.setCtx sl lv { x with ts := { x.ts with wp := on } }
  | none =>
    let a := imageAddr k sl lv + 0x94
    s.putWord a (if on then s.wordAt a ||| 0x8#32 else s.wordAt a &&& 0xFFFFFFF7#32) .written

/-- The level below a slot's level-2 context: 1 where a level-1 context stands there (R136 word 0, FROM). -/
def State.fromLevel (s : State) (k : Nat) (sl : Fin 8) : Fin 3 :=
  if fld ((s.anyCtx k sl 2).record[0]) 19 18 = 0 then 0 else 1

/-- The levels at which a slot has a context, its top one last (R111). -/
def State.levels (s : State) (k : Nat) (sl : Fin 8) : List (Fin 3) :=
  match ((s.core k).slot sl).top with
  | 0 => [0]
  | 1 => [0, 1]
  | 2 => if s.fromLevel k sl = 0 then [0, 2] else [0, 1, 2]

/-- The wake-pending bit is the thread's (R104): WP reads the same in every context of its slot (log entry 124). -/
def State.threadWp (s : State) (k : Nat) (sl : Fin 8) (on : Bool) : State :=
  (s.levels k sl).foldl (fun t lv => t.setWp k sl lv on) s

/-- TENANT.CUR of the level-0 context of a slot (R104, R132). -/
def State.curOf (s : State) (k : Nat) (sl : Fin 8) : TenantId := (s.anyCtx k sl 0).cur

/-- HOME of a slot's thread (R132). -/
def State.homeOf (s : State) (k : Nat) (sl : Fin 8) : TenantId := (s.anyCtx k sl 0).home

/-! ## Waking (R104, R134) -/

/-- A wake reaches a slot whose tenant has been compared: a sleeper becomes ACTIVE, a parked or held sleeper will be,
and any other thread, or one whose H is 1, gains WP. Slot 0 and an EMPTY slot are not affected (log entry 15). -/
def State.wakeThread (s : State) (k : Nat) (sl : Fin 8) : State :=
  let x := (s.core k).slot sl
  if sl = 0 ∨ x.st = .empty then s
  else if (s.anyCtx k sl x.top).ts.h then s.threadWp k sl true
  else if x.st = .sleeping then s.modSlot k sl fun y => { y with st := .active }
  else if x.st = .parked ∧ x.under = .sleeping then s.modSlot k sl fun y => { y with under := .active }
  else if x.st = .held ∧ x.prior = .sleeping then s.modSlot k sl fun y => { y with prior := .active }
  else if x.st = .held ∧ x.prior = .parked ∧ x.under = .sleeping then s.modSlot k sl fun y => { y with under := .active }
  else s.threadWp k sl true

/-- A wake by a tenant: it acts only on a thread of that tenant (R104). -/
def State.wakeBy (s : State) (ten : TenantId) (k : Nat) (sl : Fin 8) : State :=
  if s.curOf k sl = ten then s.wakeThread k sl else s

/-- A block instruction of a slot that has used issue cycles since its last word step is abandoned at the last word boundary: VALID
and DONE say where it goes on (R110, R130, R143). -/
def Core.abandon (c : Core) (sl : Fin 8) : Core :=
  let x := c.slot sl
  if x.spent = 0 then c
  else
    let c1 := c.setSlot sl { x with spent := 0, stale := false }
    match c.ctx sl x.top with
    | some y =>
      if y.progValid && !x.stale then c1 else c1.setCtx sl x.top { y with progValid := true, progDone := 0 }
    | none => c1

/-- The top context of a slot issues in this cycle (R123). -/
def Core.touchBank (c : Core) (sl : Fin 8) : Core :=
  let lv := (c.slot sl).top
  { c with arch := { c.arch with
      banks := c.arch.banks.map fun b => b.map fun v => if v.slot = sl ∧ v.level = lv then { v with used := c.cyc } else v } }

/-- A wait for the response of an access that the device has performed. -/
def Wait.answerable : Wait → Bool
  | .access | .event _ => true
  | _ => false

/-- The response that a slot waits for has come (R87). -/
def Slot.answered (x : Slot) : Slot := { x with wait := .none, before := none }

/-- A slot whose tide wait has completed: ACTIVE, or to be so when it is unparked or released (R125, R182). -/
def Slot.waitOver (x : Slot) : Slot :=
  if x.st = .waiting then { x with st := .active, tideWait := none }
  else if x.st = .parked ∧ x.under = .waiting then { x with under := .active, tideWait := none }
  else if x.st = .held ∧ x.prior = .waiting then { x with prior := .active, tideWait := none }
  else if x.st = .held ∧ x.prior = .parked ∧ x.under = .waiting then { x with under := .active, tideWait := none }
  else x

/-! ## Banks: spill and fill (R121, R123) -/

/-- A bank is idle: its context is not the top context of an ACTIVE slot (R121). -/
def Core.bankIdle (c : Core) (b : Bank) : Bool :=
  !(decide ((c.slot b.slot).st = .active) && decide ((c.slot b.slot).top = b.level))

/-- The number of the first free bank from 1 on. -/
def Core.freeBank (c : Core) : Option Nat :=
  (List.range 12).find? fun i => decide (1 ≤ i) && decide (c.arch.banks.toList[i]? = some none)

/-- The idle bank whose context issued least recently, ties to the lower number (R123). -/
def Core.victimBank (c : Core) : Option (Nat × Bank) :=
  ((List.range 12).filterMap fun i =>
      match c.arch.banks.toList[i]? with
      | some (some b) => if 1 ≤ i ∧ c.bankIdle b then some (i, b) else none
      | _ => none).foldl
    (fun best p => match best with
      | none => some p
      | some q => if p.2.used < q.2.used then some p else some q) none

/-- Put a bank by number. -/
def Core.putBank (c : Core) (i : Nat) (b : Option Bank) : Core :=
  { c with arch := { c.arch with banks := c.arch.banks.setIfInBounds i b } }

/-- Spill a bank: its context goes to its image (R122 to R124). -/
def State.spill (s : State) (k i : Nat) (b : Bank) : State :=
  let s1 := s.writeImage k b.slot b.level b.ctx
  s1.modCore k fun c => { c.putBank i none with spillCnt := satInc c.spillCnt }

/-- A bank for a context: a free one, else one that a spill frees (R123). -/
def State.takeBank (s : State) (k : Nat) : Option Nat × State :=
  match (s.core k).freeBank with
  | some i => (some i, s)
  | none =>
    match (s.core k).victimBank with
    | some (i, b) => (some i, s.spill k i b)
    | none => (none, s)

/-- The bank of a context: bank 0 for the event slot's level 0, else one of banks 1 to 11 (R121). -/
def State.bankFor (s : State) (k : Nat) (sl : Fin 8) (lv : Fin 3) : Option Nat × State :=
  if sl = 0 ∧ lv = 0 then (some 0, s) else s.takeBank k

/-- Place a context in a bank; it counts as having issued now (R123). -/
def State.placeCtx (s : State) (k i : Nat) (sl : Fin 8) (lv : Fin 3) (x : Ctx) : State :=
  s.modCore k fun c => c.putBank i (some { slot := sl, level := lv, used := c.cyc, ctx := x })

/-- Take every bank of a slot and level out. -/
def Core.dropCtx (c : Core) (sl : Fin 8) (lv : Fin 3) : Core :=
  { c with arch := { c.arch with banks := c.arch.banks.map fun b =>
      match b with
      | some x => if x.slot = sl ∧ x.level = lv then none else some x
      | none => none } }

/-- An injection at the bank detector: the next fill finds word 0 of its image Poisoned (R342). -/
def State.injectFill (s : State) (k : Nat) (sl : Fin 8) (lv : Fin 3) : Bool × State :=
  match s.takeInj (corePage k) 2 (fun w => decide (injKind w = 1)) with
  | (some _, s1) => (true, s1.poison (imageAddr k sl lv) 1)
  | (none, s1) => (false, s1)

/-- A slot that a bad image holds, with prior state PARKED: it has nothing to go on with until RELEASE.RUN (R124). -/
def Slot.badImage (x : Slot) : Slot := { x with st := .held, prior := .parked, made := false, under := .empty, crossing := none }

/-- Fill a context from its image (R123, R124): a Poisoned or Unwritten word stops it, the slot becomes HELD with prior
state PARKED, and the core page's bank detector tells. A level-2 context's fill loses the core instead (R153). -/
def State.fill (s : State) (k : Nat) (sl : Fin 8) (lv : Fin 3) : State :=
  let (inj, s0) := s.injectFill k sl lv
  let (ok, s1) := s0.checkImage k sl lv
  if !ok then
    (if lv = 2 then s1 else s1.modSlot k sl Slot.badImage).detect (corePage k) 2 inj
  else
    match s1.bankFor k sl lv with
    | (some i, s2) =>
      let x := s2.imageCtx k sl lv
      let s3 := s2.placeCtx k i sl lv x
      s3.modCore k fun c => { c with
        fillCnt := satInc c.fillCnt
        tm := { c.tm with extra := if c.tm.extra.any fun e => e.1 = (sl.val + 8 * c.tm.seq, lv.val) then c.tm.extra
                                   else c.tm.extra ++ [((sl.val + 8 * c.tm.seq, lv.val), x)] } }
    | (none, s2) => s2

/-- Make a context not resident, its state in its image (HOLD, R125): a spill, but a copy of bank 0 is none. -/
def State.evict (s : State) (k : Nat) (sl : Fin 8) (lv : Fin 3) : State :=
  match (s.core k).ctx sl lv with
  | some x => (s.writeImage k sl lv x).modCore k fun c =>
    { c.dropCtx sl lv with spillCnt := if sl = 0 ∧ lv = 0 then c.spillCnt else satInc c.spillCnt }
  | none => s

end Sys2Proof.Machine
end

