-- ==== Sys2Proof/Machine/Log.lean ====
section
/-! DEFINITION. The Tidemark's log (R207, R210): private regions, records, and what an access of a group logs. The
records are kept as data and written to the log's ring in cove SRAM as R210 lays them out. -/

namespace Sys2Proof.Machine

/-- The size of a group's log in bytes: 16 KiB × 2^LOGSZ, 5 to 7 read as 4 (R209). -/
def Tidemark.logSize (t : Tidemark) : Nat := 0x4000 * 2 ^ min (fld t.ctrl 2 0) 4

/-- The offset of a group's log in its cove's SRAM (R209). -/
def Tidemark.logOffset (t : Tidemark) : Nat := fld t.logBase 6 0 * 0x4000

/-- A word offset of a cove's SRAM lies in the log of some group of that cove. -/
def State.inLog (s : State) (n off : Nat) : Bool :=
  (List.range 8).any fun i =>
    let t := (s.core (8 * n + i)).tm
    decide (t.logOffset ≤ off) && decide (off < t.logOffset + t.logSize)

/-- An offset of a group's own cove's SRAM lies in its private region; the spill area and every log never do (R208). -/
def State.privateOff (s : State) (k off : Nat) : Bool :=
  let p := (s.core k).tm.priv
  decide (fld p 8 0 ≤ off / 0x1000) && decide (off / 0x1000 ≤ fld p 24 16) && decide (off < 0x1F4000)
    && !s.inLog (k / 8) off

/-- The offset of a physical address in a cove's SRAM. -/
def sramOff (pa : Nat) : Nat := pa % 0x200000

/-- A physical address is in the private region of a group (R207). -/
def State.inPrivate (s : State) (k pa : Nat) : Bool :=
  match region pa with
  | .sram n => decide (n = k / 8) && s.privateOff k (sramOff pa)
  | _ => false

/-- The group whose private region a physical address lies in, other than a given one (R208). -/
def State.foreignPrivate (s : State) (k : Option Nat) (pa : Nat) : Bool :=
  match region pa with
  | .sram n => (s.leaders n).any fun g => decide (some g ≠ k) && s.privateOff g (sramOff pa)
  | _ => false

/-- Reasons for which an operation does not take effect yet, beside the codes of R54: its thread tries again later (1), the
flash answers first (2), or PCIe does (3). -/
def notYet : Nat := 0x100

/-- A group other than a given one replays toward the original store of a word, so that an access to the word waits (R64, R213). -/
def State.awaited (s : State) (k : Option Nat) (pa : Nat) : Bool :=
  match region pa with
  | .sram n => (s.leaders n).any fun g => decide (some g ≠ k) && (s.core g).tm.restored.contains (sramOff pa / 4)
  | _ => false

/-- Two bits of a tag (R42). -/
def Tag.code : Tag → Nat
  | .written => 0
  | .capability => 1
  | .unwritten => 2
  | .poisoned => 3

/-- Four-bit issuers of an ISSUE record packed first in the low bits (R210). -/
def packNibbles : List Nat → Nat
  | [] => 0
  | x :: r => x % 16 + 16 * packNibbles r

/-- The position that a record carries (R210). -/
def LogRec.position : LogRec → Option Nat
  | .value _ _ _ _ _ p => some p
  | .event _ p => some p
  | .thread _ _ _ p => some p
  | .tlbi _ _ _ _ p => some p
  | .release _ p => some p
  | .mark _ p => some p
  | _ => none

/-- The two words of a record, with the delta of its position (R210). -/
def LogRec.words (dpos : Nat) : LogRec → Word × Word
  | .undo i old t => (old, at_ 1 28 ||| at_ t.code 26 ||| at_ i 0)
  | .value v t code second slot _ =>
    (v, at_ 2 28 ||| at_ t.code 26 ||| at_ code 20 ||| flagAt second 19 ||| at_ slot 16 ||| at_ dpos 0)
  | .event src _ => (at_ src 0, at_ 3 28 ||| at_ dpos 0)
  | .thread slot kind _ _ => (at_ slot 0 ||| at_ kind 4, at_ 4 28 ||| at_ dpos 0)
  | .tlbi va form ten _ _ => (word (va.toNat / 256 * 256) ||| at_ form 0, at_ 5 28 ||| at_ ten.toNat 16 ||| at_ dpos 0)
  | .release d _ => (d, at_ 6 28 ||| at_ dpos 0)
  | .issue l gap => (word (packNibbles l), at_ 7 28 ||| at_ gap 0)
  | .mark n _ => (word n, at_ 8 28 ||| at_ dpos 0)
  | .extend d => (word d, at_ 9 28)

/-- Put two words of a record into the ring, Written, and keep the record. -/
def State.putRecord (s : State) (k : Nat) (r : LogRec) (w : Word × Word) : State :=
  let t := (s.core k).tm
  let a := coveBase (k / 8) + t.logOffset + 8 * t.written % t.logSize
  let s1 := (s.putWord a w.1 .written).putWord (a + 4) w.2 .written
  s1.modCore k fun c => { c with tm := { c.tm with log := c.tm.log ++ [r], written := c.tm.written + 1 } }

/-- Append a record to a group's log; a position delta above 65,535 goes into an EXTEND record first (R210). -/
def State.logRecord (s : State) (k : Nat) (r : LogRec) : State :=
  let t := (s.core k).tm
  match r.position with
  | none => s.putRecord k r (r.words 0)
  | some p =>
    let d := p - t.lastPos
    let s1 := if 65535 < d then s.putRecord k (.extend d) (LogRec.words 0 (.extend d)) else s
    let s2 := s1.putRecord k r (r.words (if 65535 < d then 0 else d))
    s2.modCore k fun c => { c with tm := { c.tm with lastPos := p } }

/-- The group executes a span again (R211). -/
def State.replaying (s : State) (k : Nat) : Bool := decide ((s.core k).tm.st = .replay)

/-- A group that executes now: it issues original parcels or replays (R211). -/
def State.executes (s : State) (k : Nat) : Bool := s.coreRuns k || (decide (s.phase = .run) && s.isLeader k && s.replaying k
  && !(s.core k).lost && !(s.core k).stopped && !(s.core k).gated)

/-- The issuers of an ISSUE record: fewer than eight are ended by 0xF (R210). -/
def issueNibbles (l : List Nat) : List Nat := l ++ List.replicate (8 - l.length) 0xF

/-- The irregular cycles that wait are written as an ISSUE record, and the count of regular cycles begins again (R210). -/
def State.flushIssues (s : State) (k : Nat) : State :=
  let t := (s.core k).tm
  if t.pendingIssues = [] then s
  else (s.logRecord k (.issue (issueNibbles t.pendingIssues) t.regularRun)).modCore k fun c =>
    { c with tm := { c.tm with pendingIssues := [], regularRun := 0 } }

/-- The trace of an issue cycle: regular, or irregular with its issuer, 8 for none (R207, R210). Eight irregular cycles fill a
record; a gap of 65,535 regular cycles is carried by a record without an issuer (log entry 52). -/
def State.traceIssue (s : State) (k : Nat) (regular : Bool) (issuer : Nat) : State :=
  if regular then
    let s1 := s.flushIssues k
    let t := (s1.core k).tm
    let s2 := if t.regularRun = 65535 then s1.logRecord k (.issue (issueNibbles []) 65535) else s1
    s2.modCore k fun c => { c with tm := { c.tm with regularRun := if t.regularRun = 65535 then 1 else t.regularRun + 1 } }
  else
    let s1 := s.modCore k fun c => { c with tm := { c.tm with
      pendingIssues := c.tm.pendingIssues ++ [issuer], issues := c.tm.issues ++ [(c.tm.pos, issuer)] } }
    if (s1.core k).tm.pendingIssues.length = 8 then s1.flushIssues k else s1

/-- Log a response that the group waits for from outside its private region (R207). -/
def State.logValue (s : State) (k : Nat) (slot : Fin 8) (v : Word) (t : Tag) (code : Nat) (second : Bool := false) :
    State :=
  if s.replaying k then s else s.logRecord k (.value v t code second slot (s.core k).tm.pos)

/-- Log an output that leaves the group by its digest (R207). -/
def State.logRelease (s : State) (k : Nat) (kind pa be : Nat) (data : List Word) : State :=
  if s.replaying k then s
  else s.logRecord k (.release (Config.releaseDigest kind pa be data) (s.core k).tm.pos)

/-- Log an input of the group: an event, a wake, a park or a TLBI (R207). -/
def State.logInput (s : State) (k : Nat) (r : LogRec) : State := if s.replaying k then s else s.logRecord k r

/-- Before a store of a group into its private region: the undo record of the word (R207). -/
def State.logUndo (s : State) (k pa : Nat) : State :=
  s.logRecord k (.undo (sramOff pa / 4) (s.wordAt pa) (s.tagAt pa))

/-- The words of cove SRAM that a store changes: its own, and the other word of a Capability doubleword, whose tag it changes (R43). -/
def State.storedWords (s : State) (pa : Nat) (two : Bool) : List Nat :=
  let a := pa / 4 * 4
  if two then [a, a + 4] else if s.tagAt a = .capability then [a, matePa a] else [a]

/-- What the Tidemark logs of a store of a group, before the store: an undo record inside the private region, else a
release digest (R207). -/
def State.logStore (s : State) (k pa be : Nat) (data : List Word) : State :=
  if s.inPrivate k pa then (s.storedWords pa (decide (data.length = 2))).foldl (fun t a => t.logUndo k a) s
  else s.logRelease k 1 pa be data

/-- The log is at least three-quarters full (R206). -/
def Tidemark.nearlyFull (t : Tidemark) : Bool := decide (3 * t.logSize ≤ 4 * (8 * t.log.length))

/-- TM_STATUS.FILL: the log in use in 1/256 (R209). -/
def Tidemark.fill (t : Tidemark) : Nat := min (8 * t.log.length * 256 / t.logSize) 255

end Sys2Proof.Machine
end

