-- ==== Sys2Proof/Machine/Xlate.lean ====
section
/-! DEFINITION. Translation entries (R156 to R159), the allotments that bound them (R160), and what the targets of the
physical map answer (R39, R40, R305). -/

namespace Sys2Proof.Machine

/-! ## Entries -/

/-- The four words of an entry, as written or read (R156). -/
structure EntryWords where
  w0 : Word
  w1 : Word
  w2 : Word
  w3 : Word
deriving DecidableEq, Repr

/-- SIZE as stored: 8 to 32 (R157). -/
def normSize (w2 : Word) : Nat := min (max (fld w2 29 24) 8) 32

/-- A word with its bits below n cleared. -/
def clearLow (w : Word) (n : Nat) : Word := BitVec.ofNat 32 (w.toNat / 2 ^ n * 2 ^ n)

/-- The normalised form of an entry written by a tenant (R157). -/
def normEntry (cur : TenantId) (e : EntryWords) : EntryWords :=
  let z := normSize e.w2
  let dev := bit e.w2 4
  let w2a := withFld (e.w2 &&& 0xFFFFF0FF#32) 29 24 z
  let w2b := if dev then clearBits w2a 0x8#32 else w2a
  let w2c := if cur = 0 then w2b else withFld (clearBits w2b 0x40000000#32) 23 12 cur.toNat
  { w0 := clearLow e.w0 z, w1 := clearLow e.w1 (z - 8), w2 := w2c, w3 := e.w3 }

/-- V of an entry. -/
def EntryWords.v (e : EntryWords) : Bool := bit e.w2 31

/-- The physical range of an entry: base and size (R160). -/
def EntryWords.phys (e : EntryWords) : Nat × Nat := (e.w1.toNat * 256, 2 ^ normSize e.w2)

/-- An entry matches an access of a tenant at a virtual address (R158). -/
def EntryWords.hits (e : EntryWords) (cur : TenantId) (va : Nat) : Bool :=
  e.v && decide (va / 2 ^ normSize e.w2 = e.w0.toNat / 2 ^ normSize e.w2)
    && (bit e.w2 30 || decide (fld e.w2 23 12 = cur.toNat))

/-- The physical address that an entry gives an access (R158). -/
def EntryWords.pa (e : EntryWords) (va : Nat) : Nat := (e.w1.toNat * 256 + va % 2 ^ normSize e.w2) % 2 ^ 40

/-- Steps 2b to 3 of R55 against an entry that matches. -/
def EntryWords.permit (e : EntryWords) (load store : Bool) : Except Nat Unit :=
  if !bit e.w2 7 then .error fTLB_FIRST_ACCESS
  else if store && !bit e.w2 6 then .error fTLB_FIRST_WRITE
  else if (load && !bit e.w2 0) || (store && !bit e.w2 1) then .error fPAGE_PERM
  else .ok ()

/-- The Unwritten policy of an entry: true for lenient (R45). -/
def EntryWords.lenient (e : EntryWords) : Bool := bit e.w2 5

/-- The words of a TLB entry. -/
def TlbEntry.words (e : TlbEntry) : EntryWords := { w0 := e.w0, w1 := e.w1, w2 := e.w2, w3 := e.w3 }

/-- A physical range lies in the allotment of a tenant (R33, R160). -/
def State.inAllot (s : State) (t : TenantId) (pa size : Nat) : Bool :=
  let v := s.tenant t.toNat
  decide (v.base.toNat * 256 ≤ pa) && decide (pa + size ≤ (v.last.toNat + 1) * 256)

/-- A form of TLBI names an entry (R164): 1 the tenant's entries and, from Headland, the global ones that cover the address, 2 the
tenant's entries, 3 every entry. -/
def EntryWords.named (e : EntryWords) (form : Nat) (ten : TenantId) (va : Nat) (global : Bool) : Bool :=
  match form with
  | 1 => e.v && decide (va / 2 ^ normSize e.w2 = e.w0.toNat / 2 ^ normSize e.w2)
    && (if bit e.w2 30 then global else decide (fld e.w2 23 12 = ten.toNat))
  | 2 => e.v && !bit e.w2 30 && decide (fld e.w2 23 12 = ten.toNat)
  | _ => true

/-- A stored entry after an invalidation (R164). -/
def TlbEntry.invalidated (form : Nat) (ten : TenantId) (va : Nat) (global : Bool) (e : TlbEntry) : TlbEntry :=
  if e.words.named form ten va global then { e with w2 := clearBits e.w2 0x80000000#32 } else e

/-- A core's TLB after an invalidation (R164). -/
def Core.invalidate (c : Core) (form : Nat) (ten : TenantId) (va : Nat) (global : Bool) : Core :=
  { c with arch := { c.arch with tlb := ⟨c.arch.tlb.cells.map fun p => (p.1, p.2.invalidated form ten va global)⟩ } }

/-! ## Targets -/

/-- External memory answers: both controllers are ready and domain 44 is not gated (R294, R305). -/
def State.extUp (s : State) : Bool :=
  decide ((s.memc 0).training = some .ready) && decide ((s.memc 1).training = some .ready) && decide ((s.gate 44).st = .on)

/-- A physical address that holds memory words with tags: a populated part of the map that is open to accesses (R39, R41, R249,
R312). -/
def State.taggedTarget (s : State) (pa : Nat) : Bool :=
  match region pa with
  | .ext => decide (pa < extExtent) && s.extUp
  | .sram _ | .churn => true
  | .cave => caveOpen pa
  | _ => false

/-- The Churn cell of a physical address (R249). -/
def churnCell (pa : Nat) : Nat := (pa - 0xE100000000) / 0x200

/-- A Churn address lies in a pool cell: below the plain cells (R249). -/
def State.inPool (s : State) (pa : Nat) : Bool := decide (churnCell pa < 16384 - s.churn.plain.toNat)

/-- Count lenient reads of Unwritten words in a tenant's TEN_UNWRITTEN (R45). -/
def State.countUnwritten (s : State) (t : TenantId) : State :=
  let v := s.tenant t.toNat
  s.setTenant t.toNat { v with unwritten := satInc v.unwritten }

/-- What a load of a tagged word gives (R45, R49): a Poisoned word never yields its data, and an Unwritten one reads 0 under the
lenient policy. -/
def State.judgeTag (s : State) (w : Word) (t : Tag) (lenient : Bool) (ten : TenantId) : Except Nat Word × State :=
  match t with
  | .poisoned => (.error fPOISONED_READ, s)
  | .unwritten => if lenient then (.ok 0, s.countUnwritten ten) else (.error fUNWRITTEN_READ, s)
  | _ => (.ok w, s)

/-- Read one word of a tagged target in memory by an agent that is checked for its tag (R45, R49). -/
def State.readTagged (s : State) (pa : Nat) (lenient : Bool) (ten : TenantId) : Except Nat Word × State :=
  let s1 := s.checkWord pa false
  s1.judgeTag (s1.wordAt pa) (s1.tagAt pa) lenient ten

end Sys2Proof.Machine
end

