-- ==== Sys2Proof/Machine/Cache.lean ====
section
/-! DEFINITION. The cluster caches (R51, R59 to R62, R159): which lines of external memory a cove holds, how an access of a core
reads and stores through them, and how dirty lines are written back. Channels, the Hykiow port and inbound writes reach the
memory itself. -/

namespace Sys2Proof.Machine

/-- How an access reaches external memory: through the cove's cluster cache, past it, or from an agent that has none (R62, R159). -/
inductive Route where
  | cached
  | uncached
  | direct
deriving DecidableEq, Repr

/-- Where an access goes: its virtual and its physical address, the policy for Unwritten words, how it reaches external memory, and
whether its entry makes it a device access (R159). -/
structure Place where
  va : Nat
  pa : Nat
  lenient : Bool
  route : Route
  dev : Bool
deriving DecidableEq, Repr

/-- The place of the second word of a doubleword. -/
def Place.next (p : Place) : Place := { p with va := p.va + 4, pa := p.pa + 4 }

/-! ## Lines -/

/-- A line of 64 bytes. -/
abbrev CacheLine := Vector CacheWord 16

/-- The word of a line that holds an address. -/
def CacheLine.word_ (l : CacheLine) (pa : Nat) : CacheWord := l[pa / 4 % 16]'(Nat.mod_lt _ (by decide))

/-- Store a word with a tag into a line. -/
def CacheLine.put (l : CacheLine) (pa : Nat) (w : Word) (t : Tag) : CacheLine :=
  l.set (pa / 4 % 16) { w := w, tag := t, dirty := true } (Nat.mod_lt _ (by decide))

/-- A data store into a line, as `State.storeWord` stores into memory (R43, R44). -/
def CacheLine.storeWord (l : CacheLine) (pa : Nat) (w : Word) : CacheLine :=
  let m := l.word_ (matePa pa)
  let l1 := if (l.word_ pa).tag = .capability && m.tag = .capability then l.put (matePa pa) m.w .written else l
  l1.put pa w .written

/-- The line that a cove holds at an address, if it holds it. -/
def State.lineAt (s : State) (n pa : Nat) : Option CacheLine := cellsFind (s.cove n).cache.cells (pa / 64)

/-- Put a line of a cove. -/
def State.putLine (s : State) (n pa : Nat) (l : CacheLine) : State :=
  s.setCove n { s.cove n with cache := (s.cove n).cache.put (pa / 64) l }

/-- A line leaves a cove's cache. -/
def State.dropLine (s : State) (n pa : Nat) : State :=
  s.setCove n { s.cove n with cache := ⟨cellsErase (s.cove n).cache.cells (pa / 64)⟩ }

/-! ## Write-back -/

/-- Write back the doublewords of a line from one on: those with a dirty word, or all of them. -/
def State.writePairs (s : State) (pa : Nat) (l : CacheLine) (all : Bool) : Nat → State
  | 0 => s
  | n + 1 =>
    let a := pa + 8 * (7 - n)
    let x := l.word_ a
    let y := l.word_ (a + 4)
    let s1 := if (all || x.dirty) && (all || y.dirty) then s.putPair a x.w y.w x.tag y.tag
      else if x.dirty then s.putWord a x.w x.tag
      else if y.dirty then s.putWord (a + 4) y.w y.tag
      else s
    s1.writePairs pa l all n

/-- Write a line back if it is dirty: its dirty words, or the whole line (log entry 45). While domain 44 is gated it is lost (R305). -/
def State.writeLine (s : State) (pa : Nat) (l : CacheLine) : State :=
  if !l.toList.any (·.dirty) then s
  else if !s.extUp then s.detect (0x018 + memChannel pa) 2
  else
    let (d, s1) := s.drawBelow 2
    s1.writePairs pa l (decide (d = 1)) 8

/-- A line clean again. -/
def CacheLine.clean (l : CacheLine) : CacheLine := l.map fun x => { x with dirty := false }

/-- Write back the dirty lines of a list, by line number. -/
def State.writeLines (s : State) : List (Nat × CacheLine) → State
  | [] => s
  | (j, l) :: r => (s.writeLine (64 * j) l).writeLines r

/-- A cove's cluster cache writes back its dirty lines and keeps them (R306). -/
def State.cacheClean (s : State) (n : Nat) : State :=
  let s1 := s.writeLines (s.cove n).cache.cells
  s1.setCove n { s1.cove n with cache := ⟨(s1.cove n).cache.cells.map fun e => (e.1, CacheLine.clean e.2)⟩ }

/-- A cove's cluster cache writes back its dirty lines and is invalidated (R59, R305). -/
def State.cacheFlush (s : State) (n : Nat) : State :=
  let s1 := s.writeLines (s.cove n).cache.cells
  s1.setCove n { s1.cove n with cache := Tbl.empty }

/-- The line of an address is written back and invalidated before an access past the cache (R61; log entry 45). -/
def State.settleLine (s : State) (n pa : Nat) : State :=
  match s.lineAt n pa with
  | some l => (s.writeLine (pa / 64 * 64) l).dropLine n pa
  | none => s

/-- A line is filled: one that the cache holds may make room for it, and one must where 8,192 are held (R59; log entry 45). -/
def State.makeRoom (s : State) (n : Nat) : State :=
  let held := (s.cove n).cache.cells
  let full := decide (8192 ≤ held.length)
  let (d, s1) := s.drawBelow (if full then held.length else held.length + 1)
  match held[d]? with
  | some (j, l) => (s1.writeLine (64 * j) l).dropLine n (64 * j)
  | none => s1

/-- Check the beats of a line from one on, as its fill reads them (R51). -/
def State.checkBeats (s : State) (pa : Nat) : Nat → State
  | 0 => s
  | n + 1 => (s.checkWord pa false).checkBeats (pa + 8) n

/-- The line of an address in a cove's cache, filled from memory where it is not there. -/
def State.fetchLine (s : State) (n pa : Nat) : CacheLine × State :=
  match s.lineAt n pa with
  | some l => (l, s)
  | none =>
    let a := pa / 64 * 64
    let s1 := (s.makeRoom n).checkBeats a 8
    let l : CacheLine := Vector.ofFn fun i => { w := s1.wordAt (a + 4 * i.val), tag := s1.tagAt (a + 4 * i.val), dirty := false }
    (l, s1.putLine n pa l)

/-! ## Accesses of a core -/

/-- An access goes through the cluster cache: only external memory is cached (R39, R159). -/
def Place.viaCache (p : Place) : Bool := decide (p.route = .cached) && decide (region p.pa = .ext)

/-- A cached access of a cove finds its line. -/
def State.cacheHit (s : State) (n : Nat) (p : Place) : Bool := p.viaCache && (s.lineAt n p.pa).isSome

/-- Before an access of a cove past its cache: the line of external memory that it holds leaves it, so that the cove stays coherent
(R61, R62). -/
def State.pastCache (s : State) (n : Nat) (p : Place) : State :=
  if p.route = .direct ∨ region p.pa ≠ .ext then s else s.settleLine n p.pa

/-- The word at a place with its tag, as an access of a cove finds it. -/
def State.peek (s : State) (n : Nat) (p : Place) : (Word × Tag) × State :=
  let a := p.pa / 4 * 4
  if p.viaCache then
    let (l, s1) := s.fetchLine n a
    (((l.word_ a).w, (l.word_ a).tag), s1)
  else
    let s1 := (s.pastCache n p).checkWord a false
    ((s1.wordAt a, s1.tagAt a), s1)

/-- A change of the line at a place, which is filled first. -/
def State.modLine (s : State) (n : Nat) (p : Place) (f : CacheLine → CacheLine) : State :=
  let (l, s1) := s.fetchLine n p.pa
  s1.putLine n p.pa (f l)

/-- A data store of a cove at a place that holds tags (R43, R44). -/
def State.memStore (s : State) (n : Nat) (p : Place) (w : Word) : State :=
  if p.viaCache then s.modLine n p fun l => l.storeWord p.pa w else (s.pastCache n p).storeWord p.pa w

/-- A capability store of a cove at a place that holds tags (R43). -/
def State.memCap (s : State) (n : Nat) (p : Place) (c : Cap) : State :=
  let t := if c.tag then Tag.capability else Tag.written
  if p.viaCache then s.modLine n p fun l => (l.put p.pa c.w0 t).put (p.pa + 4) c.w1 t else (s.pastCache n p).storeCap p.pa c

/-- A doubleword becomes Unwritten (R43, R46). -/
def State.memUnwrite (s : State) (n : Nat) (p : Place) : State :=
  if p.viaCache then
    s.modLine n p fun l => (l.put p.pa (l.word_ p.pa).w .unwritten).put (p.pa + 4) (l.word_ (p.pa + 4)).w .unwritten
  else
    let s1 := s.pastCache n p
    s1.putPair p.pa (s1.wordAt p.pa) (s1.wordAt (p.pa + 4)) .unwritten .unwritten

/-- A load of a core at a place that holds tags: the word and its tag, or the fault. -/
def State.memLoad (s : State) (n : Nat) (p : Place) (ten : TenantId) : Except Nat (Word × Tag) × State :=
  let ((w, t), s1) := s.peek n p
  match s1.judgeTag w t p.lenient ten with
  | (.ok v, s2) => (.ok (v, t), s2)
  | (.error e, s2) => (.error e, s2)

end Sys2Proof.Machine
end

