-- ==== Sys2Proof/Machine/Operands.lean ====
section
/-! DEFINITION. Forming data addresses: the three addressing modes (R76, R78), and step 1 of R55. -/

namespace Sys2Proof.Machine

/-- The mode of a capability register in ADDRMODE: 0 segment, 1 modulo, 2 bit-reversed, 3 reserved (R76). -/
def modeOf (am : BitVec 24) (n : Fin 8) : Nat := (am.toNat >>> (2 * n.val)) % 4

/-- The bit-reversal width of c4 or c5 (R76). -/
def brWidth (am : BitVec 24) (n : Fin 8) : Nat := if n = 4 then (am.toNat >>> 16) % 16 else (am.toNat >>> 20) % 16

/-- The low w bits of a number, reversed. -/
def revBits : Nat → Nat → Nat
  | 0, _ => 0
  | w + 1, x => (x % 2) * 2 ^ w + revBits w (x / 2)

/-- What an access asks of its capability (R55 step 1c): a load or a store, of data or of a capability. -/
structure AccessKind where
  load : Bool
  store : Bool
  cap : Bool
deriving DecidableEq, Repr

/-- The rights that an access lacks: kind, then L, S, LC, SC and the G rule (R18, R20, R55 step 1c). `v` is the
capability that a capability store writes. -/
def rightsOk (c : Cap) (k : AccessKind) (v : Option Cap) : Bool :=
  !c.rX && !c.isSpace && (!k.load || c.rL) && (!k.load || !k.cap || c.rLC) && (!k.store || c.rS)
    && (match v with
        | some x => !x.tag || (c.rSC && (x.rG || !c.rG))
        | none => true)

/-- Steps 1a to 1c of R55. -/
def capCheck (c : Cap) (k : AccessKind) (v : Option Cap) : Except Nat Unit :=
  if !c.tag then .error fCAP_TAG
  else if c.sealed then .error fCAP_SEALED
  else if !rightsOk c k v then .error fCAP_RIGHTS
  else .ok ()

/-- The address that a mode forms from cursor and displacement, before the checks of steps 1e and 1f; none where a
modulo step leaves the ring (R78). -/
def modeAddress (am : BitVec 24) (n : Fin 8) (c : Cap) (disp : Int) : Option Int :=
  let bd := decodeBounds c
  let cur : Int := c.w0.toNat
  match modeOf am n with
  | 0 => some (cur + disp)
  | 1 =>
    let len := bd.top - bd.base
    let o := cur - bd.base + disp
    let o1 := if len ≤ o then o - len else if o < 0 then o + len else o
    if o1 < 0 ∨ len ≤ o1 then none else some (bd.base + o1)
  | _ =>
    let w := brWidth am n
    let o := ((cur - bd.base) % 2 ^ 32).toNat
    some (bd.base + ((o / 2 ^ w * 2 ^ w + revBits w (o % 2 ^ w) : Nat) : Int) + disp)

/-- form_address of R78 with steps 1d to 1f of R55: the virtual address, or the fault with the address if one
was formed. -/
def formAddress (am : BitVec 24) (n : Fin 8) (c : Cap) (disp : Int) (size : Nat) : Except (Nat × Option Word) Nat :=
  let bd := decodeBounds c
  let m := modeOf am n
  if m = 3 ∨ (m = 2 ∧ n ≠ 4 ∧ n ≠ 5) then .error (fCAP_RIGHTS, none)
  else
    match modeAddress am n c disp with
    | none => .error (fCAP_BOUNDS, none)
    | some a =>
      if a < bd.base ∨ bd.top < a + (size : Nat) then .error (fCAP_BOUNDS, some (BitVec.ofInt 32 a))
      else if a % (size : Nat) ≠ 0 then .error (fALIGN, some (BitVec.ofInt 32 a))
      else .ok a.toNat

/-- An access at a capability's cursor plus an offset in segment mode, with steps 1a to 1f of R55: block instructions,
descriptors and tables (R110, R137, R146). -/
def plainAddress (c : Cap) (k : AccessKind) (v : Option Cap) (off : Int) (size : Nat) : Except (Nat × Option Word) Nat :=
  match capCheck c k v with
  | .error e => .error (e, none)
  | .ok _ => formAddress 0 0 c off size

end Sys2Proof.Machine
end

