-- ==== Sys2Proof/Machine/Evc.lean ====
section
/-! DEFINITION. The event controller (R224 to R239): fields of a source, selection, delivery, claim and done, the
urgent set and the wake latches. -/

namespace Sys2Proof.Machine

/-- The page index of the EVC (R333). -/
def evcPage : Nat := 0x010

/-- STATE of a source (R227). -/
def Source.stateWord (x : Source) : Word :=
  flagAt x.en 31 ||| flagAt x.pend 30 ||| flagAt x.urgent 29 ||| flagAt x.sat 28
    ||| at_ (match x.svc with | .idle => 0 | .delivered => 1 | .active => 2) 26
    ||| at_ x.last.toNat 16 ||| at_ x.count.toNat 0

/-- A field of a source as HLD reads it (R227): none where the field is not defined. Write-only fields read 0 (R6). -/
def Source.field (x : Source) (f : Nat) : Option Word :=
  match f with
  | 0 => some x.stateWord
  | 1 | 2 | 3 | 4 => some 0
  | 5 => some x.coal
  | 6 => some x.age
  | 7 => some x.mask[0]
  | 8 => some x.mask[1]
  | 9 => some x.mask[2]
  | 10 => some x.mask[3]
  | 11 => some x.bind
  | _ => none

/-- EN_SET: the source is enabled; a pending EN_CLR of an earlier EVC cycle is cancelled (R234). -/
def State.srcEnable (s : State) (i : Fin 2048) : State :=
  let x := s.source i
  s.setSource i { x with en := true, enClrAt := x.enClrAt.filter fun t => decide (s.evcCycle t = s.evcCycle s.now) }

/-- EN_CLR: it takes effect 6 EVC cycles after it reaches the EVC (R234). -/
def State.srcDisable (s : State) (i : Fin 2048) : State :=
  let x := s.source i
  s.setSource i { x with enClrAt := x.enClrAt ++ [s.now] }

/-- PEND_SET: one arrival, and pending at once (R226); a PEND_CLR of the same EVC cycle applies last (R239). -/
def State.srcPendSet (s : State) (i : Fin 2048) : State :=
  if (s.source i).pendClrAt.any (fun t => decide (s.evcCycle t = s.evcCycle s.now)) then s else
  let s1 := s.arrive i
  s1.setSource i { s1.source i with pend := true }

/-- PEND_CLR (R226). -/
def State.srcPendClr (s : State) (i : Fin 2048) : State :=
  s.setSource i { (s.source i).pendClr with pendClrAt := some s.now }

/-- A MASK write: set bits act at once and cancel a pending clear of the same bit from an earlier EVC cycle; cleared
bits take effect 6 EVC cycles later (R234). -/
def State.srcMask (s : State) (i : Fin 2048) (k : Fin 4) (v : Word) : State :=
  let x := s.source i
  let cur := x.mask[k]
  let gone := (bitsSet (cur &&& ~~~v)).map fun j => (s.now, 32 * k.val + j)
  let stays := x.maskClr.filter fun e =>
    !(decide (e.2 / 32 = k.val) && (bit v (e.2 % 32)) && decide (s.evcCycle e.1 ≠ s.evcCycle s.now))
  s.setSource i { x with mask := x.mask.set k (cur ||| v), maskClr := stays ++ gone }

/-- A BIND write: a change of OWNER disables the source, applies PEND_CLR, restores COAL and AGE, and advances the
generation (R227). -/
def State.srcBind (s : State) (i : Fin 2048) (v : Word) : State :=
  let x := s.source i
  let owner := fld v 27 16
  if fld x.bind 27 16 = owner then s
  else
    let x1 := { x.pendClr with en := false, enClrAt := [], coal := 0x01000000#32, age := 0x64#32, bind := at_ owner 16 }
    let s1 := s.setSource i x1
    s1.nextSrcGen i

/-- A write to a field of a source by a tenant (R227, R174): the state after it, or the fault code of the refusal. -/
def State.srcPut (s : State) (ten : TenantId) (i : Fin 2048) (f : Nat) (v : Word) : Except Nat State :=
  let on := bit v 0
  match f with
  | 0 => .error fCAP_RIGHTS
  | 1 => .ok (if on then s.srcEnable i else s)
  | 2 => .ok (if on then s.srcDisable i else s)
  | 3 => .ok (if on then s.srcPendSet i else s)
  | 4 => .ok (if on then s.srcPendClr i else s)
  | 5 => .ok (s.setSource i { s.source i with coal := v &&& 0xFFF8FFFF#32 })
  | 6 => if ten = 0 then .ok (s.setSource i { s.source i with age := v &&& 0xFFFF#32 }) else .error fCAP_RIGHTS
  | 7 => if ten = 0 then .ok (s.srcMask i 0 v) else .error fCAP_RIGHTS
  | 8 => if ten = 0 then .ok (s.srcMask i 1 v) else .error fCAP_RIGHTS
  | 9 => if ten = 0 then .ok (s.srcMask i 2 v) else .error fCAP_RIGHTS
  | 10 => if ten = 0 then .ok (s.srcMask i 3 v) else .error fCAP_RIGHTS
  | 11 => if ten = 0 then .ok (s.srcBind i v) else .error fCAP_RIGHTS
  | _ => .error fCAP_BOUNDS

/-- The EVC's check of a source's state: one that an injection makes uncorrectable becomes pending with COUNT 255 and SAT, so
that no arrival is lost; a single error is corrected (R342). -/
def State.checkSource (s : State) (i : Fin 2048) : State :=
  match s.takeInj evcPage 1 (fun w => decide (fld w 10 0 = i.val)) with
  | (some w, s1) =>
    if injKind w = 3 ∨ injKind w = 4 then
      (s1.setSource i { s1.source i with pend := true, count := 255#8, sat := true }).detect evcPage 1 true
    else s1
  | (none, s1) => s1

/-- A write to a field of a source, after which the EVC checks its state (R227, R342). -/
def State.srcWrite (s : State) (ten : TenantId) (i : Fin 2048) (f : Nat) (v : Word) : Except Nat State :=
  match s.srcPut ten i f v with
  | .ok t => .ok (t.checkSource i)
  | .error e => .error e

/-- A refused block write leaves the block as it was. -/
def orSame (s : State) (r : Except Nat State) : State :=
  match r with
  | .ok t => t
  | .error _ => s

/-! ## Selection and delivery (R231) -/

/-- A core's event slot is idle with H at 0, and the core is a leader that is neither lost, stopped, gated nor in a
copy, a rollback or a replay: all of an eligible target but the mask bit (R231). -/
def State.idleTarget (s : State) (k : Nat) : Bool :=
  let c := s.core k
  s.coreRuns k && decide ((c.slot 0).st = .sleeping) && decide ((c.slot 0).top = 0) && decide (c.served = none)
    && (match c.ctx 0 0 with
        | some x => !x.ts.h
        | none => false)

/-- The mask bit of a core in a source (R227). -/
def Source.targets (x : Source) (k : Nat) : Bool :=
  match x.mask.toList[k / 32]? with
  | some w => bit w (k % 32)
  | none => false

/-- The cores in the order of a source's search: after LAST, wrapping; from 0 before the first delivery (R231). -/
def Source.searchOrder (x : Source) : List Nat :=
  let start := if x.everDelivered then x.last.toNat + 1 else 0
  (List.range 128).map fun j => (start + j) % 128

/-- The target that a source takes: the first eligible core of its search that no other source took in this cycle. -/
def State.pickTarget (s : State) (x : Source) (taken : List Nat) : Option Nat :=
  x.searchOrder.find? fun k => x.targets k && s.idleTarget k && !taken.contains k

/-- Deliver a source to a core: DELIVERED, no longer pending, LAST names the core (R231). -/
def State.deliver (s : State) (i : Fin 2048) (k : Nat) : State :=
  let x := s.source i
  let s1 := s.setSource i { x with svc := .delivered, pend := false, last := BitVec.ofNat 7 k, everDelivered := true }
  s1.modCore k fun c => { c with
    served := some { src := i, dispatched := false, claimed := false, urgent := x.urgent, word := 0 } }

/-- One select stage over the sources in the order given (R231). -/
def State.selectFrom (s : State) (taken : List Nat) : List (Fin 2048) → State
  | [] => s
  | i :: r =>
    let x := s.source i
    if !x.selectable then s.selectFrom taken r
    else match s.pickTarget x taken with
      | some k => (s.deliver i k).selectFrom (k :: taken) r
      | none => s.selectFrom taken r

/-- The sources in the order of R231: the urgent set, oldest first, then every other, lower number first. -/
def State.selectOrder (s : State) : List (Fin 2048) :=
  s.evc.urgents ++ s.listedSources.filter fun i => !s.evc.urgents.contains i

/-- The end of a source's service at a core: it returns to IDLE (R232). A source that was never claimed keeps COUNT and
SAT and is pending again if COUNT is not 0 (R233). -/
def State.endService (s : State) (k : Nat) : State :=
  match (s.core k).served with
  | none => s
  | some v =>
    let x := s.source v.src
    let x1 := if v.claimed then { x with svc := .idle }
      else { x with svc := .idle, pend := x.pend || decide (x.count ≠ 0) }
    (s.setSource v.src x1).modCore k fun c => { c with served := none }

/-- A delivery whose target is no longer eligible before dispatch is withdrawn: IDLE and pending, without any record
(R231). -/
def State.withdraw (s : State) (k : Nat) : State :=
  match (s.core k).served with
  | some v =>
    if v.dispatched then s
    else
      let s1 := (s.setSource v.src { s.source v.src with svc := .idle, pend := true }).undertowSend 3 evcPort
      s1.modCore k fun c => { c with served := none }
  | none => s

/-- The target of an undispatched delivery is still eligible (R231); a mask bit cleared since the selection withdraws nothing (R234). -/
def State.stillTarget (s : State) (k : Nat) : Bool := (s.modCore k fun c => { c with served := none }).idleTarget k

/-- The arrivals of the present EVC cycle, which a claim counts after its snapshot (R239). -/
def State.freshNow (s : State) (x : Source) : Option Fresh := x.fresh.filter fun f => decide (s.evcCycle f.tick = s.evcCycle s.now)

/-- A read of EVC_CLAIM by slot 0 of the group: the first takes COUNT and SAT and makes the source ACTIVE (R232); what has arrived in
the same EVC cycle is counted after it (R239). -/
def State.claim (s : State) (k : Nat) : Word × State :=
  match (s.core k).served with
  | none => (0, s)
  | some v =>
    if v.claimed then (v.word, s)
    else
      let x := s.source v.src
      let (count, sat, n) := match s.freshNow x with
        | some f => (f.count, f.sat, f.n)
        | none => (x.count, x.sat, 0)
      let w := flagAt true 31 ||| flagAt v.urgent 30 ||| flagAt sat 29 ||| at_ count.toNat 16 ||| at_ v.src.val 0
      let s0 := s.setSource v.src { x with count := 0, sat := false, coalAt := none, fresh := none, svc := .active }
      let s1 := (List.range n).foldl (fun t _ => t.arrive v.src) s0
      (w, s1.modCore k fun c => { c with served := some { v with claimed := true, word := w } })

/-- A write of EVC_DONE by slot 0 of the group: an ACTIVE source returns to IDLE (R232). -/
def State.done (s : State) (k : Nat) : State :=
  match (s.core k).served with
  | some v => if v.claimed then s.endService k else s
  | none => s

/-- The requester of an event page's register is slot 0 of the page's core or of its group (R232). -/
def State.isEventSlot (s : State) (who : Agent) (k : Nat) : Bool :=
  decide (who.slot = 0) && decide (s.leaderOf who.core = k) && s.isLeader k

/-! ## The commands -/

/-- A source that something raises: of those up to 127 all but the ones of R333, of 192 to 511 the ones that R280 and R283 assign. -/
def raisedSource (n : Nat) : Bool :=
  if n < 128 then !([83, 86, 87].contains n || (decide (90 ≤ n) && decide (n ≤ 95)) || decide (97 ≤ n))
  else if n < 192 ∨ 512 ≤ n then true
  else if n < 224 then decide (n % 8 ≠ 7)
  else if n < 272 then decide (n % 8 < 4)
  else if n < 288 then decide (n % 4 < 2)
  else if n < 312 then decide (n ≤ 305) || decide (n = 307)
  else decide (n ≤ 385)

/-- An arrival at a source from its raiser (R226); a source without one is never raised (R283, R333). -/
def execEventArrival (src : Fin 2048) (at_ : Nat) (s : State) : Host.Outcome State Fault Refusal :=
  let s1 := s.advance at_
  .next (if raisedSource src then (s1.raise src).checkSource src else s1)

/-- The coalescing time has elapsed since the first arrival that found COUNT at 0 (R228): TIME in µs, or in units of
256 ripples of a tide, which stands still while the tide is HELD, SAFE or OFF. -/
def Source.coalElapsed (x : Source) (s : State) : Bool :=
  match x.coalAt with
  | none => false
  | some (t0, coal, ph) =>
    let n := fld coal 15 0
    if n = 0 then false
    else if bit coal 23 then
      !(s.tide (fld coal 22 19)).still && decide ((n * 256 : Int) ≤ pdiff (s.tideWord (fld coal 22 19)) ph)
    else decide (n * ticksPerUs ≤ s.now - t0)

/-- The coalescing timer of a source runs out, and the source becomes pending (R226, R228). -/
def execCoalesceTimeout (src : Fin 2048) (at_ : Nat) (s : State) : Host.Outcome State Fault Refusal :=
  let s1 := s.advance at_
  let x := s1.source src
  if x.coalElapsed s1 then .next (s1.setSource src { x with pend := true, coalAt := none }) else .next s1

/-- The select stage of one cycle (R231). -/
def execEvcSelect (at_ : Nat) (s : State) : Host.Outcome State Fault Refusal :=
  let s1 := s.advance at_
  .next (if s1.phase = .run then s1.selectFrom [] s1.selectOrder else s1)

/-- A source enters the urgent set when it has been selectable for longer than its AGE limit and has a live target
(R235). -/
def execUrgentEntry (src : Fin 2048) (at_ : Nat) (s : State) : Host.Outcome State Fault Refusal :=
  let s1 := s.advance at_
  let x := s1.source src
  let age := fld x.age 15 0
  let due := match x.selAt with
    | some t => decide (age ≠ 0) && decide (age * ticksPerUs < s1.now - t) && x.waited.isNone
    | none => false
  if x.selectable && due && !x.urgent && s1.liveTarget x then
    let s2 := { s1 with evc := { s1.evc with urgents := s1.evc.urgents ++ [src], urgCnt := satInc s1.evc.urgCnt } }
    .next (s2.setSource src { x with urgent := true })
  else .next s1

/-- EN_SET through the source's handle (R227). -/
def execEnSet (ten : TenantId) (src : Fin 2048) (at_ : Nat) (s : State) : Host.Outcome State Fault Refusal :=
  let s1 := s.advance at_
  .next (orSame s1 (s1.srcWrite ten src 1 1))

/-- EN_CLR through the source's handle (R227, R234). -/
def execEnClr (ten : TenantId) (src : Fin 2048) (at_ : Nat) (s : State) : Host.Outcome State Fault Refusal :=
  let s1 := s.advance at_
  .next (orSame s1 (s1.srcWrite ten src 2 1))

/-- A pending EN_CLR, and pending clears of target bits, take effect 6 EVC cycles after they reached the EVC (R234). -/
def execEnClrEffect (src : Fin 2048) (at_ : Nat) (s : State) : Host.Outcome State Fault Refusal :=
  let s1 := s.advance at_
  let x := s1.source src
  let due := fun t => decide (t + 6 * s1.evcTicks ≤ s1.now)
  let x1 := if x.enClrAt.any due then { x with en := false, enClrAt := x.enClrAt.filter fun t => !due t } else x
  let gone := x1.maskClr.filter fun e => due e.1
  let x2 := { x1 with
    mask := Vector.ofFn fun k => gone.foldl (fun w e => if e.2 / 32 = k.val then clearBits w (bitMask (e.2 % 32)) else w) x1.mask[k]
    maskClr := x1.maskClr.filter fun e => !due e.1 }
  .next (s1.setSource src x2)

/-- PEND_SET through the source's handle (R226). -/
def execPendSet (ten : TenantId) (src : Fin 2048) (at_ : Nat) (s : State) : Host.Outcome State Fault Refusal :=
  let s1 := s.advance at_
  .next (orSame s1 (s1.srcWrite ten src 3 1))

/-- PEND_CLR through the source's handle (R226). -/
def execPendClr (ten : TenantId) (src : Fin 2048) (s : State) : Host.Outcome State Fault Refusal :=
  .next (orSame s (s.srcWrite ten src 4 1))

/-- A write to a source's BIND: Headland only (R227). -/
def execEvcBindWrite (ten : TenantId) (src : Fin 2048) (v : Word) (s : State) : Host.Outcome State Fault Refusal :=
  .next (orSame s (s.srcWrite ten src 11 v))

/-- A write to a source's MASKk: Headland only (R227, R234). -/
def execMaskWrite (ten : TenantId) (src : Fin 2048) (k : Fin 4) (v : Word) (at_ : Nat) (s : State) :
    Host.Outcome State Fault Refusal :=
  let s1 := s.advance at_
  .next (orSame s1 (s1.srcWrite ten src (7 + k.val) v))

/-- A source number made of a word of ENABLE or PENDING and a bit (R229). -/
def srcOf (k : Fin 64) (j : Nat) : Fin 2048 := ⟨(32 * k.val + j) % 2048, Nat.mod_lt _ (by decide)⟩

/-- The SET operation of ENABLE (EN_SET) or PENDING (PEND_SET) on a source (R230). -/
def State.aliasSet (s : State) (pending : Bool) (i : Fin 2048) : State := if pending then s.srcPendSet i else s.srcEnable i

/-- The CLR operation of ENABLE (EN_CLR) or PENDING (PEND_CLR) on a source (R230). -/
def State.aliasClr (s : State) (pending : Bool) (i : Fin 2048) : State := if pending then s.srcPendClr i else s.srcDisable i

/-- A direct write to ENABLEk or PENDINGk: SET for every 1 and CLR for every 0 (R230). -/
def State.evcDirect (s : State) (pending : Bool) (k : Fin 64) (v : Word) : State :=
  (List.range 32).foldl (fun t j => if bit v j then t.aliasSet pending (srcOf k j) else t.aliasClr pending (srcOf k j)) s

/-- A write to a set or clear alias of ENABLEk or PENDINGk (R230). -/
def State.evcAlias (s : State) (pending set : Bool) (k : Fin 64) (v : Word) : State :=
  (bitsSet v).foldl (fun t j => if set then t.aliasSet pending (srcOf k j) else t.aliasClr pending (srcOf k j)) s

/-- A write to a page's block range by its owner, else refused and counted by detector 0 (R332); a waiting injection
of detector 0 makes the next write refused (R342). -/
def State.ifOwner (s : State) (who : Agent) (page : Nat) (f : State → State) : State :=
  match s.takeInj page 0 (fun _ => true) with
  | (some _, s1) => s1.detect page 0 true
  | (none, s1) => if (s1.frame page).owner = who.ten then f s1 else s1.detect page 0

/-- A write that its chapter reserves to TENANT.CUR 0, whoever owns the page; else refused and counted (R332). -/
def State.ifHeadland (s : State) (who : Agent) (page : Nat) (f : State → State) : State :=
  match s.takeInj page 0 (fun _ => true) with
  | (some _, s1) => s1.detect page 0 true
  | (none, s1) => if who.ten = 0 then f s1 else s1.detect page 0

/-- A direct write to ENABLEk or PENDINGk of the EVC page (R230). -/
def execEnablePendingDirectWrite (who : Agent) (pending : Bool) (k : Fin 64) (v : Word) (at_ : Nat) (s : State) :
    Host.Outcome State Fault Refusal :=
  .next ((s.advance at_).ifOwner who evcPage fun t => t.evcDirect pending k v)

/-- A write to an alias of ENABLEk or PENDINGk of the EVC page (R230). -/
def execEnablePendingAliasWrite (who : Agent) (pending set : Bool) (k : Fin 64) (v : Word) (at_ : Nat) (s : State) :
    Host.Outcome State Fault Refusal :=
  .next ((s.advance at_).ifOwner who evcPage fun t => t.evcAlias pending set k v)

/-- A read of EVC_CLAIM on a core's event page (R232). -/
def execEvcClaimRead (who : Agent) (page : Fin 128) (s : State) : Host.Outcome State Fault Refusal :=
  .next (if s.isEventSlot who page then (s.claim page).2 else s)

/-- A write of EVC_DONE on a core's event page (R232); a page that is not a leader's ignores it (R126). -/
def execEvcDoneWrite (who : Agent) (page : Fin 128) (s : State) : Host.Outcome State Fault Refusal :=
  .next (if s.isLeader page then s.ifOwner who (eventPage page) fun t => if t.isEventSlot who page then t.done page else t else s)

/-- A wake latch catches the first edge while the EVC's clocks are stopped (R236). -/
def State.latchCatch (s : State) (k : Fin 64) : State :=
  if s.phase = .standby ∧ s.evc.wakeEn.getLsbD k then
    { s with evc := { s.evc with wakeLatch := s.evc.wakeLatch ||| (1#64 <<< k.val) } }
  else s

/-- A wake latch catches an edge (R236). -/
def execWakeLatchCatch (k : Fin 64) (s : State) : Host.Outcome State Fault Refusal := .next (s.latchCatch k)

/-- A write of 1s to WAKE_LATCH0 or WAKE_LATCH1 clears latches (R229). -/
def State.latchClear (s : State) (hi : Bool) (v : Word) : State :=
  let m := v.setWidth 64 <<< (if hi then 32 else 0)
  { s with evc := { s.evc with wakeLatch := s.evc.wakeLatch &&& ~~~m } }

/-- A W1C write to a wake latch register of the EVC page (R229, R236). -/
def execWakeLatchClear (who : Agent) (hi : Bool) (v : Word) (s : State) : Host.Outcome State Fault Refusal :=
  .next (s.ifOwner who evcPage fun t => t.latchClear hi v)

/-- A change of level on ball WE(k div 4)_P(k mod 4): an arrival at source 128 + k while clocks run, a latch while they are stopped
(R236, R307). -/
def State.ballEdge (s : State) (k : Nat) : State :=
  if s.phase = .standby then s.latchCatch ⟨k % 64, Nat.mod_lt _ (by decide)⟩ else s.raiseN (128 + k % 64)

/-- An edge on a wake-capable ball: an arrival while clocks run, a latch while they are stopped (R236, R307). -/
def execWakeBallEdge (k : Fin 64) (at_ : Nat) (s : State) : Host.Outcome State Fault Refusal :=
  .next ((s.advance at_).ballEdge k)

/-- The slot whose word step of a block instruction holds the issue stage: the one that issued in the last cycle (R130). -/
def Core.stepHolder (c : Core) : Option (Fin 8) :=
  slots8.find? fun sl => decide ((c.slot sl).spent ≠ 0) && c.arch.banks.toList.any fun b => match b with
    | some v => decide (v.slot = sl ∧ v.level = (c.slot sl).top ∧ v.used + 1 = c.cyc)
    | none => false

/-- Cycle 4 of R130: the event slot belongs to the handler, whose first instruction issues 3 cycles later from the vector buffer, or
when that has been reloaded (R131). The block instruction whose word step holds the issue stage is abandoned (R110). -/
def Core.dispatchEvent (c : Core) : Core :=
  let c0 := match c.stepHolder with
    | some sl => c.abandon sl
    | none => c
  let c1 := { c0 with firstIssue := some (c.cyc + 3) }
  c1.setSlot 0 { c1.slot 0 with st := .active, wait := .none, buf := if c1.vvalid then c1.vbuf else [] }

/-- Dispatch of a selected delivery to the event slot: the handler's first instruction issues 3 cycles later, and the
group logs an EVENT record; a delivery whose target is no longer eligible is withdrawn (R130, R231, R238). -/
def execEventDispatch (core : Fin 128) (s : State) : Host.Outcome State Fault Refusal :=
  match (s.core core).served with
  | none => .next s
  | some v =>
    if v.dispatched then .next s
    else if s.stillTarget core then
      let s1 := s.logInput core (.event v.src (s.core core).tm.pos)
      .next (s1.modCore core fun c => { c.dispatchEvent with served := some { v with dispatched := true } })
    else .next (s.withdraw core)

end Sys2Proof.Machine
end

