-- ==== Sys2Proof/Machine/ChurnOps.lean ====
section
/-! DEFINITION. Churn channels: cells and caps (R249), refusals (R252), fields and writes (R251), translation and memory
access (R253, R254), starts and stops (R256 to R258), and modulator windows (R195), whose close follows a channel's
writes. -/

namespace Sys2Proof.Machine

/-- The page index of the Churn (R333). -/
def churnPage : Nat := 0x008

/-! ## Cells (R249) -/

/-- TYPE of a channel. -/
def Channel.ty (c : Channel) : Nat := fld c.cbind 31 28

/-- OWNER of a channel. -/
def Channel.owner (c : Channel) : TenantId := BitVec.ofNat 12 (fld c.cbind 27 16)

/-- ENDPOINT of a channel. -/
def Channel.endpoint (c : Channel) : Nat := fld c.cbind 11 0

/-- Cells that a number of words take (log entry 18). -/
def cellsFor (words : Nat) : Nat := (4 * words + 511) / 512

/-- The words that a channel's cells hold. -/
def Channel.heldWords (c : Channel) : Nat := (c.queue.map fun r => r.words.length).sum + c.out.length

/-- The cells that a channel holds (R251). -/
def Channel.held (c : Channel) : Nat := cellsFor c.heldWords

/-- The shared cells that a channel holds beyond its reserve of 8 (R249). -/
def Channel.sharedHeld (c : Channel) : Nat := c.held - 8

/-- The channels that hold state other than their reset values. -/
def State.listedChannels (s : State) : List (Nat × Channel) := s.channels.cells

/-- TUSE: the shared cells that a tenant's channels hold together (R249). -/
def State.tuse (s : State) (t : TenantId) : Nat :=
  ((s.listedChannels.filter fun e => decide (e.2.owner = t)).map fun e => e.2.sharedHeld).sum

/-- The shared cells held device-wide. -/
def State.sharedUsed (s : State) : Nat := (s.listedChannels.map fun e => e.2.sharedHeld).sum

/-- CH_FREE: the shared cells that are free (R250). -/
def State.sharedFree (s : State) : Nat := 12288 - s.churn.plain.toNat - s.sharedUsed

/-- TCAP of a tenant (R250). -/
def State.tcapOf (s : State) (t : TenantId) : Nat := (s.churn.tcap.get (fun _ => 0) t.toNat).toNat

/-- The channel may hold so many words more (R249). -/
def State.canHold (s : State) (ch words : Nat) : Bool :=
  let c := s.channel ch
  let need := cellsFor (c.heldWords + words) - 8
  let more := need - c.sharedHeld
  decide (more = 0) || (decide (more ≤ s.sharedFree) && decide (s.tuse c.owner + more ≤ s.tcapOf c.owner))

/-- The most words, up to a limit, that the channel may hold more. -/
def State.canTake (s : State) (ch : Nat) : Nat → Nat
  | 0 => 0
  | n + 1 => if s.canHold ch (n + 1) then n + 1 else s.canTake ch n

/-- The event source of a channel (R256). -/
def chSource (ch : Nat) : Nat := 1536 + ch

/-! ## Refusals and deposits (R252) -/

/-- A drop or a NAK: counted in CDROP, and the event at the first one since CDROP was read, where EVDROP is set. -/
def State.countDrop (s : State) (ch : Nat) : State :=
  let c := s.channel ch
  let s1 := s.setChannel ch { c with drops := satInc c.drops, dropArmed := false }
  if bit c.cctrl 0 && c.dropArmed then s1.raiseN (chSource ch) else s1

/-- A receive channel that takes data: RUN, WAITSTART, or FAULT while it holds what it has (log entry 19). -/
def Channel.takes (c : Channel) : Bool := decide (c.st = .run) || decide (c.st = .waitStart) || decide (c.st = .fault)

/-- A record's first words, and what is left of it: its poisoned words are its last. -/
def Record.split (r : Record) (k : Nat) : Record × Record :=
  ({ r with words := r.words.take k, poisoned := k - (r.words.length - r.poisoned) },
   { r with words := r.words.drop k, poisoned := min r.poisoned (r.words.length - k) })

/-- The words that an interface still holds back of a record (R252). -/
def Channel.streamed (c : Channel) : Nat :=
  match c.stream with
  | some q => q.words.length
  | none => 0

/-- Put a record into a receive channel: whether it was taken, and the state (R249, R252). A refused record is counted except in RX.HOLD,
whose interface withholds credit; there a record larger than all the cells that the channel may hold enters as they drain. -/
def State.deposit (s : State) (ch : Nat) (r : Record) : Bool × State :=
  let c := s.channel ch
  let n := r.words.length
  if c.takes && c.stream.isNone && s.canHold ch n then
    (true, s.setChannel ch { c with queue := c.queue ++ [r], exh := false })
  else if c.takes && c.stream.isNone && decide (c.ty = 5) && decide (c.queue = []) then
    let (a, b) := r.split (s.canTake ch n)
    (true, s.setChannel ch { c with queue := [a], stream := some b, exh := true, need := 1 })
  else
    let s1 := s.setChannel ch { c with exh := c.takes, need := n }
    (false, if c.ty = 5 then s1 else s1.countDrop ch)

/-- EXH: the channel is refusing data for lack of cells (R251). -/
def State.chExh (s : State) (ch : Nat) : Bool :=
  let c := s.channel ch
  c.exh && c.takes && (c.stream.isSome || !s.canHold ch c.need)

/-- The lowest-numbered channel of a type that names an endpoint (R273, R283). -/
def State.channelFor (s : State) (ty ep : Nat) : Option Nat :=
  (s.listedChannels.find? fun e => decide (e.2.ty = ty) && decide (e.2.endpoint = ep)).map (·.1)

/-- Deposit a record at an endpoint; an endpoint that no channel names takes nothing. -/
def State.depositAt (s : State) (ty ep : Nat) (r : Record) : Bool × State :=
  match s.channelFor ty ep with
  | some ch => s.deposit ch r
  | none => (false, s)

/-! ## Translation and memory (R253, R254) -/

/-- Words of a translation entry. -/
def cxeWords (v : Vector Word 4) : EntryWords := { w0 := v[0], w1 := v[1], w2 := v[2], w3 := v[3] }

/-- Translate a word address of a channel: steps 2a to 3 and 5 of R55 against CXE0, then CXE1. -/
def State.chTranslate (s : State) (ch va : Nat) (load store : Bool) : Except Nat (Nat × Bool) :=
  let c := s.channel ch
  let pick := if (cxeWords c.cxe0).hits c.owner va then some (cxeWords c.cxe0)
    else if (cxeWords c.cxe1).hits c.owner va then some (cxeWords c.cxe1) else none
  match pick with
  | none => .error fTLB_MISS
  | some e =>
    match e.permit load store with
    | .error f => .error f
    | .ok _ =>
      let pa := e.pa va
      if s.foreignPrivate none pa then .error fBUS_ERROR
      else if s.taggedTarget pa then .ok (pa, e.lenient)
      else if region pa = .bootRom ∧ !store then .ok (pa, e.lenient)
      else .error fBUS_ERROR

/-- Read a word for a channel; `strict` for a descriptor (R254). -/
def State.chRead (s : State) (ch va : Nat) (strict : Bool) : Except Nat Word × State :=
  match s.chTranslate ch va true false with
  | .error f => (.error f, s)
  | .ok (pa, len) =>
    if s.awaited none pa then (.error notYet, s)
    else if region pa = .bootRom then (.ok (Config.bootRom ((pa - 0xE300000000) / 4)), s)
    else s.readTagged pa (len && !strict) (s.channel ch).owner

/-- A channel's write that its entries send into a group's private region is counted by the cove's detector (R208). -/
def State.chForeign (s : State) (ch va : Nat) : State :=
  let c := s.channel ch
  let pick := if (cxeWords c.cxe0).hits c.owner va then some (cxeWords c.cxe0)
    else if (cxeWords c.cxe1).hits c.owner va then some (cxeWords c.cxe1) else none
  match pick with
  | none => s
  | some e =>
    match e.permit false true, region (e.pa va) with
    | .ok _, .sram n => if s.foreignPrivate none (e.pa va) then s.detect (covePage n) 3 else s
    | _, _ => s

/-- Write a word for a channel: Written, or Poisoned where its data arrived so (R43, R290). -/
def State.chWrite (s : State) (ch va : Nat) (w : Word) (poisoned : Bool) : Except Nat Unit × State :=
  match s.chTranslate ch va false true with
  | .error f => (.error f, s.chForeign ch va)
  | .ok (pa, _) =>
    if s.awaited none pa then (.error notYet, s)
    else
      let s1 := s.storeWord pa w
      (.ok (), if poisoned then s1.putTag pa .poisoned else s1)

/-- Read n consecutive words for a channel: those before the first failure, the failure, and the state. -/
def State.chReads (s : State) (ch : Nat) (strict : Bool) : Nat → Nat → List Word × Option Nat × State
  | _, 0 => ([], none, s)
  | va, n + 1 =>
    match s.chRead ch va strict with
    | (.error f, s1) => ([], some f, s1)
    | (.ok w, s1) =>
      let (r, f, s2) := s1.chReads ch strict (va + 4) n
      (w :: r, f, s2)

/-- Write consecutive words for a channel, each with whether it is poisoned: how many were written, the failure, and
the state. -/
def State.chWrites (s : State) (ch : Nat) : Nat → List (Word × Bool) → Nat × Option Nat × State
  | _, [] => (0, none, s)
  | va, (w, p) :: r =>
    match s.chWrite ch va w p with
    | (.error f, s1) => (0, some f, s1)
    | (.ok _, s1) =>
      let (n, f, s2) := s1.chWrites ch (va + 4) r
      (n + 1, f, s2)

/-! ## Rings (R251, R254) -/

/-- RSZ: log2 of the ring's descriptors; 0 is read as 1. -/
def Channel.rsz (c : Channel) : Nat := max (fld c.cctrl 27 24) 1

/-- The virtual address of the descriptor at HEAD. -/
def Channel.descAddr (c : Channel) : Nat := c.ring.toNat + 32 * (c.head.toNat % 2 ^ c.rsz)

/-- The number of posted descriptors. -/
def Channel.posted (c : Channel) : Nat := (c.tail - c.head).toNat

/-- Write DONE and STAT of the descriptor at HEAD; a word that cannot be written is left as it was. -/
def State.writeBack (s : State) (ch done : Nat) (stat : Word) : State :=
  let a := (s.channel ch).descAddr
  (s.chWrites ch (a + 0x18) [(word done, false), (stat, false)]).2.2

/-- A failed descriptor: DONE and CODE written, FAULT, and the channel's event (R254). An access that waits for a replay has not failed
(R213): the channel goes on with it later. -/
def State.chFault (s : State) (ch code : Nat) : State :=
  let c := s.channel ch
  if notYet ≤ code then s else
  let s1 := s.writeBack ch c.done (at_ code 0)
  let c1 := s1.channel ch
  (s1.setChannel ch { c1 with st := .fault, code := BitVec.ofNat 6 code, desc := none }).raiseN (chSource ch)

/-- The end of a channel's processing by a cleared EN or a STOP: DONE and STOPPED of a descriptor in progress are
written back, the data in cells stay (R258). -/
def State.chHalt (s : State) (ch : Nat) : State :=
  let c := s.channel ch
  let s1 := if c.desc.isSome then s.writeBack ch c.done (flagAt true 30) else s
  let c1 := s1.channel ch
  s1.setChannel ch { c1 with st := .stopped, desc := none, cctrl := clearBits c1.cctrl 0x80000000#32 }

/-- STOP of CH_CMD: it acts as the clearing of EN; a STALE channel becomes STOPPED without other change (R250, R257). -/
def State.chStop (s : State) (ch : Nat) : State :=
  let c := s.channel ch
  if c.st = .stale then s.setChannel ch { c with st := .stopped } else s.chHalt ch

/-- FLUSH: the channel stops, its data are discarded and its cells freed; a STALE channel's other fields are reset
(R250, R257). What a transmit descriptor had read is gone, so it starts afresh (log entry 21). -/
def State.chFlush (s : State) (ch : Nat) : State :=
  let c := s.channel ch
  if c.st = .stale then s.setChannel ch { Channel.reset with cbind := c.cbind }
  else
    let s1 := s.chHalt ch
    let c1 := s1.channel ch
    s1.setChannel ch { c1 with
      queue := [], out := [], stream := none, taken := [], done := if c1.ty = 2 then 0 else c1.done, moved := false, exh := false }

/-- A channel whose OWNER or TYPE changes or whose owner retires: cells freed, every other field at reset, the
generation advanced; nothing is written back (R36, R251, R258). -/
def State.chRebind (s : State) (ch : Nat) (cbind : Word) : State :=
  (s.setChannel ch { Channel.reset with cbind := cbind }).nextChGen ch

/-- RETIRE of an owner: the channel stops, its cells are freed and its generation advances; its fields stay (R36). -/
def State.chRetire (s : State) (ch : Nat) : State :=
  let c := s.channel ch
  (s.setChannel ch { c with st := .stopped, desc := none, cctrl := clearBits c.cctrl 0x80000000#32, queue := [], out := [], begun := false,
                            stream := none, taken := [], moved := false, done := 0, exh := false }).nextChGen ch

/-- A channel becomes STALE: no cell, no data, the other fields kept (R257). -/
def Channel.toStale (c : Channel) : Channel :=
  { c with st := .stale, queue := [], out := [], stream := none, taken := [], begun := false, desc := none, done := 0, moved := false, cut := false, startWaiting := false,
           exh := false }

/-- A start of a channel: a write to START, or a CHURN action (R256 to R258). -/
def State.chStart (s : State) (ch : Nat) : State :=
  let c := s.channel ch
  let lost := match c.st with
    | .stale => true
    | .stopped | .fault => c.startWaiting
    | .run | .waitStart => c.startWaiting || decide (c.posted = 0)
  s.setChannel ch (if lost then { c with miss := true } else { c with startWaiting := true })

/-! ## Fields (R251) -/

/-- CSTAT. -/
def Channel.cstat (c : Channel) (exh : Bool) : Word :=
  at_ (match c.st with | .stopped => 0 | .run => 1 | .waitStart => 2 | .fault => 3 | .stale => 4) 29
    ||| flagAt c.miss 28 ||| flagAt exh 27 ||| at_ c.code.toNat 0

/-- A field of a channel as HLD reads it: none where it is not defined. -/
def Channel.field (c : Channel) (exh : Bool) (f : Nat) : Option Word :=
  match f with
  | 0 => some c.cbind
  | 1 => some c.cctrl
  | 2 => some (c.cstat exh)
  | 3 => some c.ring
  | 4 => some (at_ c.tail.toNat 0)
  | 5 => some (at_ c.head.toNat 0)
  | 6 => some (at_ c.held 0 ||| at_ c.sharedHeld 16)
  | 7 => some c.drops
  | 8 | 9 | 10 | 11 => c.cxe0.toList[f - 8]?
  | 12 | 13 | 14 | 15 => c.cxe1.toList[f - 12]?
  | 16 => some 0
  | _ => none

/-- A read of a field: CDROP clears and re-arms EVDROP's event (R251). -/
def State.chReadField (s : State) (ch f : Nat) : Option Word × State :=
  let c := s.channel ch
  (c.field (s.chExh ch) f, if f = 7 then s.setChannel ch { c with drops := 0, dropArmed := true } else s)

/-- The types that an endpoint serves (R273, R283). -/
def endpointTypes (ep : Nat) : List Nat :=
  if ep < 0x060 then (if ep % 16 < 8 then [3] else if ep % 16 < 12 then [2] else [])
  else if 0x080 ≤ ep ∧ ep < 0x090 then (if ep % 4 = 0 then [3] else if ep % 4 < 3 then [2] else [])
  else if 0x0A0 ≤ ep ∧ ep < 0x0B0 then (if ep % 2 = 0 then [3] else [2])
  else if 0x100 ≤ ep ∧ ep < 0x110 then (if ep < 0x108 then [5] else [2])
  else if ep = 0x120 then [5]
  else if ep = 0x121 then [2]
  else if 0x130 ≤ ep ∧ ep < 0x138 then (if ep % 2 = 0 then [5] else [2])
  else if 0x400 ≤ ep ∧ ep < 0x480 then [2, 4]
  else []

/-- A CBIND value is refused: an undefined TYPE, or an endpoint that serves another type (R252, R283). OFF, M2M and
SAMPLE use no endpoint. -/
def cbindBad (v : Word) : Bool :=
  let ty := fld v 31 28
  decide (6 < ty) || (decide (2 ≤ ty) && decide (ty ≤ 5) && !(endpointTypes (fld v 11 0)).contains ty)

/-- A CCTRL write (R251, R254, R256 to R258): STALE is left only with EN set, to RUN; a cleared EN halts a channel; EN continues a
descriptor that was begun, and with GATED any other waits for a start. -/
def State.chCtrl (s : State) (ch : Nat) (v : Word) : State :=
  let v := v &&& 0xCF000001#32
  let c := s.channel ch
  if bit v 31 then
    let st := if bit v 30 && !c.begun && decide (c.st ≠ .stale) then ChState.waitStart else .run
    s.setChannel ch { c with cctrl := v, miss := false, st := st, code := if c.st = .fault then 0 else c.code }
  else
    let s1 := if c.st = .stale ∨ c.st = .stopped then s else s.chHalt ch
    s1.setChannel ch { s1.channel ch with cctrl := v, miss := false }

/-- A write of word 2 of a translation entry: normalised with TID as OWNER, G 0, A and D 1; refused outside the
owner's allotment (R253). -/
def State.cxeWord2 (s : State) (c : Channel) (e : Vector Word 4) (v : Word) : Except Nat (Vector Word 4) :=
  let n := normEntry 0 { w0 := e[0], w1 := e[1], w2 := v, w3 := e[3] }
  let w2 := withFld (clearBits n.w2 0x40000000#32 ||| 0xC0#32) 23 12 c.owner.toNat
  if bit w2 31 && !s.inAllot c.owner (n.w1.toNat * 256) (2 ^ normSize w2) then .error fCAP_BOUNDS
  else .ok #v[n.w0, n.w1, w2, e[3]]

/-- A write of a word of a translation entry. -/
def State.cxeWrite (s : State) (ch : Nat) (second : Bool) (w : Fin 4) (v : Word) : Except Nat State :=
  let c := s.channel ch
  let e := if second then c.cxe1 else c.cxe0
  let put := fun (x : Vector Word 4) => s.setChannel ch (if second then { c with cxe1 := x } else { c with cxe0 := x })
  if w = 2 then
    match s.cxeWord2 c e v with
    | .error f => .error f
    | .ok x => .ok (put x)
  else .ok (put (e.set w (if w = 0 then v &&& 0xFFFFFF00#32 else v)))

/-- A TAIL write: posting more than the ring holds is refused; a STALE channel's TAIL may also be withdrawn (R251,
R257). -/
def State.chTail (s : State) (ch : Nat) (v : Word) : Except Nat State :=
  let c := s.channel ch
  let t : BitVec 12 := v.setWidth 12
  let fits := if c.st = .stale ∧ (t - c.head).toNat ≤ c.posted then true
    else decide (c.posted + (t - c.tail).toNat ≤ 2 ^ c.rsz)
  if fits then .ok (s.setChannel ch { c with tail := t }) else .error fCAP_BOUNDS

/-- A write to a field of a channel by a tenant (R174, R251): the state after it, or the fault code of the refusal. -/
def State.chWriteField (s : State) (ten : TenantId) (ch f : Nat) (v : Word) : Except Nat State :=
  let c := s.channel ch
  let own := fun (r : Except Nat State) => if ten = 0 ∨ c.owner = ten then r else .error fCAP_RIGHTS
  match f with
  | 0 =>
    if cbindBad v then .error fCAP_BOUNDS
    else if ten ≠ 0 then .error fCAP_RIGHTS
    else
      let v' := v &&& 0xFFFF0FFF#32
      if fld v' 31 16 = fld c.cbind 31 16 then .ok (s.setChannel ch { c with cbind := v' }) else .ok (s.chRebind ch v')
  | 1 => if 13 ≤ fld v 27 24 then .error fCAP_BOUNDS else own (.ok (s.chCtrl ch v))
  | 2 | 5 | 6 | 7 => .error fCAP_RIGHTS
  | 3 => if fld v 4 0 ≠ 0 then .error fCAP_BOUNDS else own (.ok (s.setChannel ch { c with ring := v }))
  | 4 => own (s.chTail ch v)
  | 8 => own (s.cxeWrite ch false 0 v)
  | 9 => own (s.cxeWrite ch false 1 v)
  | 10 => own (s.cxeWrite ch false 2 v)
  | 11 => own (s.cxeWrite ch false 3 v)
  | 12 => own (s.cxeWrite ch true 0 v)
  | 13 => own (s.cxeWrite ch true 1 v)
  | 14 => own (s.cxeWrite ch true 2 v)
  | 15 => own (s.cxeWrite ch true 3 v)
  | 16 => own (.ok (if bit v 0 then s.chStart ch else s))
  | _ => .error fCAP_BOUNDS

/-! ## Invalidations (R255) -/

/-- An entry of a channel after an invalidation. -/
def cxeInvalidate (v : Vector Word 4) : Vector Word 4 := v.set 2 (clearBits v[2] 0x80000000#32)

/-- TLBI at the Churn: form 1 VA, 2 T, 3 ALL. -/
def State.churnTlbi (s : State) (form : Nat) (ten : TenantId) (va : Nat) : State :=
  { s with channels := ⟨s.channels.cells.map fun e =>
      let c := e.2
      let kill := fun (x : Vector Word 4) => if (cxeWords x).named form ten va false then cxeInvalidate x else x
      if form = 3 ∨ c.owner = ten then (e.1, { c with cxe0 := kill c.cxe0, cxe1 := kill c.cxe1 }) else e⟩ }

/-! ## Modulator windows (R195) -/

/-- EN of MCFG (R193). -/
def ModInput.en (m : ModInput) : Bool := bit m.mcfg 31

/-- An input whose window no longer keeps a window of n samples open: not enabled, without a clock, or done. -/
def ModInput.windowDone (m : ModInput) (n : Nat) : Bool := !m.en || m.clkLost || (decide (n ≠ 0) && decide (n ≤ m.deposited))

/-- The inputs of a range. -/
def modRange (first last : Nat) : List Nat := (List.range 32).filter fun i => decide (first ≤ i) && decide (i ≤ last)

/-- Close every window whose inputs have all deposited, raising its event (R195). -/
def State.windowCheck (s : State) : State :=
  let done := fun (w : Window) => decide (w.n ≠ 0) && w.inputs.all fun i => (s.mod i).windowDone w.n
  (s.windows.filter done).foldl (fun t w =>
      let t1 := w.inputs.foldl (fun u i => u.setMod i { u.mod i with window := none }) t
      match w.src with
      | some n => t1.raiseN n
      | none => t1)
    { s with windows := s.windows.filter fun w => !done w }

/-- An input's sample of a window has been deposited, or was refused and counts toward N (R195); one of an earlier window counts no
more. -/
def State.sampleDone (s : State) (i epoch : Nat) : State :=
  let m := s.mod i
  if m.epoch = epoch then (s.setMod i { m with deposited := m.deposited + 1 }).windowCheck else s

/-! ## Input records of a link (R266) -/

/-- The event sources of a link (R280): 0 CYCLE, 1 JOINED, 2 LEFT, 3 VIOL, 4 QUAR, 5 DOWN, 6 DUP. -/
def linkSource (l k : Nat) : Nat := 192 + 8 * l + k

/-- An input record of a link's cycle still waits in a channel's cells. -/
def State.inputsWait (s : State) (l : Nat) (cyc : Word) : Bool :=
  s.listedChannels.any fun e => e.2.queue.any fun r => decide (r.cycle = some (l, cyc))

/-- CYCLE is raised for each closed cycle of a link whose input records have all been written (R266). -/
def State.linkWritten (s : State) (l : Nat) : State :=
  let x := s.link l
  let done := x.owed.filter fun c => !s.inputsWait l c
  done.foldl (fun t _ => t.raiseN (linkSource l 0)) (s.setLink l { x with owed := x.owed.filter fun c => s.inputsWait l c })

/-- A record has been written: an input of a link may have been its cycle's last. -/
def State.inputDone (s : State) (r : Record) : State :=
  match r.cycle with
  | some (l, _) => s.linkWritten l
  | none => s

end Sys2Proof.Machine
end

