-- ==== Sys2Proof/Machine/TideOps.lean ====
section
/-! DEFINITION. Tides (R175 to R181): fields, the tracker, slack water and fall-back, the PTP clocks that tides follow
(R286), the tick at which a prediction reaches a phase, and waits on a tide (R182). -/

namespace Sys2Proof.Machine

/-- The page index of the Tide Table (R333). -/
def tidePage : Nat := 0x011

/-- One turn in 2^-16 ripple. -/
def turnQ : Int := 2 ^ 40

/-- a / b for b above 0, rounded down or up where it is inexact (log entry 6). -/
def rdiv (a b : Int) : Int :=
  if a % b = 0 then a / b else if Config.roundUp a b then floorDiv a b + 1 else floorDiv a b

/-- The nearest integer to a / b for b above 0, a half rounded up. -/
def nearest (a b : Int) : Int := floorDiv (2 * a + b) (2 * b)

/-! ## Rates and times -/

/-- EDGES of a tide: 0 is read as 1 (R175). -/
def Tide.edges (t : Tide) : Nat := max (fld t.tsrc 15 0) 1

/-- The ticks of one turn at the rate w, or of TLEN where the rate is zero, as a fraction (R178). -/
def Tide.turnTicks (t : Tide) : Nat × Nat := if t.w ≤ 0 then (9 * t.tlen.toNat, 5) else (2 ^ 56, t.w.toNat)

/-- PERIOD: the turn at the current rate in units of 0.25 ns (R175). -/
def State.tidePeriod (s : State) (i : Nat) : Word :=
  let (n, d) := s.tideRate i
  if n ≤ 0 then 0xFFFFFFFF#32
  else
    let v := rdiv (2 ^ 56 * 5 * d) (9 * n)
    if 0xFFFFFFFF ≤ v then 0xFFFFFFFF#32 else BitVec.ofInt 32 v

/-- Close the present stretch at a tick: the phase is kept, the correction ends, and the stretch joins the history that
stamps of past ticks need. -/
def keepSegs (limit : Nat) : List TideSeg → List TideSeg
  | [] => []
  | g :: r => if g.t0 ≤ limit then [g] else g :: keepSegs limit r

/-- The tide's history with its present stretch added, kept for 100 ms (log entry 23). -/
def Tide.history (t : Tide) (now : Nat) : List TideSeg := keepSegs (now - 720000000) (t.seg :: t.segs)

/-- A tide whose prediction goes on from its phase at a tick, with no correction. -/
def State.rebased (s : State) (i now : Nat) : Tide :=
  let t := s.tide i
  { t with segs := t.history now, p := rdiv (s.phaseAt i now) (2 ^ 16), t0 := now, k := 0, iv := 0 }

/-! ## The PTP clocks (R286) -/

/-- The number of the 4 ns clock at a tick. -/
def ptpClock (now : Nat) : Nat := now * 10 / 288

/-- The time of a port's clock in units of 2^-28 ns. -/
def Eth.ptpTime (e : Eth) (now : Nat) : Nat := (e.ptpNs + (ptpClock now - e.ptpAt) * e.ptpInc.toNat) % (2 ^ 48 * 10 ^ 9 * 2 ^ 28)

/-- A port's clock in whole nanoseconds. -/
def Eth.ptpWhole (e : Eth) (now : Nat) : Nat := e.ptpTime now / 2 ^ 28

/-! ## Measurements (R176) -/

/-- The phase of the PTP measurement of a tide: TOFS + (port time mod TLEN) / TLEN, in 2^-16 ripple. -/
def State.ptpPhase (s : State) (t : Tide) : Int :=
  let len : Int := (max t.tlen.toNat 1 * 2 ^ 26 : Nat)
  (fld t.tofs 23 0 : Int) * 2 ^ 16 + rdiv ((((s.eth (fld t.tsrc 27 24)).ptpTime s.now : Nat) : Int) % len * 2 ^ 40) len

/-- The candidate of a whole-turn measurement nearest to a prediction. -/
def nearestTurn (f pr : Int) : Int := f + nearest (pr - f) turnQ * turnQ

/-- The phase of count k of a comparator or encoder, in 2^-16 ripple. -/
def Tide.countPhase (t : Tide) (k : Int) : Int :=
  (if t.kind = 1 then (fld t.tofs 23 0 : Int) * 2 ^ 16 else 0) + rdiv (k * turnQ) t.edges

/-- An input's level counts once it has been stable for 8 × 2^FILT ticks (R175). -/
def Tide.stable (t : Tide) (since now : Nat) : Bool := decide (since + 8 * 2 ^ fld t.tsrc 23 20 ≤ now)

/-- A vector held below 2^120, whose direction is that of a longer one. -/
def shorten (x y : Int) : Int × Int :=
  let m := max x.natAbs y.natAbs
  if m < 2 ^ 120 then (x, y) else (floorDiv x (2 ^ (Nat.log2 m - 119)), floorDiv y (2 ^ (Nat.log2 m - 119)))

/-- The first n binary digits of the angle of a vector in turns, from 0 up to 1: twice the angle is that of the square. -/
def turnBits : Nat → Int → Int → Nat
  | 0, _, _ => 0
  | n + 1, x, y =>
    let half := decide (y < 0) || (decide (y = 0) && decide (x < 0))
    let v := shorten (x * x - y * y) (2 * x * y)
    (if half then 2 ^ n else 0) + turnBits n v.1 v.2

/-- atan2 of a sample pair in 2^-16 ripple: the last unit is free where the angle is not exact, and so is the angle of no vector
(R176, log entry 136). -/
def State.atan2 (s : State) (y x : Int) : Nat × State :=
  if x = 0 ∧ y = 0 then s.drawBelow (2 ^ 40)
  else
    let (b, s1) := s.drawBelow 2
    ((turnBits 40 x y + (if x = 0 ∨ y = 0 then 0 else b)) % 2 ^ 40, s1)

/-- The group delay of an input's filter in tide ticks: 3 (DECIM − 1) / 2 periods of its clock, which it drives, or whose mean period
over the last sample it measures (R194, log entry 25). -/
def ModInput.delay (m : ModInput) (lastAt : Nat) (tick : Nat) : Nat :=
  let decim := fld m.mcfg 15 7
  if bit m.mcfg 30 then 3 * (decim - 1) * (tick - lastAt) / (2 * max decim 1)
  else 12 * (decim - 1) * (max (fld m.mcfg 23 16) 44 + 1)

/-- The count whose phase is nearest to a prediction. -/
def Tide.nearestCount (t : Tide) (pr : Int) : Int :=
  nearest ((pr - t.countPhase 0) * t.edges) turnQ

/-- The measurement that the tracker takes for the count: counted on while ACQUIRING, else the count nearest to the
prediction (log entry 17). -/
def Tide.unwrapCount (t : Tide) (pr : Int) : Int :=
  if t.st = .acquiring ∧ t.measured ∧ !t.ret then t.count else t.nearestCount pr

/-! ## The tracker (R177) -/

/-- LOCK_TOL in 2^-16 ripple. -/
def Tide.tol (t : Tide) : Int := (fld t.tlim 15 0 : Int) * 2 ^ 20

/-- The magnitude of an integer as an integer. -/
def mag (x : Int) : Int := if x < 0 then -x else x

/-- x held between -l and l. -/
def clampAbs (x l : Int) : Int := if x < -l then -l else if l < x then l else x

/-- A LOCKED tide rejects a measurement: it counts, and the third in a row loses the lock. -/
def Tide.reject (t : Tide) : Tide :=
  let t1 := { t with rejects := t.rejects + 1, rejected := satInc16 t.rejected }
  if t1.rejects = 3 then { t1 with st := .acquiring, good := 0, losses := satInc16 t1.losses } else t1

/-- The rate after a used measurement: the slewed correction while LOCKED, else the two-point rate; never negative. -/
def Tide.newRate (t : Tide) (m e : Int) (dt : Nat) : Int :=
  if t.st = .locked then
    let dw := rdiv (e * 2 ^ 16) (2 ^ fld t.tgain 3 0 * dt)
    let lim := rdiv ((fld t.tlim 31 16 : Int) * t.w * t.w * dt) (2 ^ 72)
    max (t.w + clampAbs dw lim) 0
  else max (rdiv ((m - t.mp) * 2 ^ 16) dt) 0

/-- The lock state after a used measurement. TCNT counts a loss of lock where the tracker leaves LOCKED (log entry 134). -/
def Tide.judge (t : Tide) (e : Int) : Tide :=
  let t1 := if mag e ≤ t.tol then { t with good := t.good + 1, bad := 0 } else { t with good := 0, bad := t.bad + 1 }
  if t1.st = .acquiring ∧ 4 ≤ t1.good then { t1 with st := .locked, safeHold := false }
  else if t1.st = .locked ∧ 2 ≤ t1.bad then { t1 with st := .acquiring, losses := satInc16 t1.losses }
  else t1

/-- The tracker on a measurement m at tick te, the prediction there being pr. -/
def Tide.track (t : Tide) (pr m : Int) (te : Nat) : Tide :=
  let e := m - pr
  if t.st = .locked ∧ 8 * t.tol < mag e then { t.reject with err := e }
  else
    let dt := max (te - t.tm) 1
    let w := t.newRate m e dt
    let k := max (rdiv (e * 2 ^ 16) (2 ^ fld t.tgain 7 4 * dt)) (rdiv (-w) 2)
    let t1 := { t with rejects := 0, err := e, segs := t.history te, w := w, iv := dt, k := k, p := pr, t0 := te, mp := m, tm := te }
    t1.judge e

/-- The first measurement after EN: it sets the phase (R177). -/
def Tide.first (t : Tide) (m : Int) (te : Nat) : Tide :=
  { t with segs := t.history te, p := m, t0 := te, w := 0, k := 0, iv := 0, mp := m, tm := te, err := 0, good := 0,
           bad := 0, rejects := 0, measured := true }

/-- A measurement that is a return: ACQUIRING, phase and rate kept (R179). -/
def Tide.back_ (t : Tide) (pr m : Int) (te : Nat) : Tide :=
  let w := if t.st = .held ∨ t.st = .safe then 0 else t.w
  { t with segs := t.history te, st := .acquiring, err := m - pr, p := pr, t0 := te, mp := m, tm := te, k := 0, iv := 0,
           w := w, good := 0, bad := 0, rejects := 0, ret := false, measured := true }

/-- SLACK, SWITCHED, HELD and SAFE: a measurement there is a return (R179). -/
def Tide.adrift (t : Tide) : Bool := t.st = .slack || t.st = .switched || t.st = .held || t.st = .safe

/-- The rate at which a tide runs, as its own w: that of ALT while SWITCHED, zero while still. -/
def Tide.rateNow (t : Tide) : Int := rdiv t.rate.1 t.rate.2

/-- Turns spent in slack water so far. -/
def State.slackTurnsNow (s : State) (i : Nat) : Nat :=
  let t := s.tide i
  if t.st = .slack then min (floorDiv (s.tidePhase i - t.slackAt) (2 ^ 56)).toNat 255 else t.slackTurns

/-- The tracker of a tide. -/
def Tide.tracker (t : Tide) : Tracker :=
  { st := t.st, err := t.err, losses := t.losses, rejected := t.rejected, t0 := t.t0, w := t.w, k := t.k, iv := t.iv, mp := t.mp
    tm := t.tm, measured := t.measured, ret := t.ret, good := t.good, bad := t.bad, rejects := t.rejects }

/-- A tide with an earlier tracker, whose correction and phase go on from the prediction pr at a tick. -/
def Tide.withTracker (t : Tide) (b : Tracker) (pr : Int) (te : Nat) : Tide :=
  { t with
    st := b.st, err := b.err, losses := b.losses, rejected := b.rejected, w := b.w, k := b.k, iv := b.iv - (te - b.t0), mp := b.mp
    tm := b.tm, measured := b.measured, ret := b.ret, good := b.good, bad := b.bad, rejects := b.rejects
    p := pr, t0 := te, segs := t.history te }

/-- The 16 Tide Table cycles that a tick lies in (R176). -/
def measureWindow (te : Nat) : Nat := te / 128

/-- The tide that a measurement at a tick meets: the tracker as it stood before the 16 Tide Table cycles of an earlier one, which is
then not used (R176, log entry 24). -/
def State.candidate (s : State) (i te : Nat) : Tide :=
  let t := s.tide i
  match t.base with
  | some (w, b) => if w = measureWindow te then t.withTracker b (rdiv (s.phaseAt i te) (2 ^ 16)) te else t
  | none => t

/-- Use a measurement m at a tick (R176, R177, R179), with the mean interval of the last 8 (R178). -/
def State.useMeasure (s : State) (i : Nat) (m : Int) (te : Nat) : Tide :=
  let t := s.candidate i te
  let pr := rdiv (s.phaseAt i te) (2 ^ 16)
  let t1 := if t.adrift || t.ret then { t with w := t.rateNow, slackTurns := s.slackTurnsNow i }.back_ pr m te
    else if !t.measured then t.first m te
    else t.track pr m te
  { t1 with
    intervals := (if t.measured then (te - t.stamp) :: t.intervals else t.intervals).take 8
    stamp := te
    base := some (measureWindow te, t.tracker) }

/-! ## Events, waits and states -/

/-- Raise a tide's event (R178). -/
def State.tideEvent (s : State) (i : Nat) : State :=
  let t := s.tide i
  if bit t.tev 31 then s.raiseN (fld t.tev 10 0) else s

/-- A wait that has completed lets its thread go on (R182): a WAITING slot becomes ACTIVE, a parked one will. -/
def State.waitEnds (s : State) (k : Nat) (sl : Fin 8) : State :=
  (s.logInput k (.thread sl 1 none (s.core k).tm.pos)).modSlot k sl Slot.waitOver

/-- A tide entry's WAKE action reaches its slot, with its THREAD record (R186, R207). -/
def State.wakeInput (s : State) (k : Nat) (sl : Fin 8) : State :=
  (s.logInput k (.thread sl 0 none (s.core k).tm.pos)).wakeThread k sl

/-- A held WAKE action or wait completion reaches its slot (R306); a completion that the log has brought already is past. -/
def State.releaseWake (s : State) (w : HeldWake) : State :=
  if w.wait then
    match ((s.core w.core).slot w.slot).tideWait with
    | some t => if t.done then s.waitEnds w.core w.slot else s
    | none => s
  else s.wakeInput w.core w.slot

/-- A group takes inputs: it neither rolls back nor replays, copies or is gated, and the clocks run (R211, R212, R218, R305,
R306). -/
def State.takesInput (s : State) (k : Nat) : Bool :=
  let c := s.core k
  decide (s.phase ≠ .standby) && decide (c.tm.st ≠ .restore) && decide (c.tm.st ≠ .replay) && decide (c.tm.st ≠ .copy) && !c.gated

/-- A WAKE action or a wait completion is held for a group: one for each slot, later ones merged into it (R306). -/
def State.holdWake (s : State) (w : HeldWake) : State :=
  if s.heldWakes.contains w then s else { s with heldWakes := s.heldWakes ++ [w] }

/-- What was held for a group that has caught up reaches it (R211). -/
def State.releaseHeld (s : State) (k : Nat) : State :=
  if s.takesInput k then
    let mine := s.heldWakes.filter fun w => decide (w.core = k)
    mine.foldl (fun t w => t.releaseWake w) { s with heldWakes := s.heldWakes.filter fun w => decide (w.core ≠ k) }
  else s

/-- A change of state raises the tide's event, except from or to OFF and into ACQUIRING from elsewhere than LOCKED
(R178). -/
def stateEvent (old new : TideState) : Bool :=
  decide (old ≠ new) && (match new with
    | .off => false
    | .acquiring => decide (old = .locked)
    | _ => true)

/-- A wait on a tide that has completed keeps that until its thread is told (R182). -/
def Slot.tideDone (x : Slot) (i : Nat) : Slot :=
  match x.tideWait with
  | some w => if w.tide.val = i then { x with tideWait := some { w with done := true } } else x
  | none => x

/-- Every wait on a tide completes (R182). -/
def State.waitsDone (s : State) (i : Nat) : State :=
  { s with cores := ⟨s.cores.cells.map fun e =>
      (e.1, { e.2 with arch := { e.2.arch with slots := e.2.arch.slots.map fun x => x.tideDone i } })⟩ }

/-- Put a tide whose state may have changed: its event, the reference-loss detector on entry to slack water (R342), and
the completion of waits where it stands still. -/
def State.changeTide (s : State) (i : Nat) (t : Tide) : State :=
  let old := (s.tide i).st
  let s1 := s.setTide i t
  let s2 := if stateEvent old t.st then s1.tideEvent i else s1
  let s3 := if t.st = .slack ∧ old ≠ .slack then s2.detect tidePage 2 (decide (t.discardTo ≠ 0)) else s2
  if t.still && old ≠ t.st then s3.waitsDone i else s3

/-- A step of a tide's phase that is no advance, at its start from OFF and at its first measurement, leaves the coalescing timers that
follow it where they are (R228). -/
def State.shiftTimers (s : State) (i : Nat) (d : Word) : State :=
  if d = 0 then s
  else { s with sources := ⟨s.sources.cells.map fun e => (e.1, match e.2.coalAt with
    | some (t, coal, ph) =>
      if bit coal 23 && decide (fld coal 22 19 = i) then { e.2 with coalAt := some (t, coal, ph + d) } else e.2
    | none => e.2)⟩ }

/-- Silence has lasted for SILENCE expected intervals (R178). -/
def Tide.silent (t : Tide) (now : Nat) : Bool :=
  let n := max (fld t.tfall 31 24) 1
  let gone := now - t.seen
  match t.kind with
  | 1 | 2 =>
    let (a, b) := t.turnTicks
    decide (n * a ≤ gone * t.edges * b)
  | 5 => decide (n * ticksPerUs ≤ gone)
  | _ => decide (t.intervals ≠ []) && decide (n * t.intervals.sum ≤ gone * t.intervals.length)

/-- Entry to slack water (R178). -/
def State.enterSlack (s : State) (i : Nat) : State :=
  let t := s.rebased i s.now
  s.changeTide i { t with st := .slack, slackAt := s.tidePhase i, slackTurns := 0, back := false }

/-- The fall-back of a tide in slack water whose flywheel turns have run (R178). -/
def State.fallBack (s : State) (i : Nat) : State :=
  let t := { s.rebased i s.now with slackTurns := s.slackTurnsNow i }
  let alt := fld t.tfall 13 10
  let held := { t with st := TideState.held, w := 0 }
  match fld t.tfall 15 14 with
  | 0 => s
  | 1 => if alt = i ∨ (s.tide alt).st = .off then s.changeTide i held
    else s.changeTide i { t with st := .switched, w := (s.tide alt).seg.w, altLen := (s.tide alt).seg.len }
  | 2 => s.changeTide i held
  | _ => s.changeTide i { t with st := .safe, w := 0, safeHold := true }

/-! ## The tick at which a prediction reaches a phase (R185, R188) -/

/-- a / b rounded up, for b above 0. -/
def ceilDiv (a b : Int) : Int := -(floorDiv (-a) b)

/-- The first tick from t on at which a stretch has reached a phase, if it ever does. -/
def TideSeg.reach (g : TideSeg) (t : Nat) (q : Int) : Option Nat :=
  if q ≤ g.phase t then some t
  else match g.len with
    | some l => some (max t (g.t0 + (ceilDiv ((q - g.p * 2 ^ 16) * (9 * (max l.toNat 1 : Nat))) (5 * 2 ^ 56)).toNat))
    | none =>
      let need := q - g.p * 2 ^ 16
      let early := if 0 < g.w + g.k then some (ceilDiv need (g.w + g.k)) else none
      match early with
      | some d => if d ≤ g.iv then some (max t (g.t0 + d.toNat))
          else if 0 < g.w then some (max t (g.t0 + max (g.iv + 1) (ceilDiv (need - g.k * g.iv) g.w).toNat)) else none
      | none => if 0 < g.w then some (max t (g.t0 + max (g.iv + 1) (ceilDiv (need - g.k * g.iv) g.w).toNat)) else none

/-- How far ahead of the prediction a phase word lies, in 2^-32 ripple (R81). -/
def State.aheadQ (s : State) (i : Nat) (target : Word) : Int :=
  let q := s.tidePhase i
  pdiff target (phaseWord q) * 2 ^ 32 - q % 2 ^ 32

/-- The tick at which a tide reaches a phase word. -/
def State.reachTick (s : State) (i : Nat) (target : Word) : Option Nat :=
  (s.tide i).seg.reach s.now (s.tidePhase i + s.aheadQ i target)

/-- The prediction has reached a phase word: PDIFF(now, T) is not negative (R182, R185). -/
def State.reached (s : State) (i : Nat) (target : Word) : Bool := decide (0 ≤ pdiff (s.tideWord i) target)

/-- A tide that fires entries: it moves, and its first measurement has come (R180, R185). -/
def State.tideMoves (s : State) (i : Nat) : Bool :=
  let t := s.tide i
  !t.still && (decide (t.kind = 0) || t.measured)

/-! ## Fields (R175) -/

/-- The state's code in TSTATE. -/
def TideState.code : TideState → Nat
  | .off => 0
  | .acquiring => 1
  | .locked => 2
  | .slack => 3
  | .switched => 4
  | .held => 5
  | .safe => 6

/-- ERR of TSTATE: the last residual in units of 16 ripples, signed, saturating. -/
def Tide.errField (t : Tide) : Nat :=
  let v := rdiv t.err (2 ^ 20)
  (BitVec.ofInt 16 (max (-32768) (min 32767 v))).toNat

/-- TSTATE. -/
def State.tstate (s : State) (i : Nat) : Word :=
  let t := s.tide i
  at_ t.errField 16 ||| at_ (s.slackTurnsNow i) 8 ||| flagAt t.back 3 ||| at_ t.st.code 0

/-- PNOW of a tide: 0x8000_0000 while it is OFF (R96, R180). -/
def State.pnow (s : State) (i : Nat) : Word := if (s.tide i).st = .off then 0x80000000#32 else s.tideWord i

/-- A field of a tide as SLD reads it; TCNT clears (R175). PHASE and PERIOD of a tide that is OFF are what R180 and their own rows
give, also right after reset (log entry 135). -/
def State.tideRead (s : State) (i f : Nat) : Option Word × State :=
  let t := s.tide i
  match f with
  | 0 => (some t.tsrc, s)
  | 1 => (some t.tlen, s)
  | 2 => (some t.tlim, s)
  | 3 => (some t.tgain, s)
  | 4 => (some t.tfall, s)
  | 5 => (some t.tofs, s)
  | 6 => (some t.tev, s)
  | 8 => (some (s.pnow i), s)
  | 9 => (some (s.tidePeriod i), s)
  | 10 => (some (s.tstate i), s)
  | 11 => (some (at_ t.losses.toNat 16 ||| at_ t.rejected.toNat 0), s.setTide i { t with losses := 0, rejected := 0 })
  | _ => (none, s)

/-- The units that a KIND has (R175). -/
def unitLimit (kind : Nat) : Nat :=
  match kind with
  | 1 => 4
  | 2 => 8
  | 5 => 6
  | _ => 16

/-- A TSRC value is refused: KIND 6 or 7, or a UNIT that the kind does not have. -/
def tsrcBad (v : Word) : Bool := decide (5 < fld v 30 28) || decide (unitLimit (fld v 30 28) ≤ fld v 27 24)

/-- A TSRC write (R176, R177, R179, R180): EN set starts the tide; a write while EN is 1 keeps phase and rate. Until its
first measurement the prediction of a newly enabled tide with a measured source is not given (log entry 22). -/
def State.tsrcPut (s : State) (i : Nat) (v : Word) : State :=
  let v := v &&& 0xFFF1FFFF#32
  let was := (s.tide i).en
  let t := { s.rebased i s.now with
    w := (s.tide i).rateNow, tsrc := v, back := false, seen := s.now, intervals := [], discardTo := 0, base := none
    slackTurns := s.slackTurnsNow i }
  if !bit v 31 then
    s.changeTide i { t with st := .off, w := 0, measured := false, ret := false }
  else if fld v 30 28 = 0 then
    let t1 := if was then t else { t with p := (fld t.tofs 23 0 : Int) * 2 ^ 16 }
    s.changeTide i { t1 with st := .locked, safeHold := false, measured := true, ret := false, w := 0 }
  else if was then
    s.changeTide i { t with st := .acquiring, ret := true, good := 0, bad := 0, rejects := 0 }
  else
    let (d, s1) := s.drawWord
    s1.changeTide i { t with st := .acquiring, p := d.toInt * 2 ^ 16, w := 0, measured := false, ret := false, good := 0,
                             bad := 0, rejects := 0, count := 0 }

/-- A TSRC write, across which the coalescing timers keep what they have measured (R228). -/
def State.tsrcStep (s : State) (i : Nat) (v : Word) : State :=
  let t := s.tsrcPut i v
  t.shiftTimers i (t.tideWord i - s.tideWord i)

/-- A write to a field of a tide (R174, R175): the state, or the fault code of the refusal. Every field is Headland's. -/
def State.tideWrite (s : State) (ten : TenantId) (i f : Nat) (v : Word) : Except Nat State :=
  let t := s.tide i
  let head := fun (r : State) => if ten = 0 then Except.ok r else Except.error fCAP_RIGHTS
  match f with
  | 0 => if tsrcBad v then .error fCAP_BOUNDS else head (s.tsrcStep i v)
  | 1 =>
    if v.toNat < 4000 ∨ 4000000000 < v.toNat then .error fCAP_BOUNDS
    else if t.en && decide (t.kind = 0) then head (s.setTide i { s.rebased i s.now with tlen := v })
    else head (s.setTide i { t with tlen := v })
  | 2 => head (s.setTide i { t with tlim := v })
  | 3 =>
    if fld v 7 4 < 1 ∨ 8 < fld v 7 4 ∨ fld v 3 0 < 4 then .error fCAP_BOUNDS
    else head (s.setTide i { t with tgain := v &&& 0xFF#32 })
  | 4 =>
    head (s.setTide i { t with tfall := v &&& 0xFFFFFC00#32 })
  | 5 => head (s.setTide i { t with tofs := v &&& 0xFFFFFF#32 })
  | 6 => head (s.setTide i { t with tev := v &&& 0x800007FF#32 })
  | 8 | 9 | 10 | 11 => .error fCAP_RIGHTS
  | _ => .error fCAP_BOUNDS

end Sys2Proof.Machine
end

