-- ==== Sys2Proof/Machine/OutputOps.lean ====
section
/-! DEFINITION. Tidal outputs (R190 to R192, R349): fields, the level a pin shows, and edges; the triggers of wave
engines (R198) and the windows of modulator inputs (R195), which entries act on. -/

namespace Sys2Proof.Machine

/-! ## The level of a pin -/

/-- OCFG.EN. -/
def Output.en (o : Output) : Bool := bit o.ocfg 31

/-- OWNER of an output. -/
def Output.owner (o : Output) : TenantId := BitVec.ofNat 12 (fld o.own 27 16)

/-- OWN: its bit 0 is kept over a reset of causes 2 to 5 until OWN is written (R190, R349). -/
def Output.ownWord (o : Output) : Word := if o.kept then o.own &&& 0xFFFFFFFE#32 ||| flagAt o.keptSafe 0 else o.own

/-- The SAFE level of an output: OWN[0], or the level kept over a reset until OWN is written (R349). -/
def Output.safeLevel (o : Output) : Bool := if o.kept then o.keptSafe else bit o.own 0

/-- Outputs n and n + 1, n even, are a complementary pair: PAIRED is 1 (R192). -/
def State.paired (s : State) (n : Nat) : Bool := decide (n % 2 = 0) && bit (s.output n).ocfg 30

/-- The outputs are held at SAFE as a whole: in reset, in the boot ROM, in an Ebb save and while the tide PLL has lost its
lock (R191, R310, R349). -/
def State.outputsHeld (s : State) : Bool :=
  s.board.tidePllLost || match s.phase with
  | .run | .standby => false
  | _ => true

/-- An output drives its SAFE level (R191). -/
def State.drivesSafe (s : State) (n : Nat) : Bool :=
  let o := s.output n
  let ten := (s.tenant o.owner.toNat).st
  !o.en || o.kept || decide (o.force = 3) || (bit o.own 8 && (s.tide (fld o.own 7 4)).safeHold)
    || (bit o.own 1 && decide (ten = .stopped)) || decide (ten = .retiring) || decide (ten = .free) || s.outputsHeld

/-- The level of an output by its own FORCE and entries. -/
def Output.ownFree (o : Output) : Bool :=
  if o.force = 1 then false else if o.force = 2 then true else o.level

/-- PAIRED of the pair that an output belongs to, or as it was kept over a reset (R349). -/
def State.pairedSafe (s : State) (e : Nat) : Bool :=
  let o := s.output e
  if o.kept then o.keptPaired else bit o.ocfg 30

/-- The SAFE level as an output drives it: those of a pair are not both driven high (R191, R192). -/
def State.safeDriven (s : State) (n : Nat) : Bool :=
  let e := n / 2 * 2
  (s.output n).safeLevel && !(s.pairedSafe e && (s.output e).safeLevel && (s.output (e + 1)).safeLevel)

/-- The level of a pair's even output before its dead time: SAFE, its force or its entries' level. -/
def State.evenLevel (s : State) (e : Nat) : Bool := if s.drivesSafe e then s.safeDriven e else (s.output e).ownFree

/-- The level that an output returns to outside SAFE: its force, the complement of what its pair's even output drives, or the
entries' level; within a pair's dead time the output about to turn on is still low (R191, R192). -/
def State.freeLevel (s : State) (n : Nat) : Bool :=
  let o := s.output n
  let e := n / 2 * 2
  if s.paired e then
    let dead := decide (s.now < (s.output e).turnOn)
    if n = e then o.ownFree && !dead
    else if o.force = 1 then false else if o.force = 2 then true
    else !s.evenLevel e && !dead
  else o.ownFree

/-- What EXTEST or CLAMP drives at an output's ball: what the boundary register was loaded with, in reset only (R295, log entry 34). -/
def State.scanLevel (s : State) (n : Nat) : Option Bool :=
  if s.jtag.drives && decide (s.phase = .reset) then s.jtag.preload[Config.boundaryCell n]? else none

/-- What an output drives: nothing while VDD_IO33 is low or HIGHZ is in effect, what EXTEST or CLAMP drives, its SAFE level, or its free
level (R191, R192, R295, R349). -/
def State.drive (s : State) (n : Nat) : Option Bool :=
  if s.board.io33Low || (s.jtag.drives && decide (s.phase = .reset) && decide (s.jtag.ir = .highz)) then none
  else if (s.scanLevel n).isSome then s.scanLevel n
  else if s.drivesSafe n then some (s.safeDriven n)
  else some (s.freeLevel n)

/-! ## Edges (R191) -/

/-- The level that an edge asks for: 0 low, 1 high, else the opposite of the one before. -/
def edgeLevel (lv : Nat) (prior : Bool) : Bool :=
  match lv with
  | 0 => false
  | 1 => true
  | _ => !prior

/-- The end of a pair's dead time after a change of the even output's level. -/
def Output.deadFrom (o : Output) (tick : Nat) : Nat := tick + 8 * fld o.ocfg 27 16

/-- Place an edge of an entry, fixed for a tick, on an output: edges of one tick merge and the later-numbered entry
wins; an edge closer than 8 ticks to the one before is placed 8 ticks after it (R191). -/
def State.placeEdge (s : State) (n lv entry tick : Nat) (target : Word) : State :=
  let o := s.output n
  match o.edgeAt with
  | some (fixed, placed) =>
    if fixed = tick then
      let win := decide (o.edgeEntry ≤ entry)
      let level := if win then edgeLevel lv o.prior else o.level
      s.setOutput n { o with
        oerr := satInc o.oerr, lastEdge := target, level := level
        edgeEntry := max o.edgeEntry entry
        turnOn := if level ≠ o.prior then o.deadFrom placed else o.turnOn }
    else
      let close := decide (tick < placed + 8)
      let at' := if close then placed + 8 else tick
      let level := edgeLevel lv o.level
      s.setOutput n { o with
        oerr := if close then satInc o.oerr else o.oerr
        lastEdge := target, prior := o.level, level := level, edgeAt := some (tick, at'), edgeEntry := entry
        turnOn := if level ≠ o.level then o.deadFrom at' else o.turnOn }
  | none =>
    let level := edgeLevel lv o.level
    s.setOutput n { o with
      lastEdge := target, prior := o.level, level := level, edgeAt := some (tick, tick), edgeEntry := entry
      turnOn := if level ≠ o.level then o.deadFrom tick else o.turnOn }

/-! ## Fields (R190) -/

/-- An output's own FORCE of 1 or 2 is in effect: SAFE is not driven in its place (R190, R191, log entry 118). -/
def State.forced (s : State) (n : Nat) : Bool :=
  !s.drivesSafe n && (decide ((s.output n).force = 1) || decide ((s.output n).force = 2))

/-- LEVEL (R190). -/
def State.outLevel (s : State) (n : Nat) : Word :=
  flagAt (s.drive n = some true) 0 ||| flagAt (s.drivesSafe n) 1 ||| flagAt (s.forced n) 2

/-- A field of an output as SLD reads it; OERR clears. -/
def State.outRead (s : State) (n f : Nat) : Option Word × State :=
  let o := s.output n
  match f with
  | 0 => (some o.ocfg, s)
  | 1 => (some o.ownWord, s)
  | 2 => (some (s.outLevel n), s)
  | 3 => (some (o.force.setWidth 32), s)
  | 4 => (some o.oerr, s.setOutput n { o with oerr := 0 })
  | 5 => (some o.lastEdge, s)
  | _ => (none, s)

/-- A write to a field of an output by a tenant (R174, R190): PAIRED exists on even outputs only. -/
def State.outWrite (s : State) (ten : TenantId) (n f : Nat) (v : Word) : Except Nat State :=
  let o := s.output n
  let own := fun (r : State) => if ten = 0 ∨ o.owner = ten then Except.ok r else Except.error fCAP_RIGHTS
  match f with
  | 0 => own (s.setOutput n { o with ocfg := v &&& (if n % 2 = 0 then 0xCFFF0000#32 else 0x8FFF0000#32) })
  | 1 => if ten = 0 then .ok (s.setOutput n { o with own := v &&& 0x0FFF01F3#32, kept := false }) else .error fCAP_RIGHTS
  | 2 | 4 | 5 => .error fCAP_RIGHTS
  | 3 =>
    let o1 : Output := { o with force := v.setWidth 2 }
    own (s.setOutput n (if o1.ownFree = o.ownFree then o1 else { o1 with turnOn := o.deadFrom s.now }))
  | _ => .error fCAP_BOUNDS

/-! ## Wave engines: commands (R198, R199) -/

/-- ENTRY of WCFG. -/
def Wave.entryPc (w : Wave) : BitVec 6 := BitVec.ofNat 6 (fld w.wcfg 23 18)

/-- OWNER of an engine. -/
def Wave.owner (w : Wave) : TenantId := BitVec.ofNat 12 (fld w.wbind 27 16)

/-- TRIGGER, or a WAVE action: an IDLE engine runs at ENTRY; otherwise OVR is set (R198). -/
def Wave.trigger (w : Wave) : Wave :=
  if w.st = .idle then { w with st := .running, pc := w.entryPc, bumped := false } else { w with ovr := true }

/-! ## Modulator windows: actions (R195) -/

/-- OWNER of a modulator input. -/
def ModInput.owner (m : ModInput) : TenantId := BitVec.ofNat 12 (fld m.mbind 27 16)

/-- A window without the inputs of a range; an earlier window that a WINDOW action restarts in part raises no close event (R195). -/
def Window.without (w : Window) (l : List Nat) (silent : Bool) : Window :=
  if w.inputs.any l.contains then
    { w with inputs := w.inputs.filter fun i => !l.contains i, src := if silent then none else w.src }
  else w

/-- The windows left when those of a range's inputs have been taken out. -/
def State.windowsWithout (s : State) (l : List Nat) (silent : Bool) : List Window :=
  (s.windows.map fun w => w.without l silent).filter fun w => decide (w.inputs ≠ [])

/-- A WINDOW action: each input's window opens, or its count restarts; an earlier window on any of them raises no close
event (R195). -/
def State.windowOpen (s : State) (first last n : Nat) (src : Option Nat) : State :=
  let l := modRange first last
  let s1 := l.foldl (fun t i => t.setMod i { t.mod i with window := some (n, 0), deposited := 0, epoch := (t.mod i).epoch + 1 })
    { s with windows := s.windowsWithout l true }
  ({ s1 with windows := s1.windows ++ [{ inputs := l, n := n, src := src }] } : State).windowCheck

/-- A CLOSE action: the windows of its inputs close without an event; what else a window has goes on (R186, log entry 137). -/
def State.windowClose (s : State) (first last : Nat) : State :=
  let l := modRange first last
  let s1 : State := { s with windows := s.windowsWithout l false }
  (l.foldl (fun t i => t.setMod i { t.mod i with window := none }) s1).windowCheck

end Sys2Proof.Machine
end

