-- ==== Sys2Proof/Machine/EntryOps.lean ====
section
/-! DEFINITION. Tide entries (R183 to R189, R200): arming, lateness, staging and commit, firing, dispatch and the
actions. -/

namespace Sys2Proof.Machine

/-! ## Fields -/

/-- ACT of CTRL. -/
def Entry.act (e : Entry) : Nat := fld e.ctrl 27 24

/-- REPEAT of CTRL. -/
def Entry.rep (e : Entry) : Nat := fld e.ctrl 23 16

/-- SKIP of CTRL. -/
def Entry.skip (e : Entry) : Bool := bit e.ctrl 14

/-- OWNER of BIND. -/
def Entry.owner (e : Entry) : TenantId := BitVec.ofNat 12 (fld e.bind 27 16)

/-- TIDE of BIND. -/
def Entry.tide (e : Entry) : Fin 16 := ⟨fld e.bind 3 0 % 16, Nat.mod_lt _ (by decide)⟩

/-- TIDE2 of BIND. -/
def Entry.tide2 (e : Entry) : Nat := fld e.bind 7 4

/-- The output that an EDGE or PULSE names. -/
def Entry.out (e : Entry) : Fin 64 := ⟨fld e.arg 5 0 % 64, Nat.mod_lt _ (by decide)⟩

/-- EDGE and PULSE are staged and committed (R188). -/
def isEdge (act : Nat) : Bool := decide (act = 1) || decide (act = 2)

/-- An event source's OWNER (R227). -/
def State.srcOwner (s : State) (n : Nat) : TenantId := BitVec.ofNat 12 (fld (s.source n).bind 27 16)

/-- Every object that an action names is owned by the entry's OWNER (R186); the thread of a WAKE is judged by its
tenant at the firing. -/
def State.actionOwned (s : State) (owner : TenantId) (act : Nat) (arg : Word) : Bool :=
  match act with
  | 1 | 2 => decide ((s.output (fld arg 5 0)).owner = owner)
  | 3 => ((modRange (fld arg 4 0) (fld arg 9 5)).all fun i => decide ((s.mod i).owner = owner))
      && (!bit arg 31 || decide (s.srcOwner (fld arg 30 20) = owner))
  | 4 => (modRange (fld arg 4 0) (fld arg 9 5)).all fun i => decide ((s.mod i).owner = owner)
  | 6 => decide (s.srcOwner (fld arg 10 0) = owner)
  | 7 => decide ((s.channel (fld arg 8 0)).owner = owner)
  | 8 => decide ((s.wave (fld arg 3 0)).owner = owner)
  | _ => true

/-- The codes that a write of CTRL or ARG refuses: EDGE level 3, and the odd output of a complementary pair (R186). -/
def State.actionBad (s : State) (act : Nat) (arg : Word) : Bool :=
  let n := fld arg 5 0
  (decide (act = 1) && decide (fld arg 9 8 = 3)) || (isEdge act && decide (n % 2 = 1) && s.paired (n - 1))

/-! ## Arming and lateness (R184) -/

/-- A target is late: reached, or less than 100 ns ahead at the current rate. -/
def State.targetLate (s : State) (i : Nat) (target : Word) : Bool :=
  let (n, d) := s.tideRate i
  s.reached i target || decide (s.aheadQ i target * d < 720 * n)

/-- T advanced by REPEAT turns until it is no longer late, with the count of advances. -/
def State.skipOn (s : State) (i rep : Nat) : Nat → Word → Nat → Word × Nat
  | 0, t, n => (t, n)
  | fuel + 1, t, n => if s.targetLate i t then s.skipOn i rep fuel (t + at_ rep 24) (n + 1) else (t, n)

/-- MISSED plus a count, saturating. -/
def addMissed (m : BitVec 16) (n : Nat) : BitVec 16 := BitVec.ofNat 16 (min (m.toNat + n) 0xFFFF)

/-- An entry that no longer is armed; a committed edge stays (R184, R200). -/
def Entry.disarm (e : Entry) : Entry := { e with armed := false, staged := none, atOnce := false }

/-- Judge the target of an armed entry (R184): a late one sets LATE and is skipped on, disarmed or to be performed at
once. -/
def State.judgeEntry (s : State) (e : Entry) : Entry :=
  if !s.targetLate e.tide e.target then { e with staged := none, atOnce := false }
  else
    let e1 := { e with late := true, staged := none, atOnce := false }
    if e.skip then
      if e.rep = 0 then { e1 with armed := false, missed := addMissed e.missed 1 }
      else
        let (t, n) := s.skipOn e.tide e.rep 256 e.target 0
        { e1 with target := t, missed := addMissed e.missed n }
    else { e1 with atOnce := s.tideMoves e.tide }

/-- The target that an arming forms from the prediction (R184). -/
def State.armTarget (s : State) (e : Entry) : Word :=
  if bit e.ctrl 15 then e.phase
  else
    let now := s.tideWord e.tide
    now + word ((fld e.phase 23 0 + 2 ^ 24 - fld now 23 0) % 2 ^ 24)

/-! ## Firing (R185) -/

/-- What an entry does after a firing: FIRED, REPEAT, STEP and COUNT, END, and the judgement of the next target. -/
def State.afterFire (s : State) (e : Entry) : Entry :=
  let e1 := { e with fired := satInc e.fired, staged := none, atOnce := false }
  if e.rep = 0 then e1.disarm
  else
    let e2 := { e1 with target := e1.target + at_ e.rep 24 }
    if e2.count ≠ 0 then
      let e3 := { e2 with target := e2.target + e2.step, count := e2.count - 1 }
      if e3.count = 0 ∧ fld e3.ctrl 13 12 = 0 then e3.disarm else s.judgeEntry e3
    else s.judgeEntry e2

/-- The edge that an entry commits to at a tick (R188). -/
def Entry.commitJob (e : Entry) (tick : Nat) : EdgeJob :=
  { tick := tick, target := e.target, out := e.out
    lv := if e.act = 1 then fld e.arg 9 8 else if bit e.arg 8 then 1 else 0
    pulse := if e.act = 2 then some (fld e.arg 31 12) else none
    owner := e.owner, tide := e.tide, live := true }

/-- An armed entry whose target is late with SKIP 0, or whose prediction has reached it, fires: an action other than
EDGE and PULSE waits for its dispatch; a late edge is committed within 120 ns (R184, R185). -/
def State.fireNow (s : State) (n : Nat) : State :=
  let e := s.entry n
  if isEdge e.act then
    if e.job.isSome then s
    else
      let (d, s1) := s.drawBelow 865
      s1.setEntry n { e with job := some (e.commitJob (s.now + d)), atOnce := false }
  else if e.due.isSome then s
  else s.setEntry n (s.afterFire { e with due := some (e.target, s.tideWord e.tide2) })

/-- Arm an entry: its target is formed and judged, and a late one with SKIP 0 is performed at once (R184). -/
def State.armEntry (s : State) (n : Nat) : State :=
  let e := s.entry n
  let e1 := s.judgeEntry { e with armed := true, target := s.armTarget e }
  let s1 := s.setEntry n e1
  if e1.armed && e1.atOnce then s1.fireNow n else s1

/-! ## Writes (R183, R188, R189, R200) -/

/-- The effect of an accepted write to a field of an entry. -/
def State.entryApply (s : State) (n f : Nat) (v : Word) : State :=
  let e := s.entry n
  match f with
  | 0 =>
    let e1 := { e with ctrl := v &&& 0x0FFFF000#32 }
    s.setEntry n (if e1.act = 0 then e1.disarm else if isEdge e1.act then e1 else { e1 with staged := none })
  | 1 =>
    let s1 := s.setEntry n { e with phase := v }
    if e.act = 0 then s1 else s1.armEntry n
  | 2 => s.setEntry n { e with step := v }
  | 3 => s.setEntry n { e with count := v &&& 0xFFFF#32 }
  | 4 => s.setEntry n { e with arg := v }
  | _ => s

/-- A live committed edge holds a write back until its firing is complete (R188). -/
def Entry.holdsWrites (e : Entry) : Bool :=
  match e.job with
  | some j => j.live
  | none => false

/-- A write that changes OWNER or TIDE: disarmed, fields at reset, generation advanced; a committed edge is still placed
(R189, R200). -/
def State.entryBind (s : State) (n : Nat) (v : Word) : State :=
  let e := s.entry n
  let v := v &&& 0x0FFF00FF#32
  if fld v 27 16 = fld e.bind 27 16 ∧ fld v 3 0 = fld e.bind 3 0 then s.setEntry n { e with bind := v }
  else
    let s1 := s.setEntry n { Entry.reset with bind := v, job := e.job.map fun j => { j with live := false }, rets := e.rets.filter RetEdge.committed }
    s1.nextEntryGen n

/-- RETIRE of an entry's owner: generation advanced, disarmed (R36, R200). -/
def State.entryRetire (s : State) (n : Nat) : State :=
  let e := s.entry n
  let s1 := s.setEntry n { e.disarm with job := e.job.map (fun j => { j with live := false }), due := none, later := []
                                         rets := e.rets.filter RetEdge.committed }
  s1.nextEntryGen n

/-- A write to a field of an entry by a tenant (R174, R183, R186): the state, or the fault code of the refusal. -/
def State.entryWrite (s : State) (ten : TenantId) (n f : Nat) (v : Word) : Except Nat State :=
  let e := s.entry n
  let put := if e.holdsWrites then s.setEntry n { e with later := e.later ++ [(f, v)] } else s.entryApply n f v
  match f with
  | 0 =>
    let act := fld v 27 24
    if 9 < act ∨ 1 < fld v 13 12 then .error fCAP_BOUNDS
    else if s.actionBad act e.arg then .error fCAP_BOUNDS
    else if e.armed && !s.actionOwned e.owner act e.arg then .error fCAP_RIGHTS
    else .ok put
  | 4 =>
    if s.actionBad e.act v then .error fCAP_BOUNDS
    else if e.armed && !s.actionOwned e.owner e.act v then .error fCAP_RIGHTS
    else .ok put
  | 1 | 2 | 3 => .ok put
  | 5 | 6 | 7 | 8 => .error fCAP_RIGHTS
  | 9 => if ten = 0 then .ok (s.entryBind n v) else .error fCAP_RIGHTS
  | _ => .error fCAP_BOUNDS

/-- STATUS. -/
def Entry.status (e : Entry) : Word :=
  flagAt e.armed 31 ||| flagAt (e.staged.isSome || e.holdsWrites) 30 ||| flagAt e.late 29 ||| flagAt e.refused 28
    ||| at_ e.missed.toNat 0

/-- A field of an entry as HLD reads it; FIRED clears. -/
def State.entryRead (s : State) (n f : Nat) : Option Word × State :=
  let e := s.entry n
  match f with
  | 0 => (some e.ctrl, s)
  | 1 => (some e.phase, s)
  | 2 => (some e.step, s)
  | 3 => (some e.count, s)
  | 4 => (some e.arg, s)
  | 5 => (some e.status, s)
  | 6 => (some e.target, s)
  | 7 => (some e.fired, s.setEntry n { e with fired := 0 })
  | 8 => (some e.snap, s)
  | 9 => (some e.bind, s)
  | _ => (none, s)

/-! ## Staging (R188) -/

/-- The tick at which an edge's tide reaches its target, if that lies within 2 µs. -/
def State.stageTick (s : State) (i : Nat) (target : Word) : Option Nat :=
  if s.tideMoves i then
    match s.reachTick i target with
    | some t => if t ≤ s.now + 14400 then some t else none
    | none => none
  else none

/-- Stage the return edges of an entry. -/
def State.stageRets (s : State) (l : List RetEdge) : List RetEdge :=
  l.map fun r => if r.committed then r else { r with tick := s.stageTick r.tide r.target }

/-- Stage an entry: an armed EDGE or PULSE whose target lies within 2 µs, and its return edges. -/
def State.stageEntry (s : State) (n : Nat) : State :=
  let e := s.entry n
  let st := if e.armed && isEdge e.act && e.job.isNone then s.stageTick e.tide e.target else none
  s.setEntry n { e with staged := st, rets := s.stageRets e.rets }

/-- After a change of a tide's prediction the staged ticks of its entries are computed again (R188). -/
def State.restageOne (s : State) (i : Nat) : State :=
  let redo := s.entries.cells.filter fun x =>
    (x.2.staged.isSome && decide (x.2.tide.val = i)) || x.2.rets.any fun r => r.tick.isSome && decide (r.tide.val = i)
  redo.foldl (fun t x => t.stageEntry x.1) s

/-- A SWITCHED tide takes the current rate of its ALT, from here on (R178). -/
def State.follow (s : State) (i : Nat) : State :=
  let t := s.tide i
  let g := (s.tide (fld t.tfall 13 10)).seg
  if t.st = .switched ∧ !(decide (g.w = t.w) && decide (g.len = t.altLen)) then
    (s.setTide i { s.rebased i s.now with w := g.w, altLen := g.len }).restageOne i
  else s

/-- After a change of a tide's prediction: the staged ticks of its entries, and the tides that follow it, one through another. -/
def State.restage (s : State) (i : Nat) : State :=
  let s1 := s.restageOne i
  let l := (List.range 16).filter fun j => decide ((s1.tide j).st = .switched)
  (l.flatMap fun _ => l).foldl State.follow s1

/-- The commit point of an entry's edges, 100 ns before the tick: from there on the tick is fixed (R188). -/
def State.commitEntry (s : State) (n : Nat) : State :=
  let s1 := s.stageEntry n
  let e := s1.entry n
  let rets := e.rets.map fun r =>
    match r.tick with
    | some t => if t ≤ s1.now + 720 then { r with committed := true } else r
    | none => r
  let e1 := { e with rets := rets }
  s1.setEntry n (match e1.staged with
    | some t => if t ≤ s1.now + 720 ∧ e1.job.isNone then { e1 with job := some (e1.commitJob t) } else e1
    | none => e1)

/-! ## Placing edges -/

/-- The writes that waited for a firing take effect (R188). -/
def State.applyLater (s : State) (n : Nat) : State :=
  let l := (s.entry n).later
  l.foldl (fun t w => t.entryApply n w.1 w.2) (s.setEntry n { s.entry n with later := [] })

/-- A committed edge reaches its tick: it is placed if its output is still owned, a pulse's return edge is on its way,
and the firing completes (R185, R186, R188, R191). -/
def State.placeJob (s : State) (n : Nat) (j : EdgeJob) : State :=
  let owned := decide ((s.output j.out).owner = j.owner)
  let s1 := if owned then s.placeEdge j.out j.lv n j.tick j.target else s
  let e := s1.entry n
  let ret : List RetEdge := match j.pulse with
    | some w => if owned && j.live then
        [{ tide := j.tide, target := j.target + word w, out := j.out, level := !(edgeLevel j.lv false), tick := none,
           committed := false }] else []
    | none => []
  let e1 := { e with job := none, rets := e.rets ++ ret }
  if j.live then (s1.setEntry n (s1.afterFire { e1 with refused := e1.refused || !owned })).applyLater n
  else s1.setEntry n e1

/-- The committed return edges of an entry whose ticks have come are placed. -/
def State.placeRets (s : State) (n : Nat) : List RetEdge → State
  | [] => s
  | r :: rest =>
    match r.tick with
    | some t =>
      if r.committed ∧ t ≤ s.now then
        let s1 := s.placeEdge r.out (if r.level then 1 else 0) n t r.target
        let e := s1.entry n
        (s1.setEntry n { e with rets := e.rets.erase r }).placeRets n rest
      else s.placeRets n rest
    | none => s.placeRets n rest

/-- Place what an entry has committed for ticks up to now. -/
def State.placeDue (s : State) (n : Nat) : State :=
  let s1 := s.placeRets n (s.entry n).rets
  match (s1.entry n).job with
  | some j => if j.tick ≤ s1.now then s1.placeJob n j else s1
  | none => s1

/-! ## Dispatch (R187) -/

/-- A WAKE action: the thread of the group whose lowest-numbered member is named, if its tenant is the entry's OWNER. -/
def State.wakeAction (s : State) (owner : TenantId) (arg : Word) : Option State :=
  let k := s.leaderOf (fld arg 6 0)
  let sl : Fin 8 := ⟨fld arg 9 7 % 8, Nat.mod_lt _ (by decide)⟩
  let base := if groupOf (s.cove (k / 8)).mode (fld arg 6 0 % 8) = groupOf (s.cove (k / 8)).mode (k % 8) then true else false
  if base ∧ ((s.core k).slot sl).st ≠ .empty ∧ s.curOf k sl = owner then
    some (if s.takesInput k then s.wakeInput k sl else s.holdWake { core := k, slot := sl, wait := false })
  else none

/-- Perform a dispatched action (R186). -/
def State.perform (s : State) (n : Nat) (snap : Word) : State :=
  let e := s.entry n
  let refused := s.setEntry n { e with refused := true }
  if !s.actionOwned e.owner e.act e.arg then refused
  else match e.act with
    | 3 => s.windowOpen (fld e.arg 4 0) (fld e.arg 9 5) (fld e.arg 19 10) (if bit e.arg 31 then some (fld e.arg 30 20) else none)
    | 4 => s.windowClose (fld e.arg 4 0) (fld e.arg 9 5)
    | 5 => match s.wakeAction e.owner e.arg with
      | some t => t
      | none => refused
    | 6 => s.raiseN (fld e.arg 10 0)
    | 7 => s.chStart (fld e.arg 8 0)
    | 8 => s.setWave (fld e.arg 3 0) (s.wave (fld e.arg 3 0)).trigger
    | 9 => s.setEntry n { e with snap := snap }
    | _ => s

/-- The due firing that goes first: by target, the earlier first, and then by entry number. -/
def dueBefore (a b : Nat × Word) : Bool := decide (pdiff a.2 b.2 < 0) || (decide (a.2 = b.2) && decide (a.1 < b.1))

/-- Put a due firing into its place in a list. -/
def dueInsert (x : Nat × Word) : List (Nat × Word) → List (Nat × Word)
  | [] => [x]
  | y :: r => if dueBefore x y then x :: y :: r else y :: dueInsert x r

/-- The firings due and not yet dispatched, in their order (R187). -/
def State.dueList (s : State) : List (Nat × Word) :=
  s.entries.cells.foldl (fun l e => match e.2.due with
    | some (t, _) => dueInsert (e.1, t) l
    | none => l) []

/-- One Tide Table cycle of dispatch: at most 4 firings (R187). -/
def State.dispatch (s : State) : State :=
  (s.dueList.take 4).foldl (fun t x =>
    let e := t.entry x.1
    let snap := match e.due with
      | some (_, w) => w
      | none => 0
    ((t.setEntry x.1 { e with due := none }).perform x.1 snap)) s

/-! ## The entry store's check (R342) -/

/-- The next use of an entry that an injection has made uncorrectable: it disarms and its fields read their reset
values; a single error is corrected. -/
def State.checkEntry (s : State) (n : Nat) : State :=
  match s.takeInj tidePage 1 (fun w => decide (fld w 11 0 = n)) with
  | (some w, s1) =>
    if injKind w = 3 ∨ injKind w = 4 then
      (s1.setEntry n { Entry.reset with
        bind := 0, job := (s1.entry n).job.map (fun j => { j with live := false }), rets := (s1.entry n).rets.filter RetEdge.committed }).detect
        tidePage 1 true
    else s1
  | (none, s1) => s1

/-! ## Tide changes seen by entries (R180, R200) -/

/-- A tide's first prediction after EN: entries with FULL = 0 form their targets again; those with FULL = 1 are judged
(R180). -/
def State.rearm (s : State) (i : Nat) : State :=
  (s.entries.cells.filter fun x => x.2.armed && decide (x.2.tide.val = i) && x.2.job.isNone).foldl (fun t x =>
    if bit x.2.ctrl 15 then
      let e1 := t.judgeEntry (t.entry x.1)
      let t1 := t.setEntry x.1 e1
      if e1.armed && e1.atOnce then t1.fireNow x.1 else t1
    else t.armEntry x.1) s

end Sys2Proof.Machine
end

