-- ==== Sys2Proof/Machine/Tides.lean ====
section
/-! DEFINITION. The commands of the Tide Table: measurements, slack water, fall-back and fields of tides; writes, firing,
dispatch, staging and placing of tide entries; fields of tidal outputs. -/

namespace Sys2Proof.Machine

/-! ## Tides -/

/-- A write to a field of a tide with what its entries see of it: an internal tide predicts from EN on (R180). -/
def State.tideStore (s : State) (ten : TenantId) (i f : Nat) (v : Word) : Except Nat State :=
  match s.tideWrite ten i f v with
  | .error c => .error c
  | .ok s1 =>
    let s2 := if f = 0 ∧ !(s.tide i).en ∧ (s1.tide i).en ∧ (s1.tide i).kind = 0 then s1.rearm i else s1
    .ok (s2.restage i)

/-- Use a measurement for a tide, with its events and what its entries see of it (R177, R179, R180, R188). -/
def State.applyMeasure (s : State) (i : Nat) (m : Int) (te : Nat) (count : Int) : State :=
  let old := s.tide i
  let t := { s.useMeasure i m te with count := count, seen := s.now, discardTo := 0 }
  let s1 := s.changeTide i t
  let s2 := if !old.measured && t.measured then (s1.shiftTimers i (s1.tideWord i - s.tideWord i)).rearm i else s1
  s2.restage i

/-- An accepted count of a comparator or encoder at the tick at which its input changed: the count goes on, and the measurement is used
(R176). -/
def State.countMeasure (s : State) (i : Nat) (k : Int) (te : Nat) : State :=
  let s1 := s.setTide i { s.tide i with count := k }
  let te := max te (s.tide i).t0
  let t := s1.candidate i te
  let k1 := t.unwrapCount (rdiv (s1.phaseAt i te) (2 ^ 16))
  s1.applyMeasure i (t.countPhase k1) te k1

/-- A whole-turn measurement (R176). -/
def State.turnMeasure (s : State) (i : Nat) (f : Int) (te : Nat) : State :=
  let t := s.tide i
  let te := max te t.t0
  let m := nearestTurn f (rdiv (s.phaseAt i te) (2 ^ 16))
  s.applyMeasure i m te (if t.kind = 2 then t.nearestCount m else t.count)

/-- A resolver's measurement: atan2 of the last samples of its two inputs, taken together, stamped as R194 states (R176). A pair gives
one measurement. -/
def State.pairMeasure (s : State) (i : Nat) : State :=
  let t := s.tide i
  let u := fld t.tsrc 27 24
  let a := s.mod (2 * u)
  let b := s.mod (2 * u + 1)
  match a.value, b.value with
  | some y, some x =>
    if a.doneAt = b.doneAt ∧ !(t.measured && decide (t.stamp = a.stampAt)) then
      let (f, s1) := s.atan2 y x
      s1.turnMeasure i (f : Int) a.stampAt
    else s
  | _, _ => s

/-- An encoder begins to count backward: the tide's rate is zero, BACK is 1 and the event is raised (R176). -/
def State.reverse (s : State) (i : Nat) : State :=
  let t := s.tide i
  (s.setTide i { s.rebased i s.now with back := true, reversal := t.count, count := t.count - 1, seen := s.now }).tideEvent i

/-- An encoder's count: backward, forward again up to the point of reversal, or forward (R176). -/
def State.encoderCount (s : State) (i : Nat) (forward : Bool) (te : Nat) : State :=
  let t := s.tide i
  if !forward then
    if t.back then s.setTide i { t with count := t.count - 1, seen := s.now } else (s.reverse i).restage i
  else if t.back then
    if t.count + 1 = t.reversal then
      (s.setTide i { s.rebased i s.now with back := false, count := t.count + 1, seen := s.now }).restage i
    else s.setTide i { t with count := t.count + 1, seen := s.now }
  else s.countMeasure i (t.count + 1) te

/-- A comparator edge counts: EDGES 1 takes rising edges, EDGES 2 or more both unless RISE is 1 (R175, R176). -/
def Tide.takesEdge (t : Tide) (rising : Bool) : Bool := rising || (decide (2 ≤ t.edges) && !bit t.tsrc 16)

/-- An injection on the LOSS detector discards a tide's measurements for some turns (R342). -/
def State.lossInjection (s : State) (i : Nat) : State :=
  match s.takeInj tidePage 2 (fun w => decide (injKind w = 1) && decide (fld w 3 0 = i)) with
  | (some w, s1) =>
    let t := s1.tide i
    let (a, b) := t.turnTicks
    s1.setTide i { t with discardTo := s1.now + max (fld w 15 8) 1 * a / b + 1 }
  | (none, s1) => s1

/-- A measurement of a tide's source (R176, R177, R179): for a comparator or an encoder, a level of its input with the tick since
which it has been stable, which counts once it has outlasted the glitch filter (R175). -/
def execTideMeasurement (t : Fin 16) (m : Measured) (at_ : Nat) (s : State) : Host.Outcome State Fault Refusal :=
  let s1 := (s.advance at_).lossInjection t
  let x := s1.tide t
  if !x.en || decide (x.kind = 0) || decide (s1.now < x.discardTo) then .next s1
  else .next (match x.kind, m with
    | 1, .edge rising since =>
      if x.takesEdge rising && x.stable since s1.now then s1.countMeasure t (x.count + 1) since else s1
    | 2, .count forward since => if x.stable since s1.now then s1.encoderCount t forward since else s1
    | 2, .index since =>
      if x.back || !x.stable since s1.now then s1 else s1.turnMeasure t ((fld x.tofs 23 0 : Int) * 2 ^ 16) since
    | 3, .pair => s1.pairMeasure t
    | 4, .phase p => s1.turnMeasure t (p : Int) s1.now
    | 5, _ => s1.turnMeasure t (s1.ptpPhase x) s1.now
    | _, _ => s1)

/-- An encoder reverses (R176). -/
def execEncoderReversal (t : Fin 16) (at_ : Nat) (s : State) : Host.Outcome State Fault Refusal :=
  let s1 := s.advance at_
  let x := s1.tide t
  .next (if x.en && decide (x.kind = 2) && !x.back then (s1.reverse t).restage t else s1)

/-- A tide with a measured source enters slack water after SILENCE expected intervals (R178). -/
def execSlackWaterEntry (t : Fin 16) (at_ : Nat) (s : State) : Host.Outcome State Fault Refusal :=
  let s1 := s.advance at_
  let x := s1.tide t
  .next (if x.en && decide (x.kind ≠ 0) && (decide (x.st = .acquiring) || decide (x.st = .locked)) && x.silent s1.now then
    (s1.enterSlack t).restage t else s1)

/-- A tide that has run FLY turns in slack water applies its FALLBACK (R178). -/
def execFallbackApply (t : Fin 16) (at_ : Nat) (s : State) : Host.Outcome State Fault Refusal :=
  let s1 := s.advance at_
  let x := s1.tide t
  .next (if x.st = .slack ∧ (fld x.tfall 23 16 : Int) * 2 ^ 56 ≤ s1.tidePhase t - x.slackAt then (s1.fallBack t).restage t
    else s1)

/-- A write to a tide's TSRC (R175, R180). -/
def execTsrcWrite (ten : TenantId) (t : Fin 16) (v : Word) (at_ : Nat) (s : State) : Host.Outcome State Fault Refusal :=
  let s1 := s.advance at_
  .next (orSame s1 (s1.tideStore ten t 0 v))

/-! ## Tide entries -/

/-- A write to an entry's PHASE: it arms the entry (R184). -/
def execEntryPhaseWrite (ten : TenantId) (e : Fin 4096) (v : Word) (at_ : Nat) (s : State) : Host.Outcome State Fault Refusal :=
  let s1 := (s.advance at_).checkEntry e
  .next (orSame s1 (s1.entryWrite ten e 1 v))

/-- A write to an entry's CTRL (R183, R184, R186). -/
def execEntryCtrlWrite (ten : TenantId) (e : Fin 4096) (v : Word) (at_ : Nat) (s : State) : Host.Outcome State Fault Refusal :=
  let s1 := (s.advance at_).checkEntry e
  .next (orSame s1 (s1.entryWrite ten e 0 v))

/-- A write to an entry's ARG (R183, R186). -/
def execEntryArgWrite (ten : TenantId) (e : Fin 4096) (v : Word) (at_ : Nat) (s : State) : Host.Outcome State Fault Refusal :=
  let s1 := (s.advance at_).checkEntry e
  .next (orSame s1 (s1.entryWrite ten e 4 v))

/-- A write to an entry's BIND: Headland only (R189). -/
def execEntryBindWrite (ten : TenantId) (e : Fin 4096) (v : Word) (s : State) : Host.Outcome State Fault Refusal :=
  .next (orSame s (s.entryWrite ten e 9 v))

/-- An armed entry fires: its prediction has reached the target or a late target is performed at once; an edge fires at
its committed tick (R185). -/
def execEntryFire (e : Fin 4096) (at_ : Nat) (s : State) : Host.Outcome State Fault Refusal :=
  let s1 := (s.advance at_).checkEntry e
  let x := s1.entry e
  .next (if x.job.isSome then s1.placeDue e
    else if x.armed && s1.tideMoves x.tide && (x.atOnce || (!isEdge x.act && s1.reached x.tide x.target)) then s1.fireNow e
    else s1)

/-- One Tide Table cycle dispatches at most 4 due firings (R187). -/
def execEntryDispatch (at_ : Nat) (s : State) : Host.Outcome State Fault Refusal := .next (s.advance at_).dispatch

/-- An EDGE or PULSE whose target lies within 2 µs is staged (R188). -/
def execEntryStage (e : Fin 4096) (at_ : Nat) (s : State) : Host.Outcome State Fault Refusal :=
  .next (((s.advance at_).checkEntry e).stageEntry e)

/-- The commit point of an entry's edges (R188). -/
def execCommitPoint (e : Fin 4096) (at_ : Nat) (s : State) : Host.Outcome State Fault Refusal :=
  .next ((s.advance at_).commitEntry e)

/-- A committed edge is placed at its tick (R191). -/
def execEdgePlace (e : Fin 4096) (at_ : Nat) (s : State) : Host.Outcome State Fault Refusal :=
  .next ((s.advance at_).placeDue e)

/-! ## Tidal outputs -/

/-- A write to an output's FORCE (R190, R191). -/
def execForceWrite (ten : TenantId) (o : Fin 64) (v : Word) (s : State) : Host.Outcome State Fault Refusal :=
  .next (orSame s (s.outWrite ten o 3 v))

/-- A write to an output's OCFG (R190). -/
def execOcfgWrite (ten : TenantId) (o : Fin 64) (v : Word) (s : State) : Host.Outcome State Fault Refusal :=
  .next (orSame s (s.outWrite ten o 0 v))

/-- A write to an output's OWN: Headland only (R190, R349). -/
def execOwnWrite (ten : TenantId) (o : Fin 64) (v : Word) (s : State) : Host.Outcome State Fault Refusal :=
  .next (orSame s (s.outWrite ten o 1 v))

end Sys2Proof.Machine
end

