-- ==== Sys2Proof/Machine/Waves.lean ====
section
/-! DEFINITION. Modulator inputs (R193, R194) and wave engines (R196 to R199): fields, samples, and one command per
instruction that an engine executes. -/

namespace Sys2Proof.Machine

/-! ## Modulator inputs -/

/-- DECIM of MCFG. -/
def ModInput.decim (m : ModInput) : Nat := fld m.mcfg 15 7

/-- MSTAT. -/
def ModInput.mstat (m : ModInput) : Word :=
  flagAt m.window.isSome 31 ||| flagAt m.clkLost 30 ||| flagAt (m.en && decide (m.settling ≠ 0)) 29
    ||| at_ (if m.window.isSome then m.deposited % 1024 else 0) 0

/-- A field of an input as SLD reads it; MDROP clears (R193). -/
def State.modRead (s : State) (i f : Nat) : Option Word × State :=
  let m := s.mod i
  match f with
  | 0 => (some m.mcfg, s)
  | 1 => (some m.mbind, s)
  | 2 => (some m.mstat, s)
  | 3 => (some m.last, s)
  | 4 => (some m.mdrop, s.setMod i { m with mdrop := 0 })
  | _ => (none, s)

/-- A write to a field of an input by a tenant (R174, R193): DECIM 16 to 256; the filter settles after EN is set. -/
def State.modWrite (s : State) (ten : TenantId) (i f : Nat) (v : Word) : Except Nat State :=
  let m := s.mod i
  let own := fun (r : State) => if ten = 0 ∨ m.owner = ten then Except.ok r else Except.error fCAP_RIGHTS
  match f with
  | 0 =>
    if fld v 15 7 < 16 ∨ 256 < fld v 15 7 then .error fCAP_BOUNDS
    else
      let m1 := { m with mcfg := v &&& 0xC0FFFF8F#32 }
      let m2 : ModInput := if m1.en && !m.en then { m1 with settling := 3, taken := 0, value := none, doneAt := none } else m1
      own (s.setMod i m2).windowCheck
  | 1 => if ten = 0 then .ok (s.setMod i { m with mbind := v &&& 0x0FFF01FF#32 }) else .error fCAP_RIGHTS
  | 2 | 3 | 4 => .error fCAP_RIGHTS
  | _ => .error fCAP_BOUNDS

/-- The stamp of a sample: phase_at of tide STAMP at the completing edge less the filter's group delay (R194). -/
def State.sampleStamp (s : State) (m : ModInput) : Word :=
  let i := fld m.mcfg 3 0
  if (s.tide i).st = .off then 0x80000000#32 else phaseWord (s.phaseAt i m.stampAt)

/-- n (n + 1) / 2. -/
def tri (n : Nat) : Nat := n * (n + 1) / 2

/-- The weight of the bit j clocks back in a sinc3 filter of decimation d: how many ways j is a sum of three numbers below d (R194). -/
def sincWeight (d j : Nat) : Int := (tri (j + 1) : Int) + 3 * tri (j + 1 - 2 * d) - 3 * tri (j + 1 - d) - tri (j + 1 - 3 * d)

/-- The weighted sum of a bitstream, newest bit first: a one counts +1 and a zero −1. -/
def sincSum (d : Nat) : Nat → List Bool → Int
  | _, [] => 0
  | j, b :: r => (if b then sincWeight d j else -sincWeight d j) + sincSum d (j + 1) r

/-- An input's filter takes bits of its stream, oldest first; it keeps those that a sample can still reach. -/
def ModInput.take (m : ModInput) (bits : List Bool) : ModInput :=
  { m with hist := (bits.reverse ++ m.hist).take (3 * m.decim), taken := m.taken + bits.length }

/-- The filter completes a sample at a tick: its output divided by DECIM^3, as Q1.30 (R194). -/
def ModInput.complete (m : ModInput) (tick : Nat) : ModInput :=
  { m with
    taken := 0, doneAt := some tick, stampAt := tick - m.delay (m.doneAt.getD tick) tick
    value := some (rdiv (sincSum m.decim 0 m.hist * 2 ^ 30) (m.decim ^ 3)) }

/-- Word 0 of a sample record (R194). -/
def ModInput.word0 (m : ModInput) (i : Nat) : Word := BitVec.ofInt 32 (m.value.getD 0) &&& 0xFFFFFFE0#32 ||| word i

/-- A completed sample meets its window: the next N samples are records, deposited or refused by their channel (R194, R195). -/
def State.admitSample (s : State) (m : Fin 32) : State :=
  let x := s.mod m
  match x.window with
  | none => s
  | some (n, got) =>
    if n ≠ 0 ∧ n ≤ got then s
    else
      let w0 := x.word0 m
      let s1 := s.setMod m { x with last := w0, window := some (n, got + 1) }
      let ch := fld x.mbind 8 0
      let ty := (s1.channel ch).ty
      let (ok, s2) := if 3 ≤ ty ∧ ty ≤ 6 then
          s1.deposit ch { words := [w0, s.sampleStamp x], poisoned := 0, ends := false, sample := some (m, x.epoch), cycle := none }
        else (false, s1)
      if ok then s2 else (s2.setMod m { s2.mod m with mdrop := satInc (s2.mod m).mdrop }).sampleDone m x.epoch

/-- Bits of an enabled input's stream, up to the one that completes a sample (R194, R195): the first 3 samples after EN or the clock's
return are discarded; an open window admits the next N. -/
def execModulatorSample (m : Fin 32) (bits : List Bool) (at_ : Nat) (s : State) : Host.Outcome State Fault Refusal :=
  let s1 := s.advance at_
  let x := s1.mod m
  if !x.en || x.clkLost then .next s1
  else
    let y := x.take (bits.take (max (x.decim - x.taken) 1))
    if y.taken < x.decim then .next (s1.setMod m y)
    else
      let z := y.complete s1.now
      if x.settling ≠ 0 then .next (s1.setMod m { z with settling := x.settling - 1, value := none })
      else .next ((s1.setMod m z).admitSample m)

/-- A gap of 2 µs without an edge of a supplied clock: CLK_LOST, and the filter stops (R194). -/
def execModClockLost (m : Fin 32) (s : State) : Host.Outcome State Fault Refusal :=
  let x := s.mod m
  .next (if x.en && bit x.mcfg 30 then (s.setMod m { x with clkLost := true }).windowCheck else s)

/-- The clock returns: the filter settles again (R194). -/
def execModClockReturn (m : Fin 32) (s : State) : Host.Outcome State Fault Refusal :=
  let x := s.mod m
  .next (if x.clkLost then s.setMod m { x with clkLost := false, settling := 3, taken := 0, value := none } else s)

/-- A write to an input's MCFG (R193). -/
def execMcfgWrite (ten : TenantId) (m : Fin 32) (v : Word) (s : State) : Host.Outcome State Fault Refusal :=
  .next (orSame s (s.modWrite ten m 0 v))

/-! ## Wave engines: fields -/

/-- PINS: an output pin's level is what the engine drives, an input's what the board does. -/
def Wave.levels (w : Wave) : BitVec 4 := (w.outs &&& w.dirs) ||| (w.pins &&& ~~~w.dirs)

/-- WSTAT. -/
def Wave.wstat (w : Wave) : Word :=
  at_ (match w.st with | .idle => 0 | .running => 1 | .halted => 2 | .fault => 3) 30 ||| at_ w.pc.toNat 24
    ||| at_ w.pgen.toNat 16 ||| flagAt w.disc 15 ||| at_ w.part.toNat 8 ||| flagAt w.wref 7 ||| flagAt w.ovr 6
    ||| flagAt w.tmo 5 ||| flagAt w.rxovr 4 ||| w.levels.setWidth 32

/-- A field of an engine as SLD reads it; RX removes its oldest word (R196). -/
def State.waveRead (s : State) (i f : Nat) : Option Word × State :=
  let w := s.wave i
  match f with
  | 0 => (some w.wcfg, s)
  | 1 => (some w.wbind, s)
  | 2 => (some 0, s)
  | 3 => (some w.wstat, s)
  | 4 => (some w.txLo, s)
  | 5 => (some w.txHi, s)
  | 6 => (some (w.rx.headD 0), s.setWave i { w with rx := w.rx.drop 1 })
  | 7 => (some (word w.rx.length), s)
  | _ => if 0x40 ≤ f ∧ f < 0x80 then ((w.prog.toList[f - 0x40]?).map fun x => x.setWidth 32, s) else (none, s)

/-- RESET of an engine, at any time (R198). -/
def Wave.reset_ (w : Wave) : Wave :=
  { w with st := .idle, pc := w.entryPc, sr := 0, rx := [], dirs := BitVec.ofNat 4 (fld w.wcfg 7 4),
           outs := BitVec.ofNat 4 (fld w.wcfg 3 0), tmo := false, ovr := false, rxovr := false, wref := false, shx := none,
           waiting := false, bumped := w.bumped && decide (w.st ≠ .running) }

/-- HALF of WCFG: engine clocks per half bit, 0 read as 1 (R196). -/
def Wave.half (w : Wave) : Nat := max (fld w.wcfg 15 8) 1

/-- The bits that an SHX in progress has shifted: out at the first clock edge of a bit, in at the second (R197). -/
def Shx.shifted (x : Shx) : Nat :=
  x.bits + (if (if x.ins.getLsbD 7 then x.back else decide (0 < x.clk)) then 1 else 0)

/-- HALT: a RUNNING engine stops, its pins holding their levels; PARTIAL shows the bits of an SHX in progress (R198). -/
def Wave.halt (w : Wave) : Wave :=
  if w.st = .running then
    { w with st := .halted, progWritten := false, bumped := false
             part := match w.shx with
               | some x => BitVec.ofNat 7 x.shifted
               | none => 0 }
  else w

/-- A pin with a level set. -/
def setPin (p : BitVec 4) (i : Nat) (b : Bool) : BitVec 4 :=
  if b then p ||| (1#4 <<< i) else p &&& ~~~(1#4 <<< i)

/-- The clock pin of an SHX. -/
def shxClock (ins : BitVec 16) : Nat := (ins.toNat >>> 10) % 4

/-- The data pin of an SHX. -/
def shxData (ins : BitVec 16) : Nat := (ins.toNat >>> 8) % 4

/-- The instruction at PC. -/
def Wave.ins (w : Wave) : BitVec 16 := w.prog[w.pc.toNat]'w.pc.isLt

/-- RESUME (R199): as it stood, or at ENTRY after an accepted program write, a partial shift then being discarded. -/
def Wave.resume (w : Wave) : Wave :=
  if w.st ≠ .halted then w
  else if !w.progWritten then { w with st := .running }
  else match w.shx with
    | none => { w with st := .running, pc := w.entryPc, disc := false, part := 0, waiting := false }
    | some x =>
      let clk := shxClock x.ins
      { w with st := .running, pc := w.entryPc, sr := x.sr, shx := none, disc := true, part := BitVec.ofNat 7 x.shifted
               waiting := false, outs := setPin w.outs clk (w.wcfg.getLsbD clk) }

/-- An engine's new state, with the level changes that it makes on balls: each is an edge that a wake latch watches (R307). -/
def State.putWave (s : State) (i : Nat) (w : Wave) : State :=
  let o := s.wave i
  let moved := (o.levels ^^^ w.levels) &&& (o.dirs ||| w.dirs)
  (List.range 4).foldl (fun t p => if moved.getLsbD p then t.ballEdge (4 * i + p) else t) (s.setWave i w)

/-- A program write: ignored with WREF while RUNNING; the first accepted one since the engine left RUNNING advances PGEN
(R199). -/
def Wave.progWrite (w : Wave) (a : Nat) (v : Word) : Wave :=
  if w.st = .running then { w with wref := true }
  else
    { w with prog := w.prog.setIfInBounds a (v.setWidth 16), progWritten := true, bumped := true
             pgen := if w.bumped then w.pgen else w.pgen + 1 }

/-- A write to a field of an engine by a tenant (R174, R196). -/
def State.waveWrite (s : State) (ten : TenantId) (i f : Nat) (v : Word) : Except Nat State :=
  let w := s.wave i
  let own := fun (x : Wave) => if ten = 0 ∨ w.owner = ten then Except.ok (s.putWave i x) else Except.error fCAP_RIGHTS
  match f with
  | 0 => own { w with wcfg := v &&& 0xFFFCFFFF#32 }
  | 1 => if ten = 0 then .ok (s.setWave i { w with wbind := v &&& 0x0FFF07FF#32 }) else .error fCAP_RIGHTS
  | 2 =>
    match fld v 2 0 with
    | 1 => own w.halt
    | 2 => own w.resume
    | 3 => own w.reset_
    | 4 => own w.trigger
    | _ => .error fCAP_BOUNDS
  | 3 | 6 | 7 => .error fCAP_RIGHTS
  | 4 => own { w with txLo := v }
  | 5 => own { w with txHi := v }
  | _ => if 0x40 ≤ f ∧ f < 0x80 then own (w.progWrite (f - 0x40) v) else .error fCAP_BOUNDS

/-- WCMD HALT (R198). -/
def execHalt (ten : TenantId) (e : Fin 16) (s : State) : Host.Outcome State Fault Refusal :=
  .next (orSame s (s.waveWrite ten e 2 1))

/-- WCMD RESUME (R198, R199). -/
def execWcmdResume (ten : TenantId) (e : Fin 16) (s : State) : Host.Outcome State Fault Refusal :=
  .next (orSame s (s.waveWrite ten e 2 2))

/-- WCMD RESET (R198). -/
def execWcmdReset (ten : TenantId) (e : Fin 16) (s : State) : Host.Outcome State Fault Refusal :=
  .next (orSame s (s.waveWrite ten e 2 3))

/-- WCMD TRIGGER (R198). -/
def execTrigger (ten : TenantId) (e : Fin 16) (s : State) : Host.Outcome State Fault Refusal :=
  .next (orSame s (s.waveWrite ten e 2 4))

/-- A write to an engine's PROG (R199). -/
def execWaveProgWrite (ten : TenantId) (e : Fin 16) (adr : Fin 64) (v : Word) (s : State) : Host.Outcome State Fault Refusal :=
  .next (orSame s (s.waveWrite ten e (0x40 + adr.val) v))

/-- A read of an engine's RX: reads are not restricted beyond their capability (R174, R196). -/
def execWaveRxRead (_ten : TenantId) (e : Fin 16) (s : State) : Host.Outcome State Fault Refusal :=
  .next (s.waveRead e 6).2

/-! ## Wave engines: instructions (R197) -/

/-- A RUNNING engine whose next instruction has an opcode executes it; else the command changes nothing. -/
def State.waveStep (s : State) (e : Fin 16) (op : Nat) (f : Wave → BitVec 16 → Wave) : State :=
  let w := s.wave e
  if w.st = .running ∧ w.ins.toNat / 0x1000 = op then s.putWave e (f w w.ins) else s

/-- The field [hi:lo] of an instruction. -/
def insFld (i : BitVec 16) (hi lo : Nat) : Nat := (i.toNat >>> lo) % 2 ^ (hi + 1 - lo)

/-- The engine with PC at the next instruction. -/
def Wave.next (w : Wave) : Wave := { w with pc := w.pc + 1 }

/-- HALT: the program ends, IDLE, PC at ENTRY. -/
def execWeHalt (e : Fin 16) (s : State) : Host.Outcome State Fault Refusal :=
  .next (s.waveStep e 0 fun w _ => { w with st := .idle, pc := w.entryPc, bumped := false })

/-- SET: drives the masked output pins. -/
def execWeSet (e : Fin 16) (s : State) : Host.Outcome State Fault Refusal :=
  .next (s.waveStep e 1 fun w i =>
    let m := BitVec.ofNat 4 (insFld i 7 4) &&& w.dirs
    { w.next with outs := (w.outs &&& ~~~m) ||| (BitVec.ofNat 4 (insFld i 3 0) &&& m) })

/-- DIR: sets the directions of the masked pins. -/
def execWeDir (e : Fin 16) (s : State) : Host.Outcome State Fault Refusal :=
  .next (s.waveStep e 2 fun w i =>
    let m := BitVec.ofNat 4 (insFld i 7 4)
    { w.next with dirs := (w.dirs &&& ~~~m) ||| (BitVec.ofNat 4 (insFld i 3 0) &&& m) })

/-- WAITP: one look at the pins; the wait ends when its condition holds. -/
def execWaitp (e : Fin 16) (pins : BitVec 4) (s : State) : Host.Outcome State Fault Refusal :=
  .next (s.waveStep e 3 fun w i =>
    let w1 := { w with pins := pins }
    let p := insFld i 9 8
    let now := w1.levels.getLsbD p
    let was := if w.waiting then w.levels.getLsbD p else now
    let ok := match insFld i 11 10 with
      | 0 => !now
      | 1 => now
      | 2 => !was && now
      | _ => was && !now
    if ok then { w1.next with waiting := false } else { w1 with waiting := true })

/-- Raise an engine's event (R196). -/
def State.waveEvent (s : State) (e : Fin 16) : State := s.raiseN (fld (s.wave e).wbind 10 0)

/-- A WAITP runs into its timeout: TMO, FAULT and the engine's event. -/
def execWaitpTimeout (e : Fin 16) (at_ : Nat) (s : State) : Host.Outcome State Fault Refusal :=
  let s1 := s.advance at_
  let w := s1.wave e
  .next (if w.st = .running ∧ w.ins.toNat / 0x1000 = 3 ∧ w.waiting ∧ insFld w.ins 7 0 ≠ 0 then
    (s1.setWave e { w with tmo := true, st := .fault, waiting := false, bumped := false }).waveEvent e else s1)

/-- The first clock edge of a bit: the clock pin leaves its idle level; out, SR[63] drives the data pin and SR shifts left (R197). -/
def Wave.firstEdge (w : Wave) (ins : BitVec 16) : Wave :=
  let outs := setPin w.outs (shxClock ins) (!w.wcfg.getLsbD (shxClock ins))
  if ins.getLsbD 7 then { w with outs := outs }
  else { w with outs := setPin outs (shxData ins) (w.sr.getLsbD 63), sr := w.sr <<< 1 }

/-- The second clock edge of a bit: the clock pin is back at its idle level; in, the pin is sampled into SR[0] after a left shift. -/
def Wave.secondEdge (w : Wave) (ins : BitVec 16) (level : Bool) : Wave :=
  let outs := setPin w.outs (shxClock ins) (w.wcfg.getLsbD (shxClock ins))
  if ins.getLsbD 7 then { w with outs := outs, sr := (w.sr <<< 1) ||| (if level then 1#64 else 0#64) } else { w with outs := outs }

/-- So many engine clocks of an SHX, half bit by half bit: what each clock edge leaves, in order. `bits` are the levels at the second
edges, and where it has run out the data pin's present level is taken. The instruction ends with its last bit (R197). -/
def Wave.shift : Nat → Nat → List Bool → Wave → List Wave
  | 0, _, _, _ => []
  | fuel + 1, clocks, bits, w =>
    match w.shx with
    | none => []
    | some x =>
      let h := w.half
      if clocks = 0 then []
      else if !x.back && decide (x.clk < h) then
        let n := min clocks (h - x.clk)
        let w1 := { (if x.clk = 0 then w.firstEdge x.ins else w) with shx := some { x with clk := x.clk + n } }
        w1 :: Wave.shift fuel (clocks - n) bits w1
      else
        let w1 := if !x.back then w.secondEdge x.ins (bits.headD (w.levels.getLsbD (shxData x.ins))) else w
        let n := min clocks (2 * h - x.clk)
        let y : Shx := if x.clk + n < 2 * h then { x with clk := x.clk + n, back := true }
          else { x with bits := x.bits + 1, clk := 0, back := false }
        if x.ins.toNat % 64 + 1 ≤ y.bits then [{ w1 with shx := none, pc := w1.pc + 1 }]
        else { w1 with shx := some y } :: Wave.shift fuel (clocks - n) (if x.back then bits else bits.drop 1) { w1 with shx := some y }

/-- SHX: the shift goes on for so many engine clocks (R197); each clock edge is a change of level on its balls (R307). -/
def execShx (e : Fin 16) (run : ShiftRun) (s : State) : Host.Outcome State Fault Refusal :=
  let w := s.wave e
  .next (if w.st = .running ∧ w.ins.toNat / 0x1000 = 4 then
    let w0 := { w with shx := some (w.shx.getD { ins := w.ins, sr := w.sr, bits := 0, clk := 0, back := false }) }
    (Wave.shift 130 run.clocks run.bits w0).foldl (fun t x => t.putWave e x) (s.setWave e w0) else s)

/-- DLY: waits n × HALF clocks, which the model's commands do not count. -/
def execDly (e : Fin 16) (s : State) : Host.Outcome State Fault Refusal := .next (s.waveStep e 5 fun w _ => w.next)

/-- LDC. -/
def execLdc (e : Fin 16) (s : State) : Host.Outcome State Fault Refusal :=
  .next (s.waveStep e 6 fun w i => { w.next with cnt := BitVec.ofNat 7 (insFld i 6 0) })

/-- DJNZ. -/
def execDjnz (e : Fin 16) (s : State) : Host.Outcome State Fault Refusal :=
  .next (s.waveStep e 7 fun w i =>
    let c := w.cnt - 1
    { w with cnt := c, pc := if c ≠ 0 then BitVec.ofNat 6 (insFld i 5 0) else w.pc + 1 })

/-- JMP. -/
def execJmp (e : Fin 16) (s : State) : Host.Outcome State Fault Refusal :=
  .next (s.waveStep e 8 fun w i => { w with pc := BitVec.ofNat 6 (insFld i 5 0) })

/-- JPIN: jumps if the pin has the level. -/
def execJpin (e : Fin 16) (pins : BitVec 4) (s : State) : Host.Outcome State Fault Refusal :=
  .next (s.waveStep e 9 fun w i =>
    let w1 := { w with pins := pins }
    { w1 with pc := if w1.levels.getLsbD (insFld i 9 8) = i.getLsbD 7 then BitVec.ofNat 6 (insFld i 5 0) else w.pc + 1 })

/-- STAMP: the current tide tick is the stamp of the next TIDE. -/
def execStamp (e : Fin 16) (at_ : Nat) (s : State) : Host.Outcome State Fault Refusal :=
  let s1 := s.advance at_
  .next (s1.waveStep e 10 fun w _ => { w.next with stampTick := s1.now })

/-- Gray code to binary over so many bits: each bit of the result is the exclusive-or of the bits from it up. -/
def grayDecode (v : Nat) : Nat → Nat
  | 0 => 0
  | w + 1 => (grayDecode v w) ^^^ (v >>> w)

/-- The value that TIDE gives, in ripples: SR[w−1:0], Gray-decoded where asked, times 2^(24−w). A width above 24 has no
meaning in R197, and its value is free (log entry 26). -/
def State.waveTide (s : State) (w : Wave) (i : BitVec 16) : Nat × State :=
  let n := insFld i 4 0 + 1
  if 24 < n then s.drawBelow (2 ^ 24)
  else
    let raw := w.sr.toNat % 2 ^ n
    ((if i.getLsbD 10 then grayDecode raw n % 2 ^ n else raw) * 2 ^ (24 - n), s)

/-- TIDE: a measurement at the stamp for the tides whose source is this engine (R176, R197). -/
def execTide (e : Fin 16) (s : State) : Host.Outcome State Fault Refusal :=
  let w := s.wave e
  if w.st = .running ∧ w.ins.toNat / 0x1000 = 11 then
    let (v, s0) := s.waveTide w w.ins
    let s1 := (List.range 16).foldl (fun u t => u.lossInjection t) s0
    let users := (List.range 16).filter fun t =>
      let x := s1.tide t
      x.en && decide (x.kind = 4) && decide (fld x.tsrc 27 24 = e.val) && decide (x.discardTo ≤ s1.now)
    let s2 := users.foldl (fun u t => u.turnMeasure t ((v : Int) * 2 ^ 16) w.stampTick) s1
    .next (s2.setWave e w.next)
  else .next s

/-- PUSH: a word of SR into the receive FIFO of 4; one that finds it full is dropped with RXOVR. -/
def execPush (e : Fin 16) (s : State) : Host.Outcome State Fault Refusal :=
  .next (s.waveStep e 12 fun w i =>
    let v : Word := if i.getLsbD 0 then w.sr.extractLsb' 32 32 else w.sr.extractLsb' 0 32
    if w.rx.length < 4 then { w.next with rx := w.rx ++ [v] } else { w.next with rxovr := true })

/-- PULL: SR from TX_HI and TX_LO. -/
def execPull (e : Fin 16) (s : State) : Host.Outcome State Fault Refusal :=
  .next (s.waveStep e 13 fun w _ => { w.next with sr := w.txHi ++ w.txLo })

/-- EVT: raises the engine's event source. -/
def execEvt (e : Fin 16) (at_ : Nat) (s : State) : Host.Outcome State Fault Refusal :=
  let s1 := s.advance at_
  let w := s1.wave e
  .next (if w.st = .running ∧ w.ins.toNat / 0x1000 = 14 then (s1.setWave e w.next).waveEvent e else s1)

/-- CLR: SR is cleared. -/
def execClr (e : Fin 16) (s : State) : Host.Outcome State Fault Refusal :=
  .next (s.waveStep e 15 fun w _ => { w.next with sr := 0 })

end Sys2Proof.Machine
end

