-- ==== Sys2Proof/Machine/Churn.lean ====
section
/-! DEFINITION. The commands of the Churn (R249 to R258) and of the Undertow lane (R244 to R248): descriptors, starts,
stops, fields and caps; packets in their classes. -/

namespace Sys2Proof.Machine

/-! ## Taking a descriptor (R254) -/

/-- A capability that a channel reads under the strict policy. -/
def State.chReadCap (s : State) (ch va : Nat) : Except Nat Cap × State :=
  match s.chTranslate ch va true false with
  | .error f => (.error f, s)
  | .ok (pa, _) =>
    let tagged := decide (s.tagAt pa = .capability) && decide (s.tagAt (pa + 4) = .capability)
    match s.chReads ch true va 2 with
    | (_, some f, s1) => (.error f, s1)
    | (l, none, s1) => (.ok { w0 := l.getD 0 0, w1 := l.getD 1 0, tag := tagged }, s1)

/-- The checks of a descriptor's capability: steps 1a to 1c, 1e and 1f of R55. -/
def descCheck (c : Cap) (len : Nat) (source : Bool) : Except Nat Unit :=
  match capCheck c { load := source, store := !source, cap := false } none with
  | .error f => .error f
  | .ok _ =>
    let bd := decodeBounds c
    let cur : Int := c.w0.toNat
    if cur < bd.base ∨ bd.top < cur + len then .error fCAP_BOUNDS
    else if c.w0.toNat % 4 ≠ 0 then .error fALIGN
    else .ok ()

/-- The largest output of the position that a channel serves, if its endpoint is a link's (R274). -/
def State.maxOutOf (s : State) (ep : Nat) : Option Nat :=
  if 0x400 ≤ ep ∧ ep < 0x480 then some ((s.link ((ep - 0x400) / 32)).pos (ep % 32)).maxOut else none

/-- The position that a TX channel serves took an output at the last freeze point: the channel takes no further descriptor for it until
the next one (R274). -/
def State.heldTx (s : State) (c : Channel) : Bool :=
  decide (c.ty = 2) && decide (0x400 ≤ c.endpoint) && decide (c.endpoint < 0x480)
    && ((s.link ((c.endpoint - 0x400) / 32)).pos (c.endpoint % 32)).loaded

/-- The fault of a descriptor's contents for a channel's type, if any. A LEN that is no multiple of 4 fails as an
alignment does (log entry 27). -/
def State.descFault (s : State) (c : Channel) (d : Desc) : Option Nat :=
  let a := descCheck d.a d.len (decide (c.ty ≤ 2))
  let b := if c.ty = 1 then descCheck d.b d.len false else .ok ()
  match a, b with
  | .error f, _ => some f
  | .ok _, .error f => some f
  | .ok _, .ok _ =>
    if d.len % 4 ≠ 0 then some fALIGN
    else match s.maxOutOf c.endpoint with
      | some m => if c.ty = 2 ∧ m < d.len then some fCAP_BOUNDS else none
      | none => none

/-- Read and check the descriptor at HEAD: the channel with it, or in FAULT. -/
def State.takeDesc (s : State) (ch : Nat) : State :=
  let a := (s.channel ch).descAddr
  match s.chReadCap ch a with
  | (.error f, s1) => s1.chFault ch f
  | (.ok ca, s1) =>
    match s1.chReads ch true (a + 8) 2 with
    | (_, some f, s2) => s2.chFault ch f
    | (_, none, s2) =>
      match s2.chReadCap ch (a + 8) with
      | (.error f, s3) => s3.chFault ch f
      | (.ok cb, s3) =>
        match s3.chReads ch true (a + 16) 4 with
        | (_, some f, s4) => s4.chFault ch f
        | (l, none, s4) =>
          let d : Desc := { a := ca, b := cb, len := (l.getD 0 0).toNat, evt := bit (l.getD 1 0) 0 }
          match s4.descFault (s4.channel ch) d with
          | some f => s4.chFault ch f
          | none => s4.setChannel ch { s4.channel ch with desc := some d }

/-- The channel has begun the descriptor at HEAD: the next EN goes on with it (R254, R258). -/
def State.chBegin (s : State) (ch : Nat) : State := s.setChannel ch { s.channel ch with begun := true }

/-! ## Moving data -/

/-- Bytes moved for the descriptor in progress. -/
def State.addDone (s : State) (ch n : Nat) : State :=
  let c := s.channel ch
  s.setChannel ch { c with done := c.done + n }

/-- Memory to memory: words one by one from A to B. -/
def State.moveM2m (s : State) (ch : Nat) (d : Desc) : Nat → State
  | 0 => s.setChannel ch { s.channel ch with moved := true }
  | n + 1 =>
    let off := (s.channel ch).done
    match s.chRead ch (d.a.w0.toNat + off) false with
    | (.error f, s1) => s1.chFault ch f
    | (.ok w, s1) =>
      match s1.chWrite ch (d.b.w0.toNat + off) w false with
      | (.error f, s2) => s2.chFault ch f
      | (.ok _, s2) => (s2.addDone ch 4).moveM2m ch d n

/-- The interface takes what a transmit channel's cells hold, which frees them for the rest of a descriptor longer than they (R252). -/
def State.takeOut (s : State) (ch : Nat) : State :=
  let c := s.channel ch
  s.setChannel ch { c with taken := c.taken ++ c.out, out := [] }

/-- Memory to cells: as many words as the cells take; where they are full the interface takes what they hold (R252). -/
def State.moveOut (s : State) (ch : Nat) (d : Desc) (n : Nat) : State :=
  let k := s.canTake ch n
  if k = 0 ∧ n ≠ 0 then s.takeOut ch else
  match s.chReads ch false (d.a.w0.toNat + (s.channel ch).done) k with
  | (l, f, s1) =>
    let c := s1.channel ch
    let s2 := s1.setChannel ch { c with out := c.out ++ l, done := c.done + 4 * l.length, moved := decide (d.len = 0) }
    match f with
    | some code => s2.chFault ch code
    | none => s2

/-- A memory write leaves for PCIe (R290). -/
def State.tlpWrite (s : State) (adr : Nat) (data : List Byte) : State := { s with pcie := { s.pcie with sent := s.pcie.sent ++ [.write adr data] } }

/-- Memory to PCIe: the buffer goes out as memory writes to PCIE_TXA[w] plus the running offset (R290); with the link
down the descriptor ends short (R297). -/
def State.movePcie (s : State) (ch w : Nat) (d : Desc) (n : Nat) : State :=
  if !s.pcie.up then s.setChannel ch { s.channel ch with moved := true, cut := true }
  else
    let off := (s.channel ch).done
    match s.chReads ch false (d.a.w0.toNat + off) n with
    | (l, f, s1) =>
      let c := s1.channel ch
      let s2 := (s1.setChannel ch { c with done := c.done + 4 * l.length, moved := f.isNone }).tlpWrite
        ((s1.pcie.txa.toList.getD w 0) + word off).toNat (l.flatMap fun v => leBytes 4 v.toNat)
      match f with
      | some code => s2.chFault ch code
      | none => s2

/-- The words of a record with whether each is poisoned. -/
def Record.marked (r : Record) : List (Word × Bool) :=
  let clean := r.words.length - r.poisoned
  (r.words.zip (List.range r.words.length)).map fun x => (x.1, decide (clean ≤ x.2))

/-- The cells take more of a record that the interface holds back (R252): what they hold of it, and what stays with the interface. -/
def State.refill (s : State) (ch : Nat) : State :=
  let c := s.channel ch
  match c.queue, c.stream with
  | [r], some q =>
    let (a, b) := q.split (s.canTake ch q.words.length)
    s.setChannel ch { c with
      queue := [{ r with words := r.words ++ a.words, poisoned := r.poisoned + a.poisoned }], stream := if b.words = [] then none else some b }
  | _, _ => s

/-- Cells to memory: the record at the front of the queue, up to the descriptor's end. A record that ends its
descriptor is cut at LEN (R284); a sample is deposited once its words are written (R252). The first argument counts the
records, and the parts of one, that may still be moved. -/
def State.moveIn (s : State) (ch : Nat) (d : Desc) : Nat → State
  | 0 => s
  | fuel + 1 =>
    let c := s.channel ch
    match c.queue with
    | [] => s
    | r :: rest =>
      let room := (d.len - c.done) / 4
      match s.chWrites ch (d.a.w0.toNat + c.done) (r.marked.take room) with
      | (n, some f, s1) =>
        let c1 := s1.channel ch
        (s1.setChannel ch { c1 with done := c1.done + 4 * n, queue := (r.split n).2 :: rest }).chFault ch f
      | (n, none, s1) =>
        let c1 := s1.channel ch
        let done := c1.done + 4 * n
        if r.ends then
          if c1.stream.isSome ∧ done < d.len then
            ((s1.setChannel ch { c1 with done := done, queue := [{ r with words := [], poisoned := 0 }] }).refill ch).moveIn ch d fuel
          else (s1.setChannel ch { c1 with done := done, queue := rest, stream := none, moved := true }).inputDone r
        else
          let whole := decide (n = r.words.length)
          let s2 := s1.setChannel ch { c1 with done := done, queue := if whole then rest else (r.split n).2 :: rest
                                               moved := decide (d.len ≤ done) }
          let s3 := match whole, r.sample with
            | true, some (m, epoch) => s2.sampleDone m epoch
            | _, _ => s2
          if d.len ≤ done then s3 else s3.moveIn ch d fuel

/-- Move the data of the descriptor in progress. -/
def State.moveDesc (s : State) (ch : Nat) : State :=
  let c := s.channel ch
  match c.desc with
  | none => s
  | some d =>
    if c.moved then s
    else
      let left := (d.len - c.done) / 4
      match c.ty with
      | 1 => s.moveM2m ch d left
      | 2 => if 0x108 ≤ c.endpoint ∧ c.endpoint < 0x110 then s.movePcie ch (c.endpoint - 0x108) d left else s.moveOut ch d left
      | 3 | 4 | 5 | 6 => if d.len = 0 ∧ c.ty = 6 then s.setChannel ch { c with moved := true } else s.moveIn ch d (c.queue.length + c.streamed)
      | _ => s

/-- A running channel takes the descriptor at HEAD and moves its data; with GATED it waits for a start first (R256). -/
def execDescriptorProcess (ch : Fin 512) (s : State) : Host.Outcome State Fault Refusal :=
  let c := s.channel ch
  let s1 := if c.st = .waitStart ∧ c.startWaiting ∧ c.posted ≠ 0 then
      s.setChannel ch { c with st := .run, startWaiting := false } else s
  let c1 := s1.channel ch
  if c1.st = .run ∧ c1.posted ≠ 0 then
    if c1.desc.isSome then .next (s1.moveDesc ch)
    else if s1.heldTx c1 then .next s1
    else .next (((s1.chBegin ch).takeDesc ch).moveDesc ch)
  else .next s1

/-- A descriptor whose data have been moved completes: DONE and STAT written, HEAD advanced, the event with EVT; after
it a GATED channel waits for a start (R254, R256). -/
def execDescriptorComplete (ch : Fin 512) (at_ : Nat) (s : State) : Host.Outcome State Fault Refusal :=
  let s1 := s.advance at_
  let c := s1.channel ch
  match c.desc with
  | none => .next s1
  | some d =>
    if !c.moved || decide (c.st ≠ .run) then .next s1
    else
      let stat := flagAt true 31 ||| flagAt c.cut 30
      match s1.chWrites ch (c.descAddr + 0x18) [(word c.done, false), (stat, false)] with
      | (_, some f, s2) => .next (if notYet ≤ f then s1 else s2.chFault ch f)
      | (_, none, s2) =>
        let c2 := s2.channel ch
        let s3 := s2.setChannel ch { c2 with
          head := c2.head + 1, desc := none, begun := false, done := 0, moved := false, cut := false
          st := if bit c2.cctrl 30 then .waitStart else .run }
        .next (if d.evt then s3.raiseN (chSource ch) else s3)

/-! ## Transmit descriptors as interfaces see them -/

/-- The channel of a TX endpoint whose descriptor has wholly been read into cells, with the words. -/
def State.txReady (s : State) (ep : Nat) : Option (Nat × List Word) :=
  match s.channelFor 2 ep with
  | none => none
  | some ch =>
    let c := s.channel ch
    match c.desc with
    | some d => if c.st = .run ∧ !c.moved ∧ d.len = c.done then some (ch, c.taken ++ c.out) else none
    | none => none

/-- The interface has sent a transmit descriptor's words; their cells are free. -/
def State.txSent (s : State) (ch : Nat) (cut : Bool) : State :=
  s.setChannel ch { s.channel ch with out := [], taken := [], moved := true, cut := cut }

/-! ## Fields and page registers -/

/-- CH_CMD STOP (R250). -/
def execChStop (who : Agent) (ch : Fin 512) (s : State) : Host.Outcome State Fault Refusal :=
  .next ((s.class0 who notACore).ifOwner who churnPage fun t => { t.chStop ch with churn := { t.churn with cmdStatus := 0 } })

/-- CH_CMD FLUSH (R250). -/
def execFlush (who : Agent) (ch : Fin 512) (s : State) : Host.Outcome State Fault Refusal :=
  .next ((s.class0 who notACore).ifOwner who churnPage fun t => { t.chFlush ch with churn := { t.churn with cmdStatus := 0 } })

/-- Another code of CH_CMD is refused (R250). -/
def execChCmdUnknown (who : Agent) (code : BitVec 4) (ch : Fin 512) (s : State) : Host.Outcome State Fault Refusal :=
  .next ((s.class0 who notACore).ifOwner who churnPage fun t =>
    if code = 1 then { t.chStop ch with churn := { t.churn with cmdStatus := 0 } }
    else if code = 2 then { t.chFlush ch with churn := { t.churn with cmdStatus := 0 } }
    else { t with churn := { t.churn with cmdStatus := 2 } })

/-- A write of CH_POOL: ignored above 12,288 plain cells, and where it would withdraw a cell that a channel holds
(R250, log entry 28). -/
def State.poolWrite (s : State) (v : Word) : State :=
  let p := fld v 13 0
  if 12288 < p ∨ 12288 - p < s.sharedUsed then s else { s with churn := { s.churn with plain := BitVec.ofNat 14 p } }

/-- A write of CH_POOL (R250). -/
def execChPoolWrite (who : Agent) (v : Word) (s : State) : Host.Outcome State Fault Refusal :=
  .next (s.ifOwner who churnPage fun t => t.poolWrite v)

/-- A write of TCAP for the tenant that TCAP_SEL selects (R250). -/
def State.tcapWrite (s : State) (v : Word) : State :=
  { s with churn := { s.churn with tcap := s.churn.tcap.put s.churn.tcapSel.toNat (v.setWidth 14) } }

/-- A write of TCAP (R250, R258). -/
def execTcapWrite (who : Agent) (v : Word) (s : State) : Host.Outcome State Fault Refusal :=
  .next (s.ifOwner who churnPage fun t => t.tcapWrite v)

/-- A write to a channel's CBIND: Headland only (R251, R252). -/
def execCbindWrite (ten : TenantId) (ch : Fin 512) (v : Word) (s : State) : Host.Outcome State Fault Refusal :=
  .next (orSame s (s.chWriteField ten ch 0 v))

/-- A write to a channel's CCTRL (R251, R256 to R258). -/
def execCctrlWrite (ten : TenantId) (ch : Fin 512) (v : Word) (s : State) : Host.Outcome State Fault Refusal :=
  .next (orSame s (s.chWriteField ten ch 1 v))

/-- A write to a channel's TAIL (R251, R257). -/
def execTailWrite (ten : TenantId) (ch : Fin 512) (v : Word) (s : State) : Host.Outcome State Fault Refusal :=
  .next (orSame s (s.chWriteField ten ch 4 v))

/-- A write to a word of a channel's CXE0 or CXE1 (R251, R253). -/
def execCxeWrite (ten : TenantId) (ch : Fin 512) (second : Bool) (word : Fin 4) (v : Word) (s : State) :
    Host.Outcome State Fault Refusal :=
  .next (orSame s (s.chWriteField ten ch ((if second then 12 else 8) + word.val) v))

/-- A write to a channel's START (R251, R256). -/
def execStartWrite (ten : TenantId) (ch : Fin 512) (v : Word) (s : State) : Host.Outcome State Fault Refusal :=
  .next (orSame s (s.chWriteField ten ch 16 v))

/-! ## The Undertow lane (R244 to R247) -/

/-- The page index of the mesh (R333). -/
def meshPage : Nat := 0x006

/-- A flit crosses a link: a waiting injection breaks its parity, which is detected, and the flit is sent again
(R342). -/
def State.flit (s : State) : State :=
  match s.takeInj meshPage 1 (fun w => decide (injKind w = 1)) with
  | (some _, s1) => s1.detect meshPage 1 true
  | (none, s1) => s1

/-- The packet that goes first at a port: the lowest class, and in it the oldest (R245). -/
def firstPacket (port : Nat) : List UPacket → Option UPacket
  | [] => none
  | p :: r =>
    match firstPacket port r with
    | some q => if p.port = port ∧ p.cls ≤ q.cls then some p else some q
    | none => if p.port = port then some p else none

/-- How many of a link's last 16 cycles classes 1 to 3 took (R246). -/
def Undertow.taken (u : Undertow) (port : Nat) : Nat := ((u.recent.get (fun _ => []) port).filter id).length

/-- The history of a port's link with one more cycle. -/
def Undertow.note (u : Undertow) (port : Nat) (b : Bool) : Undertow :=
  { u with recent := u.recent.put port ((b :: u.recent.get (fun _ => []) port).take 16) }

/-- A packet crosses a hop at a port: class 0 always; classes 1 to 3 ahead of a waiting data flit only while they took
fewer than 2 of the link's last 16 cycles. Whether a data flit waits is a free choice (R246, log entry 29). -/
def execUndertowPacket (port : Fin 131) (s : State) : Host.Outcome State Fault Refusal :=
  let (waits, s1) := s.flit.drawBelow 2
  let data := decide (waits = 1)
  let u := s1.undertow
  match firstPacket port u.held with
  | none => .next { s1 with undertow := u.note port false }
  | some p =>
    if p.cls = 0 ∨ !data ∨ u.taken port < 2 then
      let u1 := { u with held := u.held.erase p, crossed := (p :: u.crossed).take 16 }
      .next { s1 with undertow := (u1.note port (decide (p.cls ≠ 0))).fill }
    else .next { s1 with undertow := u.note port false }

end Sys2Proof.Machine
end

