-- ==== Sys2Proof/Machine/Afmus.lean ====
section
/-! DEFINITION. Afmus Link (R259 to R282): cycles, frames and beacons, partners and positions, records and outputs
through the Churn, violations, and the link page's commands. Code groups, CRC words and tags on the wire are outside
the model: a command brings their outcomes. -/

namespace Sys2Proof.Machine

/-- The page index of a link (R333). -/
def linkPage (l : Nat) : Nat := 0x020 + l

/-- Change a link. -/
def State.modLink (s : State) (l : Nat) (f : Link → Link) : State := s.setLink l (f (s.link l))

/-- Change a position of a link. -/
def State.modPos (s : State) (l p : Nat) (f : Position → Position) : State :=
  s.modLink l fun x => x.setPos p (f (x.pos p))

/-- The positions 1 to 30. -/
def posRange : List Nat := (List.range 31).drop 1

/-- The endpoint of a position's channels (R273). -/
def linkEndpoint (l p : Nat) : Nat := 0x400 + 32 * l + p

/-! ## LCTRL and LPERIOD -/

/-- AUTH. -/
def Link.auth (x : Link) : Bool := bit x.lctrl 30

/-- JMAX. -/
def lctrlJmax (v : Word) : Nat := fld v 15 12

/-- TIDE. -/
def lctrlTide (v : Word) : Nat := fld v 27 24

/-- QTH: 0 is read as 1. -/
def Link.qth (x : Link) : Nat := max (fld x.lctrl 7 0) 1

/-- The symbols of the worst-case frame under an LCTRL, with the sizes of one more position (R267). -/
def Link.worst (x : Link) (lctrl : Word) (extra : List (Nat × Nat)) : Nat :=
  let sizes := ((posRange.filter fun p => decide ((x.pos p).st ≠ .absent)).map fun p => ((x.pos p).maxIn, (x.pos p).maxOut)) ++ extra
  2 + 28 + 18 + (sizes.map fun z => 6 + z.2).sum + (sizes.map fun z => 9 + 2 * (4 + z.1)).sum + 51 * lctrlJmax lctrl
    + (if bit lctrl 30 then 16 * sizes.length else 0)

/-- The worst-case frame fits: S × 40 ns + LOOP ≤ P − 2 µs, in tide ticks; P is LPERIOD.TIME, or for tide mode the
period at the tide's current rate less 10 % (R267). -/
def State.frameFits (s : State) (l : Nat) (lctrl lperiod : Word) (extra : List (Nat × Nat)) : Bool :=
  let x := s.link l
  let need := x.worst lctrl extra * 288 + x.loopSeen + 14400
  if bit lctrl 28 then
    let (n, d) := s.tideRate (lctrlTide lctrl)
    decide ((need : Int) * 10 * fld lperiod 31 20 * n ≤ 9 * 2 ^ 56 * d)
  else decide (need ≤ fld lperiod 16 0 * 72)

/-- An LCTRL value is refused: JMAX above 8, AUTH without its feature, a link enabled on a disabled tide, or a
worst-case frame that would not fit (R267, R277, R278). -/
def State.lctrlBad (s : State) (l : Nat) (v : Word) : Bool :=
  decide (8 < lctrlJmax v) || (bit v 30 && !bit (s.frame (linkPage l)).active 0)
    || (bit v 31 && !(s.tide (lctrlTide v)).en) || !s.frameFits l v (s.link l).lperiodNext []

/-- An LPERIOD value is refused (R267, R278). -/
def State.lperiodBad (s : State) (l : Nat) (v : Word) : Bool :=
  decide (fld v 31 20 = 0) || decide (fld v 16 0 < 1000) || decide (100000 < fld v 16 0)
    || !s.frameFits l (s.link l).lctrlNext v []

/-- A link that runs cycles. -/
def Link.cycling (x : Link) : Bool := x.link = .up || x.link = .down

/-- Every position that is not ABSENT becomes LEFT (R279, R282). -/
def Link.allLeft (x : Link) : Link :=
  posRange.foldl (fun y p => if (y.pos p).st = .absent then y else y.setPos p { y.pos p with st := .left }) x

/-- Transmission stops: the link is OFF and every position LEFT (R279). -/
def Link.stop (x : Link) : Link :=
  { x.allLeft with
    link := .off, started := false, closed := true, frozen := false, retrain := false, lctrl := x.lctrlNext, lperiod := x.lperiodNext }

/-- EN was cleared and set again within a cycle: at its end the link stops and is in TRAINING (R279, R282). -/
def Link.restart (x : Link) : Link := { x.stop with link := .training, silent := 0 }

/-- An LCTRL write (R267, R277, R279, R282): refused with PREF, or applied from the next start. A set EN advances SESSION and starts
TRAINING, of a link that still runs a cycle at its end; a cleared EN stops the link at the end of the cycle. -/
def State.lctrlPut (s : State) (l : Nat) (v : Word) : State :=
  let v := v &&& 0xFFFFF0FF#32
  if s.lctrlBad l v then s.modLink l fun x => { x with pref := true }
  else s.modLink l fun x =>
    let x1 := { x with lctrlNext := v, pref := false }
    let runs := x.cycling && x.started
    if bit v 31 && !bit x.lctrlNext 31 then
      if runs then { x1 with retrain := true, session := x.session + 1 }
      else { x1 with lctrl := v, lperiod := x.lperiodNext, link := .training, session := x.session + 1, started := false, silent := 0 }
    else if !bit v 31 then if runs then { x1 with retrain := false } else x1.stop
    else if x.cycling then x1
    else { x1 with lctrl := v }

/-- An LPERIOD write (R267, R282). -/
def State.lperiodPut (s : State) (l : Nat) (v : Word) : State :=
  let v := v &&& 0xFFF1FFFF#32
  if s.lperiodBad l v then s.modLink l fun x => { x with pref := true }
  else s.modLink l fun x =>
    { x with lperiodNext := v, pref := false, lperiod := if x.cycling then x.lperiod else v }

/-- A write of LCTRL (R278). -/
def execLctrlWrite (who : Agent) (l : Fin 4) (v : Word) (s : State) : Host.Outcome State Fault Refusal :=
  .next (s.ifOwner who (linkPage l) fun t => t.lctrlPut l v)

/-- A write of LPERIOD (R278). -/
def execLperiodWrite (who : Agent) (l : Fin 4) (v : Word) (s : State) : Host.Outcome State Fault Refusal :=
  .next (s.ifOwner who (linkPage l) fun t => t.lperiodPut l v)

/-! ## The position commands (R279) -/

/-- The result of an LCMD: DONE, or REFUSED with a reason (1 wrong state, 2 unknown, 3 POS out of range). -/
def Link.cmdDone (x : Link) (reason : Nat) : Link :=
  { x with cmdReason := BitVec.ofNat 4 reason, cmdResult := if reason = 0 then 0 else 2 }

/-- An LCMD on a position: accepted in some states, with its effect. -/
def State.lcmd (s : State) (l : Nat) (pos : BitVec 5) (ok : Position → Bool) (f : Position → Position) : State :=
  s.modLink l fun x =>
    let p := pos.toNat
    if p = 0 ∨ 30 < p then x.cmdDone 3
    else if ok (x.pos p) then (x.setPos p (f (x.pos p))).cmdDone 0
    else x.cmdDone 1

/-- BIND: an ABSENT position that is not bound takes the identity of BIND_LO and BIND_HI. -/
def execBind (who : Agent) (l : Fin 4) (pos : BitVec 5) (s : State) : Host.Outcome State Fault Refusal :=
  .next (s.ifOwner who (linkPage l) fun t =>
    let x := t.link l
    t.lcmd l pos (fun p => decide (p.st = .absent) && !p.bound) fun p => { p with bound := true, ident := x.bindHi ++ x.bindLo })

/-- UNBIND: an ABSENT position loses its binding. -/
def execUnbind (who : Agent) (l : Fin 4) (pos : BitVec 5) (s : State) : Host.Outcome State Fault Refusal :=
  .next (s.ifOwner who (linkPage l) fun t =>
    t.lcmd l pos (fun p => decide (p.st = .absent)) fun p => { p with bound := false, ident := 0 })

/-- EVICT: ABSENT at the next cycle start. -/
def execEvict (who : Agent) (l : Fin 4) (pos : BitVec 5) (s : State) : Host.Outcome State Fault Refusal :=
  .next (s.ifOwner who (linkPage l) fun t =>
    t.lcmd l pos (fun p => decide (p.st ≠ .absent)) fun p => { p with cmd := .evict })

/-- QUARANTINE: QUARANTINED at the next cycle start. -/
def execQuarantine (who : Agent) (l : Fin 4) (pos : BitVec 5) (s : State) : Host.Outcome State Fault Refusal :=
  .next (s.ifOwner who (linkPage l) fun t =>
    t.lcmd l pos (fun p => decide (p.st = .verifying) || decide (p.st = .active) || decide (p.st = .left)) fun p =>
      { p with cmd := .quarantine })

/-- RELEASE: VERIFYING at the next cycle start. -/
def execLinkRelease (who : Agent) (l : Fin 4) (pos : BitVec 5) (s : State) : Host.Outcome State Fault Refusal :=
  .next (s.ifOwner who (linkPage l) fun t =>
    t.lcmd l pos (fun p => decide (p.st = .quarantined)) fun p => { p with cmd := .release })

/-- KEYCLR: erases the position's key. -/
def execKeyclr (who : Agent) (l : Fin 4) (pos : BitVec 5) (s : State) : Host.Outcome State Fault Refusal :=
  .next (s.ifOwner who (linkPage l) fun t => t.lcmd l pos (fun _ => true) fun p => { p with key := none })

/-- Another code of LCMD is refused with REASON 2. -/
def execLcmdUnknown (who : Agent) (l : Fin 4) (code : BitVec 4) (pos : BitVec 5) (s : State) : Host.Outcome State Fault Refusal :=
  if code = 1 then execBind who l pos s
  else if code = 2 then execUnbind who l pos s
  else if code = 3 then execEvict who l pos s
  else if code = 4 then execQuarantine who l pos s
  else if code = 5 then execLinkRelease who l pos s
  else if code = 6 then execKeyclr who l pos s
  else .next (s.ifOwner who (linkPage l) fun t => t.modLink l fun x => x.cmdDone 2)

/-- A write of a key word; AKEY7 stores the key for PSEL (R278). -/
def State.akeyPut (s : State) (l k : Nat) (v : Word) : State :=
  s.modLink l fun x =>
    let x1 := { x with akey := x.akey.setIfInBounds k v }
    if k = 7 then x1.setPos x.psel.toNat { x1.pos x.psel.toNat with key := some x1.akey } else x1

/-- A write of AKEY7 (R277, R278). -/
def execAkeyWrite (who : Agent) (l : Fin 4) (v : Word) (s : State) : Host.Outcome State Fault Refusal :=
  .next (s.ifOwner who (linkPage l) fun t => t.akeyPut l 7 v)

/-! ## Violations (R275, R276) -/

/-- E0 of a log entry. -/
def vlogE0 (seq pos kind answer : Nat) : Word := at_ seq 16 ||| at_ pos 8 ||| at_ kind 4 ||| at_ answer 0

/-- Log a violation: a further consecutive occurrence counts in REPEAT; else a new entry of the ring, with event VIOL. -/
def State.vlogPut (s : State) (l pos kind answer off : Nat) : State :=
  let x := s.link l
  let same := match x.vlog.getLast? with
    | some e => decide (fld e.1 15 0 = fld (vlogE0 0 pos kind answer) 15 0)
    | none => false
  if same then
    s.modLink l fun y => { y with vlog := y.vlog.dropLast ++ (y.vlog.getLast?.toList.map fun e =>
      (e.1, withFld e.2 31 24 (min (fld e.2 31 24 + 1) 255))) }
  else
    let e := (vlogE0 (fld x.cycle 15 0) pos kind answer, at_ (off % 2 ^ 24) 0)
    let all := x.vlog ++ [e]
    (s.modLink l fun y => { y with vlog := all.drop (all.length - 256), vlogCount := y.vlogCount + 1 }).raiseN (linkSource l 3)

/-- A violation: logged, and counted toward quarantine where its kind counts and it names a position; the one that takes the block's count
to QTH or beyond is logged as QUARANTINE and applies at the next start (R276, R282). -/
def State.violation (s : State) (l pos kind answer off : Nat) (counts : Bool) : State :=
  let s0 := if kind = 1 then s.detect (linkPage l) 1 else s
  if counts && decide (1 ≤ pos) && decide (pos ≤ 30) then
    let p := (s0.link l).pos pos
    let n := p.blockViol + 1
    let quar := decide ((s0.link l).qth ≤ n) && decide (p.st ≠ .absent) && !p.reached
    let s1 := s0.modPos l pos fun q => { q with viol := satInc q.viol, blockViol := n, reached := q.reached || quar }
    let s2 := s1.vlogPut l pos kind (if quar then 4 else answer) off
    if quar then s2.raiseN (linkSource l 4) else s2
  else s0.vlogPut l pos kind answer off

/-! ## Cycles (R265, R266) -/

/-- What an accepted command, and violations that reached QTH, do to a position at a cycle start (R276, R279, R282). -/
def Position.atStart (p : Position) : Position :=
  let q := match p.cmd with
    | .none => p
    | .evict => { Position.reset with bound := p.bound, key := p.key, ident := if p.bound then p.ident else 0, viol := p.viol, naks := p.naks }
    | .quarantine => { p with st := .quarantined, cmd := .none }
    | .release => { p with st := .verifying, validRun := 0, misses := 0, cmd := .none }
  if q.reached ∧ q.st ≠ .absent then { q with st := .quarantined, reached := false } else q

/-- FLAGS of a position's segment (R262, R269). -/
def Position.flags (p : Position) : BitVec 8 :=
  (if p.st = .active ∧ p.outNew then 1#8 else 0) ||| (if p.nak then 2#8 else 0) ||| (if p.st = .quarantined then 4#8 else 0)
    ||| (if p.st = .active then 8#8 else 0)

/-- The data of a position's segment: outputs only for an ACTIVE one (R269). -/
def Position.data (p : Position) : List Byte := if p.st = .active then p.output else []

/-- A position after its segment has gone out: NAK and NEW are sent once. -/
def Position.sent (p : Position) : Position :=
  if p.st = .absent then p
  else { p with nak := false, outNew := if p.st = .active then false else p.outNew, naks := if p.nak then satInc p.naks else p.naks }

/-- The link with its positions changed. -/
def Link.mapPos (x : Link) (f : Nat → Position → Position) : Link :=
  { x with positions := ⟨x.positions.cells.map fun e => (e.1, f e.1 e.2)⟩ }

/-- The positions that are not ABSENT, in ascending order. -/
def Link.present (x : Link) : List Nat := posRange.filter fun p => decide ((x.pos p).st ≠ .absent)

/-- The bytes of a segment without its TAG (R262). -/
def Segment.bytes (g : Segment) : List Byte :=
  [g.pos, g.flags] ++ leBytes 2 g.len.toNat ++ leBytes 2 g.ack.toNat ++ g.data

/-- The bytes of a segment with its TAG. -/
def Segment.all (g : Segment) : List Byte := g.bytes ++ (g.tag.toList.flatMap fun v => leBytes 8 v.toNat)

/-- The bytes of an ASSIGN entry (R262). -/
def Assign.bytes (a : Assign) : List Byte := leBytes 8 a.ident.toNat ++ [BitVec.ofNat 8 a.pos, BitVec.ofNat 8 a.result, 0, 0]

/-- Offsets 0 to 23 of the device part (R262). -/
def DevicePart.head (d : DevicePart) : List Byte :=
  [d.kind, d.linkf] ++ leBytes 2 d.seq.toNat ++ [d.nseg, d.jmax] ++ leBytes 2 d.dlen.toNat ++ d.beacon.toList.flatMap fun w => leBytes 4 w.toNat

/-- CRC-32C of bytes: seed and final inversion as R262 gives them. -/
def crc32c (l : List Byte) : Word := ~~~(l.foldl crcByte 0xFFFFFFFF#32)

/-- The device part with its segments and its CRC (R262). -/
def DevicePart.close (d : DevicePart) (segs : List Segment) : DevicePart :=
  { d with segs := segs, crc := crc32c (d.head ++ segs.flatMap Segment.all) }

/-- The byte offset of the CRC in a frame. -/
def DevicePart.crcAt (d : DevicePart) : Nat := 24 + d.dlen.toNat

/-- The IV of a tag from the device (R277). -/
def Link.iv (x : Link) (pos : BitVec 8) : List Byte := leBytes 4 x.session.toNat ++ leBytes 4 x.cycle.toNat ++ [0, pos, 0, 0]

/-- The TAG of a position's segment under AUTH; a position without a key has no stated tag (R277, log entry 85). -/
def State.segTag (s : State) (x : Link) (head : List Byte) (key : Option (Vector Word 8)) (g : Segment) : Option (BitVec 64) × State :=
  if !x.auth then (none, s)
  else match key with
    | some k => (some (Config.gmac k (x.iv g.pos) (head ++ g.bytes)), s)
    | none =>
      let (a, s1) := s.drawWord
      let (b, s2) := s1.drawWord
      (some (a ++ b), s2)

/-- ACKSEQ of a position; one that has had no record accepted has no stated ACKSEQ (R262, log entry 5). -/
def State.ackOf (s : State) (p : Position) : BitVec 16 × State :=
  match p.ackSeq with
  | some a => (a, s)
  | none => let (w, s1) := s.drawWord; (w.setWidth 16, s1)

/-- The segments of positions in order (R262). -/
def State.segments (s : State) (x : Link) (head : List Byte) : List Nat → List Segment × State
  | [] => ([], s)
  | n :: r =>
    let p := x.pos n
    let (ack, s1) := s.ackOf p
    let g : Segment :=
      { pos := BitVec.ofNat 8 n, flags := p.flags, len := BitVec.ofNat 16 p.data.length, ack := ack, data := p.data, tag := none }
    let (tag, s2) := s1.segTag x head p.key g
    let (l, s3) := s2.segments x head r
    ({ g with tag := tag } :: l, s3)

/-- The control segment, when an ASSIGN entry is pending (R262); its ACKSEQ has no stated value. -/
def State.controlSeg (s : State) (l : List Assign) : List Segment × State :=
  if l.isEmpty then ([], s)
  else
    let (w, s1) := s.drawWord
    ([{ pos := 0xFF, flags := 0, len := BitVec.ofNat 16 (12 * l.length), ack := w.setWidth 16, data := l.flatMap Assign.bytes, tag := none }], s1)

/-- The device part before its segments (R262): in a CYCLE frame no JOIN is admitted. -/
def Link.partHead (x : Link) (l : Nat) (beacon : Vector Word 4) (roll : Bool) (assigns : List Assign) : DevicePart :=
  let ps := x.present
  let ctl := if assigns.isEmpty then 0 else 6 + 12 * assigns.length
  { kind := if roll then 2 else 1, linkf := BitVec.ofNat 8 (64 * l + if x.auth then 32 else 0), seq := x.cycle.setWidth 16
    nseg := BitVec.ofNat 8 (ps.length + if assigns.isEmpty then 0 else 1), jmax := if roll then BitVec.ofNat 8 (lctrlJmax x.lctrl) else 0
    dlen := BitVec.ofNat 16 (ctl + (ps.map fun n => 6 + (x.pos n).data.length + if x.auth then 8 else 0).sum)
    beacon := beacon, segs := [], crc := 0 }

/-- The beacon's tide gives the starts: PMODE 1, a tide that runs, and less than 1 ms since the last start (R265). -/
def State.tideStarts (s : State) (l : Nat) : Bool :=
  let x := s.link l
  bit x.lctrlNext 28 && !(s.tide (lctrlTide x.lctrlNext)).still && decide (s.now < x.lastStart + 7200000)

/-- How many start phases round(k × 2^24 / DIV) lie at or before a phase in ripples, counted from turn 0 (R265). -/
def startsUpTo (div : Nat) (q : Int) : Int :=
  let p := (q % 2 ^ 24).toNat
  floorDiv q (2 ^ 24) * div + ((2 * p + 1) * div + (2 ^ 25 - 1) : Nat) / 2 ^ 25

/-- The prediction of a link's tide reaches a start phase at this tick (R265). -/
def State.startPhase (s : State) (l : Nat) : Bool :=
  let x := s.link l
  let n := fun t => startsUpTo (fld x.lperiodNext 31 20) (floorDiv (s.phaseAt (lctrlTide x.lctrlNext) t) (2 ^ 32))
  decide (0 < s.now) && decide (n s.now ≠ n (s.now - 1))

/-- The period of a link's cycles in ticks: of its start phases at the tide's current rate, or LPERIOD.TIME (R265, R266). -/
def State.linkPeriod (s : State) (l : Nat) : Nat :=
  let x := s.link l
  let (n, d) := s.tideRate (lctrlTide x.lctrlNext)
  if s.tideStarts l ∧ 0 < n then (floorDiv (2 ^ 56 * d) (n * fld x.lperiodNext 31 20)).toNat else fld x.lperiodNext 16 0 * 72

/-- Start a cycle: accepted writes and commands apply, the counter advances, the beacon and the device part are formed
(R262, R263, R265, R266, R270). -/
def State.startCycle (s : State) (l : Nat) : State :=
  let x := s.link l
  let cyc := x.cycle + 1
  let x1 : Link := { x with
    lctrl := x.lctrlNext, lperiod := x.lperiodNext, cycle := cyc
    session := if cyc = 0 then x.session + 1 else x.session
    silent := if x.started ∧ x.loop = 0xFFFFFFFF#32 then x.silent + 1 else 0 }
  let x2 := x1.mapPos fun _ p =>
    let q := p.atStart
    if cyc.toNat % 1024 = 0 then { q with blockViol := 0 } else q
  let t := lctrlTide x2.lctrl
  let roll := x2.rollNext || decide (max (fld x2.lctrl 23 16) 1 ≤ x2.sinceRoll + 1)
  let (bad, s1) := match s.takeInj (linkPage l) 1 (fun w => decide (injKind w = 1)) with
    | (some _, u) => (true, u)
    | (none, u) => (false, u)
  let d := x2.partHead l #v[s.tideWord t, s.tidePeriod t, x.loop, at_ t 28 ||| at_ (s.tide t).st.code 24] roll x2.assigns
  let (ctl, s2) := s1.controlSeg x2.assigns
  let (segs, s3) := s2.segments x2 d.head x2.present
  s3.setLink l (({ x2 with
    part := d.close (ctl ++ segs), assigns := [], roll := roll, rollNext := false, sinceRoll := if roll then 0 else x2.sinceRoll + 1
    lastStart := s.now, deadline := s.now + s.linkPeriod l - 14400, started := true, closed := false, frozen := false, badCrc := bad
    loop := 0xFFFFFFFF#32 } : Link).mapPos fun _ p => p.sent)

/-- Whether a start falls at this tick (R265): in tide mode at a start phase, some true, but one less than 10 µs after the previous start
is skipped, some false; by TIME once the period has passed. The first start of a link waits for no period. -/
def State.startDue (s : State) (l : Nat) : Option Bool :=
  let x := s.link l
  if s.tideStarts l then
    if !s.startPhase l then none else some (!x.started || decide (x.lastStart + 72000 ≤ s.now))
  else if x.started && decide (s.now < x.lastStart + fld x.lperiodNext 16 0 * 72) then none
  else some true

/-- A cycle start (R265): none falls at a tick that is no start's, and a skipped one is counted; a cleared EN ends the cycles at the end
of the running one, and one that was set again then puts the link in TRAINING (R279). -/
def execCycleStart (l : Fin 4) (at_ : Nat) (s : State) : Host.Outcome State Fault Refusal :=
  let s1 := s.advance at_
  let x := s1.link l
  if !x.cycling then .next s1
  else match s1.startDue l with
    | none => .next s1
    | some false => .next (s1.modLink l fun y => { y with skip := satInc y.skip })
    | some true =>
      if !bit x.lctrlNext 31 then .next (s1.modLink l Link.stop)
      else if x.retrain then .next (s1.modLink l Link.restart)
      else .next (s1.startCycle l)

/-- The bytes of words, least significant first, cut to a length. -/
def bytesOf (ws : List Word) (len : Nat) : List Byte :=
  (ws.flatMap fun w => [w.extractLsb' 0 8, w.extractLsb' 8 8, w.extractLsb' 16 8, w.extractLsb' 24 8]).take len

/-- Words of bytes, padded with zero bytes. -/
def wordsOf : List Byte → List Word
  | [] => []
  | [a] => [(0#24 ++ a : Word)]
  | [a, b] => [(0#16 ++ b ++ a : Word)]
  | [a, b, c] => [(0#8 ++ c ++ b ++ a : Word)]
  | a :: b :: c :: d :: r => (d ++ c ++ b ++ a : Word) :: wordsOf r

/-- The freeze point of a position: a transferred output is loaded and its descriptor completes, unless one that was loaded has still to
be sent, or sent again; without a channel that runs LEN 0 is sent (R274, R282). -/
def State.freezePos (s : State) (l p : Nat) : State :=
  let empty := fun (q : Position) => { q with output := [], outNew := false, loaded := false }
  match s.channelFor 2 (linkEndpoint l p) with
  | none => s.modPos l p empty
  | some ch =>
    let c := s.channel ch
    if c.st = .stopped ∨ c.st = .stale then s.modPos l p empty
    else match ((s.link l).pos p).outNew, s.txReady (linkEndpoint l p) with
      | false, some (k, ws) =>
        let len := (c.desc.map (·.len)).getD 0
        (s.txSent k false).modPos l p fun q => { q with output := bytesOf ws len, outNew := true, loaded := true }
      | _, _ => s.modPos l p fun q => { q with loaded := false }

/-- The freeze point, once for each start and not before 1 µs before it may fall: by TIME 1 µs before the period ends, in tide mode 1 µs
before 10 µs have passed (R265, R266, R274). -/
def execFreezePoint (m : LinkMoment) (s : State) : Host.Outcome State Fault Refusal :=
  let l := m.link
  let s1 := s.advance m.tick
  let x := s1.link l
  let wait := if s1.tideStarts l then 72000 else fld x.lperiodNext 16 0 * 72
  if !x.cycling || x.frozen || (x.started && decide (s1.now + 7200 < x.lastStart + wait)) then .next s1
  else .next ((x.present.foldl (fun t p => t.freezePos l p) s1).modLink l fun y => { y with frozen := true })

/-! ## Input records (R272, R273) -/

/-- a is newer than b among 16-bit cycle numbers. -/
def newer (a b : BitVec 16) : Bool := decide (0 < (a - b).toInt)

/-- The words of an input record. -/
def inputRecord (l p : Nat) (cseq sseq : BitVec 16) (stale late verify gap : Bool) (data : List Byte) : List Word :=
  (at_ cseq.toNat 16 ||| flagAt stale 15 ||| flagAt late 14 ||| flagAt verify 13 ||| flagAt gap 12 ||| at_ l 5 ||| at_ p 0)
    :: (at_ sseq.toNat 16 ||| at_ data.length 0) :: wordsOf data

/-- Deposit one input record of a position: whether it was taken. A position without an input channel discards it. -/
def State.depositInput (s : State) (l p : Nat) (sseq : BitVec 16) (stale : Bool) (data : List Byte) : Bool × State :=
  let x := s.link l
  let q := x.pos p
  let cseq : BitVec 16 := x.cycle.setWidth 16
  let gap := match q.depSeq with
    | some d => decide (sseq ≠ d + 1)
    | none => false
  match s.channelFor 4 (linkEndpoint l p) with
  | none => (true, s)
  | some ch =>
    let ws := inputRecord l p cseq sseq stale (newer cseq sseq) (decide (q.st = .verifying)) gap data
    match s.deposit ch { words := ws, poisoned := 0, ends := true, sample := none, cycle := some (l, x.cycle) } with
    | (true, s1) => (true, s1.modPos l p fun y => { y with depSeq := some sseq })
    | (false, s1) => (false, s1)

/-- Accept the records of an append in order: those newer than ACKSEQ are deposited, and the first that finds no cell is
NAKed. Answers whether any was accepted. -/
def State.acceptRecords (s : State) (l p : Nat) : List (Nat × Nat × List Byte) → Bool × State
  | [] => (false, s)
  | (sq, _, data) :: r =>
    let sseq := BitVec.ofNat 16 sq
    let fresh := match ((s.link l).pos p).ackSeq with
      | some a => newer sseq a
      | none => true
    if !fresh then s.acceptRecords l p r
    else match s.depositInput l p sseq false data with
      | (true, s1) =>
        let s2 := s1.modPos l p fun q => { q with ackSeq := some sseq, lastData := data }
        (true, (s2.acceptRecords l p r).2)
      | (false, s1) => (false, s1.modPos l p fun q => { q with nak := true })

/-! ## Appends (R264, R270, R271, R275) -/

/-- What the parsing of a frame has met: the positions with an append, those with a valid one, those that accepted a
record, the rank reached, the JOINs, and whether parsing has stopped. -/
structure Parse where
  seen : List Nat
  valid : List Nat
  fresh : List Nat
  rank : Nat
  order : List (Option Nat × BitVec 64)
  joins : List Append
  stopped : Bool
deriving DecidableEq, Repr

/-- A position's append has been met: it takes its place in the frame's order, its first one for good. -/
def Parse.met (z : Parse) (p : Nat) : Parse :=
  { z with seen := p :: z.seen, order := if z.order.contains (some p, 0) then z.order else z.order ++ [(some p, 0)] }

/-- The frame carried a position's output as NEW. -/
def Link.sentNew (x : Link) (p : Nat) : Bool := x.part.segs.any fun g => decide (g.pos.toNat = p) && g.flags.getLsbD 0

/-- A valid DATA append of a position (R271): BADRX sends again an output that the frame carried as NEW (R274). -/
def State.validAppend (s : State) (l p : Nat) (a : Append) : State :=
  let q := (s.link l).pos p
  let run := if q.st = .joining ∨ q.st = .left then 1 else q.validRun + 1
  let joined := decide (q.st = .verifying) && decide (4 ≤ run)
  let st := if q.st = .joining ∨ q.st = .left then PosState.verifying else if joined then .active else q.st
  let s1 := s.modPos l p fun y => { y with st := st, validRun := run, misses := 0, quiet := 0, outNew := y.outNew || (a.badRx && (s.link l).sentNew p) }
  if joined then s1.raiseN (linkSource l 1) else s1

/-- One append in chain order. -/
def State.parseAppend (s : State) (l : Nat) (z : Parse) (a : Append) : State × Parse :=
  if z.stopped then (s, z)
  else
    let x := s.link l
    let p := a.pos.toNat
    let named := decide (1 ≤ p) && decide (p ≤ 30)
    let attr := if named then p else 0
    let (inj, s1) := match s.takeInj (linkPage l) 1 (fun w => decide (injKind w = 2) && decide (fld w 4 0 = p)) with
      | (some _, u) => (true, u)
      | (none, u) => (false, u)
    let crcOk := a.crcOk && !inj
    let tagOk := a.tagOk || !x.auth
    if named && decide ((x.pos p).st = .quarantined) then (s1, z.met p)
    else if !crcOk then
      let s2 := s1.violation l attr 1 1 a.offset true
      if named then (s2.modPos l attr fun q => { q with nak := true }, if (x.pos p).st = .absent then z else z.met p) else (s2, z)
    else if a.kind = 2 then
      if !x.roll then (s1.violation l 0 7 2 a.offset true, z)
      else if !tagOk then (s1.violation l 0 8 2 a.offset true, z)
      else if 8 < a.descs.length then (s1.violation l 0 5 2 a.offset true, z)
      else (s1, { z with joins := z.joins ++ [a], order := z.order ++ [(none, a.ident)] })
    else if a.kind ≠ 1 then (s1.violation l attr 2 1 a.offset true, { z with stopped := true })
    else if !named then (s1.violation l 0 7 2 a.offset true, z)
    else
      let q := x.pos p
      let nakIt := fun (u : State) => u.modPos l p fun y => { y with nak := true }
      if q.st = .absent then (s1.violation l p 7 2 a.offset true, z)
      else if !tagOk then (nakIt (s1.violation l p 8 2 a.offset true), z.met p)
      else if z.seen.contains p ∨ (!x.roll ∧ q.rank.toNat < z.rank) then
        (nakIt (s1.violation l p 3 2 a.offset true), z.met p)
      else if 2 < a.nrec ∨ a.records.any (fun r => decide (q.maxIn < r.2.1)) then
        (nakIt (s1.violation l p 5 2 a.offset true), { z.met p with rank := q.rank.toNat })
      else
        let s2 := s1.validAppend l p a
        let (got, s3) := s2.acceptRecords l p a.records
        (s3, { z.met p with valid := p :: z.valid, fresh := if got then p :: z.fresh else z.fresh, rank := q.rank.toNat })

/-- The appends of a frame in chain order. -/
def State.parseAll (s : State) (l : Nat) (z : Parse) : List Append → State × Parse
  | [] => (s, z)
  | a :: r => let (s1, z1) := s.parseAppend l z a; s1.parseAll l z1 r

/-! ## Joining (R270) -/

/-- The sum of the bytes of a JOIN's descriptors of a direction: false inputs, true outputs (R264). -/
def descBytes (out : Bool) (l : List Word) : Nat := ((l.filter fun d => bit d 24 == out).map fun d => fld d 15 0).sum

/-- A position takes an identity: JOINING, its ASSIGN sent once (R270). -/
def Position.join (p : Position) (a : Append) : Position :=
  { p with st := .joining, ident := a.ident, version := a.version, descs := a.descs, maxIn := descBytes false a.descs
           maxOut := descBytes true a.descs, sends := 1, quiet := 0, misses := 0, validRun := 0, ackSeq := none, depSeq := none
           lastData := [], output := [], outNew := false, loaded := false, nak := false }

/-- Put an ASSIGN entry for the next frame. -/
def State.assign (s : State) (l : Nat) (ident : BitVec 64) (pos result : Nat) : State :=
  s.modLink l fun x => { x with assigns := x.assigns ++ [{ ident := ident, pos := pos, result := result }] }

/-- Accept a JOIN at a position if the worst-case frame fits, else BUDGET. -/
def State.letIn (s : State) (l p : Nat) (a : Append) : State :=
  let x := s.link l
  if s.frameFits l x.lctrlNext x.lperiodNext [(descBytes false a.descs, descBytes true a.descs)] then
    (s.modPos l p fun q => q.join a).assign l a.ident p 0
  else s.assign l a.ident 0 4

/-- Answer one JOIN by the first row of R270 that applies; under AUTH only an identity bound to a position that holds a key is admitted
(R277). A QUARANTINED position keeps its state (R276). A DUPLICATE marks each position whose identity it names (R278). -/
def State.answerJoin (s : State) (l : Nat) (z : Parse) (a : Append) : State :=
  let x := s.link l
  let held := posRange.find? fun p => decide ((x.pos p).st ≠ .absent) && decide ((x.pos p).ident = a.ident)
  let trusted := fun p => !x.auth || ((x.pos p).bound && (x.pos p).key.isSome)
  let bound := posRange.find? fun p => (x.pos p).bound && decide ((x.pos p).ident = a.ident) && trusted p
  let named := posRange.filter fun p => (decide ((x.pos p).st ≠ .absent) || (x.pos p).bound) && decide ((x.pos p).ident = a.ident)
  let twice := decide (2 ≤ (z.joins.filter fun j => decide (j.ident = a.ident)).length)
  let present := match held with
    | some p => (decide ((x.pos p).st = .verifying) || decide ((x.pos p).st = .active)) && z.seen.contains p
    | none => false
  if a.version ≠ 1 then s.assign l a.ident 0 5
  else if twice || present then
    let s1 := named.foldl (fun t p => t.modPos l p fun q => { q with dupf := true }) s
    ((s1.violation l 0 4 2 (a.ident.toNat % 2 ^ 24) false).raiseN (linkSource l 6)).assign l a.ident 0 1
  else match held.filter trusted with
    | some p =>
      let q := x.pos p
      if q.descs ≠ a.descs then s.assign l a.ident 0 7
      else if q.st = .quarantined then s.assign l a.ident p 0
      else (s.modPos l p fun y => y.join a).assign l a.ident p 0
    | none => match bound with
      | some p => s.letIn l p a
      | none =>
        if bit x.lctrl 29 ∨ x.auth then
          (s.violation l 0 9 2 (a.ident.toNat % 2 ^ 24) false).assign l a.ident 0 2
        else if 256 < descBytes false a.descs ∨ 256 < descBytes true a.descs then s.assign l a.ident 0 3
        else match posRange.find? fun p => decide ((x.pos p).st = .absent) && !(x.pos p).bound with
          | none => s.assign l a.ident 0 6
          | some p => s.letIn l p a

/-- The rank order after a ROLL frame: the order of its appends, a JOIN standing for the position it was given (R271). -/
def State.setRanks (s : State) (l : Nat) (order : List (Option Nat × BitVec 64)) : State :=
  let x := s.link l
  let place := fun (o : Option Nat × BitVec 64) => match o.1 with
    | some p => some p
    | none => posRange.find? fun p => decide ((x.pos p).st = .joining) && decide ((x.pos p).ident = o.2)
  ((order.filterMap place).zip (List.range 32)).foldl (fun t e => t.modPos l e.1 fun q => { q with rank := BitVec.ofNat 5 e.2 }) s

/-- The end of a cycle for a position (R271 to R273): a VERIFYING or ACTIVE one without a valid append is NAKed and
counted; a JOINING one waits on; where no record was accepted, one STALE record is deposited. -/
def State.closePos (s : State) (l : Nat) (z : Parse) (p : Nat) (old : PosState) : State :=
  let q := (s.link l).pos p
  let missed := !z.valid.contains p
  let assigned := (s.link l).assigns.any fun e => decide (e.pos = p)
  let s1 := s.modPos l p fun y =>
    if missed && (decide (old = .verifying) || decide (old = .active)) then { y with nak := true, misses := y.misses + 1, validRun := 0 }
    else if missed && decide (y.st = .joining) && decide (old = .joining) && !assigned then { y with quiet := y.quiet + 1 }
    else y
  let records := decide (q.st = .verifying) || decide (q.st = .active) || decide (q.st = .left) || decide (q.st = .quarantined)
  if records && !z.fresh.contains p then (s1.depositInput l p (q.ackSeq.getD 0) true q.lastData).2 else s1

/-- Close a cycle: its appends are parsed, JOINs answered, records deposited, and event CYCLE raised once they have been written (R266,
R270 to R273). -/
def State.closeCycle (s : State) (l : Nat) (appends : List Append) (stop : Option (Nat × Nat × Nat × Nat)) : State :=
  let before := s.link l
  let z0 : Parse := { seen := [], valid := [], fresh := [], rank := 0, order := [], joins := [], stopped := false }
  let (s1, z) := s.parseAll l z0 appends
  let s2 := match stop with
    | some (pos, kind, answer, off) =>
      if 1 ≤ pos ∧ pos ≤ 30 ∧ (before.pos pos).st = PosState.quarantined then s1 else s1.violation l pos kind answer off (decide (kind = 2))
    | none => s1
  let s3 := z.joins.foldl (fun t a => t.answerJoin l z a) s2
  let s4 := if before.roll then s3.setRanks l z.order else s3
  let s5 := (before.positions.cells.filter fun e => decide (e.2.st ≠ .absent)).foldl (fun t e => t.closePos l z e.1 e.2.st) s4
  (s5.modLink l fun x => { x with closed := true, owed := x.owed ++ [x.cycle] }).linkWritten l

/-- The first bit of /S/ has returned: LOOP is known, and a DOWN link is UP again, its next frame a ROLL frame (R263, R270, R279). -/
def State.startBack (s : State) (l loop : Nat) : State :=
  s.modLink l fun y =>
    { y with loop := word loop, loopSeen := loop, silent := 0, link := .up, rollNext := y.rollNext || decide (y.link = .down) }

/-- The bytes of an append, /A/ with them (R264). -/
def appendSize (a : Append) (auth : Bool) : Nat :=
  1 + (if a.kind = 2 then 14 + 4 * a.descs.length else 4 + (a.records.map fun r => 4 + r.2.1).sum) + 4 + if auth then 8 else 0

/-- The bytes after /S/ that have returned by the deadline, at 40 ns each; none where /S/ has not (R266). -/
def Link.reached (x : Link) : Nat :=
  if x.loop = 0xFFFFFFFF#32 then 0 else (x.deadline - (x.lastStart + x.loop.toNat)) / 288 - 1

/-- The deadline has passed without /T/: the appends that were complete are taken, the rest are NAKed, NEW is repeated and LCNT_LATE counts
(R266, R274, R275). -/
def State.missDeadline (s : State) (l : Nat) (appends : List Append) : State :=
  let s1 := s.modLink l fun y => { y.mapPos (fun p q => { q with outNew := q.outNew || y.sentNew p }) with late := satInc y.late }
  s1.closeCycle l appends (some (0, 6, 3, (s.link l).reached))

/-- /T/ returns and the cycle's appends are taken; after the deadline only those that were complete by it (R275). A device part that comes
back with a changed CRC stops the parsing before them, and a fault within them after those before it, attributed to the position that the
append at fault names, if any (R266, R275, R279). -/
def execFrameReturn (l : Fin 4) (loop : Nat) (devOk : Bool) (appends : List Append) (malformed : Option (Fin 31 × Nat)) (at_ : Nat)
    (s : State) : Host.Outcome State Fault Refusal :=
  let s1 := s.advance at_
  let x := s1.link l
  if !x.cycling || !x.started then .next s1
  else
    let s2 := s1.startBack l loop
    if x.closed then .next s2
    else if x.deadline < s1.now then
      .next (s2.missDeadline l (appends.filter fun a => decide (a.offset + appendSize a x.auth ≤ (s2.link l).reached)))
    else if !devOk || x.badCrc then
      let s3 := if x.badCrc then s2.detect (linkPage l) 1 true else s2
      .next (s3.closeCycle l [] (some (0xFF, 2, 1, x.part.crcAt)))
    else .next (s2.closeCycle l appends (malformed.map fun m => (m.1.val, 2, 1, m.2)))

/-- The deadline passes without /T/ (R266, R275); /S/ may have returned, with the appends that are complete (R263). Before the deadline
nothing has been missed. -/
def execFrameDeadline (l : Fin 4) (back : LateFrame) (at_ : Nat) (s : State) : Host.Outcome State Fault Refusal :=
  let s1 := s.advance at_
  let x := s1.link l
  if !x.cycling || !x.started || x.closed || decide (s1.now < x.deadline) then .next s1
  else
    let s2 := match back.loop with
      | some n => s1.startBack l n
      | none => s1
    .next (s2.missDeadline l (if back.loop.isSome then back.appends else []))

/-- A JOINING position without a valid append within 3 cycles of its ASSIGN: the ASSIGN is sent again, three times in
all, and then the position is ABSENT, a binding kept (R271). -/
def execJoiningTimeout (l : Fin 4) (pos : Fin 31) (s : State) : Host.Outcome State Fault Refusal :=
  let q := (s.link l).pos pos
  .next (if q.st = .joining ∧ 3 ≤ q.quiet then
    if q.sends < 3 then (s.modPos l pos fun y => { y with sends := y.sends + 1, quiet := 0 }).assign l q.ident pos 0
    else s.modPos l pos fun y => { Position.reset with bound := y.bound, key := y.key, ident := if y.bound then y.ident else 0
                                                       viol := y.viol, naks := y.naks }
  else s)

/-- A VERIFYING or ACTIVE position without a valid append for 3 cycles becomes LEFT (R271). -/
def execPositionLeft (l : Fin 4) (pos : Fin 31) (at_ : Nat) (s : State) : Host.Outcome State Fault Refusal :=
  let s1 := s.advance at_
  let q := (s1.link l).pos pos
  .next (if (q.st = .verifying ∨ q.st = .active) ∧ 3 ≤ q.misses then
    (s1.modPos l pos fun y => { y with st := .left, validRun := 0 }).raiseN (linkSource l 2) else s1)

/-- 64 consecutive valid /I/ on the return: a link in TRAINING is UP, LOOP measured, and its first frame is a ROLL frame
(R270, R279). -/
def execLinkUp (l : Fin 4) (loop : Nat) (s : State) : Host.Outcome State Fault Refusal :=
  .next (if (s.link l).link = .training then
    s.modLink l fun x => { x with link := .up, loop := word loop, loopSeen := loop, rollNext := true, silent := 0, lastStart := s.now } else s)

/-- No /S/ has returned in 3 consecutive cycles: DOWN (R279). -/
def execLinkDown (l : Fin 4) (at_ : Nat) (s : State) : Host.Outcome State Fault Refusal :=
  let s1 := s.advance at_
  let x := s1.link l
  .next (if x.link = .up ∧ 3 ≤ x.silent then (s1.modLink l fun y => { y with link := .down }).raiseN (linkSource l 5) else s1)

/-- Symbols outside the device's frame: UNSOLICITED, ignored (R275). -/
def execUnsolicited (l : Fin 4) (byte : LineByte) (s : State) : Host.Outcome State Fault Refusal :=
  let s1 := s.advance byte.tick
  .next (if (s1.link l).link = .off then s1 else s1.violation l 0 7 2 byte.offset false)

end Sys2Proof.Machine
end

