-- ==== Sys2Proof/Machine/Interfaces.lean ====
section
/-! DEFINITION. The standard interfaces (R283 to R295): Ethernet and its PTP clocks, CAN FD, UART, PCIe, xSPI, I²C,
memory training and the boundary scan. What a thread or the Hykiow port sees of a window is with the data accesses. -/

namespace Sys2Proof.Machine

/-! ## Shared parts (R283, R284) -/

/-- The page index of an Ethernet port (R333). -/
def ethPage (p : Nat) : Nat := 0x028 + p

/-- The page index of a CAN controller (R333). -/
def canPage (c : Nat) : Nat := 0x030 + c

/-- The page index of a UART (R333). -/
def uartPage (u : Nat) : Nat := 0x038 + u

/-- The page index of PCIe (R333). -/
def pciePage : Nat := 0x040

/-- The page index of xSPI (R333). -/
def xspiPage : Nat := 0x041

/-- The page index of an I²C controller (R333). -/
def i2cPage (i : Nat) : Nat := 0x044 + i

/-- An interface runs: the device runs and its gate domain is ON (R302, R305). -/
def State.ifaceOn (s : State) (dom : Nat) : Bool := decide (s.phase = .run) && decide ((s.gate dom).st = .on)

/-- The stamp of a record with its reference point at a tick: phase_at of the stamping tide at a tick within 4 ns of it, or 0x8000_0000
(R284, log entry 30). -/
def State.ifStamp (s : State) (stamp : Word) (ref : Nat) : Word × State :=
  let i := fld stamp 3 0
  if !bit stamp 31 || decide ((s.tide i).st = .off) then (0x80000000#32, s)
  else
    let (d, s1) := s.drawBelow 57
    (phaseWord (s1.phaseAt i (ref + d - 28)), s1)

/-- The words of a receive record (R284): LEN, FLAGS and ENDPOINT, the stamp, the extension words and the payload. -/
def receiveRecord (ep flags : Nat) (st : Word) (ext : List Word) (payload : List Byte) : List Word :=
  (at_ payload.length 16 ||| at_ flags 8 ||| at_ (ep % 256) 0) :: st :: (ext ++ wordsOf payload)

/-- Stamp and deposit a receive record at an endpoint. -/
def State.receive (s : State) (ty ep flags : Nat) (stamp : Word) (ref : Nat) (ext : List Word) (payload : List Byte) : Bool × State :=
  let (st, s1) := s.ifStamp stamp ref
  s1.depositAt ty ep { words := receiveRecord ep flags st ext payload, poisoned := 0, ends := true, sample := none, cycle := none }

/-- A received unit meets its check: an injection of the CHECK or PROTOCOL detector makes it fail (R342). -/
def State.ifCheck (s : State) (page : Nat) (ok : Bool) : Bool × State :=
  match s.takeInj page 1 (fun w => decide (injKind w = 1)) with
  | (some _, s1) => (false, s1.detect page 1 true)
  | (none, s1) => (ok, if ok then s1 else s1.detect page 1)

/-- The first of a list of endpoints whose transmit descriptor is wholly in cells. -/
def State.firstTx (s : State) : List Nat → Option (Nat × List Word)
  | [] => none
  | ep :: r =>
    match s.txReady ep with
    | some x => some x
    | none => s.firstTx r

/-- A link that goes down ends the transmit descriptors of its endpoints short (R297). -/
def State.cutTx (s : State) (eps : List Nat) : State :=
  eps.foldl (fun t ep => match t.channelFor 2 ep with
    | some ch =>
      let c := t.channel ch
      if c.desc.isSome && !c.moved then t.txSent ch true else t
    | none => t) s

/-! ## Ethernet (R285, R286) -/

/-- Change a port. -/
def State.modEth (s : State) (p : Nat) (f : Eth → Eth) : State := s.setEth p (f (s.eth p))

/-- ETH_MODE.EN. -/
def Eth.en (e : Eth) : Bool := bit e.mode 31

/-- The event sources of a port: 0 link change, 1 frame error, 2 transmit stamp, 3 PTP target time (R283). -/
def ethSource (p k : Nat) : Nat := 224 + 8 * p + k

/-- A frame of 64 to 2,000 bytes, with the 4 bytes of FCS that the payload no longer holds (log entry 31). -/
def ethLengthOk (f : EthFrame) : Bool := decide (60 ≤ f.payload.length) && decide (f.payload.length ≤ 1996)

/-- Two bytes at an offset of a frame, as the wire has them (most significant first). -/
def be16 (b : List Byte) (o : Nat) : Nat := (b.getD o 0).toNat * 256 + (b.getD (o + 1) 0).toNat

/-- The offset of the PTP message in a frame, if the device recognises one: EtherType 0x88F7, or UDP port 319 or 320 over
IPv4 or IPv6 (R286). -/
def ptpOffset (b : List Byte) : Option Nat :=
  let o := if be16 b 12 = 0x8100 then 16 else 12
  let udp := fun (u : Nat) => if be16 b (u + 2) = 319 ∨ be16 b (u + 2) = 320 then some (u + 8) else none
  if be16 b o = 0x88F7 then some (o + 2)
  else if be16 b o = 0x0800 ∧ (b.getD (o + 11) 0).toNat = 17 then udp (o + 2 + 4 * ((b.getD (o + 2) 0).toNat % 16))
  else if be16 b o = 0x86DD ∧ (b.getD (o + 8) 0).toNat = 17 then udp (o + 42)
  else none

/-- The destination address of a frame. -/
def ethDest (b : List Byte) : BitVec 48 := BitVec.ofNat 48 ((b.take 6).foldl (fun n x => n * 256 + x.toNat) 0)

/-- A field of a port's filters by its number (R285). -/
def Eth.filter (e : Eth) (id : Nat) : Word := e.setup.get (fun _ => 0) id

/-- Where an address goes (R285): to the queue of the lowest exact filter that it matches, with the filter's index, else to that of
broadcast or of its bin of the multicast hash, which have no index; none where nothing matches (log entry 145). -/
def Eth.pick (e : Eth) (dest : BitVec 48) : Option (Nat × Option Nat) :=
  match (List.range 16).find? fun k => decide (e.filter (43 + 4 * k) = 1)
      && decide (dest = (e.filter (41 + 4 * k)).setWidth 16 ++ e.filter (40 + 4 * k)) with
  | some k => some (fld (e.filter (42 + 4 * k)) 2 0, some k)
  | none =>
    if dest = BitVec.allOnes 48 then if e.filter 104 = 1 then some (fld (e.filter 105) 2 0, none) else none
    else
      let bin := (Config.ethHash dest).val
      if dest.getLsbD 40 && bit (e.filter (106 + bin / 32)) (bin % 32) then some (fld (e.filter 108) 2 0, none) else none

/-- A received PAUSE frame: MAC control with opcode 1 (R285). -/
def isPause (b : List Byte) : Bool := decide (be16 b 12 = 0x8808) && decide (be16 b 14 = 1)

/-- A frame arrives with its start-of-frame delimiter at the tick (R285): a bad one is dropped and counted; PAUSE frames and frames that
no filter matches are dropped and counted; the others go to the receive queue of their filter. -/
def execEthernetFrameReceive (p : Fin 6) (f : EthFrame) (at_ : Nat) (s : State) : Host.Outcome State Fault Refusal :=
  let s1 := s.advance at_
  if !s1.ifaceOn (20 + p.val) || !(s1.eth p).en then .next s1
  else
    let (ok, s2) := s1.ifCheck (ethPage p) (f.fcsOk && ethLengthOk f)
    let drop := fun (t : State) => t.modEth p fun e => { e with dropped := satInc e.dropped }
    if !ok || isPause f.payload then .next (drop s2)
    else match (s2.eth p).pick (ethDest f.payload) with
      | none => .next (drop s2)
      | some (q, idx) =>
        let (n, s3) := match idx with
          | some k => (k, s2)
          | none => s2.drawBelow 16
        let e := s3.eth p
        let flags := (if be16 f.payload 12 = 0x8100 then 1 else 0) + (if (ptpOffset f.payload).isSome then 2 else 0) + 8 * n
        let ns := e.ptpWhole s3.now
        .next (s3.receive 3 (0x10 * p.val + q) flags e.stamp s3.now [word (ns % 10 ^ 9), word (ns / 10 ^ 9)] f.payload).2

/-- The transmit stamp of a recognised message (R286): a later stamp replaces an unread one and says so. -/
def State.txStamp (s : State) (p seq : Nat) : State :=
  let ns := (s.eth p).ptpWhole s.now
  (s.modEth p fun e => { e with
    txNs := word (ns % 10 ^ 9), txSec := word (ns / 10 ^ 9), txTag := flagAt e.txFull 31 ||| at_ (seq % 65536) 0
    txFull := true }).raiseN (ethSource p 2)

/-- Bytes with some of them replaced. -/
def putBytes (b : List Byte) (o : Nat) (new : List Byte) : List Byte := b.take o ++ new ++ b.drop (o + new.length)

/-- Whether a frame's message of PTP goes one-step: a Sync message over Layer 2 or UDP/IPv4 in that mode (R286). -/
def Eth.oneStep (e : Eth) (b : List Byte) (o : Nat) : Bool :=
  decide (e.filter 27 = 1) && decide ((b.getD o 0).toNat % 16 = 0)
    && !decide (be16 b (if be16 b 12 = 0x8100 then 16 else 12) = 0x86DD)

/-- A one-step Sync message: originTimestamp is written, and over UDP/IPv4 the UDP checksum is zero (R286). -/
def oneStepFrame (b : List Byte) (o ns : Nat) : List Byte :=
  let b1 := putBytes b (o + 34) ((leBytes 6 (ns / 10 ^ 9)).reverse ++ (leBytes 4 (ns % 10 ^ 9)).reverse)
  if be16 b (if be16 b 12 = 0x8100 then 16 else 12) = 0x0800 then putBytes b1 (o - 2) [0, 0] else b1

/-- A frame is sent from one of the port's transmit queues; the order among the queues is not given (R283, log entry
32). With the link down the descriptor ends short (R297). -/
def execEthernetFrameTransmit (p : Fin 6) (at_ : Nat) (s : State) : Host.Outcome State Fault Refusal :=
  let s1 := s.advance at_
  let (d, s2) := s1.drawBelow 4
  let eps := ((List.range 4).map fun j => 0x10 * p.val + 8 + (d + j) % 4)
  if !s2.ifaceOn (20 + p.val) || !(s2.eth p).en || !(s2.eth p).up then .next (s2.cutTx eps)
  else match s2.firstTx eps with
    | none => .next s2
    | some (ch, ws) =>
      let len := (((s2.channel ch).desc.map (·.len)).getD 0)
      let b := bytesOf ws len
      let send := fun (l : List Word) => (s2.txSent ch false).modEth p fun e => { e with sent := e.sent ++ [l] }
      .next (match ptpOffset b with
        | some o =>
          if (s2.eth p).oneStep b o then send (wordsOf (oneStepFrame b o ((s2.eth p).ptpWhole s2.now)))
          else (send ws).txStamp p (be16 b (o + 30))
        | none => send ws)

/-- A change of the port's link; one that goes down ends transmit descriptors short (R283, R297). -/
def execEthernetLinkChange (p : Fin 6) (up : Bool) (at_ : Nat) (s : State) : Host.Outcome State Fault Refusal :=
  let s1 := s.advance at_
  if (s1.eth p).up = up then .next s1
  else
    let s2 := (s1.modEth p fun e => { e with up := up }).raiseN (ethSource p 0)
    .next (if up then s2 else s2.cutTx ((List.range 4).map fun j => 0x10 * p.val + 8 + j))

/-- PTP_STEP: signed nanoseconds added to the clock at once (R286). -/
def State.ptpStep (s : State) (p : Nat) (v : Word) : State :=
  s.modEth p fun e =>
    let t : Int := (e.ptpTime s.now : Nat) + v.toInt * 2 ^ 28
    { e with ptpNs := (t % (2 ^ 48 * 10 ^ 9 * 2 ^ 28)).toNat, ptpAt := ptpClock s.now }

/-- PTP_INC: the clock goes on from where it is at the new increment (R286). -/
def State.ptpInc (s : State) (p : Nat) (v : Word) : State :=
  s.modEth p fun e => { e with ptpNs := e.ptpTime s.now, ptpAt := ptpClock s.now, ptpInc := v }

/-- A write of PTP_STEP (R286). -/
def execPtpStepWrite (who : Agent) (p : Fin 6) (v : Word) (s : State) : Host.Outcome State Fault Refusal :=
  .next (s.ifOwner who (ethPage p) fun t => t.ptpStep p v)

/-- A read of PTP_NS captures the clock (R286). -/
def State.ptpCapture (s : State) (p : Nat) : State := s.modEth p fun e => { e with capNs := e.ptpWhole s.now }

/-- A read of PTP_NS (R286). -/
def execPtpNsRead (_who : Agent) (p : Fin 6) (s : State) : Host.Outcome State Fault Refusal := .next (s.ptpCapture p)

/-- A read of TXTS_NS, TXTS_SEC or TXTS_TAG clears it; the stamp counts as read with its tag (R286, log entry 33). -/
def State.txtsRead (s : State) (p k : Nat) : State :=
  s.modEth p fun e =>
    match k with
    | 0 => { e with txNs := 0 }
    | 1 => { e with txSec := 0 }
    | _ => { e with txTag := 0, txFull := false }

/-- A read of a transmit stamp register (R286). -/
def execTxtsRead (_who : Agent) (p : Fin 6) (k : Fin 3) (s : State) : Host.Outcome State Fault Refusal := .next (s.txtsRead p k)

/-- The port's clock reaches its target time (R283). -/
def execPtpTargetTime (p : Fin 6) (at_ : Nat) (s : State) : Host.Outcome State Fault Refusal :=
  .next ((s.advance at_).raiseN (ethSource p 3))

/-! ## CAN FD (R287) -/

/-- Change a controller. -/
def State.modCan (s : State) (c : Nat) (f : Can → Can) : State := s.setCan c (f (s.can c))

/-- The event sources of a controller: 0 error state change, 1 error logged (R283). -/
def canSource (c k : Nat) : Nat := 272 + 4 * c + k

/-- A field of a controller's settings: 28 bus monitoring, 29 restricted operation, 110 + 2k the two words of filter k (R287). -/
def Can.setting (x : Can) (id : Nat) : Word := x.setup.get (fun _ => 0) id

/-- One of the 32 acceptance filters takes an identifier (R287). -/
def Can.accepts (x : Can) (f : CanFrame) : Bool :=
  (List.range 32).any fun k => Config.canMatch (x.setting (110 + 2 * k)) (x.setting (111 + 2 * k)) f.ide f.ident

/-- Bus monitoring and restricted operation send no frame (R287; ISO 11898-1). -/
def Can.silent (x : Can) : Bool := decide (x.setting 28 = 1) || decide (x.setting 29 = 1)

/-- A frame arrives: a bad CRC is an error; a frame that a filter matches is deposited (R287). -/
def execCanFrameReceive (c : Fin 4) (f : CanFrame) (at_ : Nat) (s : State) : Host.Outcome State Fault Refusal :=
  let s1 := s.advance at_
  if !s1.ifaceOn (26 + c.val) || decide ((s1.can c).st = .busOff) then .next s1
  else
    let (ok, s2) := s1.ifCheck (canPage c) f.crcOk
    if !ok then .next (s2.modCan c fun x => { x with errors := satInc x.errors })
    else if (s2.can c).accepts f then
      let b := fun (x : Bool) (n : Nat) => if x then n else 0
      let flags := b f.fdf 1 + b f.brs 2 + b f.esi 4 + b f.ide 8 + b f.rtr 16
      .next (s2.receive 3 (0x080 + 4 * c.val) flags (s2.can c).stamp s2.now [f.ident.setWidth 32] f.data).2
    else .next s2

/-- A frame is sent: the high endpoint before the normal one (R287). -/
def execCanFrameTransmit (c : Fin 4) (at_ : Nat) (s : State) : Host.Outcome State Fault Refusal :=
  let s1 := s.advance at_
  if !s1.ifaceOn (26 + c.val) || decide ((s1.can c).st = .busOff) || (s1.can c).silent then .next s1
  else match s1.firstTx [0x081 + 4 * c.val, 0x082 + 4 * c.val] with
    | none => .next s1
    | some (ch, ws) => .next ((s1.txSent ch false).modCan c fun x => { x with sent := x.sent ++ [ws] })

/-- A change among error-active, error-passive and bus-off; bus-off is left by recovery alone (R287). -/
def execCanErrorStateChange (c : Fin 4) (st : CanState) (at_ : Nat) (s : State) : Host.Outcome State Fault Refusal :=
  let s1 := s.advance at_
  .next (if (s1.can c).st = st ∨ (s1.can c).st = .busOff then s1
    else (s1.modCan c fun x => { x with st := st }).raiseN (canSource c 0))

/-- 128 occurrences of 11 recessive bits in bus-off: with AUTOREC the controller recovers (R287). -/
def execBusOffRecovery (c : Fin 4) (at_ : Nat) (s : State) : Host.Outcome State Fault Refusal :=
  let s1 := s.advance at_
  let x := s1.can c
  .next (if x.st = .busOff ∧ x.autorec then (s1.modCan c fun y => { y with st := .errorActive }).raiseN (canSource c 0) else s1)

/-! ## UART (R288) -/

/-- Change a UART. -/
def State.modUart (s : State) (u : Nat) (f : Uart → Uart) : State := s.setUart u (f (s.uart u))

/-- Ticks of a number of sixteenths of a bit at the UART's rate. -/
def Uart.sixteenths (x : Uart) (n : Nat) : Nat := n * 450000000 / x.baud.toNat

/-- Ticks of a character: start bit, data bits, parity and stop bits (R288). -/
def Uart.charTicks (x : Uart) : Nat :=
  x.sixteenths (16 * (1 + (if x.seven then 7 else 8) + (if x.parity = 0 then 0 else 1) + if x.twoStop then 2 else 1))

/-- LEN of the descriptor that a channel's next record will fill, if software has posted it (R254, R288). -/
def State.nextLen (s : State) (ch : Nat) : Option Nat :=
  let c := s.channel ch
  let k := c.queue.length
  if k < c.posted then
    match (s.chRead ch (c.ring.toNat + 32 * ((c.head.toNat + k) % 2 ^ c.rsz) + 16) true).1 with
    | .ok w => some w.toNat
    | .error _ => none
  else none

/-- The bytes of payload at which a UART's record ends for its descriptor's LEN: what LEN leaves beside the two header words. -/
def State.uartRoom (s : State) (u : Nat) : Option Nat :=
  match s.channelFor 3 (0x0A0 + 2 * u) with
  | some ch => (s.nextLen ch).map (· - 8)
  | none => none

/-- The record in progress ends and is deposited: FLAGS tell its parity and framing errors and a break (R288). -/
def State.uartClose (s : State) (u : Nat) (brk : Bool) : State :=
  let x := s.uart u
  let flags := (if x.heard.any (·.parityBad) then 1 else 0) + (if x.heard.any (·.framingBad) then 2 else 0) + if brk then 4 else 0
  let s1 := s.modUart u fun y => { y with heard := [] }
  (s1.depositAt 3 (0x0A0 + 2 * u) { words := receiveRecord (0x0A0 + 2 * u) flags x.mark [] (x.heard.map (·.data))
                                    poisoned := 0, ends := true, sample := none, cycle := none }).2

/-- The line has been idle for UART_IDLE characters since the last one of the record in progress (R288). -/
def Uart.gap (x : Uart) (t : Nat) : Bool :=
  match x.heard.getLast? with
  | some c => decide (c.at_ + (1 + x.idle.toNat) * x.charTicks ≤ t)
  | none => false

/-- A character joins the record in progress, which an idle gap before it or its LEN ends: it is kept with its errors, each of which raises
the UART's source; the first one's start bit is the record's reference point (R284, R288). -/
def State.uartChar (s : State) (u : Nat) (c : UartChar) : State :=
  let s1 := if (s.uart u).gap c.at_ then s.uartClose u false else s
  let x := s1.uart u
  let (ok, s2) := s1.ifCheck (uartPage u) (!c.parityBad || decide (x.parity = 0))
  let s3 := if ok && c.framingBad then s2.raiseN (288 + 2 * u) else s2
  let (mark, s4) := if x.heard.isEmpty then s3.ifStamp x.stamp c.at_ else (x.mark, s3)
  let kept : UartChar := { c with data := if x.seven then c.data &&& 0x7F#8 else c.data, parityBad := !ok }
  let s5 := s4.modUart u fun y => { y with heard := y.heard ++ [kept], mark := mark }
  match s5.uartRoom u with
  | some n => if n ≤ (s5.uart u).heard.length then s5.uartClose u false else s5
  | none => s5

/-- Characters by their data and the tick of their start bit, with the places of those whose parity or stop bit is wrong (R288). -/
def uartChars (chars : List (Byte × Nat)) (parity framing : List Nat) : List UartChar :=
  chars.zipIdx.map fun c => { data := c.1.1, parityBad := parity.contains c.2, framingBad := framing.contains c.2, at_ := c.1.2 }

/-- What a UART has heard up to the tick: with ECHO_SUP not what it heard while DE was asserted. A record ends at an idle gap, at its LEN
or at a break, which raises its source (R288); one that has not ended goes on with the next characters. -/
def execUartRecordEnd (u : Fin 8) (chars : List (Byte × Nat)) (parity framing : List Nat) (brk : Bool) (at_ : Nat) (s : State) :
    Host.Outcome State Fault Refusal :=
  let s1 := s.advance at_
  let x := s1.uart u
  if !s1.ifaceOn (30 + u.val) then .next s1
  else
    let own := fun (c : UartChar) => x.echoSup && x.spans.any fun e => decide (e.1 ≤ c.at_) && decide (c.at_ < e.2)
    let s2 := ((uartChars chars parity framing).filter fun c => !own c).foldl (fun t c => t.uartChar u c) s1
    let y := s2.uart u
    let s3 := if y.heard.isEmpty then s2 else if brk then s2.uartClose u true else if y.gap s2.now then s2.uartClose u false else s2
    let s4 := s3.modUart u fun z => { z with spans := z.spans.filter fun e => decide (s3.now < e.2) }
    .next (if brk then s4.raiseN (289 + 2 * u.val) else s4)

/-- A transmit descriptor's characters are sent: DE is driven for the lead time before the first start bit and released after the last stop
bit plus the lag, and stays asserted between runs that follow each other (R288). -/
def execUartTransmit (u : Fin 8) (at_ : Nat) (s : State) : Host.Outcome State Fault Refusal :=
  let s1 := s.advance at_
  if !s1.ifaceOn (30 + u.val) then .next s1
  else match s1.txReady (0x0A1 + 2 * u.val) with
    | none => .next s1
    | some (ch, ws) =>
      let len := (((s1.channel ch).desc.map (·.len)).getD 0)
      .next ((s1.txSent ch false).modUart u fun x =>
        let live := x.spans.any fun e => decide (s1.now < e.2)
        let start := if live then max s1.now x.txEnd else s1.now + x.sixteenths x.lead.toNat
        let stop := start + len * x.charTicks
        { x with sent := x.sent ++ [ws], txEnd := stop, spans := x.spans ++ [(s1.now, stop + x.sixteenths x.lag.toNat)] })

/-- DE is asserted (R288). -/
def Uart.de (x : Uart) (now : Nat) : Bool := x.spans.any fun e => decide (e.1 ≤ now) && decide (now < e.2)

/-! ## PCIe, inbound (R290) -/

/-- A word of the port's own configuration space: its base registers, and else a word that the spec does not give (R289; PCI Local Bus
layout, log entry 144). -/
def State.configWord (s : State) (reg : Nat) : Word × State :=
  let c := s.pcie
  if reg = 4 then (c.bar0.setWidth 32 ||| 0xC#32, s)
  else if reg = 5 then (c.bar0.extractLsb' 32 32, s)
  else if reg = 6 then (c.bar2, s)
  else if reg = 8 then (c.memBase, s)
  else s.drawWord

/-- A write to the port's own configuration space: BAR0 covers 8 MiB and BAR2 4 KiB; the other words have no effect in the model (R289,
log entry 144). -/
def Pcie.configure (c : Pcie) (reg : Nat) (v : Word) : Pcie :=
  if reg = 4 then { c with bar0 := c.bar0.extractLsb' 32 32 ++ (v &&& 0xFF800000#32) }
  else if reg = 5 then { c with bar0 := v ++ c.bar0.setWidth 32 }
  else if reg = 6 then { c with bar2 := v &&& 0xFFFFF000#32 }
  else if reg = 8 then { c with memBase := v }
  else c

/-- The base of the eight inbound windows: BAR0, or the root port's memory base, whose bits 15:4 are the address's 31:20 (R289, log entry
144). -/
def Pcie.windows (c : Pcie) : Nat := if c.root then fld c.memBase 15 4 * 2 ^ 20 else c.bar0.toNat

/-- The window and the offset in it of an address (R289). -/
def Pcie.window (c : Pcie) (adr : Nat) : Option (Nat × Nat) :=
  let o := adr - c.windows
  if c.windows ≤ adr ∧ o < 2 ^ 23 then some (o / 2 ^ 20, o % 2 ^ 20) else none

/-- The place of an address in the MSI-X table, which BAR2 covers in endpoint mode (R289). -/
def Pcie.tablePlace (c : Pcie) (adr : Nat) : Option Nat :=
  if !c.root ∧ c.bar2.toNat ≤ adr ∧ adr - c.bar2.toNat < 1024 then some ((adr - c.bar2.toNat) / 4) else none

/-- A word of the MSI-X table at reset: every vector is masked, by bit 0 of its fourth word (log entry 144). -/
def msixReset (k : Nat) : Word := if k % 4 = 3 then 1 else 0

/-- An error that AER logs, by its bit of the uncorrectable error status (R289, log entry 144). -/
def State.aerLog (s : State) (b : Nat) : State := { s with pcie := { s.pcie with aer := s.pcie.aer ||| bitMask b } }

/-- A request is answered with Unsupported Request, and counted (R289, R290). -/
def State.pcieUnsupported (s : State) : State :=
  ({ s with pcie := { s.pcie with unsupported := satInc s.pcie.unsupported, sent := s.pcie.sent ++ [.unsupported] } } : State).aerLog 20

/-- A memory write to an inbound window: one record, poisoned where EP was set; while the channel cannot take it, credit
is withheld and nothing changes hands. -/
def State.pcieRecord (s : State) (w off : Nat) (data : List Byte) (ep : Bool) : State :=
  let (st, s1) := s.ifStamp s.pcie.stamp s.now
  let e := 0x100 + w
  let body := wordsOf data
  let head := [at_ data.length 16 ||| flagAt ep 8 ||| at_ (e % 256) 0, st, word off]
  let s2 := (s1.depositAt 5 e { words := head ++ body, poisoned := if ep then body.length else 0, ends := true, sample := none, cycle := none }).2
  if ep then s2.aerLog 12 else s2

/-- A write arrives from PCIe (R289, R290): to a window, to the MSI-X table, or to the port's own configuration space; I/O and what no base
register covers are unsupported. A TLP that fails its LCRC or ECRC is detected and not taken. -/
def execPcieInboundWrite (t : PcieTarget) (data : List Byte) (ep : Bool) (check : PcieCheck) (tick : Nat) (s : State) :
    Host.Outcome State Fault Refusal :=
  let s1 := s.advance tick
  if !s1.ifaceOn 38 || !s1.pcie.up then .next s1
  else
    let (ok, s2) := s1.ifCheck pciePage (decide (check = .good))
    let v := (wordsOf data).getD 0 0
    if !ok then .next (if check = .ecrc then s2.aerLog 19 else s2)
    else .next (match t with
      | .io _ => s2.pcieUnsupported
      | .config r => if s2.pcie.root then s2.pcieUnsupported else { s2 with pcie := s2.pcie.configure r v }
      | .mem adr =>
        match s2.pcie.window adr, s2.pcie.tablePlace adr with
        | some (w, off), _ => s2.pcieRecord w off data ep
        | none, some k => { s2 with pcie := { s2.pcie with msix := s2.pcie.msix.put k v } }
        | none, none => s2.pcieUnsupported)

/-- A read arrives from PCIe: of a window, of I/O space or of what no base register covers it is answered with Unsupported Request; of the
MSI-X table and the configuration space with their word (R289, R290). -/
def execPcieInboundRead (t : PcieTarget) (at_ : Nat) (s_ : State) : Host.Outcome State Fault Refusal :=
  let s := s_.advance at_
  let answer := fun (u : State) (v : Word) => { u with pcie := { u.pcie with sent := u.pcie.sent ++ [.completion v] } }
  .next (if s.ifaceOn 38 && s.pcie.up then
      match t with
      | .io _ => s.pcieUnsupported
      | .config r =>
        if s.pcie.root then s.pcieUnsupported
        else
          let (v, s1) := s.configWord r
          answer s1 v
      | .mem adr =>
        match s.pcie.window adr, s.pcie.tablePlace adr with
        | none, some k => answer s (s.pcie.msix.get msixReset k)
        | _, _ => s.pcieUnsupported
    else s)

/-- An MSI or MSI-X write in root mode raises its vector's source; one with data bits above 5 is discarded, counted and
reported. -/
def execPcieMsiReceive (data : Word) (at_ : Nat) (s : State) : Host.Outcome State Fault Refusal :=
  let s1 := s.advance at_
  if !s1.ifaceOn 38 || !s1.pcie.up || !s1.pcie.root then .next s1
  else if fld data 31 6 ≠ 0 then .next ({ s1 with pcie := { s1.pcie with badMsi := satInc s1.pcie.badMsi } }.raiseN 305)
  else
    let v := fld data 5 0
    .next (s1.raiseN (if v < 32 then 312 + v else 322 + v))

/-- The PCIe link comes up: source 304 (R291). -/
def execPcieLinkUp (at_ : Nat) (s : State) : Host.Outcome State Fault Refusal :=
  let s1 := s.advance at_
  if !s1.ifaceOn 38 || s1.pcie.up then .next s1
  else .next ({ s1 with pcie := { s1.pcie with up := true } }.raiseN 304)

/-! ## xSPI (R292) -/

/-- A flash command is in progress: its descriptor is in cells and has not completed. -/
def State.xspiBusy (s : State) : Bool := (s.txReady 0x121).isSome

/-- A flash command is carried out, its first clock edge at a tick: READ data enter the read channel as one record, which holds the
interface's clock while no cell is free; a missing strobe is an error; the command raises source 344 as it completes. -/
def execXspiCommand (data : List Byte) (strobe : Bool) (span : Span) (s : State) : Host.Outcome State Fault Refusal :=
  let s1 := s.advance span.stop
  match s1.txReady 0x121 with
  | none => .next s1
  | some (ch, ws) =>
    if !s1.ifaceOn 39 then .next s1
    else
      let w0 := ws.getD 0 0
      let read := bit w0 1
      let want := fld (ws.getD 2 0) 15 0
      let (ok, s2) := s1.ifCheck xspiPage (strobe || !read)
      let finish := fun (t : State) => ((t.txSent ch false).raiseN 344) |> fun (u : State) => { u with xspi := { u.xspi with sent := u.xspi.sent ++ [ws] } }
      if ok && read then
        match s2.receive 5 0x120 0 s2.xspi.stamp (min span.start s2.now) [] (data.take want) with
        | (true, s3) => .next (finish s3)
        | (false, s3) => .next { s1 with channels := s3.channels }
      else .next (finish s2)

/-! ## I²C (R293) -/

/-- Change a controller. -/
def State.modI2c (s : State) (i : Nat) (f : I2c → I2c) : State := s.setI2c i (f (s.i2c i))

/-- The end of a transfer whose start condition was at a tick: its read data and flags as one record where it reads or fails. The error of
its last try, if any, is detected, and lost arbitration raises the source; while no cell is free the clock is stretched and the transfer has
not ended. -/
def State.i2cEnd (s : State) (i ch : Nat) (ws : List Word) (data : List Byte) (lost : Nat) (error : Nat) (start : Nat) : State :=
  let w0 := ws.getD 0 0
  let (ok, s1) := if lost = 2 then (true, s) else s.ifCheck (i2cPage i) (decide (error = 0))
  let flags := (if error = 0 ∧ !ok then 1 else error) + (if lost = 0 then 0 else if lost = 1 then 2 else 6)
  let s2 := if lost = 0 then s1 else s1.raiseN (346 + 2 * i)
  let sent := fun (t : State) => (t.txSent ch false).modI2c i fun x => { x with sent := x.sent ++ [ws] }
  if fld w0 31 24 = 0 ∧ flags = 0 then sent s2
  else match s2.receive 5 (0x130 + 2 * i) flags (s2.i2c i).stamp (min start s2.now) [w0] (data.take (fld w0 31 24)) with
    | (true, s3) => sent s3
    | (false, s3) => { s with channels := s3.channels }

/-- FLAGS[8] to [12] of a try's end, as bits from 0; a PEC is checked where the transfer has one. -/
def i2cFlags (pec : Bool) : I2cEnd → Nat
  | .done => 0
  | .nak => 1
  | .pecMismatch => if pec then 16 else 0

/-- A transfer ends on the bus, after so many tries that lost arbitration; after two it is not tried again. -/
def execI2cTransfer (i : Fin 4) (data : List Byte) (run : I2cRun) (span : Span) (s : State) : Host.Outcome State Fault Refusal :=
  let s1 := s.advance span.stop
  match s1.txReady (0x131 + 2 * i.val) with
  | none => .next s1
  | some (ch, ws) =>
    if !s1.ifaceOn (40 + i.val) then .next s1
    else if run.lost = 2 then .next (s1.i2cEnd i ch ws [] 2 0 span.start)
    else .next (s1.i2cEnd i ch ws data run.lost (i2cFlags (bit (ws.getD 0 0) 12) run.last) span.start)

/-- A clock held low for 25 ms ends the transfer with TIMEOUT, in its first try or after one that lost arbitration. -/
def execI2cClockTimeout (i : Fin 4) (hold : I2cHold) (s : State) : Host.Outcome State Fault Refusal :=
  let s1 := s.advance hold.span.stop
  match s1.txReady (0x131 + 2 * i.val) with
  | none => .next s1
  | some (ch, ws) =>
    if !s1.ifaceOn (40 + i.val) then .next s1
    else .next (s1.i2cEnd i ch ws [] hold.lost 8 hold.span.start)

/-- The falling edge of SMBALERT#. -/
def execSmbalert (i : Fin 4) (at_ : Nat) (s : State) : Host.Outcome State Fault Refusal :=
  let s1 := s.advance at_
  .next (if s1.ifaceOn (40 + i.val) then s1.raiseN (347 + 2 * i.val) else s1)

/-! ## External memory (R294) -/

/-- BLK_STATUS[3:0] of a controller page. -/
def MemCtl.status (m : MemCtl) : Nat :=
  match m.training with
  | none => if m.started then 1 else 0
  | some .ready => 2
  | some .refused => 3
  | some .failed => 4
  | some .absent => 5

/-- What the training of a controller comes to: Absent where neither channel has memory fitted, Refused where the channels differ,
and else whether it succeeded (R41, R294). -/
def trainingResult (ok : Bool) : Training :=
  if Config.memoryFit 0 = 0 ∧ Config.memoryFit 1 = 0 then .absent
  else if Config.memoryFit 0 ≠ Config.memoryFit 1 then .refused
  else if ok then .ready else .failed

/-- A controller's training ends. -/
def execMemoryTrainingComplete (c : Fin 2) (ok : Bool) (s : State) : Host.Outcome State Fault Refusal :=
  .next (if s.phase = .off then s
    else { s with memCtl := s.memCtl.put c { s.memc c with training := some (trainingResult ok), started := true } })

/-! ## Boundary scan (R295) -/

/-- The IDCODE, least significant bit first. -/
def idcodeBits : List Bool := (List.range 32).map fun i => (0x1B712ACB : Nat).testBit i

/-- A scan through a register with captured contents: what was captured goes out first. -/
def scanOut (captured tdi : List Bool) : List Bool := (captured ++ tdi).take tdi.length

/-- Bits that the model does not know: the boundary register's order is not given (log entry 34). -/
def State.drawBits (s : State) : Nat → List Bool × State
  | 0 => ([], s)
  | n + 1 =>
    let (b, s1) := s.drawBelow 2
    let (r, s2) := s1.drawBits n
    (decide (b = 1) :: r, s2)

/-- A scan with BYPASS selected. -/
def State.jtagBypass (s : State) (ir : JtagIr) (tdi : List Bool) : State :=
  { s with jtag := { s.jtag with ir := ir, out := scanOut [false] tdi, drives := false } }

/-- A scan of the boundary register with an instruction. -/
def State.jtagBoundary (s : State) (ir : JtagIr) (tdi : List Bool) (drives : Bool) : State :=
  let (b, s1) := s.drawBits tdi.length
  { s1 with jtag := { s1.jtag with ir := ir, out := b, preload := tdi, drives := drives } }

/-- BYPASS. -/
def execBypass (tdi : List Bool) (s : State) : Host.Outcome State Fault Refusal := .next (s.jtagBypass .bypass tdi)

/-- IDCODE reads 0x1B71_2ACB. -/
def execIdcode (tdi : List Bool) (s : State) : Host.Outcome State Fault Refusal :=
  .next { s with jtag := { s.jtag with ir := .idcode, out := scanOut idcodeBits tdi, drives := false } }

/-- SAMPLE/PRELOAD. -/
def execSamplePreload (tdi : List Bool) (s : State) : Host.Outcome State Fault Refusal :=
  .next (s.jtagBoundary .samplePreload tdi false)

/-- EXTEST: only while the device is held in reset; at other times it acts as BYPASS. -/
def execExtest (tdi : List Bool) (s : State) : Host.Outcome State Fault Refusal :=
  .next (if s.phase = .reset then s.jtagBoundary .extest tdi true else s.jtagBypass .extest tdi)

/-- CLAMP: only while the device is held in reset; it selects the bypass register. -/
def execClamp (tdi : List Bool) (s : State) : Host.Outcome State Fault Refusal :=
  let s1 := s.jtagBypass .clamp tdi
  .next (if s.phase = .reset then { s1 with jtag := { s1.jtag with drives := true } } else s1)

/-- HIGHZ: only while the device is held in reset; it selects the bypass register. -/
def execHighz (tdi : List Bool) (s : State) : Host.Outcome State Fault Refusal :=
  let s1 := s.jtagBypass .highz tdi
  .next (if s.phase = .reset then { s1 with jtag := { s1.jtag with drives := true } } else s1)

end Sys2Proof.Machine
end

