-- ==== Sys2Proof/Machine/Tenants.lean ====
section
/-! DEFINITION. The tenant table (R33 to R36): judging and accepting commands, the commands' way to the cores, and the
broadcast of invalidations that it and the threads send (R164, R165). The completion of a command is with the gates,
whose frames RETIRE unwinds. -/

namespace Sys2Proof.Machine

/-- The page index of the tenant table (R333). -/
def tenPage : Nat := 0x001

/-! ## Invalidations on their way (R164, R165) -/

/-- A core without a TLB: every entry is discarded, and in its shadows too (R165). -/
def Core.dropTlb (c : Core) : Core :=
  let drop := fun (a : Arch) => { a with tlb := Tbl.empty }
  { c with arch := drop c.arch, tm := { c.tm with shadow := c.tm.shadow.map drop, pending := c.tm.pending.map drop } }

/-- Send a TLBI to every other group and to the Churn; a core that is lost or in self-test acknowledges at once and discards its
TLB (R165). -/
def State.tlbiSend (s : State) (form : Nat) (va : Word) (ten : TenantId) (headland : Bool) (core slot : Nat) : State :=
  let out := (List.range 128).filter fun k => decide (s.role k = .lost) || decide (s.role k = .test)
  let s0 := out.foldl (fun t k => t.modCore k Core.dropTlb) s
  let sent := (s.allLeaders.filter fun k => decide (k ≠ core)) ++ [notACore]
  let s1 := sent.foldl (fun t k => t.undertowSend 1 k) s0
  { s1 with tlbis := s1.tlbis ++ [(Tlbi.mk form va ten headland core slot sent)] }

/-! ## Parking (R35) -/

/-- The tenant of a slot's top context: the one in force for STOP (R132). -/
def State.topCur (s : State) (k : Nat) (sl : Fin 8) : TenantId := (s.anyCtx k sl ((s.core k).slot sl).top).cur

/-- A slot that stops at an instruction boundary: PARKED, keeping what it was doing (R35, R112); a HELD slot remembers
it so (R125). -/
def Slot.park (x : Slot) (why : Option TenantId) : Slot :=
  match x.st with
  | .active | .sleeping | .waiting => { x with st := .parked, under := x.st, crossing := why }
  | .held =>
    match x.prior with
    | .active | .sleeping | .waiting => { x with prior := .parked, under := x.prior, crossing := why }
    | _ => x
  | _ => x

/-- A slot that goes on from where it was parked; a thread that CREATE or a fill made PARKED has nothing to go on with
until RELEASE.RUN (R125). -/
def Slot.unpark (x : Slot) : Slot :=
  match x.under with
  | .active | .sleeping | .waiting =>
    if x.st = .parked then { x with st := x.under, under := .empty, crossing := none }
    else if x.st = .held ∧ x.prior = .parked then { x with prior := x.under, under := .empty, crossing := none }
    else x
  | _ => x

/-- The tenants that a parked thread waits for all let it run: its own is RUNNING, and so is the one that it crosses to
unless that one is gone, in which case the crossing itself finds out (R35, R36). -/
def State.mayUnpark (s : State) (k : Nat) (sl : Fin 8) : Bool :=
  let x := (s.core k).slot sl
  let ok := fun (t : TenantId) => (s.tenant t.toNat).st
  decide (ok (s.topCur k sl) = .running)
    && (match x.crossing with
        | some t => decide (ok t ≠ .stopped) && decide (ok t ≠ .building)
        | none => true)

/-- A slot parks; its block instruction is abandoned (R35, R143). -/
def State.parkNow (s : State) (k : Nat) (sl : Fin 8) (why : Option TenantId) : State :=
  (s.modCore k fun c => c.abandon sl).modSlot k sl fun y => y.park why

/-- Park one slot of a group, with its THREAD record (R207). -/
def State.parkSlot (s : State) (k : Nat) (sl : Fin 8) (why : Option TenantId) : State :=
  let x := (s.core k).slot sl
  if x.park why = x then s
  else (s.logInput k (.thread sl 2 why (s.core k).tm.pos)).parkNow k sl why

/-- Unpark one slot of a group where its tenants let it run. -/
def State.unparkSlot (s : State) (k : Nat) (sl : Fin 8) : State :=
  let x := (s.core k).slot sl
  if x.unpark = x ∨ !s.mayUnpark k sl then s
  else (s.logInput k (.thread sl 3 none (s.core k).tm.pos)).modSlot k sl Slot.unpark

/-- A slot waits for another one's escalation to return before it enters level 2 itself (R151). -/
def Slot.awaitsLevel2 (x : Slot) : Bool :=
  match x.wait with
  | .escalate _ _ _ => true
  | _ => false

/-- A STOP, RESUME or START reaches a group (R34, R35). A thread that is to enter level 2 enters it first: it parks as its
escalation returns (R154). -/
def State.tenantArrive (s : State) (k : Nat) (a : TenArrive) : State :=
  if a.stop then
    slots8.foldl (fun t sl =>
      let x := (t.core k).slot sl
      if x.st ≠ .empty ∧ t.topCur k sl = a.ten ∧ !x.awaitsLevel2 then t.parkSlot k sl none else t) s
  else slots8.foldl (fun t sl => t.unparkSlot k sl) s

/-- Send a command to every group over the Undertow lane (R34, R245). -/
def State.tenantSend (s : State) (a : TenArrive) : State :=
  s.allLeaders.foldl (fun t k => (t.undertowSend 0 k).modCore k fun c => { c with arrivals := c.arrivals ++ [a] }) s

/-- A tenant command arrives at a core group; one that rolls back, replays, copies or is gated applies it afterwards (R34, R218,
R305). -/
def execTenantCommandArrive (core : Fin 128) (s : State) : Host.Outcome State Fault Refusal :=
  match (s.core core).arrivals with
  | [] => .next s
  | a :: r =>
    if s.takesInput core then .next ((s.modCore core fun x => { x with arrivals := r }).tenantArrive core a) else .next s

/-! ## Accepting a command (R34) -/

/-- RETIRE's first three steps (R36): the generation, the tenant's channels, entries and sources, and TLBI.T. -/
def State.retireBegin (s : State) (t : TenantId) : State :=
  let row := s.tenant t.toNat
  let (g, s0) := s.nextGen row.gen
  let s1 := s0.setTenant t.toNat { row with gen := g, st := .retiring, moved := false }
  let s2 := (s1.channels.cells.filter fun e => decide (e.2.owner = t)).foldl (fun x e => x.chRetire e.1) s1
  let s3 := (s2.entries.cells.filter fun e => decide (e.2.owner = t)).foldl (fun x e => x.entryRetire e.1) s2
  let mine := s3.listedSources.filter fun i => decide (s3.srcOwner i.val = t)
  let s4 := mine.foldl (fun x i => (x.setSource i { x.source i with en := false, enClrAt := [] }).nextSrcGen i) s3
  s4.tlbiSend 2 0 t true notACore 0

/-- The state that a command leads to, with what it sets going. -/
def State.tenAccept (s : State) (c : TenCmd) (t : TenantId) : State :=
  let row := s.tenant t.toNat
  match c with
  | .mint => s.setTenant t.toNat { row with st := .building, base := 1, last := 0 }
  | .start => ((s.setTenant t.toNat { row with st := .running }).tlbiSend 2 0 t true notACore 0).tenantSend
      { ten := t, stop := false }
  | .stop => ((s.setTenant t.toNat { row with st := .stopped, moved := false }).tlbiSend 2 0 t true notACore 0).tenantSend
      { ten := t, stop := true }
  | .resume =>
    let s1 := s.setTenant t.toNat { row with st := .running, moved := false }
    let s2 := if row.moved then s1.tlbiSend 2 0 t true notACore 0 else s1
    s2.tenantSend { ten := t, stop := false }
  | .retire => s.retireBegin t
  | .unknown => s

/-- The state that a command is given for. -/
def TenCmd.from_ : TenCmd → Option TenantState
  | .mint => some .free
  | .start => some .building
  | .stop => some .running
  | .resume => some .stopped
  | .retire => some .stopped
  | .unknown => none

/-- The REASON for which a command is refused at steps 2 to 5 of R34, if any. -/
def State.tenReason (s : State) (c : TenCmd) (t : TenantId) : Option Nat :=
  let row := s.tenant t.toNat
  if c = .unknown then some 4
  else if t = 0 then some 2
  else if c.from_ ≠ some row.st then some 1
  else if c = .mint ∧ row.gen = 0xFFFFF#20 then some 3
  else none

/-- The thread of a handle command goes on: the command has been judged (R103). -/
def State.tenAnswer (s : State) (h : Option ThreadId) : State :=
  match h with
  | some th => s.modSlot th.core th.slot fun x => if x.wait = .table then { x with wait := .none } else x
  | none => s

/-- Judge a command when no other is in progress (R34): a TEN_CMD shows its refusal, a handle command shows nothing. -/
def State.tenJudge (s : State) (h : TenHeld) : State :=
  match s.tenReason h.cmd h.ten with
  | some r =>
    match h.handle with
    | some _ => s.tenAnswer h.handle
    | none => { s with tenTable := { s.tenTable with result := 2, reason := BitVec.ofNat 4 r } }
  | none =>
    let s1 : State := { s with tenTable := match h.handle with
      | some _ => { s.tenTable with current := some h }
      | none => { s.tenTable with current := some h, result := 1, reason := 0, busyRef := false } }
    (s1.tenAccept h.cmd h.ten).tenAnswer h.handle

/-- Judge the held commands in the order in which they came, until one is in progress (R34). -/
def State.tenDrain (s : State) : Nat → State
  | 0 => s
  | n + 1 =>
    match s.tenTable.current, s.tenTable.held with
    | none, h :: r => (({ s with tenTable := { s.tenTable with held := r } } : State).tenJudge h).tenDrain n
    | _, _ => s

/-- RESULT reads BUSY (R34). -/
def State.tenBusy (s : State) : Bool := decide (s.tenTable.result = 1)

/-- A write of TEN_CMD by the page's owner (R33, R34): refused while RESULT reads BUSY, held while a handle command is in
progress, else judged. -/
def State.tenCommand (s : State) (c : TenCmd) : State :=
  let h : TenHeld := { cmd := c, ten := s.tenTable.sel, handle := none }
  if s.tenBusy then { s with tenTable := { s.tenTable with busyRef := true } }
  else if s.tenTable.current.isSome then
    { s with tenTable := { s.tenTable with held := s.tenTable.held ++ [h], result := 1 } }
  else s.tenJudge h

/-- A handle command of a thread, which waits until it is judged (R34, R103). -/
def State.tenHandle (s : State) (c : TenCmd) (t : TenantId) (th : ThreadId) : State :=
  let h : TenHeld := { cmd := c, ten := t, handle := some th }
  let s1 := s.modSlot th.core th.slot fun x => { x with wait := .table }
  if s1.tenTable.current.isSome ∨ s1.tenTable.held ≠ [] then
    { s1 with tenTable := { s1.tenTable with held := s1.tenTable.held ++ [h] } }
  else s1.tenJudge h

/-! ## The commands -/

/-- TEN_CMD MINT (R34). -/
def execMint (who : Agent) (s : State) : Host.Outcome State Fault Refusal :=
  .next ((s.class0 who sysPort).ifOwner who tenPage fun t => t.tenCommand .mint)

/-- TEN_CMD START (R34). -/
def execStart (who : Agent) (s : State) : Host.Outcome State Fault Refusal :=
  .next ((s.class0 who sysPort).ifOwner who tenPage fun t => t.tenCommand .start)

/-- TEN_CMD STOP (R34, R35). -/
def execStop (who : Agent) (s : State) : Host.Outcome State Fault Refusal :=
  .next ((s.class0 who sysPort).ifOwner who tenPage fun t => t.tenCommand .stop)

/-- TEN_CMD RESUME (R34). -/
def execResume (who : Agent) (s : State) : Host.Outcome State Fault Refusal :=
  .next ((s.class0 who sysPort).ifOwner who tenPage fun t => t.tenCommand .resume)

/-- TEN_CMD RETIRE (R34, R36). -/
def execRetire (who : Agent) (s : State) : Host.Outcome State Fault Refusal :=
  .next ((s.class0 who sysPort).ifOwner who tenPage fun t => t.tenCommand .retire)

/-- The command of a CMD code (R33). -/
def tenCmdOf (code : Nat) : TenCmd :=
  match code with
  | 1 => .mint
  | 2 => .start
  | 3 => .stop
  | 4 => .resume
  | 5 => .retire
  | _ => .unknown

/-- A TEN_CMD write with another code (R33, R34); a code of the table acts as its command. -/
def execTenCmdUnknown (who : Agent) (code : BitVec 4) (s : State) : Host.Outcome State Fault Refusal :=
  .next ((s.class0 who sysPort).ifOwner who tenPage fun t => t.tenCommand (tenCmdOf code.toNat))

/-- A write of TEN_PHYS_BASE or TEN_PHYS_LAST, in the order of R33. -/
def State.tenPhys (s : State) (last : Bool) (v : Word) : State :=
  let t := s.tenTable.sel
  let row := s.tenant t.toNat
  if s.tenBusy then { s with tenTable := { s.tenTable with busyRef := true } }
  else if t = 0 then { s with tenTable := { s.tenTable with result := 2, reason := 2 } }
  else if row.st ≠ .building ∧ row.st ≠ .stopped then { s with tenTable := { s.tenTable with result := 2, reason := 1 } }
  else
    let r := { row with moved := row.moved || decide (row.st = TenantState.stopped) }
    s.setTenant t.toNat (if last then { r with last := v } else { r with base := v })

/-- A write of TEN_PHYS_BASE or TEN_PHYS_LAST (R33). -/
def execTenPhysWrite (who : Agent) (last : Bool) (v : Word) (s : State) : Host.Outcome State Fault Refusal :=
  .next (s.ifOwner who tenPage fun t => t.tenPhys last v)

/-- TEN_STATE of a tenant, which TSTAT reads too (R33, R103). -/
def State.tenState (s : State) (t : Nat) : Word :=
  let row := s.tenant t
  at_ row.gen.toNat 12 ||| at_ (match row.st with | .free => 0 | .building => 1 | .running => 2 | .stopped => 3 | .retiring => 4) 0

/-- TEN_CMD_STATUS (R33). -/
def TenTable.status (x : TenTable) : Word := at_ x.reason.toNat 4 ||| flagAt x.busyRef 2 ||| at_ x.result.toNat 0

/-- The threads of a tenant, by the TENANT.CUR in force: that of their top contexts (R33, R132). -/
def State.tenThreads (s : State) (t : TenantId) : Nat :=
  ((List.range 128).map fun k =>
    (slots8.filter fun sl => decide (((s.core k).slot sl).st ≠ .empty) && decide (s.topCur k sl = t)).length).sum

/-- A read of TEN_UNWRITTEN clears it (R33, R45). -/
def State.tenUnwrittenRead (s : State) : Word × State :=
  let t := s.tenTable.sel.toNat
  let row := s.tenant t
  (row.unwritten, s.setTenant t { row with unwritten := 0 })

/-- A read of TEN_UNWRITTEN (R33). -/
def execTenUnwrittenRead (_who : Agent) (s : State) : Host.Outcome State Fault Refusal := .next s.tenUnwrittenRead.2

end Sys2Proof.Machine
end

