-- ==== Sys2Proof/Machine/Tidemark.lean ====
section
/-! DEFINITION. The Tidemark and the hand-overs (R201 to R223): checkpoints and commits, rollback and restore, copies,
changes of a cove's mode, permanent faults, lost groups, rotation and the online self-test (R319, R320). -/

namespace Sys2Proof.Machine

/-! ## Roles -/

/-- Set the role of a logical core of a cove. -/
def Cove.setRole (c : Cove) (i : Fin 8) (r : Role) : Cove := { c with role := c.role.set i.val r }

/-- Exchange the physical cores of two logical ones (R201). -/
def Cove.swapMap (c : Cove) (i j : Fin 8) : Cove :=
  { c with coreMap := (c.coreMap.set i.val c.coreMap[j.val]).set j.val c.coreMap[i.val] }

/-- The index of a logical core in its cove. -/
def idxOf (k : Nat) : Fin 8 := ⟨k % 8, Nat.mod_lt _ (by decide)⟩

/-- A spare that no copy is about to use. -/
def Cove.freeSpare (c : Cove) : Option (Fin 8) :=
  slots8.find? fun i => decide (c.role[i.val] = .spare) && !(c.copies.any fun j => j.targets.contains i)

/-- The first four parcels of the event handler enter the vector buffer (R120). -/
def State.loadVector (s : State) (k : Nat) (adr : Nat) : Nat → List Fetched → State
  | 0, l => s.modCore k fun c => { c with vbuf := l, vvalid := true }
  | n + 1, l =>
    let (bad, s1) := s.checkParcel (adr + (3 - n)) false
    s1.loadVector k adr n (l ++ [{ adr := adr + (3 - n), bits := s.parcelAt (adr + (3 - n)), bad := bad }])

/-- Reload the vector buffer from the cursor of slot 0's entry capability (R120, R122). -/
def State.reloadVector (s : State) (k : Nat) : State :=
  match (s.core k).ctx 0 0 with
  | some x => s.loadVector k x.entry.w0.toNat 4 []
  | none => s

/-- A core's full rebuild (R318): no TLB entry, fetched parcel or vector buffer, the accepted feature set, and no shadow but the state
that its group commits at its first issue (log entry 71). -/
def Core.rebuilt (c : Core) (g : BitVec 4) : Core :=
  let a := { c.arch with tlb := Tbl.empty, groups := g, slots := c.arch.slots.map fun x => { x with buf := [] } }
  { c with
    arch := a, vvalid := false
    tm := { c.tm with
      shadow := some a, pending := none, log := [], issues := [], pos := 0, lastPos := 0, extra := [], values := [], releases := []
      inputs := [], replayIssues := [], undone := [] } }

/-- A logical core rebuilds itself. -/
def State.rebuildCore (s : State) (k : Nat) : State := s.modCore k fun c => c.rebuilt s.feat.set

/-- Out of service: in TEST, FAILED or lost (R318). -/
def Role.out : Role → Bool
  | .test | .failed | .lost => true
  | _ => false

/-- The physical cores of a cove that are out of service. -/
def Cove.outCores (c : Cove) : List (Fin 8) := (slots8.filter fun i => c.role[i.val].out).map fun i => c.coreMap[i.val]

/-- Each physical core out of service keeps EPOCH as it was when it left (R318). -/
def Cove.recordAway (c : Cove) (epoch : Word) : Cove :=
  let out := c.outCores
  { c with away := (c.away.filter fun e => out.contains e.1)
      ++ (out.filter fun p => !(c.away.any fun e => e.1 = p)).map fun p => (p, epoch) }

/-- A physical core comes back into service: where EPOCH is not the one it recorded it rebuilds itself and raises source 14 (R318). -/
def State.coreBack (s : State) (n : Nat) (e : Fin 8 × Word) : State :=
  if e.2 = s.power.epoch then s
  else ((slots8.filter fun i => decide ((s.cove n).coreMap[i.val] = e.1)).foldl (fun t i => t.rebuildCore (8 * n + i.val)) s).raiseN 14

/-- A change of the roles of a cove's cores, seen by the sources that target them (R216, R235) and by the cores that leave service or
come back (R318). -/
def State.modRoles (s : State) (n : Nat) (f : Cove → Cove) : State :=
  let c := f (s.cove n)
  let out := c.outCores
  (c.away.filter fun e => !out.contains e.1).foldl (fun t e => t.coreBack n e) (s.setCove n (c.recordAway s.power.epoch)).ageAll

/-- A core that comes up with every slot EMPTY, WHEEL at reset, no TLB entry and an empty log (R217). -/
def State.freshCore (s : State) (k : Nat) : State :=
  let r := Core.reset k
  s.modCore k fun c => { c with
    arch := { r.arch with groups := s.feat.set }, tm := r.tm, vbuf := [], vvalid := false
    served := none, firstIssue := none, arrivals := [], posted := [], lost := false, stopped := false }

/-- The Tidemark event of a cove (R342). -/
def tidemarkSource (n : Nat) : Nat := 18 + 4 * n

/-- The redundancy event of a cove (R342). -/
def redundancySource (n : Nat) : Nat := 19 + 4 * n

/-! ## Commits (R206) -/

/-- A record with its position counted from a later commit. -/
def LogRec.shift (m : Nat) : LogRec → LogRec
  | .value v t c b sl p => .value v t c b sl (p - m)
  | .event n p => .event n (p - m)
  | .thread sl k w p => .thread sl k w (p - m)
  | .tlbi va f t h p => .tlbi va f t h (p - m)
  | .release d p => .release d (p - m)
  | .mark n p => .mark n (p - m)
  | r => r

/-- The records from the MARK of a checkpoint on, with its position. -/
def sinceMark (n : Nat) : List LogRec → Nat × List LogRec
  | [] => (0, [])
  | .mark m p :: r => if m = n then (p, .mark m p :: r) else sinceMark n r
  | _ :: r => sinceMark n r

/-- A checkpoint is taken: the members copy their state into the spare shadow, and a MARK goes into the log (R206). None
is taken in restore, replay or a copy (R213). -/
def State.checkpoint (s : State) (k : Nat) : State :=
  let c := s.core k
  if s.coreRuns k && decide (c.tm.st = .run) then
    let s1 := s.modCore k fun c => { c with tm := { c.tm with st := .commit, pending := some c.arch, seq := c.tm.seq + 1 } }
    ((s1.flushIssues k).logRecord k (.mark (c.tm.seq + 1) c.tm.pos)).modCore k fun c =>
      { c with tm := { c.tm with regularRun := 0 } }
  else s

/-- The Tidemark after a commit: the pending shadow becomes the committed one, the log before its MARK is freed, positions
count from it, and the written registers take effect (R206, R207, R209, R219). -/
def Tidemark.committed (t : Tidemark) (sig : BitVec 64) : Tidemark :=
  let (m, l) := sinceMark t.seq t.log
  { t with
    st := .run, shadow := t.pending, pending := none, log := l.map (LogRec.shift m)
    issues := (t.issues.filter fun x => decide (m ≤ x.1)).map fun x => (x.1 - m, x.2)
    pos := t.pos - m, lastPos := t.lastPos - m
    extra := t.extra.filter fun e => decide (e.1.1 / 8 = t.seq)
    ctrl := t.ctrlNext, logBase := t.logNext, priv := t.privNext, sig := sig, commits := satInc t.commits, repeats := 0
    goal := 0, values := [], releases := [], inputs := [], replayIssues := [], undone := [] }

/-- A thread that waited for the commit in TMARK goes on (R104). -/
def Slot.marked (x : Slot) : Slot := if x.wait = .commit then { x with wait := .none } else x

/-- A group leaves its mode for Split at its commit: its leader runs on, and its followers come up fresh (R217). -/
def State.splitGroup (s : State) (k : Nat) : State :=
  let n := k / 8
  let s1 := (s.members k).foldl (fun t j =>
    let t1 := if j = k then t else t.freshCore j
    t1.modRoles n fun c => c.setRole (idxOf j) .single) s
  s1.modCove n fun c =>
    let rest := c.toSplit.filter fun i => decide (i ≠ idxOf k)
    if rest = [] then { c with toSplit := [], mode := .split, busy := false, result := 0 } else { c with toSplit := rest }

/-- A copy makes a spare the third member of a group that replays a permanent fault (R219). -/
def Cove.onTrial (c : Cove) (j : CopyJob) : Bool := decide (j.swap = none) && c.trial.any fun x => decide (x.1 = j.leader) && j.targets.contains x.2

/-- The copies that waited for a group's commit begin, or at its restored commit state the one that puts a spare on trial: issue stops
and the targets read COPYING (R218, R219). -/
def State.startCopies (s : State) (k : Nat) (trial : Bool) : State :=
  let n := k / 8
  let go := fun (j : CopyJob) => decide (j.leader = idxOf k) && !j.started && decide ((s.cove n).onTrial j = trial)
  let mine := (s.cove n).copies.filter go
  if mine = [] then s
  else
    let s1 := s.modCove n fun c =>
      let c1 := { c with copies := c.copies.map fun j => if go j then { j with started := true } else j }
      mine.foldl (fun c2 j => j.targets.foldl (fun c3 i => c3.setRole i .copying) c2) c1
    ((s1.modCore k fun c => { c with tm := { c.tm with st := .copy } }).undertowSend 2 k).undertowSend 3 evcPort

/-- A fenced member of a Triple is to be replaced by a spare (R220). -/
def State.replaceFenced (s : State) (k : Nat) : State :=
  let n := k / 8
  let cv := s.cove n
  match cv.fenced.find? fun i => decide (groupOf cv.mode i.val = groupOf cv.mode (k % 8)) && !(cv.copies.any fun j => (j.swap.map (·.1)) = some i) with
  | none => s
  | some i =>
    match cv.freeSpare with
    | none => s
    | some j => s.setCove n { cv with copies := cv.copies ++ [(CopyJob.mk (idxOf k) [j] (some (i, j)) false)] }

/-- The pending checkpoint of a group commits, and what waited for the commit happens. -/
def State.commitGroup (s : State) (k : Nat) : State :=
  if (s.core k).tm.st = .commit then
    let s1 : State := { s with free := s.free + 1 }
    let s2 := s1.modCore k fun c => { c with
      tm := c.tm.committed (Config.signature s.free)
      arch := { c.arch with slots := c.arch.slots.map Slot.marked } }
    let s3 := if (s2.cove (k / 8)).toSplit.contains (idxOf k) then s2.splitGroup k else s2
    (s3.replaceFenced k).startCopies k false
  else s

/-! ## Rollback (R211, R219) -/

/-- The word indices of the undo records of a log. -/
def undoWords (l : List LogRec) : List Nat :=
  l.filterMap fun r => match r with
    | .undo i _ _ => some i
    | _ => none

/-- The Tidemark as a rollback begins: the goal, TM_LAST and REPEAT; a rollback of a restore or a replay starts again from
the same commit, towards the same goal (R209, R219, R223). -/
def Tidemark.rolled (t : Tidemark) (cause : Nat) : Tidemark :=
  let p := min t.pos 0x1FFFFF
  let running := decide (t.st = .run) || decide (t.st = .commit) || (decide (t.st = .copy) && decide (t.goal = 0))
  { t with
    st := .restore, pending := none, goal := if running then t.pos else max t.goal t.pos
    replayIssues := if running then t.issues else t.replayIssues
    undone := if running then undoWords t.log else t.undone
    repeats := if t.lastCause = BitVec.ofNat 4 cause ∧ t.lastPosition = p then t.repeats + 1 else 1
    rollbacks := satInc t.rollbacks, lastCause := BitVec.ofNat 4 cause, lastPosition := p }

/-- Copies of a group begin again from cycle 0 (R223). -/
def State.unstartCopies (s : State) (k : Nat) : State :=
  s.modCove (k / 8) fun c => { c with copies := c.copies.map fun j => if j.leader = idxOf k then { j with started := false } else j }

/-- The undo records of a log, the newest first, written back; `at_` is the ring position after the record. An
uncorrectable record stops the restore: the second answer is false (R211, R223). -/
def State.undoAll (s : State) (k : Nat) : List LogRec → Nat → Bool × State
  | [], _ => (true, s)
  | r :: rest, n =>
    let t := (s.core k).tm
    let a := coveBase (k / 8) + t.logOffset + 8 * (n - 1) % t.logSize
    let s1 := (s.checkWord a false).checkWord (a + 4) false
    if s1.tagAt a = .poisoned ∨ s1.tagAt (a + 4) = .poisoned then (false, s1)
    else match r with
      | .undo i old tag => (s1.putWord (coveBase (k / 8) + 4 * i) old tag).undoAll k rest (n - 1)
      | _ => s1.undoAll k rest (n - 1)

/-- A slot as a restored shadow gives it: an access that had been performed has its answer in its registers, the commit that
TMARK waited for has come, and a command of the tenant table that has been judged since is not waited for again. -/
def Slot.restored (live x : Slot) : Slot :=
  match x.wait with
  | .access | .event _ => x.answered
  | .commit => { x with wait := .none }
  | .table => if live.wait = .table then x else { x with wait := .none }
  | _ => x

/-- The members of a lost group read LOST; the leader's signature is recorded, and the core-lost source is raised
(R153, R221). -/
def State.loseGroup (s : State) (k : Nat) : State :=
  let n := k / 8
  let s1 := (s.members k).foldl (fun t j => t.modRoles n fun c => c.setRole (idxOf j) .lost) s
  let s2 : State := { s1 with free := s1.free + 1 }
  (s2.modCore k fun c => { c with lost := true, tm := { c.tm with sig := Config.signature s.free } }).raiseN (17 + 4 * n)

/-- A group's contexts, TLB, victim state and WHEEL are restored from its committed shadow, and contexts filled since go
back to their images (R206, R211); the waits that the Tide Table holds stay as they are (R182). A group that has never committed goes back to its state at reset. -/
def State.restoreArch (s : State) (k : Nat) : State :=
  let t := (s.core k).tm
  let s1 := t.extra.reverse.foldl (fun x e => x.writeImage k (e.1.1 % 8) e.1.2 e.2) s
  s1.modCore k fun c =>
    let a := t.shadow.getD { Arch.reset with groups := c.arch.groups }
    let waits := slots8.filterMap fun sl => (c.slot sl).tideWait.map fun w => (sl.val, w)
    { c with arch := { a with slots := Vector.ofFn fun sl => (c.slot sl).restored a.slots[sl.val] }, tm := { c.tm with extra := [], waits := waits } }

/-- Restore: the undo records, then the shadow; the logged responses, releases and inputs are ready for replay (R211). The log keeps its
undo records, as its ring does (R210): a further restore writes them back again, the oldest last. -/
def State.restoreGroup (s : State) (k : Nat) : State :=
  let t := (s.core k).tm
  match s.undoAll k t.log.reverse t.written with
  | (false, s1) => s1.loseGroup k
  | (true, s1) =>
    let s2 := s1.restoreArch k
    s2.modCore k fun c => { c with cyc := c.cyc - t.pos, firstIssue := none, tm := { c.tm with
      st := .replay, pos := 0, regularRun := 0, pendingIssues := [], restored := t.undone
      values := t.log.filter fun r => match r with
        | .value _ _ _ _ _ _ => true
        | _ => false
      releases := t.log.filter fun r => match r with
        | .release _ _ => true
        | _ => false
      inputs := t.log.filter fun r => match r with
        | .event _ _ | .thread _ _ _ _ | .tlbi _ _ _ _ _ => true
        | _ => false } }

/-- The group stops at its restored commit state with its members in TEST (R219). -/
def State.stopGroup (s : State) (k : Nat) : State :=
  let ms := s.members k
  let s1 := s.restoreGroup k
  let s2 := s1.modCore k fun c => { c with tm := { c.tm with st := .stopped } }
  ms.foldl (fun t j => t.modRoles (k / 8) fun c => c.setRole (idxOf j) .test) s2

/-- A fault declared permanent (R219). -/
def State.permanent (s : State) (k : Nat) : State :=
  let n := k / 8
  let s1 := (s.modCove n fun c => { c with permCnt := satInc c.permCnt }).raiseN (tidemarkSource n)
  match (s1.members k).length, (s1.cove n).freeSpare with
  | 2, some j => s1.modCove n fun c => { c with
      copies := c.copies ++ [(CopyJob.mk (idxOf k) [j] none false)], trial := c.trial ++ [(idxOf k, j)] }
  | _, _ => s1.stopGroup k

/-- A group rolls back (R211): issue stops, the irregular cycles that wait are written to the log (R210), pending checkpoints are
discarded, and copies begin again later. -/
def State.rollback (s : State) (k cause : Nat) : State :=
  let c := s.core k
  if !s.isLeader k || c.lost || decide (c.tm.st = .stopped) then s
  else
    let s0 := if c.tm.st = .restore ∨ c.tm.st = .replay then s else s.flushIssues k
    let s1 := ((s0.modCore k fun c => { c with tm := c.tm.rolled cause, stopped := false }).unstartCopies k).undertowSend 3 evcPort
    if ((s1.core k).tm).repeats = 3 then s1.permanent k else s1

/-- A slice of self-test on a group ends without a result (R326). -/
def Cove.endSlice (c : Cove) (i : Fin 8) : Cove := if c.step = .slice i then { c with step := .none } else c

/-- A glitch alarm in a cove rolls back every group there (R211, R310). -/
def State.glitchCove (s : State) (n : Nat) : State :=
  (s.leaders n).foldl (fun t k =>
    (t.modCove n fun c => { c.endSlice (idxOf k) with glitchCnt := satInc c.glitchCnt }).rollback k 3) s

/-- The coves in the scope of an alarm (R310). -/
def scopeCoves : CoveScope → List Nat
  | .one n => [n.val]
  | .all => List.range 16

/-- A glitch alarm over a scope. -/
def State.glitch (s : State) (scope : CoveScope) : State := (scopeCoves scope).foldl (fun t n => t.glitchCove n) s

/-! ## Comparison and voting (R204, R205) -/

/-- A member is outvoted: it is fenced at once. When the leader is outvoted, a surviving core takes the leader's number
(R201, R205). On trial, the outvoted one goes to TEST and the group is a pair of the two others (R219). -/
def State.outvote (s : State) (k : Nat) (m : Nat) : State :=
  let n := k / 8
  let cv := s.cove n
  match cv.trial.find? fun x => decide (x.1 = idxOf k) with
  | some (_, j) =>
    let victim := if m = 2 then j else idxOf ((s.members k).getD m k)
    s.modRoles n fun c =>
      let c1 := if victim = j then c else c.swapMap victim j
      { c1.setRole j .test with trial := c1.trial.filter fun x => decide (x.1 ≠ idxOf k) }
  | none =>
    let ms := s.members k
    let v := idxOf (ms.getD m k)
    let out := if m = 0 then idxOf (ms.getD 1 k) else v
    s.modRoles n fun c =>
      let c1 := if m = 0 then c.swapMap v out else c
      { c1.setRole out .test with fenced := c1.fenced ++ [out] }

/-- What a disturbance of a group's outputs leads to (R204, R205): whether the outputs of this cycle are released, and the
state. A single core has nothing to be compared with. -/
def State.compare (s : State) (k : Nat) (u : Upset) (injected : Bool) : Bool × State :=
  let page := redPage (k / 8)
  let voting := decide ((s.members k).length = 3) || ((s.cove (k / 8)).trial.any fun x => decide (x.1 = idxOf k))
  match u, (s.members k).length with
  | .agree, _ => (true, s)
  | _, 1 => (true, s)
  | .minority m, _ => if voting then (true, (s.detect page 2 injected).outvote k m) else (false, (s.detect page 1 injected).rollback k 1)
  | .allDiffer, _ =>
    if voting then (false, (s.detect page 2 injected).rollback k 4) else (false, (s.detect page 1 injected).rollback k 1)

/-- An injection at the comparator or the voter: the next output of a member of the group (R340, R342). -/
def State.injectCompare (s : State) (k : Nat) : Option (Fin 3) × State :=
  let grp := (groupOf (s.cove (k / 8)).mode (k % 8)).getD 0
  let n := (s.members k).length
  let ok := fun (w : Word) => (decide (injKind w = 1) || decide (injKind w = 2)) && decide (fld w 2 0 = grp) && decide (fld w 9 8 < n)
  let hit := fun (w : Word) (t : State) =>
    ((if h : fld w 9 8 < 3 then some (⟨fld w 9 8, h⟩ : Fin 3) else none), t)
  if n ≤ 1 then (none, s)
  else
    match s.takeInj (redPage (k / 8)) 1 ok with
    | (some w, s1) => hit w s1
    | (none, s1) =>
      match s1.takeInj (redPage (k / 8)) 2 ok with
      | (some w, s2) => hit w s2
      | (none, s2) => (none, s2)

/-- Words that a group puts out beside its parcels, as a spill's, are compared or voted like any other output (R122, R204, R205): a
difference that withholds them rolls the group back instead. -/
def State.voted (s : State) (k : Nat) (f : State → State) : State :=
  match s.injectCompare k with
  | (some m, s1) =>
    let (go, s2) := s1.compare k (.minority m) true
    if go then f s2 else s2
  | (none, s1) => f s1

/-- The pending checkpoint of a group: its signatures are compared, and it commits, or the group rolls back to the previous commit
(R206). An injection inverts a bit of a member's signature (R342). -/
def State.commitPending (s : State) (k : Nat) (upset : Upset) : State :=
  if (s.core k).tm.st ≠ .commit then s
  else
    let page := redPage (k / 8)
    let grp := (groupOf (s.cove (k / 8)).mode (k % 8)).getD 8
    let many := decide (1 < (s.members k).length)
    match s.takeInj page 3 (fun w => decide (injKind w = 1) && decide (fld w 2 0 = grp) && many) with
    | (some _, s1) => (s1.detect page 3 true).rollback k 2
    | (none, s1) => if many && decide (upset ≠ .agree) then (s1.detect page 3).rollback k 2 else s1.commitGroup k

/-- A checkpoint of the present state and its commit at once, after the commit of one that is pending (R206). -/
def State.commitNow (s : State) (k : Nat) : State :=
  ((s.commitPending k .agree).checkpoint k).commitPending k .agree

/-- Every group commits, as the Undertow lane tells it to before a change of profile (R206, R245). -/
def State.commitAll (s : State) : State := s.allLeaders.foldl (fun t k => (t.undertowSend 2 k).commitNow k) s

/-- The cycles that replay of the span since the commit could take: 1 for each original issue cycle, and 8 for each access whose
response replay waits for (R206). -/
def Tidemark.replayBound (t : Tidemark) : Nat :=
  t.pos + 8 * (t.log.filter fun r => match r with
    | .value _ _ _ second _ _ => !second
    | _ => false).length

/-- TM_CTRL.INTERVAL in core cycles of the profile in force (R209). -/
def State.interval (s : State) (k : Nat) : Nat :=
  min (max (fld (s.core k).tm.ctrl 25 16) 1) 1000 * (ticksPerUs / coreTicks s.power.current)

/-- A checkpoint is taken when the replay bound reaches the interval, as the elapsed time does no later, or when the log is
three-quarters full (R206). -/
def State.checkpointIfDue (s : State) (k : Nat) : State :=
  let t := (s.core k).tm
  if decide (s.interval k ≤ t.replayBound) || t.nearlyFull then s.checkpoint k else s

/-- A spare on trial that no vote named goes back (R219). -/
def State.endTrial (s : State) (k : Nat) : State :=
  s.modCove (k / 8) fun c =>
    let c1 := (c.trial.filter fun x => decide (x.1 = idxOf k)).foldl (fun y x => y.setRole x.2 .spare) c
    { c1 with trial := c1.trial.filter fun x => decide (x.1 ≠ idxOf k) }

/-! ## Copies (R218) -/

/-- A copy has ended: the joined cores follow, a spare takes its number, and the group issues again, or replays with the spare on
trial; wakes and completions held meanwhile reach it (R218 to R222). -/
def State.endJob (s : State) (n : Nat) (j : CopyJob) : State :=
  let k := 8 * n + j.leader.val
  let s1 := s.modRoles n fun c =>
    match j.swap with
    | none => (j.targets.foldl (fun c1 i => c1.setRole i .follower) c).setRole j.leader .leader
    | some (a, b) =>
      let old := c.role[a.val]
      let c1 := if a = b then c.setRole a .follower
        else ((c.swapMap a b).setRole b (if c.fenced.contains a then old else .test)).setRole a
          (if a = j.leader then .leader else .follower)
      { c1 with
        fenced := c1.fenced.filter fun i => decide (i ≠ a)
        rotateCnt := if c.fenced.contains a then c1.rotateCnt else satInc c1.rotateCnt }
  let onTrial := (s1.cove n).onTrial j
  (((s1.modCore k fun c =>
    let a := { c.arch with lastFree := 7 }
    { c with arch := a, tm := { c.tm with st := if onTrial then .replay else .run
                                          shadow := if onTrial then c.tm.shadow else some a } }).undertowSend 2 k).undertowSend 3 evcPort).releaseHeld k

/-- Every copy of a cove that has started ends. -/
def State.copyEnd (s : State) (n : Nat) : State :=
  let started := (s.cove n).copies.filter (·.started)
  let s1 := started.foldl (fun t j => t.endJob n j) s
  s1.modCove n fun c =>
    let rest := c.copies.filter fun j => !j.started
    let more := rest.any fun j => !(c.trial.any fun x => decide (x.1 = j.leader))
    { c with copies := rest, busy := c.busy && (more || decide (c.toSplit ≠ [])), result := if c.busy then 0 else c.result }

/-! ## Changes of mode (R217) -/

/-- Every slot of a core is PARKED or EMPTY. -/
def State.quiet (s : State) (k : Nat) : Bool :=
  slots8.all fun sl => decide (((s.core k).slot sl).st = .parked) || decide (((s.core k).slot sl).st = .empty)

/-- The CMODE register after a refusal. -/
def Cove.refuse (c : Cove) (reason : Nat) : Cove := { c with result := 1, reason := BitVec.ofNat 4 reason }

/-- The groups of a mode, by their leaders and followers (R202). -/
def modeGroups : CoveMode → List (Fin 8 × List (Fin 8))
  | .split => []
  | .pair => [(0, [1]), (2, [3]), (4, [5]), (6, [7])]
  | .pairSpares => [(0, [1]), (2, [3]), (4, [5])]
  | .triple => [(0, [1, 2]), (3, [4, 5])]

/-- The spares of a mode (R202). -/
def modeSpares : CoveMode → List (Fin 8)
  | .pairSpares | .triple => [6, 7]
  | _ => []

/-- From Split: the new groups copy at their leaders' checkpoints; 6 and 7 become spares where the mode has them. -/
def State.changeFromSplit (s : State) (n : Nat) (m : CoveMode) : State :=
  let groups := modeGroups m
  let lower := groups.flatMap (·.2) ++ modeSpares m
  if !(lower.all fun i => s.quiet (8 * n + i.val)) then s.modCove n (·.refuse 1)
  else
    let s1 := lower.foldl (fun t i => t.freshCore (8 * n + i.val)) s
    s1.modRoles n fun c =>
      let c1 := (modeSpares m).foldl (fun x i => x.setRole i .spare) c
      { c1 with mode := m, busy := true, result := 0, reason := 0
                copies := c1.copies ++ groups.map fun g => (CopyJob.mk g.1 g.2 none false) }

/-- To Split: each group splits at its next commit; spares come up as single cores. -/
def State.changeToSplit (s : State) (n : Nat) : State :=
  let cv := s.cove n
  let spares := slots8.filter fun i => decide (cv.role[i.val] = .spare)
  let s1 := spares.foldl (fun t i => (t.freshCore (8 * n + i.val)).modRoles n fun c => c.setRole i .single) s
  let ls := (s.leaders n).map idxOf
  s1.modCove n fun c => { c with toSplit := ls, busy := decide (ls ≠ []), result := 0, reason := 0
                                 mode := if ls = [] then .split else c.mode }

/-- Pair to Pair with spares: group 6, 7 is dissolved at once. -/
def State.pairToSpares (s : State) (n : Nat) : State :=
  if !(s.quiet (8 * n + 6) && s.quiet (8 * n + 7)) then s.modCove n (·.refuse 1)
  else
    let s1 := (s.freshCore (8 * n + 6)).freshCore (8 * n + 7)
    s1.modRoles n fun c => { (c.setRole 6 .spare).setRole 7 .spare with mode := .pairSpares, result := 0, reason := 0 }

/-- Pair with spares to Pair: the spares form a group with every slot EMPTY. -/
def State.sparesToPair (s : State) (n : Nat) : State :=
  let cv := s.cove n
  if cv.role[6] ≠ .spare ∨ cv.role[7] ≠ .spare then s.modCove n (·.refuse 3)
  else
    let s1 := (s.freshCore (8 * n + 6)).freshCore (8 * n + 7)
    s1.modRoles n fun c => { (c.setRole 6 .leader).setRole 7 .follower with mode := .pair, result := 0, reason := 0 }

/-- The first of the refusals that every CMODE command meets: 6 while BUSY, 5 for a gated cove (R216). -/
def State.cmodeBar (s : State) (n : Nat) : Option Nat :=
  if (s.cove n).busy then some 6 else if (s.gate n).st ≠ .on then some 5 else none

/-- The mode of a MODE code (R202). -/
def modeOfCode (m : BitVec 2) : CoveMode :=
  if m = 0 then .split else if m = 1 then .pair else if m = 2 then .pairSpares else .triple

/-- CHANGE (R217). -/
def State.changeMode (s : State) (n : Nat) (m : BitVec 2) : State :=
  match s.cmodeBar n with
  | some r => s.modCove n (·.refuse r)
  | none =>
    let s1 := s.undertowSend 2 (8 * n)
    match (s.cove n).mode, modeOfCode m with
    | .split, .pair => s1.changeFromSplit n .pair
    | .split, .pairSpares => s1.changeFromSplit n .pairSpares
    | .split, .triple => s1.changeFromSplit n .triple
    | .pair, .split => s1.changeToSplit n
    | .pairSpares, .split => s1.changeToSplit n
    | .triple, .split => s1.changeToSplit n
    | .pair, .pairSpares => s1.pairToSpares n
    | .pairSpares, .pair => s1.sparesToPair n
    | _, _ => s.modCove n (·.refuse 2)

/-! ## Rotation and restart (R221, R222) -/

/-- The leader of the group that a member with a role of LEADER or FOLLOWER belongs to. -/
def State.memberLeader (s : State) (n : Nat) (i : Fin 8) : Option Nat :=
  let r := s.role (8 * n + i.val)
  if r = .leader ∨ r = .follower then some (s.leaderOf (8 * n + i.val)) else none

/-- A rotation is set going: a copy to a spare at the group's next commit (R222). -/
def State.rotateStart (s : State) (n : Nat) (i : Fin 8) : Option State :=
  match s.memberLeader n i, (s.cove n).freeSpare with
  | some k, some j => some (s.modCove n fun c => { c with copies := c.copies ++ [(CopyJob.mk (idxOf k) [j] (some (i, j)) false)] })
  | _, _ => none

/-- ROTATE (R222): refused with REASON 3 when no spare is free or LCORE names no member of a group. -/
def State.rotate (s : State) (n l : Nat) : State :=
  match s.cmodeBar n with
  | some r => s.modCove n (·.refuse r)
  | none =>
    if 8 ≤ l then s.modCove n (·.refuse 3)
    else match s.rotateStart n (idxOf l) with
      | some t => (t.undertowSend 2 (8 * n)).modCove n fun c => { c with busy := true, result := 0, reason := 0 }
      | none => s.modCove n (·.refuse 3)

/-- RESTART makes every slot that held a context PARKED and drops the level-2 context of the loss (R221). -/
def State.parkAll (s : State) (k : Nat) : State :=
  slots8.foldl (fun t sl =>
    let x := (t.core k).slot sl
    if x.st = .empty then t
    else
      let below := t.fromLevel k sl
      t.modCore k fun c =>
        let c1 := if x.top = 2 then c.dropCtx sl 2 else c
        c1.setSlot sl { c1.slot sl with
          st := .parked, under := .empty, top := if x.top = 2 then below else x.top, wait := .none, buf := [], crossing := none }) s

/-- The other members of the group that a lost leader led, by index: LOST too, or FAILED (R219, R221). -/
def State.lostMembers (s : State) (n : Nat) (l : Fin 8) : List (Fin 8) :=
  let cv := s.cove n
  slots8.filter fun i => decide (i ≠ l) && decide (groupOf cv.mode i.val = groupOf cv.mode l.val)
    && (decide (cv.role[i.val] = .lost) || decide (cv.role[i.val] = .failed))

/-- A member that failed its self-test is replaced by a spare in a restart, or is FAILED (R221). -/
def Cove.replaceFailed (c : Cove) (i : Fin 8) : Cove :=
  match c.freeSpare with
  | some j => ((c.swapMap i j).setRole j .failed).setRole i .lost
  | none => c.setRole i .failed

/-- RESTART of a lost group by its leader: `bad` are the members whose signature differed and whose self-test failed. Without a member
that can join and a free spare the group stays as R219 states: it runs on its leader alone under ON_PERM, and else stays lost. -/
def State.restartGroup (s : State) (n : Nat) (l : Fin 8) (bad : List (Fin 8)) : State :=
  let k := 8 * n + l.val
  let others := s.lostMembers n l
  let up := fun (t : State) => (t.parkAll k).modCore k fun c => { c with lost := false, tm := { c.tm with st := .run } }
  if others = [] then
    (up s).modRoles n fun c => { c.setRole l (if c.mode = .split then .single else .leader) with result := 0, reason := 0 }
  else
    let s2 := (others.filter fun i => bad.contains i || decide ((s.cove n).role[i.val] = .failed)).foldl
      (fun t i => t.setCove n ((t.cove n).replaceFailed i)) s
    let joined := others.filter fun i => decide ((s2.cove n).role[i.val] ≠ Role.failed)
    if joined = [] then
      if (s2.cove n).onPerm then
        ((up s2).modRoles n fun c => { c.setRole l .leader with result := 0, reason := 0 }).raiseN (tidemarkSource n)
      else s2.modCove n fun c => { c with result := 0, reason := 0 }
    else
      let s3 := (up s2).modRoles n fun c =>
        let c1 := joined.foldl (fun x i => x.setRole i .copying) (c.setRole l .leader)
        { c1 with busy := true, result := 0, reason := 0, copies := c1.copies ++ [(CopyJob.mk l joined none true)] }
      s3.modCore k fun c => { c with tm := { c.tm with st := .copy } }

/-- The outcome of a self-test of a FAILED core (R219, R221). -/
def State.retest (s : State) (n : Nat) (i : Fin 8) (pass : Bool) : State :=
  if !pass then s
  else if (s.cove n).mode = .split then (s.freshCore (8 * n + i.val)).modRoles n fun c => c.setRole i .single
  else s.modRoles n fun c => c.setRole i .spare

/-- RESTART (R221): of a lost group by its leader, or of a FAILED core; of any other core it is refused with REASON 4. The
masks say which members' signatures differed and which cores pass their self-test. -/
def State.restart (s : State) (n l : Nat) (differ pass : BitVec 8) : State :=
  match s.cmodeBar n with
  | some r => s.modCove n (·.refuse r)
  | none =>
    let i := idxOf l
    let bad := slots8.filter fun j => differ.getLsbD j.val && !pass.getLsbD j.val
    if 8 ≤ l then s.modCove n (·.refuse 4)
    else match (s.cove n).role[i.val] with
      | .lost => if (s.core (8 * n + l)).lost ∨ (s.core (8 * n + l)).tm.st = .stopped then (s.undertowSend 2 (8 * n)).restartGroup n i bad
                 else s.modCove n (·.refuse 4)
      | .failed => (s.modCove n fun c => { c with result := 0, reason := 0 }).retest n i (pass.getLsbD i.val)
      | _ => s.modCove n (·.refuse 4)

/-! ## Self-test (R219, R320) -/

/-- STEST_STATUS of a finished step, its count, and source 13. -/
def State.stepDone (s : State) (n : Nat) (pass : Bool) : State :=
  (s.modCove n fun c => { c with stestResult := if pass then 1 else 2, stestPasses := satInc c.stestPasses, step := .none }).raiseN 13

/-- The next member of a group from an index on, round-robin. -/
def State.nextMember (s : State) (n : Nat) (from_ : Fin 8) : Option (Fin 8) :=
  ((List.range 8).map fun j => idxOf (from_.val + j)).find? fun i => (s.memberLeader n i).isSome

/-- The next group leader from an index on, round-robin. -/
def State.nextGroup (s : State) (n : Nat) (from_ : Fin 8) : Option (Fin 8) :=
  ((List.range 8).map fun j => idxOf (from_.val + j)).find? fun i => s.isLeader (8 * n + i.val)

/-- One step of a schedule point: a rotation and a core test with a free spare, else a slice (R320). -/
def State.selfTestStep (s : State) (n : Nat) : State :=
  let cv := s.cove n
  match cv.freeSpare, s.nextMember n cv.stestNext with
  | some _, some i =>
    match s.rotateStart n i with
    | some t => t.modCove n fun c => { c with
        stestNext := idxOf (i.val + 1), stestPhys := cv.coreMap[i.val], step := .core cv.coreMap[i.val] }
    | none => s
  | _, _ =>
    match s.nextGroup n cv.stestNext with
    | some i =>
      let k := 8 * n + i.val
      let s1 := s.commitNow k
      if (s1.core k).tm.st = .restore then s1
      else (s1.modCore k fun c => { c with stopped := true }).modCove n fun c => { c with
        stestNext := idxOf (i.val + 1), stestPhys := cv.coreMap[i.val], step := .slice i }
    | none => s

/-- The next bank of a cove's SRAM is tested in its spare's place (R320). -/
def State.bankTestStep (s : State) (n : Nat) : State :=
  s.modCove n fun c => { c with bankTest := some c.stestBank, stestBank := ⟨(c.stestBank.val + 1) % 16, Nat.mod_lt _ (by decide)⟩ }

/-- The phase of a tide reaches a fraction of a turn at this tick. -/
def State.reachesFrac (s : State) (i frac : Nat) : Bool :=
  let n := fun t => floorDiv (floorDiv (s.phaseAt i t) (2 ^ 32) - frac) (2 ^ 24)
  decide (0 < s.now) && decide (n (s.now - 1) < n s.now)

/-- The tide of a cove's self-test reaches FRAC at the tick of the latest command (log entry 150): a schedule point once in EVERY turns, while the tide moves and no mode
command is in progress; skipped while the previous step is unfinished (R320). -/
def State.schedulePoint (s : State) (n : Nat) : State :=
  let cv := s.cove n
  let every := max (fld cv.stestCtrl 23 16) 1
  if !bit cv.stestCtrl 31 || (s.tide (fld cv.stestCtrl 27 24)).still || cv.busy
      || !s.reachesFrac (fld cv.stestCtrl 27 24) (fld cv.stestPhase 23 0) then s
  else
    let turns := cv.turnsSince + 1
    if turns < every then s.modCove n fun c => { c with turnsSince := turns }
    else
      let s1 := s.modCove n fun c => { c with turnsSince := 0 }
      if cv.step ≠ .none ∨ cv.bankTest.isSome then s1
      else
        let s2 := s1.selfTestStep n
        if bit cv.stestCtrl 30 then s2.bankTestStep n else s2

/-- A stopped group all of whose members have been tested: with ON_PERM and one that passed, it runs on that core alone
(R219). -/
def State.afterTests (s : State) (n : Nat) (i : Fin 8) : State :=
  let cv := s.cove n
  let group := slots8.filter fun j => decide (groupOf cv.mode j.val = groupOf cv.mode i.val)
  let lead := (group.find? fun j => decide ((s.core (8 * n + j.val)).tm.st = .stopped)).getD i
  let passed := group.filter fun j => decide (cv.role[j.val] = .lost)
  if group.any fun j => decide (cv.role[j.val] = .test) then s
  else match passed with
    | [p] =>
      if cv.onPerm ∧ cv.mode ≠ .split then
        let s1 := s.modRoles n fun c =>
          let c1 := if p = lead then c else (c.swapMap p lead).setRole p .failed
          c1.setRole lead .leader
        (s1.modCore (8 * n + lead.val) fun c => { c with tm := { c.tm with st := .run } }).raiseN (tidemarkSource n)
      else s
    | _ => s

/-- A core's full self-test ends (R219, R320): a released core becomes SPARE or FAILED, a member of a stopped group LOST
or FAILED. -/
def State.coreTested (s : State) (n : Nat) (phys : Fin 8) (pass : Bool) : State :=
  let cv := s.cove n
  match slots8.find? fun i => decide (cv.coreMap[i.val] = phys) && decide (cv.role[i.val] = .test) with
  | none => s
  | some i =>
    let group := slots8.filter fun j => decide (groupOf cv.mode j.val = groupOf cv.mode i.val)
    let stopped := (groupOf cv.mode i.val).isSome && group.any fun j => decide ((s.core (8 * n + j.val)).tm.st = .stopped)
    let r := if pass then (if stopped then Role.lost else .spare) else .failed
    let s1 := s.modRoles n fun c => c.setRole i r
    let s2 := if stopped then s1.afterTests n i else s1
    if cv.step = .core phys then s2.stepDone n pass else s2

/-- A slice ends: the group is restored from its commit with its TLB discarded, and resumes (R320). -/
def State.sliceDone (s : State) (n : Nat) (pass : Bool) : State :=
  match (s.cove n).step with
  | .slice i =>
    let k := 8 * n + i.val
    let s1 := (s.restoreArch k).modCore k fun c => { c with stopped := false, arch := { c.arch with tlb := Tbl.empty } }
    let s2 := s1.stepDone n pass
    if pass then s2 else s2.raiseN (redundancySource n)
  | _ => s

/-- A bank's test ends: a failing bank stays replaced by the spare (R320). -/
def State.bankDone (s : State) (n : Nat) (pass : Bool) : State :=
  match (s.cove n).bankTest with
  | none => s
  | some b =>
    let s1 := (s.modCove n fun c => { c with
      bankTest := none, stestResult := if pass then 1 else 2, stestPasses := satInc c.stestPasses
      replacedBanks := if pass then c.replacedBanks else c.replacedBanks ++ [b] }).raiseN 13
    if pass then s1 else s1.raiseN (redundancySource n)

/-! ## The commands -/

/-- A checkpoint is taken at a position of a group's execution (R206). -/
def execCheckpoint (core : Fin 128) (s : State) : Host.Outcome State Fault Refusal := .next (s.checkpoint core)

/-- The signatures of a pending checkpoint are compared: it commits, or the group rolls back to the previous commit
(R206). An injection inverts a bit of a member's signature (R342). -/
def execCheckpointCommit (core : Fin 128) (upset : Upset) (s : State) : Host.Outcome State Fault Refusal :=
  .next (s.commitPending core upset)

/-- A group rolls back for a cause of R209: 1 mismatch and 2 signatures in a group of members, 3 glitch alarm, 4 three-way
disagreement in a triple (R211). -/
def execRollback (core : Fin 128) (cause : BitVec 4) (s : State) : Host.Outcome State Fault Refusal :=
  let n := core.val / 8
  let members := (s.members core).length
  .next (match cause.toNat with
    | 1 => if 2 ≤ members then (s.detect (redPage n) 1).rollback core 1 else s
    | 2 => if 2 ≤ members then (s.detect (redPage n) 3).rollback core 2 else s
    | 3 => (s.modCove n fun c => { c with glitchCnt := satInc c.glitchCnt }).rollback core 3
    | 4 => if 3 ≤ members then (s.detect (redPage n) 2).rollback core 4 else s
    | _ => s)

/-- A common-mode glitch alarm rolls back every group in its scope (R211, R310). -/
def execGlitchAlarm (scope : CoveScope) (s : State) : Host.Outcome State Fault Refusal := .next (s.glitch scope)

/-- Restore is complete: the group replays, or first takes the copy that puts a spare on trial (R211, R212, R219). Any other copy waits
for its next commit (R217, R222, R223). -/
def execRestoreComplete (core : Fin 128) (s : State) : Host.Outcome State Fault Refusal :=
  if (s.core core).tm.st = .restore then .next ((s.restoreGroup core).startCopies core true) else .next s

/-- CMODE_CMD CHANGE: from a thread of tenant 0 only (R216, R217). -/
def execChange (who : Agent) (cove : Fin 16) (mode : BitVec 2) (s : State) : Host.Outcome State Fault Refusal :=
  .next ((s.class0 who (8 * cove.val)).ifHeadland who (redPage cove) fun t => t.changeMode cove mode)

/-- CMODE_CMD ROTATE (R222). -/
def execRotate (who : Agent) (cove : Fin 16) (lcore : BitVec 4) (s : State) : Host.Outcome State Fault Refusal :=
  .next ((s.class0 who (8 * cove.val)).ifHeadland who (redPage cove) fun t => t.rotate cove lcore.toNat)

/-- CMODE_CMD RESTART (R221). -/
def execRestart (who : Agent) (cove : Fin 16) (lcore : BitVec 4) (differ pass : BitVec 8) (s : State) :
    Host.Outcome State Fault Refusal :=
  .next ((s.class0 who (8 * cove.val)).ifHeadland who (redPage cove) fun t => t.restart cove lcore.toNat differ pass)

/-- A CMODE_CMD with another code is refused with REASON 7 (R216); the codes of the table act as their commands. -/
def execCmodeUnknown (who : Agent) (cove : Fin 16) (code : BitVec 3) (s : State) : Host.Outcome State Fault Refusal :=
  .next ((s.class0 who (8 * cove.val)).ifHeadland who (redPage cove) fun t =>
    match code.toNat with
    | 1 => t.changeMode cove 0
    | 2 => t.rotate cove 0
    | 3 => t.restart cove 0 0 0
    | _ => t.modCove cove (·.refuse 7))

/-- A copy ends (R218). -/
def execCopyEnd (cove : Fin 16) (s : State) : Host.Outcome State Fault Refusal := .next (s.copyEnd cove)

/-- The tide of a cove's self-test reaches FRAC (R320). -/
def execSelfTestSchedulePoint (cove : Fin 16) (s : State) : Host.Outcome State Fault Refusal := .next (s.schedulePoint cove)

/-- A core's full self-test ends (R219, R320). -/
def execCoreTestComplete (cove : Fin 16) (phys : Fin 8) (pass : Bool) (s : State) : Host.Outcome State Fault Refusal :=
  .next (s.coreTested cove phys pass)

/-- A slice of self-test ends (R320). -/
def execSliceComplete (cove : Fin 16) (pass : Bool) (s : State) : Host.Outcome State Fault Refusal := .next (s.sliceDone cove pass)

/-- A bank's self-test ends (R320). -/
def execBankTestComplete (cove : Fin 16) (pass : Bool) (s : State) : Host.Outcome State Fault Refusal :=
  .next (s.bankDone cove pass)

end Sys2Proof.Machine
end

