-- ==== Sys2Proof/Machine/Power.lean ====
section
/-! DEFINITION. Profiles (R300, R301), gating (R302 to R305, R309), epochs (R318), standby (R306), the monitors (R310), the
always-on domain (R311) and the OTP (R321). -/

namespace Sys2Proof.Machine

/-- The page index of the power page (R333). -/
def powerPage : Nat := 0x002

/-- The page index of the always-on page (R333). -/
def aonPage : Nat := 0x003

/-- A write to the power page by tenant 0; any write but one to SYS_RESET takes back the first half of a reset (R300). -/
def State.powerWrite (s : State) (who : Agent) (f : State → State) : State :=
  ({ s with power := { s.power with resetKey := false } } : State).ifHeadland who powerPage f

/-! ## Profiles (R301) -/

/-- The code of a profile. -/
def Profile.code : Profile → Nat
  | .neap => 0
  | .mean => 1
  | .spring => 2

/-- The profile of a TARGET code below 3. -/
def profileOf (n : Nat) : Profile := if n = 0 then .neap else if n = 1 then .mean else .spring

/-- PROFILE as it reads. -/
def Power.profileWord (p : Power) : Word :=
  flagAt p.busy 31 ||| at_ p.result.toNat 29 ||| at_ p.current.code 4 ||| at_ p.target.toNat 0

/-- A write of TARGET (R301, R310): refused and without effect while BUSY; 3, and all but Neap at the thermal-critical
alarm, are refused. -/
def State.profilePut (s : State) (v : Word) : State :=
  let t := fld v 1 0
  let p := s.power
  if p.busy then s
  else if t = 3 ∨ (p.critical ∧ t ≠ 0) then { s with power := { p with result := 1 } }
  else if profileOf t = p.current then { s with power := { p with result := 0, target := BitVec.ofNat 2 t } }
  else { s with power := { p with busy := true, result := 0, target := BitVec.ofNat 2 t, changeTo := profileOf t, switched := false } }

/-- A write of PROFILE (R300). -/
def execProfileWrite (who : Agent) (v : Word) (s : State) : Host.Outcome State Fault Refusal :=
  .next (s.powerWrite who fun t => t.profilePut v)

/-- A group rolls back, replays or copies. -/
def State.anyRolling (s : State) : Bool :=
  s.allLeaders.any fun k =>
    let t := (s.core k).tm.st
    decide (t = .restore) || decide (t = .replay) || decide (t = .copy)

/-- The switch of a profile change, once every group has committed; a group that rolls back first catches up (R301). -/
def execProfileSwitch (s : State) : Host.Outcome State Fault Refusal :=
  if s.power.busy && !s.power.switched && !s.anyRolling then
    let s1 := s.commitAll
    .next { s1 with power := { s1.power with current := s1.power.changeTo, switched := true } }
  else .next s

/-- A profile change ends (R301). -/
def execProfileChangeComplete (s : State) : Host.Outcome State Fault Refusal :=
  .next (if s.power.busy ∧ s.power.switched then { s with power := { s.power with busy := false, switched := false, result := 0 } }
    else s)

/-- Tj above 125 °C: source 9, and a change to Neap as if TARGET had been written (R301, R310). -/
def State.thermalCritical (s : State) (injected : Bool) : State :=
  let s1 := s.detect powerPage 9 injected
  let p := s1.power
  { s1 with power :=
      if p.current = .neap ∧ !p.busy then { p with critical := true, target := 0 }
      else { p with critical := true, busy := true, target := 0, changeTo := .neap, switched := false } }

/-- The thermal-critical alarm (R310). -/
def execThermalForcedNeap (s : State) : Host.Outcome State Fault Refusal := .next (s.thermalCritical false)

/-- The thermal-critical alarm clears (R301). -/
def execThermalAlarmClear (s : State) : Host.Outcome State Fault Refusal :=
  .next { s with power := { s.power with critical := false } }

/-! ## Gate domains (R302) -/

/-- Whether a domain can gate its clock. Cove 0 is refused on its own ground. -/
def gateClk (d : Nat) : Bool := decide (d < 45)

/-- Whether a domain can gate its power. -/
def gatePwr (d : Nat) : Bool := decide (d < 26) || decide (d = 38)

/-- The page that carries a domain's BLK_GATE (R302). -/
def gatePage (d : Nat) : Nat :=
  if d < 16 then covePage d
  else if d < 20 then 0x020 + (d - 16)
  else if d < 26 then 0x028 + (d - 20)
  else if d < 30 then 0x030 + (d - 26)
  else if d < 38 then 0x038 + (d - 30)
  else if d = 38 then 0x040
  else if d = 39 then 0x041
  else if d < 44 then 0x044 + (d - 40)
  else 0x018

/-- The domain whose BLK_GATE a page carries, if any. -/
def pageDomain (page : Nat) : Option Nat := (List.range 45).find? fun d => decide (gatePage d = page)

/-- GD_STATE (R302). -/
def Gate.word (g : Gate) : Word :=
  at_ (match g.st with | .on => 0 | .clk => 1 | .pwr => 2 | .reset => 3 | .going => 4) 29 ||| flagAt g.deferred 28
    ||| at_ g.req.toNat 26 ||| at_ (match g.gateBy with | .none => 0 | .headland => 1 | .harbour => 2) 24
    ||| at_ g.hold.toNat 12 ||| at_ g.reqTen.toNat 0

/-- BLK_GATE (R303). -/
def Gate.blkWord (g : Gate) : Word :=
  at_ (match g.status with | .none => 0 | .applied => 1 | .deferred => 2 | .refused => 3) 30 ||| at_ g.reqShown.toNat 0

/-! ## What gating does (R305) -/

/-- Spill every resident bank of a core, bank 0 included (R305). -/
def State.spillAll (s : State) (k : Nat) : State :=
  (List.range 12).foldl (fun t i =>
    match (t.core k).arch.banks.toList[i]? with
    | some (some b) => t.spill k i b
    | _ => t) s

/-- A group comes back from gating: bank 0 is filled where it was spilled, unless slot 0 is HELD (R125), the vector buffer is loaded,
the group commits, and the parks, wakes and completions that were recorded reach its slots (R121, R305). -/
def State.ungateGroup (s : State) (k : Nat) : State :=
  let c := s.core k
  let s1 := if (c.slot 0).st ≠ .empty ∧ (c.slot 0).st ≠ .held ∧ (c.ctx 0 0).isNone then (s.fill k 0 0).reloadVector k else s
  let s2 := s1.commitNow k
  let parks := (s2.core k).arrivals
  if s2.takesInput k then
    (parks.foldl (fun t a => t.tenantArrive k a) (s2.modCore k fun c => { c with arrivals := [] })).releaseHeld k
  else s2

/-- The endpoints of an interface's or link's domain (R273, R283). -/
def domainEndpoints (d : Nat) : List Nat :=
  if d < 16 then []
  else if d < 20 then (List.range 32).map fun j => 0x400 + 32 * (d - 16) + j
  else if d < 26 then (List.range 16).map fun j => 0x10 * (d - 20) + j
  else if d < 30 then (List.range 4).map fun j => 0x080 + 4 * (d - 26) + j
  else if d < 38 then (List.range 2).map fun j => 0x0A0 + 2 * (d - 30) + j
  else if d = 38 then (List.range 16).map fun j => 0x100 + j
  else if d = 39 then [0x120, 0x121]
  else if d < 44 then (List.range 2).map fun j => 0x130 + 2 * (d - 40) + j
  else []

/-- An interface behaves as a port whose link is down (R297, R305, R306): a link and a port drop, and transmit descriptors
of ports with a link end short. -/
def State.portDown (s : State) (d : Nat) : State :=
  let cut := fun (t : State) => t.cutTx (domainEndpoints d)
  if 16 ≤ d ∧ d < 20 then cut (s.modLink (d - 16) fun x => if x.link = .up then { x with link := .down } else x)
  else if 20 ≤ d ∧ d < 26 then cut (s.modEth (d - 20) fun e => { e with up := false })
  else if d = 38 then cut { s with pcie := { s.pcie with up := false } }
  else s

/-- An interface retrains as it comes back: an enabled link starts in TRAINING with its positions LEFT (R279, R305). -/
def State.portRetrain (s : State) (d : Nat) : State :=
  if 16 ≤ d ∧ d < 20 then
    s.modLink (d - 16) fun x => if x.link = .off then x else { x.allLeft with link := .training, started := false, silent := 0 }
  else s

/-- Every core of a cove stops for a gate or goes on; a group that splits at its last commit leaves no core that runs (R305). -/
def State.gateCores (s : State) (n : Nat) (b : Bool) : State :=
  (List.range 8).foldl (fun t i => t.modCore (8 * n + i) fun c => { c with gated := b }) s

/-- The cores of a cove and its cluster cache before their power goes: every bank spilled, the shadows discarded, the cache written back
and invalidated (R305). -/
def State.powerCove (s : State) (n : Nat) : State :=
  ((s.leaders n).foldl (fun t k => (t.spillAll k).modCore k fun c => { c with tm := { c.tm with shadow := none, pending := none } }) s).cacheFlush n

/-- A unit leaves service for a gate. -/
def State.leaveService (s : State) (d : Nat) (pwr : Bool) : State :=
  let s1 := if d < 16 then
      let t := ((s.leaders d).foldl (fun t k => t.commitNow k) s).gateCores d true
      if pwr then t.powerCove d else t
    else s.portDown d
  s1.setGate d { s1.gate d with epoch := some s1.power.epoch }

/-- A unit comes back into service. -/
def State.enterService (s : State) (d : Nat) : State :=
  let s1 := if d < 16 then (s.leaders d).foldl (fun t k => t.ungateGroup k) (s.gateCores d false) else s.portRetrain d
  s1.setGate d { s1.gate d with epoch := none, st := .on }

/-! ## Gating commands (R303, R304) -/

/-- Event 12: a Harbour request applied, deferred or refused (R304, R310). -/
def State.harbourEvent (s : State) : State := s.raiseN 12

/-- A domain starts on its way to a state; a cove whose clock is gated already loses its power as one that was on does (R305). -/
def State.gateGo (s : State) (d : Nat) (dest : GateState) (by_ : GateBy) : State :=
  let g := s.gate d
  let s1 := if g.st = .on ∧ dest ≠ .on then s.leaveService d (decide (dest = .pwr))
    else if d < 16 ∧ dest = .pwr then s.powerCove d
    else s
  let g1 := s1.gate d
  s1.setGate d { g1 with st := .going, next := dest, gateBy := if dest = .on then .none else by_ }

/-- Apply a Harbour request that stands. -/
def State.applyHarbour (s : State) (d : Nat) : State :=
  let g := s.gate d
  let s1 := s.gateGo d (if g.req = 2 then .pwr else .clk) .harbour
  let g1 := s1.gate d
  (s1.setGate d { g1 with deferred := false, status := .applied }).harbourEvent

/-- The REASON for which a command on a domain is refused, if any: 2 RESET, 5 BUSY, 1 no such domain (R303, R309). -/
def State.gdBar (s : State) (d : Nat) : Option Nat :=
  if d < 45 ∧ (s.gate d).st = .reset then some 2 else if s.power.gdResult = 1 then some 5 else if 45 ≤ d then some 1 else none

/-- GD_STATUS after a refusal. -/
def State.gdRefuse (s : State) (r : Nat) : State :=
  { s with power := { s.power with gdResult := 2, gdReason := BitVec.ofNat 4 r } }

/-- GD_STATUS after an acceptance: BUSY while the domain is on its way. -/
def State.gdAccept (s : State) (busy : Bool) : State :=
  { s with power := { s.power with gdResult := if busy then 1 else 0, gdReason := 0, gdDom := s.power.gdSel } }

/-- A gate command on the selected domain, judged. -/
def State.gdCommand (s : State) (why : Nat → Option Nat) (f : Nat → State) : State :=
  let d := s.power.gdSel.toNat
  match s.gdBar d with
  | some r => s.gdRefuse r
  | none =>
    match why d with
    | some r => s.gdRefuse r
    | none => f d

/-- UNGATE: the gate and any Harbour request go (R303). -/
def State.gdUngate (s : State) : State :=
  s.gdCommand (fun _ => none) fun d =>
    let g := s.gate d
    let s1 := s.setGate d { g with req := 0, deferred := false, reqTen := 0, status := .none, reqShown := 0 }
    if g.st = .on then s1.gdAccept false else (s1.gateGo d .on .none).gdAccept true

/-- CLKGATE or PWRGATE: refused for cove 0 with REASON 4 and where R302 has no such gate with REASON 1. -/
def State.gdGate (s : State) (pwr : Bool) : State :=
  s.gdCommand (fun d => if d = 0 then some 4 else if (if pwr then gatePwr d else gateClk d) then none else some 1) fun d =>
    let dest := if pwr then GateState.pwr else .clk
    if (s.gate d).st = dest then (s.setGate d { s.gate d with gateBy := .headland }).gdAccept false
    else (s.gateGo d dest .headland).gdAccept true

/-- HOLD: one more; a Harbour gate is lifted and its request becomes DEFERRED, which raises source 12 (R303, R304). -/
def State.gdHoldCmd (s : State) : State :=
  s.gdCommand (fun d => if (s.gate d).hold = 0xFFF#12 then some 3 else none) fun d =>
    let g := s.gate d
    let s1 := s.setGate d { g with hold := g.hold + 1 }
    if g.gateBy = .harbour then
      let s2 := s1.gateGo d .on .none
      (s2.setGate d { s2.gate d with deferred := true, status := .deferred }).harbourEvent.gdAccept true
    else s1.gdAccept false

/-- UNHOLD: one less; at 0 a DEFERRED request is applied (R303). -/
def State.gdUnholdCmd (s : State) : State :=
  s.gdCommand (fun _ => none) fun d =>
    let g := s.gate d
    let h := if g.hold = 0 then 0#12 else g.hold - 1
    let s1 := s.setGate d { g with hold := h }
    if h = 0 ∧ g.deferred then (s1.applyHarbour d).gdAccept true else s1.gdAccept false

/-- RESET of a domain (R309): refused for coves and for external memory. -/
def State.gdResetCmd (s : State) : State :=
  s.gdCommand (fun d => if d < 16 ∨ d = 44 then some 1 else none) fun d =>
    let g := s.gate d
    (s.setGate d { g with st := .reset, next := .on, gateBy := .none, req := 0, deferred := false, reqTen := 0 }).gdAccept true

/-- A unit's registers and its page at reset, but for the ownership word; its channels STOPPED; a link keeps its keys and
SESSION, which the Cave holds (R309, R312). -/
def State.unitReset (s : State) (d : Nat) : State :=
  let page := gatePage d
  let f := s.frame page
  let s0 : State := { s with inj := { s.inj with waiting := s.inj.waiting.filter fun w => decide (w.page ≠ page) } }
  let s1 := s0.setFrame page { Frame.reset page with owner := f.owner, lock := f.lock }
  let eps := domainEndpoints d
  let s2 := (s1.channels.cells.filter fun e =>
      decide (2 ≤ e.2.ty) && decide (e.2.ty ≤ 5) && eps.contains e.2.endpoint).foldl
    (fun t e => t.chHalt e.1) s1
  if d < 20 then
    s2.modLink (d - 16) fun x => { Link.reset with
      session := x.session, positions := ⟨x.positions.cells.map fun e => (e.1, { Position.reset with key := e.2.key })⟩ }
  else if d < 26 then s2.setEth (d - 20) Eth.reset
  else if d < 30 then s2.setCan (d - 26) Can.reset
  else if d < 38 then s2.setUart (d - 30) Uart.reset
  else if d = 38 then { s2 with pcie := Pcie.reset }
  else if d = 39 then { s2 with xspi := Xspi.reset }
  else s2.setI2c (d - 40) I2c.reset

/-- UNGATE (R303). -/
def execUngate (who : Agent) (s : State) : Host.Outcome State Fault Refusal := .next (s.powerWrite who State.gdUngate)

/-- CLKGATE (R303, R305). -/
def execClkgate (who : Agent) (s : State) : Host.Outcome State Fault Refusal := .next (s.powerWrite who (·.gdGate false))

/-- PWRGATE (R303, R305). -/
def execPwrgate (who : Agent) (s : State) : Host.Outcome State Fault Refusal := .next (s.powerWrite who (·.gdGate true))

/-- HOLD (R303). -/
def execGdHold (who : Agent) (s : State) : Host.Outcome State Fault Refusal := .next (s.powerWrite who State.gdHoldCmd)

/-- UNHOLD (R303). -/
def execUnhold (who : Agent) (s : State) : Host.Outcome State Fault Refusal := .next (s.powerWrite who State.gdUnholdCmd)

/-- RESET of a gate domain (R309). -/
def execGdReset (who : Agent) (s : State) : Host.Outcome State Fault Refusal := .next (s.powerWrite who State.gdResetCmd)

/-- GD_CMD by code (R303): an unknown one is refused with REASON 6, or 5 while BUSY. -/
def State.gdCode (s : State) (code : Nat) : State :=
  match code with
  | 1 => s.gdUngate
  | 2 => s.gdGate false
  | 3 => s.gdGate true
  | 4 => s.gdHoldCmd
  | 5 => s.gdUnholdCmd
  | 6 => s.gdResetCmd
  | _ => s.gdRefuse (if s.power.gdResult = 1 then 5 else 6)

/-- A GD_CMD with another code (R303); the codes of the table act as their commands. -/
def execGdCmdUnknown (who : Agent) (code : BitVec 4) (s : State) : Host.Outcome State Fault Refusal :=
  .next (s.powerWrite who fun t => t.gdCode code.toNat)

/-- The command in progress on a domain is done. -/
def State.gdDone (s : State) (d : Nat) : State :=
  if s.power.gdResult = 1 ∧ s.power.gdDom.toNat = d then { s with power := { s.power with gdResult := 0 } } else s

/-- A domain reaches the state it is on its way to; a unit whose recorded epoch differs is rebuilt first (R303, R309,
R318). -/
def State.gatingDone (s : State) (d : Nat) : State :=
  let g := s.gate d
  match g.st with
  | .reset =>
    let s1 := s.unitReset d
    (s1.setGate d { s1.gate d with st := .on, next := .on, epoch := none, status := .none, reqShown := 0 }).gdDone d
  | .going =>
    if g.next = .on then
      if g.epoch.any fun e => decide (e ≠ s.power.epoch) then s else (s.enterService d).gdDone d
    else (s.setGate d { g with st := g.next }).gdDone d
  | _ => s

/-- A gating or a reset of a domain completes (R303, R309). -/
def execGatingComplete (dom : Fin 45) (s : State) : Host.Outcome State Fault Refusal := .next (s.gatingDone dom)

/-- A tenant's gate is lifted. -/
def State.liftHarbour (s : State) (d : Nat) : State :=
  let g := s.gate d
  let s1 := s.setGate d { g with req := 0, deferred := false, reqTen := 0, status := .none, reqShown := 0 }
  if g.gateBy = .harbour then s1.gateGo d .on .none else s1

/-- A change of a page's owner withdraws the standing request and lifts the gate that it applied (R304, R331). -/
def State.ownerChanged (s : State) (page : Nat) : State :=
  match pageDomain page with
  | some d => s.liftHarbour d
  | none => s

/-- A write of BLK_GATE by the page's owner (R304). -/
def State.blkGate (s : State) (ten : TenantId) (d : Nat) (v : Word) : State :=
  let g := s.gate d
  let r := fld v 1 0
  let ok := (decide (r = 1) && gateClk d || decide (r = 2) && gatePwr d) && decide (d ≠ 0)
  if r = 0 then
    if g.deferred then s.setGate d { g with req := 0, deferred := false, reqTen := 0, status := .none, reqShown := 0 }
    else if g.gateBy = .harbour then s.liftHarbour d
    else s.setGate d { g with status := .none, reqShown := 0 }
  else if !ok || decide (g.st = .reset) || decide (g.gateBy = .headland) then
    (s.setGate d { g with status := .refused, reqShown := BitVec.ofNat 2 r }).harbourEvent
  else
    let s1 := s.setGate d { g with req := BitVec.ofNat 2 r, reqTen := ten, reqShown := BitVec.ofNat 2 r }
    if g.hold = 0 then s1.applyHarbour d
    else (s1.setGate d { s1.gate d with deferred := true, status := .deferred }).harbourEvent

/-- A write of BLK_GATE: from the page's owner, any other is ignored (R304). An injection of detector 0 refuses the owner's (R342). -/
def State.blkGateStore (s : State) (who : Agent) (d : Nat) (v : Word) : State :=
  if (s.frame (gatePage d)).owner = who.ten then s.ifOwner who (gatePage d) fun t => t.blkGate who.ten d v else s

/-- A write of BLK_GATE. -/
def execBlkGateWrite (who : Agent) (dom : Fin 45) (v : Word) (tick : Nat) (s : State) : Host.Outcome State Fault Refusal :=
  .next ((s.advance tick).blkGateStore who dom v)

/-! ## Epochs (R318) -/

/-- EPOCH advances. -/
def State.epochAdvance (s : State) : State := { s with power := { s.power with epoch := s.power.epoch + 1 } }

/-- EPOCH_CMD (R300, R318). -/
def execEpochCmd (who : Agent) (v : Word) (s : State) : Host.Outcome State Fault Refusal :=
  .next (s.powerWrite who fun t => if bit v 0 then t.epochAdvance else t)

/-- A unit's full rebuild (R318): a cove restarts its scrubber's pass; an interface's channels become STALE. -/
def State.rebuild (s : State) (d : Nat) : State :=
  if d < 16 then
    ((s.leaders d).foldl (fun t k => (t.rebuildCore k).reloadVector k) s).modCove d fun c => { c with scrubPos := 0, codePos := 0, cache := Tbl.empty }
  else
    let eps := domainEndpoints d
    (s.channels.cells.filter fun e => decide (2 ≤ e.2.ty) && decide (e.2.ty ≤ 5) && eps.contains e.2.endpoint).foldl
      (fun t e => t.setChannel e.1 (t.channel e.1).toStale) s

/-- A unit that returns with another epoch rebuilds itself, against the epoch of now, and raises source 14 (R318). -/
def State.epochRebuild (s : State) (d : Nat) : State :=
  let g := s.gate d
  if g.st = .going ∧ g.next = .on ∧ g.epoch.any fun e => decide (e ≠ s.power.epoch) then
    (((s.rebuild d).enterService d).gdDone d).raiseN 14
  else s

/-- A unit's rebuild ends. -/
def execEpochRebuild (dom : Fin 45) (tick : Nat) (s : State) : Host.Outcome State Fault Refusal :=
  .next ((s.advance tick).epochRebuild dom)

/-! ## Standby (R306) -/

/-- The REASON for which ENTER is refused, if any. -/
def State.standbyBar (s : State) : Option Nat :=
  let busy := s.power.busy || (List.range 16).any fun n =>
    let c := s.cove n
    c.busy || decide (c.copies ≠ []) || decide (c.step ≠ .none) || c.bankTest.isSome
  if busy then some 1
  else if s.board.pfwLow then some 2
  else if s.evc.wakeLatch &&& s.evc.wakeEn ≠ 0 then some 3
  else none

/-- Every interface stops as a port whose link goes down. -/
def State.portsDown (s : State) : State := ((List.range 28).map (16 + ·)).foldl (fun t d => t.portDown d) s

/-- Every group commits and stops, the caches are clean, the interfaces stop, and the clocks of three domains stop (R306). -/
def State.standbyGo (s : State) : State :=
  let s1 := ((List.range 16).foldl (fun t n => t.cacheClean n) s.commitAll).portsDown
  { s1 with phase := .standby, power := { s1.power with monitorsOff := true, entering := false } }

/-- ENTER: standby is entered once no group rolls back (R306, log entry 69). -/
def State.standbyEnter (s : State) : State :=
  match s.standbyBar with
  | some r => { s with power := { s.power with stbyReason := BitVec.ofNat 8 r } }
  | none => if s.anyRolling then { s with power := { s.power with entering := true } } else s.standbyGo

/-- The entry that an accepted ENTER has left open, once every group has caught up (R306). -/
def State.enterIfDue (s : State) : State :=
  if s.power.entering && decide (s.phase = .run) && !s.anyRolling then s.standbyGo else s

/-- STBY_CMD ENTER (R306). -/
def execEnter (who : Agent) (s : State) : Host.Outcome State Fault Refusal :=
  .next (s.powerWrite who fun t => if t.phase = .run then t.standbyEnter else t)

/-- The restart out of standby (R306): the domains start, held arrivals and latches reach the EVC, held wakes their slots,
and the groups commit. -/
def State.standbyRestart (s : State) : State :=
  let p := s.power
  let s1 : State := { s with
    phase := .run, heldEvents := [], heldWakes := []
    power := { p with monitorsOff := false, stbyIn := true, restarts := satInc16 p.restarts } }
  let s2 := s.heldEvents.foldl (fun t i => t.raise i) s1
  let latched := (List.range 64).filter fun k => s.evc.wakeLatch.getLsbD k
  let s3 := latched.foldl (fun t k => t.raiseN (128 + k)) s2
  let s4 := s.heldWakes.foldl (fun t w => t.releaseWake w) s3
  (((List.range 28).map (16 + ·)).foldl (fun t d => if (t.gate d).st = .on then t.portRetrain d else t) s4).commitAll

/-- A cause that starts the restart (R306). -/
def State.restartCause (s : State) : Bool :=
  decide (s.heldEvents ≠ []) || decide (s.heldWakes ≠ []) || decide (s.evc.wakeLatch &&& s.evc.wakeEn ≠ 0)

/-- The restart out of standby. -/
def execStandbyRestart (at_ : Nat) (s : State) : Host.Outcome State Fault Refusal :=
  let s1 := s.advance at_
  .next (if s1.phase = .standby ∧ s1.restartCause then s1.standbyRestart else s1)

/-! ## Monitors (R310) -/

/-- VDD_IO below 3.10 V: a warning. -/
def execSupplyWarning (at_ : Nat) (s : State) : Host.Outcome State Fault Refusal :=
  .next ((s.advance at_).detect powerPage 1)

/-- VDD_CORE or VDD_SRAM of a cove too low: its groups roll back. -/
def State.supplyGlitch (s : State) (sram : Bool) (n : Nat) (injected : Bool) : State :=
  (s.detect powerPage (if sram then 3 else 2) injected).glitchCove n

/-- VDD_CORE or VDD_SRAM of a cove too low. -/
def execSupplyGlitch (sram : Bool) (cove : Fin 16) (at_ : Nat) (s : State) : Host.Outcome State Fault Refusal :=
  .next ((s.advance at_).supplyGlitch sram cove false)

/-- A cove's clock period is off, or the core PLL loses lock: the groups in scope roll back. Disarmed in standby (R306). -/
def State.clockAlarm (s : State) (scope : CoveScope) (injected : Bool) : State :=
  if s.power.monitorsOff then s
  else match scope with
    | .one n => (s.detect powerPage 4 injected).glitchCove n
    | .all => (s.detect powerPage 5 injected).glitch .all

/-- A clock monitor's alarm. -/
def execClockMonitorAlarm (scope : CoveScope) (at_ : Nat) (s : State) : Host.Outcome State Fault Refusal :=
  .next ((s.advance at_).clockAlarm scope false)

/-- The tide PLL loses lock: every tidal output drives SAFE. -/
def State.tidePllLost (s : State) (injected : Bool) : State :=
  let s1 := s.detect powerPage 6 injected
  { s1 with board := { s1.board with tidePllLost := true } }

/-- The tide PLL loses lock. -/
def execTidePllLoss (at_ : Nat) (s : State) : Host.Outcome State Fault Refusal := .next ((s.advance at_).tidePllLost false)

/-- Every tide with a source to measure restarts in SLACK. -/
def State.slackAll (s : State) : State :=
  (List.range 16).foldl (fun t i =>
    let x := t.tide i
    if x.en ∧ x.kind ≠ 0 ∧ x.st ≠ .slack then (t.enterSlack i).restage i else t) s

/-- The tide PLL relocks. -/
def execTidePllRelock (at_ : Nat) (s : State) : Host.Outcome State Fault Refusal :=
  let s1 := s.advance at_
  .next (if s1.board.tidePllLost then ({ s1 with board := { s1.board with tidePllLost := false } } : State).slackAll else s1)

/-- No crystal edge for 1 µs: the PLLs coast. -/
def State.crystalLost (s : State) (injected : Bool) : State :=
  let s1 := s.detect powerPage 7 injected
  if injected then s1 else { s1 with board := { s1.board with crystalLost := true, coasting := true } }

/-- The crystal is lost. -/
def execCrystalLoss (at_ : Nat) (s : State) : Host.Outcome State Fault Refusal := .next ((s.advance at_).crystalLost false)

/-- The crystal returns. -/
def execCrystalReturn (s : State) : Host.Outcome State Fault Refusal :=
  .next { s with board := { s.board with crystalLost := false, coasting := false } }

/-- Tj above 115 °C: a warning. -/
def execThermalWarning (at_ : Nat) (s : State) : Host.Outcome State Fault Refusal :=
  .next ((s.advance at_).detect powerPage 8)

/-! ## The always-on domain (R311) -/

/-- The watchdog's count starts again. -/
def Aon.kick (a : Aon) (now : Nat) : Aon := { a with wdAt := now, wdHalf := false }

/-- A number of halves of the watchdog's timeout may have passed by its own oscillator, which is within ±200 ppm (R311, log entry
146). -/
def Aon.halves (a : Aon) (n now : Nat) : Bool :=
  a.wdEn && decide (n * a.wdMs.toNat * 7200000 * 5000 ≤ 2 * (now - a.wdAt) * 5001)

/-- Any write of AON_KICK restarts the watchdog. -/
def execAonKick (who : Agent) (s : State) : Host.Outcome State Fault Refusal :=
  .next (s.ifHeadland who aonPage fun t => { t with aon := t.aon.kick t.now })

/-- The watchdog reaches half its timeout, once for each count: source 15. -/
def execWatchdogHalf (at_ : Nat) (s : State) : Host.Outcome State Fault Refusal :=
  let s1 := s.advance at_
  .next (if s1.aon.halves 1 s1.now && !s1.aon.wdHalf then
      ({ s1 with aon := { s1.aon with wdHalf := true } } : State).detect aonPage 1
    else s1)

/-- The least and the greatest number of its ticks that the counter may have made since it was last known, within ±200 ppm of 32.768 kHz
(R311, log entry 35). -/
def State.aonSpan (s : State) : Nat × Nat :=
  let e := s.now - s.aon.cntAt
  (e * 32768 * 4999 / (5000 * 7200000000), e * 32768 * 5001 / (5000 * 7200000000) + 1)

/-- The counter goes on from when it was last known; where in its span it stands is free (R311, log entry 35). -/
def State.aonCount (s : State) : BitVec 48 × State :=
  let (lo, hi) := s.aonSpan
  let (d, s1) := s.drawBelow (hi - lo + 1)
  let c := s1.aon.cnt + BitVec.ofNat 48 (lo + d)
  (c, { s1 with aon := { s1.aon with cnt := c, cntAt := s1.now } })

/-- The counter's [31:0] may equal a value now: the count at which it does, if it lies in the span (R311). -/
def State.aonAt (s : State) (v : Word) : Option (BitVec 48) :=
  let (lo, hi) := s.aonSpan
  let c := s.aon.cnt + BitVec.ofNat 48 lo
  let d := (v - c.setWidth 32).toNat
  if d ≤ hi - lo then some (c + BitVec.ofNat 48 d) else none

/-- The value of an alarm. -/
def Aon.alarm (a : Aon) (k : Fin 2) : Word := if k = 0 then a.alarm0 else a.alarm1

/-- The counter comes to an enabled alarm's value: source 10 or 11, once at each such count (R311). -/
def execAonAlarm (k : Fin 2) (at_ : Nat) (s : State) : Host.Outcome State Fault Refusal :=
  let s1 := s.advance at_
  match s1.aonAt (s1.aon.alarm k) with
  | some c =>
    if s1.aon.alctrl.getLsbD k.val ∧ s1.aon.rang[k] ≠ some c then
      .next (({ s1 with aon := { s1.aon with cnt := c, cntAt := s1.now, rang := s1.aon.rang.set k (some c) } } : State).raiseN (10 + k.val))
    else .next s1
  | none => .next s1

/-- A read of AON_CNT_LO captures the counter (R299, R311). -/
def State.aonLo (s : State) : Word × State :=
  let (c, s1) := s.aonCount
  (c.setWidth 32, { s1 with aon := { s1.aon with capture := c.extractLsb' 32 16 } })

/-- A read of AON_CNT_LO. -/
def execAonCntLoRead (_who : Agent) (s : State) : Host.Outcome State Fault Refusal := .next s.aonLo.2

/-! ## OTP (R321) -/

/-- OTP_CMD (R321): irreversible. -/
def State.otpCommand (s : State) (v : Word) : State :=
  match fld v 23 16 with
  | 1 => { s with otp := { s.otp with rollback := max s.otp.rollback (min (fld v 7 0) 64) } }
  | 2 => { s with otp := { s.otp with revoke := s.otp.revoke ||| (if bit v 0 then 2 else 1) } }
  | 3 => { s with otp := { s.otp with bootcfg := s.otp.bootcfg ||| v.setWidth 8 } }
  | _ => s

/-- OTP_CMD 0x01: ROLLBACK is raised, never lowered. -/
def execOtpRollback (who : Agent) (n : BitVec 8) (s : State) : Host.Outcome State Fault Refusal :=
  .next (s.powerWrite who fun t => t.otpCommand (at_ 1 16 ||| at_ n.toNat 0))

/-- OTP_CMD 0x02: a key is revoked. -/
def execOtpRevoke (who : Agent) (k : Bool) (s : State) : Host.Outcome State Fault Refusal :=
  .next (s.powerWrite who fun t => t.otpCommand (at_ 2 16 ||| flagAt k 0))

/-- OTP_CMD 0x03: BOOTCFG bits are set. -/
def execOtpBootcfg (who : Agent) (v : BitVec 8) (s : State) : Host.Outcome State Fault Refusal :=
  .next (s.powerWrite who fun t => t.otpCommand (at_ 3 16 ||| at_ v.toNat 0))

end Sys2Proof.Machine
end

