-- ==== Sys2Proof/Machine/Boot.lean ====
section
/-! DEFINITION. Reset (R308, R349), the Cave's durability (R312), Ebb save and the return from it (R313 to R317), and the
boot ROM (R322 to R325). -/

namespace Sys2Proof.Machine

/-! ## Reset (R308) -/

/-- A tagged word's address lies in the Cave. -/
def inCave (pa : Nat) : Bool := decide (region pa = .cave)

/-- An output over a reset of cause 2 to 5: its SAFE level and its pair's PAIRED bit are kept (R349). -/
def State.keepOutput (s : State) (n : Nat) : Output :=
  { Output.reset with kept := true, keptSafe := (s.output n).safeLevel, keptPaired := s.pairedSafe (n / 2 * 2) }

/-- The tenants over a reset: their generations, which the Cave holds (R30). -/
def Tenant.keepGen (t : Nat) (v : Tenant) : Tenant := { Tenant.reset t with gen := v.gen }

/-- A link over a reset: its keys and SESSION, which the Cave holds (R278, R312). -/
def Link.keepCave (x : Link) : Link :=
  { Link.reset with
    session := x.session, positions := ⟨x.positions.cells.map fun e => (e.1, { Position.reset with key := e.2.key })⟩ }

/-- The device reset (R308): the Cave, the OTP and the generations stay; a cause other than power-on keeps the SAFE levels of
the outputs and the always-on domain; a save that a reset stops leaves no image (R361); time and what the model draws freely go on. -/
def State.resetBy (s : State) (cause : Nat) (aonLost : Bool) : State :=
  let r := State.reset
  let aon := if aonLost then { Aon.reset with cntAt := s.now, lost := true } else s.aon
  { r with
    mem := s.mem.filter fun e => inCave e.1
    tags := ⟨s.tags.cells.filter fun e => inCave (4 * e.1)⟩
    ecc := ⟨s.ecc.cells.filter fun e => inCave (4 * e.1)⟩
    tenants := ⟨s.tenants.cells.map fun e => (e.1, e.2.keepGen e.1)⟩
    chGens := s.chGens, entryGens := s.entryGens, srcGens := s.srcGens
    outputs := if cause = 1 then Tbl.empty else ⟨(List.range 64).map fun n => (n, s.keepOutput n)⟩
    links := ⟨s.links.cells.map fun e => (e.1, e.2.keepCave)⟩
    jtag := { s.jtag with hykStatus := 0, hykCode := 0, hykData := 0, hykWait := none }
    power := { r.power with ebbEpoch := s.power.ebbEpoch }
    evc := { r.evc with wakeLatch := if aonLost then 0 else s.evc.wakeLatch }
    aon := { aon with cause := BitVec.ofNat 4 cause, resumed := false, wdEn := false }
    otp := s.otp, board := s.board, image := s.image.filter (·.sealed), undurable := s.undurable
    now := s.now, free := s.free, pending := s.pending }

/-- Power-on: the supplies are in range and PORESET_N is held low (R308). -/
def execPowerOnReset (aonLost : Bool) (s : State) : Host.Outcome State Fault Refusal :=
  let s1 := s.resetBy 1 aonLost
  .next { s1 with
    phase := .reset
    board := { pfwLow := false, crystalLost := false, coasting := false, tidePllLost := false, io33Low := false, supplyBack := false } }

/-- PORESET_N held low for 1 µs (R308). -/
def execPoreset (s : State) : Host.Outcome State Fault Refusal :=
  .next (if s.phase = .off then s else { s.resetBy 2 false with phase := .reset })

/-- The watchdog expires; ignored during an Ebb save (R308, R326). -/
def State.watchdogExpired (s : State) : State :=
  if s.phase = .saving ∨ s.phase = .saved ∨ s.phase = .off then s else s.resetBy 3 false

/-- The watchdog's timeout has passed without a kick, by the tick of the latest command: a reset of cause 3 (R308, R311). -/
def execWatchdogExpiry (s : State) : Host.Outcome State Fault Refusal :=
  .next (if s.aon.halves 2 s.now then s.watchdogExpired else s)

/-- SYS_RESET: 0xA55A written twice with no other write to the page between (R300, R308). -/
def State.sysReset (s : State) (v : Word) : State :=
  if fld v 15 0 ≠ 0xA55A then { s with power := { s.power with resetKey := false } }
  else if s.power.resetKey then s.resetBy 4 false
  else { s with power := { s.power with resetKey := true } }

/-- A write of SYS_RESET. -/
def execSysReset (who : Agent) (v : Word) (s : State) : Host.Outcome State Fault Refusal :=
  .next (s.ifHeadland who powerPage fun t => t.sysReset v)

/-! ## Power (R312, R315, R349) -/

/-- Cave words stored since the last FENCE.M or save may be lost at power-off: each is kept or put back, freely (R312, log
entry 36). -/
def State.loseUndurable (s : State) : List (Nat × Word × Tag) → State
  | [] => { s with undurable := [] }
  | (i, w, t) :: r =>
    let (d, s1) := s.drawBelow 2
    (if d = 0 then (s1.putBytes4 (4 * i) w).putTag (4 * i) t else s1).loseUndurable r

/-- Every supply is gone: what the Cave, the OTP and the fuses hold is left. An image that was not sealed is incomplete
(R312, R315). -/
def execPowerOff (s : State) : Host.Outcome State Fault Refusal :=
  let s1 := s.loseUndurable s.undurable.reverse
  let s2 := s1.resetBy 1 false
  .next { s2 with phase := .off, aon := s1.aon, outputs := Tbl.empty }

/-- VDD_IO33 falls below 2.5 V: the outputs are high-impedance, and the kept levels are cleared (R349). -/
def execVddIo33Fall (s : State) : Host.Outcome State Fault Refusal :=
  .next { s with
    board := { s.board with io33Low := true }
    outputs := ⟨s.outputs.cells.map fun e => (e.1, { e.2 with keptSafe := false, keptPaired := false })⟩ }

/-! ## ARM (R313) -/

/-- A range of the Cave, by offset and length, that lies in the software Cave (R312). -/
def softCave (off len : Nat) : Bool := decide (0x700000 ≤ off) && decide (off + len ≤ 0x1000000)

/-- The first address of the Cave (R39). -/
def caveBase : Nat := 0xE200000000

/-- The entries of the persistence list in memory. -/
def State.readPList (s : State) : List PList :=
  (List.range (fld s.power.pcount 8 0)).map fun i =>
    let a := caveBase + s.power.plist.toNat + 8 * i
    { adr := (s.wordAt a).toNat * 256, granules := fld (s.wordAt (a + 4)) 14 0 }

/-- The entries of the code list in memory. -/
def State.readCList (s : State) : List CList :=
  (List.range (fld s.power.ccount 6 0)).map fun i =>
    let a := caveBase + s.power.clist.toNat + 16 * i
    { cove := ⟨fld (s.wordAt a) 31 28 % 16, Nat.mod_lt _ (by decide)⟩, first := fld (s.wordAt a) 17 0
      count := (s.wordAt (a + 4)).toNat, offset := (s.wordAt (a + 8)).toNat }

/-- A persistence entry lies wholly in cove SRAM, Churn plain cells or the external data extent (R313). -/
def State.plistOk (s : State) (e : PList) : Bool :=
  let last := e.adr + 256 * e.granules - 1
  e.granules = 0 || (match region e.adr, region last with
    | .sram _, .sram _ => true
    | .churn, .churn => !s.inPool e.adr
    | .ext, .ext => decide (last < extExtent)
    | _, _ => false)

/-- Granules of the persistent set. -/
def granuleSum (l : List PList) : Nat := (l.map (·.granules)).sum

/-- The REASON for which ARM is refused, if any (R313). -/
def State.armBar (s : State) : Option Nat :=
  let p := s.readPList
  let c := s.readCList
  if !(softCave s.power.plist.toNat (8 * p.length) && softCave s.power.clist.toNat (16 * c.length)) then some 1
  else if !(p.all s.plistOk) then some 2
  else if 16384 < granuleSum p then some 3
  else if !(c.all fun e => softCave e.offset (4 * e.count)) then some 4
  else none

/-- EBB_CMD ARM (R313): both lists are validated and copied; a refusal keeps the earlier armed state. -/
def State.ebbArm (s : State) : State :=
  match s.armBar with
  | some r => { s with power := { s.power with ebbReason := BitVec.ofNat 4 r } }
  | none =>
    let p := s.readPList
    { s with power := { s.power with armed := true, granules := BitVec.ofNat 15 (granuleSum p), armedP := p, armedC := s.readCList } }

/-- EBB_CMD ARM. -/
def execArm (who : Agent) (s : State) : Host.Outcome State Fault Refusal := .next (s.powerWrite who State.ebbArm)

/-- EBB_CMD DISARM. -/
def State.ebbDisarm (s : State) : State := { s with power := { s.power with armed := false } }

/-- EBB_CMD DISARM. -/
def execDisarm (who : Agent) (s : State) : Host.Outcome State Fault Refusal := .next (s.powerWrite who State.ebbDisarm)

/-! ## The save (R314, R316) -/

/-- The words of a byte range that are not Unwritten, with their tags. -/
def State.savedWords (s : State) (a n : Nat) : List (Nat × Word × Tag) :=
  (s.tags.cells.filter fun e => decide (a ≤ 4 * e.1) && decide (4 * e.1 < a + n)).map fun e => (e.1, s.wordAt (4 * e.1), e.2)

/-- A slot as the image keeps it: what its thread waited for outside the device is asked for again (R314). -/
def Slot.saved (x : Slot) : Slot :=
  { x with buf := [], busy := [], answers := [], given := [], spent := 0, before := none, wait := match x.wait with
      | .escalate f n c => .escalate f n c
      | _ => .none }

/-- A thread whose access has not been answered goes back to the context before its parcel, which executes again (R314). -/
def State.abandon (s : State) (k : Nat) (sl : Fin 8) : State :=
  match ((s.core k).slot sl).before with
  | some x => s.modCore k fun c => c.setCtx sl (c.slot sl).top x
  | none => s

/-- A group halts for the save (R223, R314): a restore completes first; a group in restore or replay is saved where it
stands, and TM_DIVERGE counts one. Its contexts go to their images (R316). -/
def State.haltGroup (s : State) (k : Nat) : State :=
  let st := (s.core k).tm.st
  let s1 := if st = .restore then s.restoreGroup k else s
  let s2 := if st = .restore ∨ st = .replay then
      s1.modCore k fun c => { c with tm := { c.tm with st := .run, diverge := satInc c.tm.diverge, values := [], releases := [], inputs := [], replayIssues := [], restored := [] } }
    else s1
  let s3 := (slots8.foldl (fun t sl => t.abandon k sl) s2).spillAll k
  s3.modCore k fun c => { c with arch := { c.arch with slots := c.arch.slots.map Slot.saved } }

/-- The Tidemark registers of a group, and whether it is stopped (R209, R316). -/
def Tidemark.saved (t : Tidemark) (k : Nat) : Tidemark :=
  { Tidemark.reset k with
    st := if t.st = .stopped then .stopped else .run, ctrl := t.ctrl, logBase := t.logBase, priv := t.priv
    ctrlNext := t.ctrlNext, logNext := t.logNext, privNext := t.privNext
    commits := t.commits, rollbacks := t.rollbacks, diverge := t.diverge, lastCause := t.lastCause
    lastPosition := t.lastPosition, sig := t.sig }

/-- A core as the image holds it: slots, ESC_STACK, WHEEL, the pinned TLB entries, the windows and the Tidemark registers; its contexts
lie in their images (R316, log entry 147). -/
def Core.saved (c : Core) (k : Nat) : Core :=
  { Core.reset k with
    arch := { Arch.reset with
      slots := c.arch.slots.map Slot.saved, escs := c.arch.escs, wheel := c.arch.wheel
      tlb := ⟨c.arch.tlb.cells.filter fun e => bit e.2.w2 2⟩ }
    tm := c.tm.saved k
    tlbWin := c.tlbWin, mpuBase := c.mpuBase, mpuAttr := c.mpuAttr, lost := c.lost, stopped := c.stopped, gated := c.gated }

/-- A cove as the image holds it: the mode and the roles, the registers of the redundancy page, and the scrubber's settings (R316, log
entry 147). -/
def Cove.saved (c : Cove) (n : Nat) : Cove :=
  { Cove.reset n with
    mode := c.mode, coreMap := c.coreMap, role := c.role.map fun r => if r = .copying then .spare else r
    fenced := c.fenced, tested := c.tested, onPerm := c.onPerm, glitchCnt := c.glitchCnt, permCnt := c.permCnt, rotateCnt := c.rotateCnt
    scrubCtrl := c.scrubCtrl, stestCtrl := c.stestCtrl, stestPhase := c.stestPhase, stestResult := c.stestResult
    stestPhys := c.stestPhys, stestNext := c.stestNext, stestBank := c.stestBank, stestPasses := c.stestPasses, away := c.away }

/-- A position's binding and identity, as the image holds them. -/
def Position.saved (x : Position) : Position :=
  { Position.reset with
    st := x.st, bound := x.bound, key := x.key, rank := x.rank, version := x.version, ident := x.ident, maxIn := x.maxIn
    maxOut := x.maxOut, descs := x.descs }

/-- A link's configuration. -/
def Link.saved (x : Link) : Link :=
  { Link.reset with
    lctrl := x.lctrl, lperiod := x.lperiod, lctrlNext := x.lctrlNext, lperiodNext := x.lperiodNext, link := x.link, session := x.session
    psel := x.psel, positions := ⟨x.positions.cells.map fun e => (e.1, e.2.saved)⟩ }

/-- A port's configuration and its PTP clock. -/
def Eth.saved (e : Eth) : Eth :=
  { Eth.reset with stamp := e.stamp, mode := e.mode, setup := e.setup, ptpInc := e.ptpInc, ptpNs := e.ptpNs, ptpAt := e.ptpAt }

/-- A CAN controller's configuration. -/
def Can.saved (c : Can) : Can := { Can.reset with stamp := c.stamp, autorec := c.autorec, setup := c.setup }

/-- A UART's configuration. -/
def Uart.saved (u : Uart) : Uart :=
  { Uart.reset with
    stamp := u.stamp, idle := u.idle, echoSup := u.echoSup, lead := u.lead, lag := u.lag, baud := u.baud, seven := u.seven
    parity := u.parity, twoStop := u.twoStop }

/-- The PCIe port's configuration. -/
def Pcie.saved (p : Pcie) : Pcie :=
  { Pcie.reset with
    stamp := p.stamp, root := p.root, ob := p.ob, txa := p.txa, cplto := p.cplto, bar0 := p.bar0, bar2 := p.bar2, memBase := p.memBase
    msix := p.msix, cfgAddr := p.cfgAddr }

/-- The device's parts as the image holds them (R316). -/
def State.takeImage (s : State) : Image :=
  { epoch := s.power.ebbEpoch, sealed := false, consumed := false, haltTick := s.now, haltCnt := s.aon.cnt
    cores := ⟨s.cores.cells.map fun e => (e.1, e.2.saved e.1)⟩, coves := ⟨s.coves.cells.map fun e => (e.1, e.2.saved e.1)⟩, tenants := s.tenants, tides := s.tides
    entries := s.entries, outputs := s.outputs, mods := s.mods, waves := s.waves, sources := s.sources
    wakeEn := s.evc.wakeEn, channels := s.channels, tcap := s.churn.tcap
    links := ⟨s.links.cells.map fun e => (e.1, e.2.saved)⟩, eths := ⟨s.eths.cells.map fun e => (e.1, e.2.saved)⟩
    cans := ⟨s.cans.cells.map fun e => (e.1, e.2.saved)⟩, uarts := ⟨s.uarts.cells.map fun e => (e.1, e.2.saved)⟩
    pcie := s.pcie.saved, xspi := { Xspi.reset with stamp := s.xspi.stamp }
    i2cs := ⟨s.i2cs.cells.map fun e => (e.1, { I2c.reset with stamp := e.2.stamp })⟩
    scrubs := ⟨s.memCtl.cells.map fun e => (e.1, e.2.scrubCtrl)⟩, gates := s.gates
    persistent := (s.power.armedP.flatMap fun e => s.savedWords e.adr (256 * e.granules))
      ++ (List.range 16).flatMap fun n => s.savedWords (coveBase n + 0x1F4000) 0xC000
    armedP := s.power.armedP, armedC := s.power.armedC }

/-- What a save finds in progress (R326): a profile switch that has begun completes, else the change is abandoned; gating
completes, with the rebuild that it needs. -/
def State.settle (s : State) : State :=
  let p := s.power
  let s1 : State := { s with power := { (if p.busy then { p with busy := false, switched := false, result := 0 } else p) with entering := false } }
  (List.range 45).foldl (fun t d => if (t.gate d).st = .going then (t.gatingDone d).epochRebuild d else t) s1

/-- Ebb save begins (R314): threads, outputs, interfaces and links stop; if ARMED, the Ebb epoch advances and the image is
taken. A standby is left first (R306), and the injection window closes (R344); before Headland runs nothing is saved (R326). -/
def State.ebbTrigger (s : State) : State :=
  match s.phase with
  | .off | .saving | .saved | .reset => s
  | .boot | .bootWait => { s with phase := .saving }
  | .run | .standby =>
    let s0 := (if s.phase = .standby then s.standbyRestart else s).injClose
    let s1 := (s0.settle).portsDown
    let s2 := s1.allLeaders.foldl (fun t k => t.haltGroup k) s1
    let s3 : State := { s2 with phase := .saving }
    if s3.power.armed then
      -- the counter as it stands at the halt (R311)
      let s4 := s3.aonCount.2
      let s5 : State := { s4 with power := { s4.power with ebbEpoch := s4.power.ebbEpoch + 1 }, aon := { s4.aon with lost := false } }
      { s5 with image := some s5.takeImage }
    else s3

/-- PFW_N is low for so many nanoseconds: from 100 on Ebb save is triggered, as it is by a supply too low, with no operand (R310, R314).
A shorter pulse is seen as PFW_N low while it lasts (R306). -/
def execEbbTrigger (cause : PowerFail) (s : State) : Host.Outcome State Fault Refusal :=
  let s1 := s.advance cause.tick
  let s2 : State := if cause.pfwLow.isSome then { s1 with board := { s1.board with pfwLow := true } } else s1
  .next (if cause.pfwLow.all fun n => decide (100 ≤ n) then s2.ebbTrigger else s2)

/-- The crystal has not returned 50 µs after its loss: Ebb save starts (R310). -/
def execCrystalLossTimeout (at_ : Nat) (s : State) : Host.Outcome State Fault Refusal :=
  let s1 := s.advance at_
  .next (if s1.board.crystalLost then s1.ebbTrigger else s1)

/-- The image is sealed: the events that arrived meanwhile are counted in, and Cave stores are durable; with the supply back,
a reset of cause 5 follows (R308, R312, R314, R326). -/
def execEbbSeal (s : State) : Host.Outcome State Fault Refusal :=
  if s.phase ≠ .saving then .next s
  else
    let armed := s.image.any fun i => decide (i.epoch = s.power.ebbEpoch) && !i.sealed
    let s1 : State := { s with
      phase := .saved
      image := if armed then s.image.map fun i => { i with sealed := true, sources := s.sources } else s.image
      undurable := if armed then [] else s.undurable }
    .next (if s1.board.supplyBack then
      let s2 := s1.resetBy 5 false
      { s2 with board := { s2.board with supplyBack := false, pfwLow := false } } else s1)

/-- The supply returns (R308, R326): after a save the device resets with cause 5; during one, when it is complete. -/
def execSupplyReturn (s : State) : Host.Outcome State Fault Refusal :=
  let b := { s.board with pfwLow := false, io33Low := false }
  .next (match s.phase with
    | .saving => { s with board := { b with supplyBack := true } }
    | .saved => { s.resetBy 5 false with board := b }
    | _ => { s with board := b })

/-! ## The return (R317) -/

/-- The image is accepted: sealed, not consumed, of the Ebb epoch, and its trailer matches (R317). -/
def State.imageGood (s : State) : Bool :=
  s.image.any fun i => i.sealed && !i.consumed && decide (i.epoch = s.power.ebbEpoch) && Config.trailerMatches i.epoch.toNat

/-- Both controllers read Ready, or Absent where no memory is fitted (R294, R317, log entry 152). -/
def State.trained (s : State) : Bool :=
  let both := fun (r : Training) => decide ((s.memc 0).training = some r) && decide ((s.memc 1).training = some r)
  both .ready || both .absent

/-- Write parcels from a copy in the Cave, one in each word. -/
def State.writeCopy (s : State) (adr pa : Nat) : Nat → State
  | 0 => s
  | n + 1 => (s.putParcel adr ((s.wordAt pa).setWidth 29)).writeCopy (adr + 1) (pa + 4) n

/-- Every code store filled with zero and valid check bits (R317, R323). -/
def State.clearCode (s : State) : State := { s with code := Tbl.empty, codeEcc := Tbl.empty }

/-- Write back saved words with their tags. -/
def State.restoreWords (s : State) (l : List (Nat × Word × Tag)) : State :=
  l.foldl (fun t e => (t.putBytes4 (4 * e.1) e.2.1).putTag (4 * e.1) e.2.2) s

/-- Tide ticks in a number of always-on ticks. -/
def aonToTicks (n : Nat) : Nat := n * 7200000000 / 32768

/-- A tide on return (R200, R317): an enabled one with a measured source starts in SLACK, advanced at the saved rate by the
outage, or in ACQUIRING from the saved phase when the outage is unknown; another goes on from its saved phase. -/
def Tide.returned (t : Tide) (haltP : Int) (rate : Int) (aon : Option Nat) (now : Nat) : Tide :=
  let t1 := { t with p := haltP, t0 := now, k := 0, iv := 0, segs := [], back := false, seen := now, intervals := [], slackTurns := 0, discardTo := 0, base := none }
  if !t.en || decide (t.kind = 0) then t1
  else match aon with
    | some n =>
      let p := haltP + rdiv (rate * (aonToTicks n : Nat)) (2 ^ 16)
      { t1 with st := .slack, w := rate, p := p, slackAt := p * 2 ^ 16 }
    | none => { t1 with st := .acquiring, w := rate, ret := true, good := 0, bad := 0, rejects := 0 }

/-- A source on return: deliveries in service are gone, and it is pending if COUNT is not 0 (R239). -/
def Source.returned (x : Source) : Source :=
  let x1 := { x with selAt := none, waited := none }
  match x.svc with
  | .idle => x1
  | _ => { x1 with svc := .idle, pend := x.pend || decide (x.count ≠ 0) }

/-- A link on return (R282): in TRAINING if enabled, every position that was not ABSENT LEFT, SESSION advanced, the first
frame a ROLL frame. -/
def Link.returned (x : Link) : Link :=
  if x.link = .off then x
  else { x.allLeft with
    link := .training, session := x.session + 1, rollNext := true, started := false, closed := true, silent := 0 }

/-- A port's clock on return: advanced by the outage (R297). -/
def Eth.returned (e : Eth) (halt : Nat) (aon : Option Nat) (now : Nat) : Eth :=
  let n := aon.getD 0
  { e with ptpNs := (e.ptpTime halt + n * 250000000 / 32768 * e.ptpInc.toNat) % (2 ^ 48 * 10 ^ 9 * 2 ^ 28)
           ptpAt := ptpClock now, up := false }

/-- A group on return: bank 0 filled, the vector buffer loaded, and the restored state committed (R317). -/
def State.returnGroup (s : State) (k : Nat) : State :=
  let s1 := if ((s.core k).slot 0).st ≠ .empty then (s.fill k 0 0).reloadVector k else s
  s1.commitNow k

/-- The time from the halt to now by the always-on counter; none where VDD_AON was lost (R311). -/
def State.outage (s : State) (i : Image) : Option Nat × State :=
  if s.aon.lost then (none, s)
  else
    let (c, s1) := s.aonCount
    (some (c - i.haltCnt).toNat, s1)

/-- The device restored from its image, after an outage (R317). -/
def State.restoreImage (s : State) (i : Image) (aon : Option Nat) : State :=
  let s0 := i.armedC.foldl (fun t e => t.writeCopy (e.cove.val * 2 ^ 18 + e.first) (caveBase + e.offset) e.count) s.clearCode
  let s1 := s0.restoreWords i.persistent
  -- the tides as they stood at the halt, to ask for their phases and rates there
  let h : State := { s1 with tides := i.tides, eths := i.eths }
  let s2 : State := { s1 with
    cores := i.cores
    coves := i.coves
    tenants := ⟨i.tenants.cells.map fun e => (e.1, { e.2 with gen := (s.tenant e.1).gen })⟩
    tides := ⟨i.tides.cells.map fun e =>
      (e.1, e.2.returned (rdiv (h.phaseAt e.1 i.haltTick) (2 ^ 16)) (h.tide e.1).rateNow aon s.now)⟩
    entries := ⟨i.entries.cells.map fun e => (e.1, { e.2 with staged := none, job := none, due := none, atOnce := false, rets := [] })⟩
    outputs := i.outputs
    mods := ⟨i.mods.cells.map fun e => (e.1, { e.2 with window := none, settling := 3 })⟩
    windows := []
    waves := i.waves
    sources := ⟨i.sources.cells.map fun e => (e.1, e.2.returned)⟩
    channels := ⟨(List.range 512).map fun c => (c, (i.channels.get (fun _ => Channel.reset) c).toStale)⟩
    links := ⟨i.links.cells.map fun e => (e.1, e.2.returned)⟩
    eths := ⟨i.eths.cells.map fun e => (e.1, e.2.returned i.haltTick aon s.now)⟩
    cans := ⟨i.cans.cells.map fun e => (e.1, { e.2 with st := .errorActive })⟩
    uarts := i.uarts, pcie := { i.pcie with up := false }, xspi := i.xspi, i2cs := i.i2cs
    memCtl := [0, 1].foldl (fun t c => t.put c { s1.memc c with scrubCtrl := i.scrubs.get (fun _ => MemCtl.reset.scrubCtrl) c }) s1.memCtl
    gates := i.gates
    evc := { s.evc with wakeEn := i.wakeEn, urgents := (List.finRange 2048).filter fun n => (i.sources.get (fun _ => Source.reset) n).urgent }
    churn := { s.churn with tcap := i.tcap }
    image := some { i with consumed := true }
    phase := .run
    power := { s.power with
      epoch := s.power.epoch + 1, armed := true, granules := BitVec.ofNat 15 (granuleSum i.armedP), armedP := i.armedP, armedC := i.armedC }
    aon := { s.aon with
      resumed := true, returns := satInc16 s.aon.returns
      outLo := match aon with
        | some n => word n
        | none => 0xFFFFFFFF#32
      outHi := word (aon.getD 0 / 2 ^ 32) } }
  let s3 := (s2.ageAll.allLeaders).foldl (fun t k => t.returnGroup k) s2.ageAll
  -- restored entries are judged against the prediction of now (R184, R200)
  let s4 := (s3.entries.cells.filter fun e => e.2.armed).foldl (fun t e => t.setEntry e.1 (t.judgeEntry (t.entry e.1))) s3
  s4.raiseN 1

/-- The return from an Ebb save, with the outage that the always-on counter measures (R311, R317). -/
def State.ebbReturn (s : State) (i : Image) : State :=
  let (aon, s1) := s.outage i
  s1.restoreImage i aon

/-- The boot ROM returns from an Ebb save: it restores the state at one tick, which ends the outage that AON_OUT measures, and releases
Headland's threads at another (R317). -/
def execEbbReturn (restore at_ : Nat) (s : State) : Host.Outcome State Fault Refusal :=
  let s1 := s.advance restore
  let waits := decide (s1.phase = .reset) || decide (s1.phase = .boot) || decide (s1.phase = .bootWait)
  match s1.image with
  | some i => .next ((if waits && s1.imageGood && s1.trained then s1.ebbReturn i else s1).advance at_)
  | none => .next (s1.advance at_)

/-! ## The boot ROM (R322 to R325) -/

/-- The image has the layout of R322: no more parcels and data than its bounds (log entry 149). -/
def imageFits (b : BootImage) : Bool := decide (b.code.length ≤ 262144) && decide (4 * b.data.length ≤ 0x1C0000)

/-- The key that signs an image is the slot's, and is not revoked (R321, R323). -/
def Otp.keyGood (o : Otp) (b : BootImage) : Bool :=
  decide (b.keyHash = if b.key = 0 then o.keyhash0 else o.keyhash1) && !o.revoke.getLsbD b.key.val

/-- The code of R325 for which an image is refused, if any, in the order of R323 step 3. -/
def State.bootCode (s : State) (b : BootImage) : Option Nat :=
  if !b.present || !imageFits b then some 1
  else if !s.otp.keyGood b then some 2
  else if !b.sigOk then some 3
  else if b.version < s.otp.rollback then some 4
  else if s.otp.bootcfg.getLsbD 3 && !b.enc then some 5
  else if b.enc && !b.gcmOk then some 6
  else none

/-- The order in which the sources 0 xSPI, 1 PCIe and 2 Afmus Link 0 are tried (R345). -/
def bootOrder (sel : Fin 4) : List Nat :=
  match sel with
  | 0 => [0, 1, 2]
  | 1 => [1, 0, 2]
  | 2 => [2, 0, 1]
  | _ => [0, 2, 1]

/-- The root table of R38. -/
def rootTable : List Cap :=
  [{ w0 := 0, w1 := packW1 22 0 0 0x3B, tag := true },
   { w0 := 0, w1 := packW1 (encodeBounds 0 0x400000).e (encodeBounds 0 0x400000).b (encodeBounds 0 0x400000).t 0x27, tag := true },
   spaceCap 0 0 64 true, spaceCap 1 0 4096 true, spaceCap 2 0 512 true, spaceCap 3 0 4096 true, spaceCap 4 0 2048 true,
   spaceCap 5 0 16 true, spaceCap 6 0 64 true, spaceCap 7 0 32 true, spaceCap 8 0 16 true]

/-- The physical address of the root table (R324). -/
def rootTableAt : Nat := 0xE0001F3000

/-- The TLB entries of cove 0 at Headland's first parcel (R324). -/
def bootTlb : Tbl TlbEntry :=
  let e := fun (vpn ppn w2 : Nat) =>
    ({ w0 := word (vpn * 256), w1 := word ppn, w2 := word w2, w3 := 0, last := 0 } : TlbEntry)
  ⟨[(60, e 0x600000 0xE4000000 0x9C0000D5), (61, e 0x500000 0xE2000000 0x980000C7), (62, e 0x400000 0xFE000000 0x980000D7),
    (63, e 0x000000 0xE0000000 0x950000C7)]⟩

/-- Headland's first context (R38, R73): in cove 0's leader, slot 1 (log entry 37). -/
def bootCtx (parcels entry : Nat) : Ctx :=
  let code := encodeBounds 0 (max parcels 1)
  let root := encodeBounds 0x1F3000 (0x1F3000 + 88)
  { Ctx.fresh with
    pcc := { w0 := word entry, w1 := packW1 code.e code.b code.t 0x25, tag := true }
    c := Ctx.fresh.c.set 2 { w0 := 0x001F3000#32, w1 := packW1 root.e root.b root.t 0x29, tag := true } }

/-- Write parcels from a list. -/
def State.writeParcels (s : State) (adr : Nat) : List Parcel → State
  | [] => s
  | p :: r => (s.putParcel adr p).writeParcels (adr + 1) r

/-- The boot ROM starts Headland from an image it has accepted (R323, R324). -/
def State.startHeadland (s : State) (b : BootImage) : State :=
  let s1 := (s.clearCode).writeParcels 0 b.code
  let s2 := (s1.storeWords (coveBase 0) b.data).storeCaps rootTableAt rootTable
  let s3 := (List.range 8).foldl (fun t k => t.modCore k fun c => { c with arch := { c.arch with tlb := bootTlb } }) s2
  let s4 := s3.modCore 0 fun c =>
    let c1 := c.putBank 1 (some { slot := 1, level := 0, used := 0, ctx := bootCtx b.code.length b.entry })
    let c2 := c1.setSlot 1 { Slot.fresh with st := .active }
    { c2 with tm := { c2.tm with shadow := some c2.arch } }
  { s4 with phase := .run }

/-- Try the allowed sources in order: the first good image starts; each failure is recorded (R323, R325). -/
def State.tryBoot (s : State) (images : List BootImage) : List Nat → State
  | [] => { s with phase := .bootWait, bootAt := s.now }
  | j :: r =>
    if !s.otp.bootcfg.getLsbD j then s.tryBoot images r
    else match images[j]? with
      | none => ({ s with aon := { s.aon with boot := at_ j 24 ||| at_ 1 0 } } : State).tryBoot images r
      | some b =>
        match s.bootCode b with
        | some c => ({ s with aon := { s.aon with boot := at_ j 24 ||| at_ c 0 } } : State).tryBoot images r
        | none => s.startHeadland b

/-- The memory controllers begin to train, in parallel with the boot ROM (R294, R323). -/
def State.startTraining (s : State) : State :=
  [0, 1].foldl (fun t c => { t with memCtl := t.memCtl.put c { t.memc c with started := true } }) s

/-- The boot ROM runs, and the memory controllers train: an acceptable Ebb image is returned from instead (R317, R323). PFW_N low as reset
is released triggers Ebb save first, and nothing is saved (R326, R361). -/
def execBootRomRun (images : List BootImage) (s : State) : Host.Outcome State Fault Refusal :=
  .next (if s.phase = .reset ∧ s.board.pfwLow then { s with phase := .saving }
    else if s.phase = .reset ∨ s.phase = .boot then
      if s.imageGood then s.startTraining else s.startTraining.tryBoot images (bootOrder Config.bootSel)
    else s)

/-- One second after every source has failed, by the tick of the latest command, the boot ROM starts again (R325, log entry 150). -/
def execBootRetry (s : State) : Host.Outcome State Fault Refusal :=
  .next (if s.phase = .bootWait ∧ s.bootAt + 7200000000 ≤ s.now then { s with phase := .boot } else s)

end Sys2Proof.Machine
end

