-- ==== Sys2Proof/Machine/Wheel.lean ====
section
/-! DEFINITION. The issue wheel's shares (R114, R115, R117), and the bank window (R125, R126). -/

namespace Sys2Proof.Machine

/-! ## Shares (R114, R115) -/

/-- The share of a slot in WHEEL. -/
def wheelShare (w : Word) (i : Nat) : Nat := fld w (4 * i + 3) (4 * i)

/-- The sum of the eight shares. -/
def wheelSum (w : Word) : Nat := ((List.range 8).map (wheelShare w)).sum

/-- The entry with the largest credit among the slots; ties go to the lower slot, and entry 8, which belongs to no slot, loses
every tie (R115). -/
def largestCredit (credit : List Int) : Nat :=
  (List.range 9).foldl (fun best i => if credit.getD best 0 < credit.getD i 0 then i else best) 0

/-- The placement of R115 over a number of positions, from the credits before them. -/
def placeFrom (k : List Int) : List Int → Nat → List (Option (Fin 8))
  | _, 0 => []
  | credit, n + 1 =>
    let c1 := List.zipWith (· + ·) credit k
    let i := largestCredit c1
    let c2 := c1.set i (c1.getD i 0 - 16)
    (if h : i < 8 then some ⟨i, h⟩ else none) :: placeFrom k c2 n

/-- The owners of the 16 positions under WHEEL (R115). -/
def placeShares (w : Word) : List (Option (Fin 8)) :=
  let k := ((List.range 8).map fun i => (wheelShare w i : Int)) ++ [16 - (wheelSum w : Int)]
  placeFrom k (List.replicate 9 0) 16

/-- WHEEL takes a value whose shares sum to 16 or less; it is placed at the next position 0, as every revolution's shares are (R114,
R115). -/
def State.wheelPut (s : State) (k : Nat) (v : Word) : State :=
  s.modCore k fun c => { c with arch := { c.arch with wheel := v } }

/-- A store to WHEEL through the core page by its owner: too large a sum is ignored and counted (R117). -/
def State.wheelStore (s : State) (k : Nat) (v : Word) : State :=
  if 16 < wheelSum v then s.detect (corePage k) 0 else s.wheelPut k v

/-- The number of the leader of the group that a logical core's place belongs to: its group's lowest (R202). -/
def State.groupHead (s : State) (k : Nat) : Nat :=
  match (s.cove (k / 8)).mode with
  | .split => k
  | .pair => 2 * (k / 2)
  | .pairSpares => if k % 8 < 6 then 2 * (k / 2) else k
  | .triple => if k % 8 < 6 then 8 * (k / 8) + 3 * (k % 8 / 3) else k

/-- The core whose state a core page shows: its own, the leader's for another member of a group, LOST and FAILED ones included, and none
for a spare, which a core under test or being copied to still is (R126, R209, log entry 39). -/
def State.pageCore (s : State) (k : Nat) : Option Nat :=
  match s.role k with
  | .single | .leader => some k
  | .lost | .failed => some (s.groupHead k)
  | .follower => some (s.leaderOf k)
  | .spare | .test | .copying => none

/-- A write to a core page's block range: a follower's and a spare's are ignored without a count (R126). -/
def State.ifLeaderPage (s : State) (k : Nat) (f : State → State) : State := if s.pageCore k = some k then f s else s

/-- A write of WHEEL through the core page (R117). -/
def execWheelWrite (who : Agent) (core : Fin 128) (v : Word) (s : State) : Host.Outcome State Fault Refusal :=
  .next (s.ifLeaderPage core fun t => t.ifOwner who (corePage core) fun u => u.wheelStore core v)

/-! ## The bank window (R125, R126) -/

/-- RESULT of the bank window. -/
def State.bankResult (s : State) (k r : Nat) : State := s.modCore k fun c => { c with bankResult := BitVec.ofNat 2 r }

/-- HOLD (R125): 1 where the context does not exist or is the top one of an ACTIVE slot, 2 where slot 0 is neither idle nor
HELD. -/
def State.bankHold (s : State) (k : Nat) (sl : Fin 8) (lv : Fin 3) : State :=
  let x := (s.core k).slot sl
  if x.st = .empty ∨ x.top < lv then s.bankResult k 1
  else if sl = 0 ∧ x.st ≠ .sleeping ∧ x.st ≠ .held then s.bankResult k 2
  else if x.st = .active ∧ x.top = lv then s.bankResult k 1
  else
    let s1 := (s.evict k sl lv).modSlot k sl fun y => if y.st = .held then y else { y with st := .held, prior := y.st, made := false }
    s1.bankResult k 0

/-- RELEASE and RELEASE.RUN of slot 0 at level 0 begin: the window is BUSY until bank 0 has been filled from the image and the vector
buffer reloaded (R120, R125; log entry 129). -/
def State.releaseEvent (s : State) (k : Nat) (run : Bool) : State :=
  s.modCore k fun c => { c with vvalid := false, arch := { c.arch with bankJob := some run } }

/-- A HELD slot goes back to its prior state (R125). -/
def Slot.released (x : Slot) : Slot := { x with st := x.prior, prior := .empty, made := false }

/-- A HELD slot goes on from PARKED (R125): a tenant that is not RUNNING keeps it PARKED until it may go on; slot 0 becomes idle. -/
def State.runSlot (s : State) (k : Nat) (sl : Fin 8) : State :=
  let go : SlotState := if sl = 0 then .sleeping else .active
  let run := decide ((s.tenant (s.curOf k sl).toNat).st = .running)
  s.modSlot k sl fun y =>
    if run then { y with st := go, prior := .empty, under := .empty, made := false, crossing := none }
    else { y with st := .parked, prior := .empty, under := go, made := false }

/-- RELEASE (R125). -/
def State.bankRelease (s : State) (k : Nat) (sl : Fin 8) : State :=
  let x := (s.core k).slot sl
  if x.st ≠ .held then s.bankResult k 1
  else if sl = 0 ∧ x.top = 0 then (s.releaseEvent k false).bankResult k 0
  else (s.modSlot k sl Slot.released).bankResult k 0

/-- RELEASE.RUN (R125). -/
def State.bankRun (s : State) (k : Nat) (sl : Fin 8) : State :=
  let x := (s.core k).slot sl
  if x.st ≠ .held ∨ x.prior ≠ .parked then s.bankResult k 1
  else if sl = 0 ∧ x.top = 0 then (s.releaseEvent k true).bankResult k 0
  else (s.runSlot k sl).bankResult k 0

/-- The release of slot 0 in progress ends: both the fill and the reload are done (R125). -/
def State.endRelease (s : State) (k : Nat) : State :=
  match (s.core k).arch.bankJob with
  | none => s
  | some run =>
    let s1 := s.modCore k fun c => { c with arch := { c.arch with bankJob := none } }
    if ((s1.core k).slot 0).st ≠ .held then s1
    else (if run then s1.runSlot k 0 else s1.modSlot k 0 Slot.released).bankResult k 0

/-- CREATE (R125). -/
def State.bankCreate (s : State) (k : Nat) (sl : Fin 8) (lv : Nat) : State :=
  if ((s.core k).slot sl).st ≠ .empty ∨ lv ≠ 0 then s.bankResult k 1
  else
    let s1 := s.writeImage k sl 0 Ctx.fresh
    (s1.modSlot k sl fun _ => { Slot.fresh with st := .held, prior := .parked, made := true }).bankResult k 0

/-- Drop every context of a slot; the slot becomes EMPTY (R36, R125). -/
def State.dropSlot (s : State) (k : Nat) (sl : Fin 8) : State :=
  (s.modCore k fun c => ((c.dropCtx sl 0).dropCtx sl 1).dropCtx sl 2).modSlot k sl fun _ => Slot.fresh

/-- DISCARD (R125). -/
def State.bankDiscard (s : State) (k : Nat) (sl : Fin 8) : State :=
  let x := (s.core k).slot sl
  if x.st ≠ .held ∨ x.prior ≠ .parked then s.bankResult k 1 else (s.dropSlot k sl).bankResult k 0

/-- A slot of a three-bit number. -/
def slotOf (n : Nat) : Fin 8 := ⟨n % 8, Nat.mod_lt _ (by decide)⟩

/-- A write of the bank window: SLOT and LEVEL are kept, and CMD acts unless BUSY is 1; LEVEL 3 names no context (R125). -/
def State.bankCommand (s : State) (k cmd lv : Nat) (sl : Fin 8) : State :=
  let s1 := s.modCore k fun c => { c with bankSlot := sl, bankLevel := BitVec.ofNat 2 lv }
  if cmd = 0 then s1
  else if (s.core k).arch.bankJob.isSome then s1.bankResult k 1
  else if h : lv < 3 then
    match cmd with
    | 1 => s1.bankHold k sl ⟨lv, h⟩
    | 2 => s1.bankRelease k sl
    | 3 => s1.bankRun k sl
    | 4 => s1.bankCreate k sl lv
    | 5 => s1.bankDiscard k sl
    | _ => s1.bankResult k 1
  else s1.bankResult k 1

/-- BANKWIN and BANK_CMD as a word is written to them. -/
def State.bankWrite (s : State) (k : Nat) (v : Word) : State :=
  s.bankCommand k (fld v 14 12) (fld v 9 8) (slotOf (fld v 2 0))

/-- BANKWIN and BANK_CMD as they read. -/
def Core.bankWord (c : Core) : Word := flagAt c.arch.bankJob.isSome 31 ||| at_ c.bankResult.toNat 29 ||| at_ c.bankLevel.toNat 8 ||| at_ c.bankSlot.val 0

/-- A command of the bank window through a core page (R126). -/
def State.bankPage (s : State) (who : Agent) (k cmd lv : Nat) (sl : Fin 8) : State :=
  s.ifLeaderPage k fun t => t.ifOwner who (corePage k) fun u => u.bankCommand k cmd lv sl

/-- HOLD through a core page (R125); the words that it spills or copies are compared or voted (R122). -/
def execHold (who : Agent) (core : Fin 128) (slot : Fin 8) (level : BitVec 2) (s : State) : Host.Outcome State Fault Refusal :=
  let out := !(s.core core).arch.bankJob.isSome && (match level with
    | 0 => ((s.core core).ctx slot 0).isSome
    | 1 => ((s.core core).ctx slot 1).isSome
    | 2 => ((s.core core).ctx slot 2).isSome
    | _ => false)
  let hold := fun (t : State) => t.bankPage who core 1 level.toNat slot
  .next (if out && decide (((hold s).core core).bankResult = 0) then s.voted core hold else hold s)

/-- RELEASE through a core page (R125). -/
def execRelease (who : Agent) (core : Fin 128) (slot : Fin 8) (level : BitVec 2) (s : State) : Host.Outcome State Fault Refusal :=
  .next (s.bankPage who core 2 level.toNat slot)

/-- RELEASE.RUN through a core page (R125). -/
def execReleaseRun (who : Agent) (core : Fin 128) (slot : Fin 8) (level : BitVec 2) (s : State) : Host.Outcome State Fault Refusal :=
  .next (s.bankPage who core 3 level.toNat slot)

/-- CREATE through a core page (R125). -/
def execCreate (who : Agent) (core : Fin 128) (slot : Fin 8) (level : BitVec 2) (s : State) : Host.Outcome State Fault Refusal :=
  .next (s.bankPage who core 4 level.toNat slot)

/-- DISCARD through a core page (R125). -/
def execDiscard (who : Agent) (core : Fin 128) (slot : Fin 8) (level : BitVec 2) (s : State) : Host.Outcome State Fault Refusal :=
  .next (s.bankPage who core 5 level.toNat slot)

end Sys2Proof.Machine
end

