-- ==== Sys2Proof/Machine/Features.lean ====
section
/-! DEFINITION. The common frame of a register page (R327 to R331): features (R84, R336), ownership (R331), the detector block
(R338), the injection page and its injections (R339 to R342), and HYK_EN (R335). -/

namespace Sys2Proof.Machine

/-! ## Features (R84, R336) -/

/-- The page index of the injection page (R333). -/
def injPage : Nat := 0x004

/-- The page index of the debug page (R333). -/
def debugPage : Nat := 0x005

/-- A write to a header register of an assigned page, from tenant 0 alone (R329). -/
def State.headerWrite (s : State) (who : Agent) (page : Nat) (f : State → State) : State :=
  if pageAssigned page then s.ifHeadland who page f else s

/-- FEAT_ACCEPT takes offered bits while FLOCK is 0; a write after FLOCK is ignored and counted (R336, R344). -/
def State.featAccept (s : State) (page : Nat) (v : Word) : State :=
  let f := s.frame page
  if f.flock then s.detect page 0 else s.setFrame page { f with accept := v &&& featOffer page }

/-- A write of FEAT_ACCEPT. -/
def execFeatAcceptWrite (who : Agent) (page : BitVec 12) (v : Word) (s : State) : Host.Outcome State Fault Refusal :=
  .next (s.headerWrite who page.toNat fun t => t.featAccept page.toNat v)

/-- A link whose AUTH feature is not active reads LCTRL.AUTH as 0 (R336). -/
def Link.withoutAuth (x : Link) : Link :=
  { x with lctrl := clearBits x.lctrl 0x40000000#32, lctrlNext := clearBits x.lctrlNext 0x40000000#32 }

/-- The accepted set goes to every core group over the Undertow lane, and EPOCH advances (R84, R318). -/
def State.featSend (s : State) : State :=
  let sent := s.allLeaders
  let s1 := sent.foldl (fun t k => t.undertowSend 2 k) s
  ({ s1 with feat := { set := (s1.frame 0).accept.setWidth 4, owing := sent } } : State).epochAdvance

/-- FLOCK is set (R336): on the device-wide page the set goes out; on any other it is active. -/
def State.flockSet (s : State) (page : Nat) : State :=
  let f := s.frame page
  if f.flock then s
  else if page = 0 then (s.setFrame 0 { f with flock := true }).featSend
  else
    let s1 := s.setFrame page { f with flock := true, active := f.accept }
    if 0x020 ≤ page ∧ page < 0x024 ∧ !bit f.accept 0 then s1.modLink (page - 0x020) Link.withoutAuth else s1

/-- BLK_CTRL with FLOCK written 1. -/
def execFlock (who : Agent) (page : BitVec 12) (s : State) : Host.Outcome State Fault Refusal :=
  .next ((if page = 0 then s.class0 who sysPort else s).headerWrite who page.toNat fun t => t.flockSet page.toNat)

/-- A group has applied the accepted set; once every one has, FEAT_ACTIVE of the device-wide page follows (R84). -/
def State.featApplied (s : State) (k : Nat) : State :=
  let owing := s.feat.owing.filter fun j => decide (j ≠ k)
  let s1 := { s with feat := { s.feat with owing := owing } }
  if owing.isEmpty then s1.setFrame 0 { s1.frame 0 with active := (s1.frame 0).accept } else s1

/-- A core with the accepted set, and its checkpoints too where it is stopped at one (R84). -/
def Core.withGroups (c : Core) (g : BitVec 4) (all : Bool) : Core :=
  let put := fun (a : Arch) => { a with groups := g }
  let c1 := { c with arch := put c.arch }
  if all then { c1 with tm := { c.tm with shadow := c.tm.shadow.map put, pending := c.tm.pending.map put } } else c1

/-- A group applies the accepted set at a parcel boundary, with a checkpoint, so that no rollback reaches back across the change; one
that rolls back, replays or copies first does so. A group that stands stopped at its commit takes the set into that commit (R84). -/
def execFeatureSetApply (core : Fin 128) (s : State) : Host.Outcome State Fault Refusal :=
  let t := (s.core core).tm.st
  if !s.feat.owing.contains core.val ∨ t = .restore ∨ t = .replay ∨ t = .copy then .next s
  else if s.coreRuns core then
    let s0 := s.commitPending core .agree
    if (s0.core core).tm.st ≠ .run then .next s0
    else
      let s1 := (s0.modCore core fun c => c.withGroups s.feat.set false).commitNow core
      .next (if (s1.core core).tm.st = .restore then s1 else s1.featApplied core)
  else .next ((s.modCore core fun c => c.withGroups s.feat.set true).featApplied core)

/-! ## Ownership (R331) -/

/-- PAGE_OWN: OWNER while LOCK is 0, then LOCK; a change of OWNER withdraws the page's gating request (R304, R331). -/
def State.pageOwn (s : State) (page : Nat) (v : Word) : State :=
  let f := s.frame page
  if f.lock then s
  else
    let o : TenantId := BitVec.ofNat 12 (fld v 11 0)
    let s1 := if o = f.owner then s else s.ownerChanged page
    s1.setFrame page { s1.frame page with owner := o, lock := bit v 31 }

/-- A write of PAGE_OWN, from tenant 0 alone. -/
def execPageOwnWrite (who : Agent) (page : BitVec 12) (v : Word) (s : State) : Host.Outcome State Fault Refusal :=
  .next (s.headerWrite who page.toNat fun t => t.pageOwn page.toNat v)

/-! ## The detector block (R338) -/

/-- A page's detector block changed by tenant 0; a write from another is ignored, and no rule counts it (R338, R342). -/
def State.frameWrite (s : State) (who : Agent) (page : Nat) (f : Frame → Frame) : State :=
  if who.ten = 0 then s.headerWrite who page fun t => t.setFrame page (f (t.frame page)) else s

/-- A W1C write of ERR_STATUS. -/
def execErrStatusClear (who : Agent) (page : BitVec 12) (v : Word) (s : State) : Host.Outcome State Fault Refusal :=
  .next (s.frameWrite who page.toNat fun f => { f with errStatus := clearBits f.errStatus v })

/-- A W1C write of INJ_HIT. -/
def execInjHitClear (who : Agent) (page : BitVec 12) (v : Word) (s : State) : Host.Outcome State Fault Refusal :=
  .next (s.frameWrite who page.toNat fun f => { f with injHit := clearBits f.injHit v })

/-- A write of the set alias of ERR_EVENT (R330). -/
def execErrEventSet (who : Agent) (page : BitVec 12) (v : Word) (s : State) : Host.Outcome State Fault Refusal :=
  .next (s.frameWrite who page.toNat fun f => { f with errEvent := f.errEvent ||| v })

/-- A write of the clear alias of ERR_EVENT (R330). -/
def execErrEventClr (who : Agent) (page : BitVec 12) (v : Word) (s : State) : Host.Outcome State Fault Refusal :=
  .next (s.frameWrite who page.toNat fun f => { f with errEvent := clearBits f.errEvent v })

/-! ## The injection window (R339) -/

/-- Ticks of the tide clock in a millisecond. -/
def ticksPerMs : Nat := 1000 * ticksPerUs

/-- INJ_WINDOW in milliseconds: 1 to 60,000, 0 read as 1. -/
def Inj.length (x : Inj) : Nat := min (max (fld x.window 15 0) 1) 60000

/-- Any access of a thread to the injection page but the second of its unlock sequence ends that sequence. -/
def State.injTouch (s : State) (who : Agent) : State :=
  match s.inj.first with
  | some (a, _) => if a = who then { s with inj := { s.inj with first := none } } else s
  | none => s

/-- INJ_UNLOCK (R339): 0x1D0C, then 0xE2F3 by the same thread within 1 µs, opens the window. -/
def State.injUnlock (s : State) (who : Agent) (v : Word) : State :=
  let second := match s.inj.first with
    | some (a, t) => decide (a = who) && decide (v = 0xE2F3#32) && decide (s.now - t ≤ ticksPerUs)
    | none => false
  if second then
    { s with inj := { s.inj with open_ := true, first := none, openAt := s.now, endAt := s.now + s.inj.length * ticksPerMs } }
  else if v = 0x1D0C#32 ∧ s.inj.first.isNone then { s with inj := { s.inj with first := some (who, s.now) } }
  else
    let s1 := s.detect injPage 0
    { s1 with inj := { s1.inj with first := if v = 0x1D0C#32 then some (who, s1.now) else none } }

/-- A write of INJ_UNLOCK. -/
def execInjUnlock (who : Agent) (v : Word) (at_ : Nat) (s : State) : Host.Outcome State Fault Refusal :=
  .next ((s.advance at_).ifOwner who injPage fun t => t.injUnlock who v)

/-- A write of INJ_LOCK. -/
def execInjLock (who : Agent) (s : State) : Host.Outcome State Fault Refusal :=
  .next (s.ifOwner who injPage State.injClose)

/-- The window's length may have passed by the always-on counter, which is within ±200 ppm and counts whole ticks (R311, R339, log
entry 153). -/
def Inj.over_ (x : Inj) (now : Nat) : Bool := decide ((x.endAt - x.openAt - 219727) * 5000 ≤ (now - x.openAt) * 5001)

/-- The always-on counter reaches the end of the window. -/
def execInjectionWindowExpiry (at_ : Nat) (s : State) : Host.Outcome State Fault Refusal :=
  let s1 := s.advance at_
  .next (if s1.inj.open_ && s1.inj.over_ s1.now then s1.injClose else s1)

/-! ## Injections (R340 to R342) -/

/-- INJ_CTRL of a detector. -/
def State.injCtrl (s : State) (page d : Nat) : Word := (s.frame page).inj.get (fun _ => 0) d

/-- Put INJ_CTRL of a detector. -/
def State.setInjCtrl (s : State) (page d : Nat) (v : Word) : State :=
  let f := s.frame page
  s.setFrame page { f with inj := f.inj.put d v }

/-- A write of INJ_CTRLd: from tenant 0 while the window is open; else refused and counted (R340). -/
def State.injCtrlWrite (s : State) (who : Agent) (page d : Nat) (v : Word) : State :=
  if detCount page ≤ d then s
  else s.ifHeadland who page fun t =>
    if t.inj.open_ then
      let t1 := t.setInjCtrl page d v
      { t1 with inj := { t1.inj with next := t1.inj.next.put (32 * page + d) 0 } }
    else t.detect page 0

/-- A write of INJ_CTRLd. -/
def execInjCtrlWrite (who : Agent) (page : BitVec 12) (d : Fin 32) (v : Word) (s : State) : Host.Outcome State Fault Refusal :=
  .next (s.injCtrlWrite who page.toNat d.val v)

/-- The values of KIND that a detector defines (R341, R342). -/
def kindsOf (page d : Nat) : Nat :=
  let o := (page - 0x100) % 0x20
  if d = 0 then 1
  else if page = 0x003 then 2
  else if page = 0x007 ∨ ((page = 0x008 ∨ page = 0x010 ∨ page = 0x011) ∧ d = 1) then 4
  else if page = 0x018 ∨ page = 0x019 then (if d = 1 then 5 else 1)
  else if 0x020 ≤ page ∧ page < 0x024 then 2
  else if 0x100 ≤ page then
    if o = 0 then (if d ≤ 2 then 4 else 1) else if o = 1 then (if d ≤ 2 then 2 else 1) else 1
  else 1

/-- A monitor's condition holds for one sample (R342). -/
def State.injectMonitor (s : State) (d : Nat) (w : Word) : State :=
  let n := fld w 3 0
  match d with
  | 1 => s.detect powerPage 1 true
  | 2 => s.supplyGlitch false n true
  | 3 => s.supplyGlitch true n true
  | 4 => s.clockAlarm (.one ⟨n % 16, Nat.mod_lt _ (by decide)⟩) true
  | 5 => s.clockAlarm .all true
  | 6 => s.tidePllLost true
  | 7 => s.crystalLost true
  | 8 => s.detect powerPage 8 true
  | _ => s.thermalCritical true

/-- An injection that has fired: a monitor's or the watchdog's at once, any other at its detector's next opportunity (R340). -/
def State.injected (s : State) (page d : Nat) (w : Word) : State :=
  if page = powerPage ∧ d ≠ 0 then s.injectMonitor d w
  else if page = aonPage ∧ d = 1 then
    if injKind w = 1 then s.detect aonPage 1 true
    else (s.detect aonPage 1 true).watchdogExpired
  else { s with inj := { s.inj with waiting := s.inj.waiting ++ [(Waiting.mk page d w)] } }

/-- The unit of a page is in service (R344). -/
def State.pageInService (s : State) (page : Nat) : Bool :=
  match pageDomain page with
  | some d => decide ((s.gate d).st = .on)
  | none => true

/-- A group of the page's unit restores or replays, so that a periodic injection waits (R344). -/
def State.pageRolls (s : State) (page : Nat) : Bool :=
  if 0x100 ≤ page ∧ page < 0x300 then
    (s.leaders ((page - 0x100) / 0x20)).any fun k => decide ((s.core k).tm.st = .restore) || decide ((s.core k).tm.st = .replay)
  else false

/-- An armed injection fires (R340): a one-shot clears ARM; a periodic one fires every PERIOD µs, skipped while its previous
one still waits. -/
def State.injFire (s : State) (page d : Nat) : State :=
  let w := s.injCtrl page d
  let due := (s.inj.next.get (fun _ => 0) (32 * page + d))
  if !s.inj.open_ || !bit w 31 || decide (injKind w = 0) || decide (kindsOf page d < injKind w) || !s.pageInService page then s
  else if bit w 30 then
    if s.now < due ∨ s.pageRolls page then s
    else
      let s1 := { s with inj := { s.inj with next := s.inj.next.put (32 * page + d) (s.now + max (fld w 29 20) 1 * ticksPerUs) } }
      if s1.inj.waiting.any fun x => x.page = page && x.d = d then s1 else s1.injected page d w
  else (s.setInjCtrl page d (clearBits w 0x80000000#32)).injected page d w

/-- An injection fires. -/
def execInjectionFire (page : BitVec 12) (d : Fin 32) (at_ : Nat) (s : State) : Host.Outcome State Fault Refusal :=
  .next ((s.advance at_).injFire page.toNat d.val)

/-! ## The debug page (R335) -/

/-- HYK_EN takes EN unless the OTP has disabled the port for ever. -/
def State.hykEnPut (s : State) (v : Word) : State := if s.otp.bootcfg.getLsbD 4 then s else { s with hykEn := bit v 0 }

/-- HYK_EN as it reads. -/
def State.hykOn (s : State) : Bool := s.hykEn && !s.otp.bootcfg.getLsbD 4

/-- A write of HYK_EN. -/
def execHykEnWrite (who : Agent) (v : Word) (s : State) : Host.Outcome State Fault Refusal :=
  .next (s.ifHeadland who debugPage fun t => t.hykEnPut v)

end Sys2Proof.Machine
end

