-- ==== Sys2Proof/Machine/Pages.lean ====
section
/-! DEFINITION. Register pages as the accesses of R328 reach them: reads and word stores over the whole block map (R6, R327 to
R333), and the registers that only hold what is written to them. -/

namespace Sys2Proof.Machine

/-- The state after a command that goes on; every command of a page does. -/
def outState (s : State) : Host.Outcome State Fault Refusal → State
  | .next t => t
  | _ => s

/-- A number as an index below a bound that is not 0. -/
def finOf (n : Nat) (h : 0 < n) (i : Nat) : Fin n := ⟨i % n, Nat.mod_lt _ h⟩

/-! ## The kinds of page (R333) -/

/-- What a page is. -/
inductive PageKind where
  | features
  | tenants
  | power
  | aon
  | inj
  | debug
  | mesh
  | cave
  | churn
  | evc
  | tide
  | memc (c : Nat)
  | link (l : Nat)
  | eth (p : Nat)
  | can (c : Nat)
  | uart (u : Nat)
  | pcie
  | xspi
  | i2c (i : Nat)
  | coveMem (n : Nat)
  | redundancy (n : Nat)
  | core (k : Nat)
  | event (k : Nat)
  | none
deriving DecidableEq, Repr

/-- The block map (R333). -/
def pageKind (page : Nat) : PageKind :=
  if page = 0 then .features else if page = 1 then .tenants else if page = 2 then .power else if page = 3 then .aon
  else if page = 4 then .inj else if page = 5 then .debug else if page = 6 then .mesh else if page = 7 then .cave
  else if page = 8 then .churn else if page = 0x010 then .evc else if page = 0x011 then .tide
  else if page = 0x018 ∨ page = 0x019 then .memc (page - 0x018)
  else if 0x020 ≤ page ∧ page < 0x024 then .link (page - 0x020)
  else if 0x028 ≤ page ∧ page < 0x02E then .eth (page - 0x028)
  else if 0x030 ≤ page ∧ page < 0x034 then .can (page - 0x030)
  else if 0x038 ≤ page ∧ page < 0x040 then .uart (page - 0x038)
  else if page = 0x040 then .pcie else if page = 0x041 then .xspi
  else if 0x044 ≤ page ∧ page < 0x048 then .i2c (page - 0x044)
  else if 0x100 ≤ page ∧ page < 0x300 then
    let n := (page - 0x100) / 0x20
    let o := (page - 0x100) % 0x20
    if o = 0 then .coveMem n else if o = 1 then .redundancy n
    else if 8 ≤ o ∧ o < 0x10 then .core (8 * n + (o - 8))
    else if 0x10 ≤ o ∧ o < 0x18 then .event (8 * n + (o - 0x10))
    else .none
  else .none

/-- Block type and instance of BLK_ID (R333). -/
def PageKind.ident : PageKind → Nat × Nat
  | .features => (0x0001, 0)
  | .tenants => (0x0002, 0)
  | .power => (0x0003, 0)
  | .aon => (0x0004, 0)
  | .inj => (0x0005, 0)
  | .debug => (0x0006, 0)
  | .mesh => (0x0008, 0)
  | .cave => (0x000A, 0)
  | .churn => (0x0009, 0)
  | .evc => (0x0010, 0)
  | .tide => (0x0011, 0)
  | .memc c => (0x0018, c)
  | .link l => (0x0020, l)
  | .eth p => (0x0021, p)
  | .can c => (0x0022, c)
  | .uart u => (0x0023, u)
  | .pcie => (0x0024, 0)
  | .xspi => (0x0025, 0)
  | .i2c i => (0x0026, i)
  | .coveMem n => (0x0030, n)
  | .redundancy n => (0x0031, n)
  | .core k => (0x0032, k)
  | .event k => (0x0033, k)
  | .none => (0, 0)

/-! ## The common frame as it reads (R327, R338) -/

/-- An INJ_CTRL of the page is armed. -/
def Frame.armed (f : Frame) : Bool := f.inj.cells.any fun e => bit e.2 31

/-- BLK_STATUS (R327). -/
def State.blkStatus (s : State) (page : Nat) : Word :=
  let f := s.frame page
  let blk := match pageKind page with
    | .memc c => (s.memc c).status
    | _ => 0
  flagAt (decide (f.errStatus ≠ 0)) 31 ||| flagAt (!s.pageInService page) 30 ||| flagAt f.armed 29 ||| at_ blk 0

/-- The header of a page (R327). -/
def State.headerRead (s : State) (page off : Nat) : Word :=
  let f := s.frame page
  let (ty, n) := (pageKind page).ident
  match off with
  | 0x000 => at_ ty 16 ||| at_ n 8 ||| 1#32
  | 0x004 => 0xB0#32
  | 0x008 => featOffer page
  | 0x00C => f.accept
  | 0x010 => f.active
  | 0x014 => s.blkStatus page
  | 0x018 => flagAt f.flock 0
  | 0x01C =>
    match pageDomain page with
    | some d => (s.gate d).blkWord
    | none => 0
  | _ => 0

/-- The detector block and PAGE_OWN of a page (R331, R338). -/
def State.detRead (s : State) (page off : Nat) : Word × State :=
  let f := s.frame page
  if off = 0xC00 then (f.errStatus, s)
  else if off = 0xC04 then (f.errEvent, s)
  else if off = 0xC08 then (word (detCount page), s)
  else if off = 0xC0C then (f.injHit, s)
  else if off = 0xE00 then (flagAt f.lock 31 ||| at_ f.owner.toNat 0, s)
  else if 0xD00 ≤ off ∧ off < 0xE00 then
    let d := (off - 0xD00) / 8
    if detCount page ≤ d then (0, s)
    else if off % 8 = 0 then (f.counts.get (fun _ => 0) d, s.setFrame page { f with counts := f.counts.put d 0 })
    else (f.inj.get (fun _ => 0) d, s)
  else (0, s)

/-! ## Block registers as they read -/

/-- The summary of the device-wide page (R337), over the pages of the block map. -/
def State.summary (s : State) (off : Nat) : Word :=
  let pages := 0 :: [0x020, 0x021, 0x022, 0x023]
  match off with
  | 0x040 => word (pages.filter fun p => !(s.frame p).flock).length
  | 0x044 => word ((((List.range 4).filter fun l => bit (s.frame (0x020 + l)).active 0).map fun l => 2 ^ l).sum)
  | 0x048 => word (s.frames.cells.filter fun e => decide (e.2.errStatus ≠ 0)).length
  | 0x04C => word ((s.frames.cells.map fun e => (e.2.inj.cells.filter fun c => bit c.2 31).length).sum)
  | _ => 0

/-- The tenant table's registers (R33). -/
def State.tenPageRead (s : State) (off : Nat) : Word × State :=
  let t := s.tenTable.sel.toNat
  match off with
  | 0x040 => (at_ t 0, s)
  | 0x044 => (s.tenState t, s)
  | 0x048 => ((s.tenant t).base, s)
  | 0x04C => ((s.tenant t).last, s)
  | 0x050 => (word (s.tenThreads s.tenTable.sel), s)
  | 0x054 => s.tenUnwrittenRead
  | 0x05C => (s.tenTable.status, s)
  | _ => (0, s)

/-- The power page's registers (R300, R303). -/
def State.powerPageRead (s : State) (off : Nat) : Word :=
  let p := s.power
  match off with
  | 0x040 => p.profileWord
  | 0x048 => at_ p.gdSel.toNat 0
  | 0x04C => if p.gdSel.toNat < 45 then (s.gate p.gdSel.toNat).word else 0
  | 0x054 => at_ p.gdReason.toNat 4 ||| at_ p.gdResult.toNat 0
  | 0x064 => flagAt p.armed 31 ||| at_ p.ebbReason.toNat 24 ||| at_ p.granules.toNat 0
  | 0x068 => p.plist
  | 0x06C => p.pcount
  | 0x070 => p.clist
  | 0x074 => p.ccount
  | 0x078 => p.epoch
  | 0x08C => flagAt p.stbyIn 31 ||| at_ p.stbyReason.toNat 16 ||| at_ p.restarts.toNat 0
  | _ => 0

/-- The always-on page's registers; a read of a _LO word captures its upper part (R299, R311). -/
def State.aonPageRead (s : State) (off : Nat) : Word × State :=
  let a := s.aon
  match off with
  | 0x040 => s.aonLo
  | 0x044 => (a.capture.setWidth 32, s)
  | 0x048 => (a.alarm0, s)
  | 0x04C => (a.alarm1, s)
  | 0x050 => (a.alctrl.setWidth 32, s)
  | 0x054 => (flagAt a.wdEn 31 ||| at_ a.wdMs.toNat 0, s)
  | 0x05C => (a.cause.setWidth 32, s)
  | 0x060 => (flagAt a.resumed 31 ||| at_ a.returns.toNat 0, s)
  | 0x064 => (a.outLo, { s with aon := { a with outCapture := a.outHi } })
  | 0x068 => (a.outCapture, s)
  | 0x06C => (a.boot, s)
  | _ => (0, s)

/-- The injection page's registers (R339). -/
def State.injPageRead (s : State) (off : Nat) : Word :=
  match off with
  | 0x044 => flagAt s.inj.open_ 31 ||| at_ (if s.inj.open_ then (s.inj.endAt - s.now) / ticksPerMs else 0) 0
  | 0x048 => s.inj.window
  | _ => 0

/-- The Churn page's registers (R250). -/
def State.churnPageRead (s : State) (off : Nat) : Word × State :=
  let c := s.churn
  if off = 0x040 then (at_ c.plain.toNat 0, s)
  else if off = 0x044 then (word s.sharedFree, s)
  else if off = 0x048 then (at_ c.sel.toNat 0, s)
  else if 0x04C ≤ off ∧ off ≤ 0x08C then
    let (w, s1) := s.chReadField c.sel.toNat ((off - 0x04C) / 4)
    (w.getD 0, s1)
  else if off = 0x0C4 then (c.cmdStatus.setWidth 32, s)
  else if off = 0x0C8 then (c.tcapSel.setWidth 32, s)
  else if off = 0x0CC then (word (s.tcapOf c.tcapSel), s)
  else if off = 0x0D0 then (word (s.tuse c.tcapSel), s)
  else (0, s)

/-- 32 sources' bits as ENABLEk or PENDINGk (R229). -/
def State.evcBits (s : State) (k : Nat) (f : Source → Bool) : Word :=
  word (((List.range 32).filter fun j => f (s.source (32 * k + j))).map fun j => 2 ^ j).sum

/-- The EVC page's registers (R229); alias offsets read 0 (R330). -/
def State.evcPageRead (s : State) (off : Nat) : Word × State :=
  let e := s.evc
  if off = 0x040 then (e.sel.setWidth 32, s)
  else if 0x044 ≤ off ∧ off ≤ 0x070 then (((s.source e.sel.toNat).field ((off - 0x044) / 4)).getD 0, s)
  else if off = 0x080 then (e.urgCnt, { s with evc := { e with urgCnt := 0 } })
  else if off = 0x084 then (word e.urgents.length, s)
  else if 0x100 ≤ off ∧ off < 0x200 then (s.evcBits ((off - 0x100) / 4) (·.en), s)
  else if 0x200 ≤ off ∧ off < 0x300 then (s.evcBits ((off - 0x200) / 4) (·.pend), s)
  else if off = 0x300 then (e.wakeEn.extractLsb' 0 32, s)
  else if off = 0x304 then (e.wakeEn.extractLsb' 32 32, s)
  else if off = 0x308 then (e.wakeLatch.extractLsb' 0 32, s)
  else if off = 0x30C then (e.wakeLatch.extractLsb' 32 32, s)
  else (0, s)

/-- LSTAT (R278). -/
def Link.lstat (x : Link) : Word :=
  at_ (match x.link with | .off => 0 | .training => 1 | .up => 2 | .down => 3) 30 ||| flagAt x.pref 29
    ||| at_ (posRange.filter fun p => decide ((x.pos p).st ≠ .absent)).length 16 ||| at_ (fld x.cycle 15 0) 0

/-- PSTATE (R278). -/
def Position.pstate (p : Position) : Word :=
  at_ (match p.st with | .absent => 0 | .joining => 1 | .verifying => 2 | .active => 3 | .left => 4 | .quarantined => 5) 29
    ||| flagAt p.bound 28 ||| flagAt p.key.isSome 27 ||| flagAt p.dupf 26 ||| at_ p.rank.toNat 16 ||| at_ p.version.toNat 0

/-- The entry of the violation log at an index of its ring (R276). -/
def Link.vlogAt (x : Link) (i : Nat) : Word × Word :=
  let n := x.vlogCount
  (x.vlog.getD (if n ≤ 256 then i else (i + 256 - n % 256) % 256) (0, 0))

/-- A link page's registers (R278). -/
def State.linkPageRead (s : State) (l off : Nat) : Word × State :=
  let x := s.link l
  let p := x.pos x.psel.toNat
  if off = 0x040 then (x.lctrlNext, s)
  else if off = 0x044 then (x.lperiodNext, s)
  else if off = 0x048 then (x.lstat, s)
  else if off = 0x04C then (x.part.beacon[2], s)
  else if off = 0x050 then (x.session, s)
  else if off = 0x054 then (x.late, s.setLink l { x with late := 0 })
  else if off = 0x058 then (x.skip, s.setLink l { x with skip := 0 })
  else if off = 0x060 then (x.psel.setWidth 32, s)
  else if off = 0x064 then (p.pstate, s)
  else if off = 0x068 then (at_ p.maxOut 16 ||| at_ p.maxIn 0, s)
  else if off = 0x06C then (p.ident.extractLsb' 0 32, s)
  else if off = 0x070 then (p.ident.extractLsb' 32 32, s)
  else if off = 0x074 then (x.bindLo, s)
  else if off = 0x078 then (x.bindHi, s)
  else if off = 0x07C then (p.viol, s.modPos l x.psel.toNat fun q => { q with viol := 0 })
  else if off = 0x080 then (p.naks, s.modPos l x.psel.toNat fun q => { q with naks := 0 })
  else if off = 0x088 then (at_ x.cmdReason.toNat 4 ||| at_ x.cmdResult.toNat 0, s)
  else if 0x090 ≤ off ∧ off ≤ 0x0AC then (p.descs.getD ((off - 0x090) / 4) 0, s)
  else if off = 0x100 then (at_ (x.vlogCount % 2 ^ 24) 8 ||| at_ (x.vlogCount % 256) 0, s)
  else if off = 0x104 then (x.vlogIdx.setWidth 32, s)
  else if off = 0x108 then ((x.vlogAt x.vlogIdx.toNat).1, s)
  else if off = 0x10C then ((x.vlogAt x.vlogIdx.toNat).2, s)
  else (0, s)

/-- A field of a register whose offset the spec does not give, placed as the implementation places it (log entry 38). -/
def regField (off id v : Nat) : Word := if off = Config.regOffset id then at_ v (Config.regBit id) else 0

/-- The settings of some numbers at an offset. -/
def setupRead (t : Tbl Word) (ids : List Nat) (off : Nat) : Word :=
  ids.foldl (fun w i => w ||| regField off i (t.get (fun _ => 0) i).toNat) 0

/-- The settings of an Ethernet port: the choice of one-step, and its filters (R285, R286). -/
def ethIds : List Nat := 27 :: (List.range 69).map (40 + ·)

/-- The settings of a CAN controller: its modes and rates, and its filters (R287). -/
def canIds : List Nat := [28, 29, 30, 31] ++ (List.range 64).map (110 + ·)

/-- The width of a setting: a filter of a port has 32 and 16 bits of address, a queue and a valid bit. -/
def setupWidth (id : Nat) : Nat :=
  if id = 27 ∨ id = 28 ∨ id = 29 ∨ id = 104 then 1
  else if id = 105 ∨ id = 108 then 3
  else if 40 ≤ id ∧ id < 104 then (match id % 4 with | 0 => 32 | 1 => 16 | 2 => 3 | _ => 1)
  else 32

/-- A port page's registers (R284, R286); a read of PTP_NS captures the clock, and TXTS clears as it is read. -/
def State.ethPageRead (s : State) (p off : Nat) : Word × State :=
  let e := s.eth p
  if off = 0x040 then (e.stamp, s)
  else if off = 0x044 then (e.mode, s)
  else if off = 0x048 then (e.ptpInc, s)
  else if off = 0x050 then
    let s1 := s.ptpCapture p
    (word ((s1.eth p).capNs % 10 ^ 9), s1)
  else if off = 0x054 then (word (e.capNs / 10 ^ 9 % 2 ^ 32), s)
  else if off = 0x058 then (word (e.capNs / 10 ^ 9 / 2 ^ 32), s)
  else if off = 0x05C then (e.txNs, s.txtsRead p 0)
  else if off = 0x060 then (e.txSec, s.txtsRead p 1)
  else if off = 0x064 then (e.txTag, s.txtsRead p 2)
  else if off = Config.regOffset 18 then (e.dropped, s.setEth p { e with dropped := 0 })
  else (setupRead e.setup ethIds off, s)

/-- A CAN controller's registers (R284, R287). -/
def Can.read (c : Can) (off : Nat) : Word :=
  if off = 0x040 then c.stamp else regField off 0 c.autorec.toNat ||| setupRead c.setup canIds off

/-- A UART's registers (R284, R288). -/
def Uart.read (u : Uart) (off : Nat) : Word :=
  if off = 0x040 then u.stamp
  else regField off 1 u.idle.toNat ||| regField off 2 u.echoSup.toNat ||| regField off 3 u.lead.toNat ||| regField off 4 u.lag.toNat
    ||| regField off 23 u.baud.toNat ||| regField off 24 u.seven.toNat ||| regField off 25 u.parity.toNat ||| regField off 26 u.twoStop.toNat

/-- A read of the CFG data register: a word of the port's own, or a request to the other side, whose answer is free (R289, log entry
144). -/
def State.cfgRead (s : State) : Word × State :=
  match Config.cfgOwn s.pcie.cfgAddr with
  | some r => s.configWord r
  | none => ({ s with pcie := { s.pcie with sent := s.pcie.sent ++ [.configRead s.pcie.cfgAddr] } } : State).drawWord

/-- The PCIe page's registers (R284, R289, R290). -/
def State.pciePageRead (s : State) (off : Nat) : Word × State :=
  let c := s.pcie
  if off = 0x040 then (c.stamp, s)
  else if off = 0x050 then (c.cplto, s)
  else if off = Config.regOffset 15 then (c.badMsi, { s with pcie := { c with badMsi := 0 } })
  else if off = Config.regOffset 16 then (c.discarded, { s with pcie := { c with discarded := 0 } })
  else if off = Config.regOffset 17 then (c.unsupported, { s with pcie := { c with unsupported := 0 } })
  else if off = Config.regOffset 33 ∧ c.root then s.cfgRead
  else (regField off 5 c.root.toNat ||| regField off 6 c.ob.toNat ||| regField off 32 c.cfgAddr.toNat ||| regField off 34 c.aer.toNat
    ||| ((List.range 8).foldl (fun w i => w ||| regField off (7 + i) (c.txa.toList.getD i 0).toNat) 0), s)

/-- A memory controller's error counters (R51), and the configuration of its patrol scrub (R52; log entry 38). -/
def State.memcPageRead (s : State) (c off : Nat) : Word × State :=
  let m := s.memc c
  if off = Config.regOffset 19 then (m.eccData, { s with memCtl := s.memCtl.put c { m with eccData := 0 } })
  else if off = Config.regOffset 20 then (m.eccCheck, { s with memCtl := s.memCtl.put c { m with eccCheck := 0 } })
  else if off = Config.regOffset 21 then (m.eccUncorr, { s with memCtl := s.memCtl.put c { m with eccUncorr := 0 } })
  else if off = Config.regOffset 22 then (m.scrubCtrl, s)
  else (0, s)

/-- A cove memory page's registers (R53). -/
def State.coveMemRead (s : State) (n off : Nat) : Word × State :=
  let c := s.cove n
  match off with
  | 0x040 => (c.scrubCtrl, s)
  | 0x044 => (c.scrubPos.setWidth 32, s)
  | 0x048 => (c.scrubPasses, s)
  | 0x050 => (c.eccData, s.setCove n { c with eccData := 0 })
  | 0x054 => (c.eccCheck, s.setCove n { c with eccCheck := 0 })
  | 0x058 => (c.eccUncorr, s.setCove n { c with eccUncorr := 0 })
  | 0x05C => (c.eccLast, s.setCove n { c with eccLast := 0 })
  | 0x070 => (c.codeData, s.setCove n { c with codeData := 0 })
  | 0x074 => (c.codeCheck, s.setCove n { c with codeCheck := 0 })
  | 0x078 => (c.codeUncorr, s.setCove n { c with codeUncorr := 0 })
  | _ => (0, s)

/-- The code of a cove mode. -/
def CoveMode.code : CoveMode → Nat
  | .split => 0
  | .pair => 1
  | .pairSpares => 2
  | .triple => 3

/-- The code of a role. -/
def Role.code : Role → Nat
  | .single => 0
  | .leader => 1
  | .follower => 2
  | .spare => 3
  | .test => 4
  | .failed => 5
  | .lost => 6
  | .copying => 7

/-- CMODE (R216). -/
def Cove.cmode (c : Cove) : Word :=
  flagAt c.busy 31 ||| at_ c.result.toNat 29 ||| at_ c.reason.toNat 24 ||| at_ c.mode.code 4

/-- A word of eight 4-bit numbers, the first lowest. -/
def nibbles (l : List Nat) : Word := word (packNibbles l)

/-- STEST_STATUS (R319). -/
def Cove.stestStatus (c : Cove) : Word :=
  at_ c.stestResult.toNat 30 ||| at_ c.stestPhys.val 8 ||| at_ c.stestNext.val 4 ||| at_ c.stestBank.val 0

/-- A redundancy page's registers (R216, R319). -/
def State.redRead (s : State) (n off : Nat) : Word × State :=
  let c := s.cove n
  match off with
  | 0x040 => (c.cmode, s)
  | 0x048 => (nibbles (c.coreMap.toList.map (·.val)), s)
  | 0x04C => (nibbles (c.role.toList.map Role.code), s)
  | 0x050 => (flagAt c.onPerm 0, s)
  | 0x054 => (c.glitchCnt, s.setCove n { c with glitchCnt := 0 })
  | 0x058 => (c.permCnt, s.setCove n { c with permCnt := 0 })
  | 0x05C => (c.rotateCnt, s.setCove n { c with rotateCnt := 0 })
  | 0x060 => (c.stestCtrl, s)
  | 0x064 => (c.stestPhase, s)
  | 0x068 => (c.stestStatus, s)
  | 0x06C => (c.stestPasses, s.setCove n { c with stestPasses := 0 })
  | _ => (0, s)

/-- The code of a slot state (R112). -/
def SlotState.code : SlotState → Nat
  | .empty => 0
  | .active => 1
  | .sleeping => 2
  | .waiting => 3
  | .parked => 4
  | .held => 5

/-- SLOT_STATE (R127). -/
def Core.slotWord (c : Core) : Word :=
  nibbles (c.arch.slots.toList.map fun x => x.st.code + (if x.top = 0 then 0 else 8))

/-- TM_STATUS (R209). -/
def Tidemark.status (t : Tidemark) : Word :=
  at_ (match t.st with | .run => 0 | .commit => 1 | .restore => 2 | .replay => 3 | .copy => 4 | .stopped => 5) 29
    ||| at_ t.fill 16 ||| at_ (min t.repeats 255) 0

/-- A core page's registers, from the core whose state it shows (R127, R161, R169, R209). -/
def State.coreRead (s : State) (k off : Nat) : Word × State :=
  let c := s.core k
  let t := c.tm
  if off = 0x040 then (c.arch.wheel, s)
  else if off = 0x044 then (c.bankWord, s)
  else if off = 0x048 then (c.slotWord, s)
  else if off = 0x04C then (c.spillCnt, s.setCore k { c with spillCnt := 0 })
  else if off = 0x050 then (c.fillCnt, s.setCore k { c with fillCnt := 0 })
  else if off = 0x054 then (c.stolenCnt, s.setCore k { c with stolenCnt := 0 })
  else if off = 0x058 then (c.freeCnt, s.setCore k { c with freeCnt := 0 })
  else if 0x080 ≤ off ∧ off < 0x0A0 then (c.tlbWin.toList.getD ((off - 0x080) / 4) 0, s)
  else if 0x100 ≤ off ∧ off < 0x180 then
    ((if off % 8 = 0 then c.mpuBase else c.mpuAttr).toList.getD ((off - 0x100) / 8) 0, s)
  else if off = 0x180 then (t.ctrlNext, s)
  else if off = 0x184 then (t.logNext, s)
  else if off = 0x188 then (t.privNext, s)
  else if off = 0x18C then (t.status, s)
  else if off = 0x190 then (t.commits, s.setCore k { c with tm := { t with commits := 0 } })
  else if off = 0x194 then (t.rollbacks, s.setCore k { c with tm := { t with rollbacks := 0 } })
  else if off = 0x198 then (t.diverge, s.setCore k { c with tm := { t with diverge := 0 } })
  else if off = 0x19C then (at_ t.lastCause.toNat 28 ||| at_ (min t.lastPosition (2 ^ 21 - 1)) 0, s)
  else if off = 0x1A0 then (t.sig.extractLsb' 0 32, s)
  else if off = 0x1A4 then (t.sig.extractLsb' 32 32, s)
  else (0, s)

/-- A block register of a page as it reads (R6, R327). -/
def State.blockRead (s : State) (who : Agent) (page off : Nat) : Word × State :=
  match pageKind page with
  | .features => (s.summary off, s)
  | .tenants => s.tenPageRead off
  | .power => (s.powerPageRead off, s)
  | .aon => s.aonPageRead off
  | .inj => (s.injPageRead off, s.injTouch who)
  | .debug => (if off = 0x040 then flagAt s.hykOn 0 else 0, s)
  | .mesh | .cave | .tide | .none => (0, s)
  | .churn => s.churnPageRead off
  | .evc => s.evcPageRead off
  | .memc c => s.memcPageRead c off
  | .link l => s.linkPageRead l off
  | .eth p => s.ethPageRead p off
  | .can c => ((s.can c).read off, s)
  | .uart u => ((s.uart u).read off, s)
  | .pcie => s.pciePageRead off
  | .xspi => (if off = 0x040 then s.xspi.stamp else 0, s)
  | .i2c i => (if off = 0x040 then (s.i2c i).stamp else 0, s)
  | .coveMem n => s.coveMemRead n off
  | .redundancy n => s.redRead n off
  | .core k =>
    match s.pageCore k with
    | some j => s.coreRead j off
    | none => (0, s)
  | .event k => if off = 0x040 ∧ s.isLeader k ∧ s.isEventSlot who k then s.claim k else (0, s)

/-- A word load of a register page (R327, R328): what it reads, and its effect. -/
def State.pageRead (s : State) (who : Agent) (page off : Nat) : Word × State :=
  if off < 0x040 then (s.headerRead page off, if page = injPage then s.injTouch who else s)
  else if off < 0xC00 then s.blockRead who page off
  else
    let (w, s1) := s.detRead page off
    (w, if page = injPage then s1.injTouch who else s1)

/-! ## Word stores -/

/-- IF_STAMP's fields. -/
def stampMask : Word := 0x8000000F#32

/-- A write to the header of a page (R329). -/
def State.headerStore (s : State) (who : Agent) (page off : Nat) (v : Word) : State :=
  match off with
  | 0x00C => s.headerWrite who page fun t => t.featAccept page v
  | 0x018 => s.headerWrite who page fun t => if bit v 0 then t.flockSet page else t
  | 0x000 | 0x004 | 0x008 | 0x010 | 0x014 => s.headerWrite who page id
  | 0x01C =>
    match pageDomain page with
    | some d => s.blkGateStore who d v
    | none => s
  | _ => s

/-- A write to the detector block or to PAGE_OWN of a page (R331, R338, R340). -/
def State.detStore (s : State) (who : Agent) (page off : Nat) (v : Word) : State :=
  match off with
  | 0xC00 => s.frameWrite who page fun f => { f with errStatus := clearBits f.errStatus v }
  | 0xC04 => s.frameWrite who page fun f => { f with errEvent := v }
  | 0xC0C => s.frameWrite who page fun f => { f with injHit := clearBits f.injHit v }
  | 0xC10 => s.frameWrite who page fun f => { f with errEvent := f.errEvent ||| v }
  | 0xC14 => s.frameWrite who page fun f => { f with errEvent := clearBits f.errEvent v }
  | 0xE00 => s.headerWrite who page fun t => t.pageOwn page v
  | _ => if 0xD00 ≤ off ∧ off < 0xE00 ∧ off % 8 = 4 then s.injCtrlWrite who page ((off - 0xD04) / 8) v else s

/-- The tenant table's registers written by the page's owner (R33). -/
def State.tenPageWrite (s : State) (off : Nat) (v : Word) : State :=
  match off with
  | 0x040 => { s with tenTable := { s.tenTable with sel := v.setWidth 12 } }
  | 0x048 => s.tenPhys false v
  | 0x04C => s.tenPhys true v
  | 0x058 => s.tenCommand (tenCmdOf (fld v 3 0))
  | _ => s

/-- The power page's registers written by tenant 0 (R300). -/
def State.powerPageWrite (s : State) (off : Nat) (v : Word) : State :=
  match off with
  | 0x040 => s.profilePut v
  | 0x048 => { s with power := { s.power with gdSel := v.setWidth 6 } }
  | 0x050 => s.gdCode (fld v 3 0)
  | 0x060 => if fld v 1 0 = 1 then s.ebbArm else if fld v 1 0 = 2 then s.ebbDisarm else s
  | 0x068 => { s with power := { s.power with plist := v &&& 0xFFFFF8#32 } }
  | 0x06C => { s with power := { s.power with pcount := v &&& 0x1FF#32 } }
  | 0x070 => { s with power := { s.power with clist := v &&& 0xFFFFF8#32 } }
  | 0x074 => { s with power := { s.power with ccount := v &&& 0x7F#32 } }
  | 0x07C => if bit v 0 then s.epochAdvance else s
  | 0x084 => s.otpCommand v
  | 0x088 => if fld v 1 0 = 1 then s.standbyEnter else s
  | _ => s

/-- AON_WDOG (R311): EN stays set, and the count starts as it is set (log entry 146). -/
def Aon.watchdog (a : Aon) (v : Word) (now : Nat) : Aon :=
  let a1 := { a with wdEn := a.wdEn || bit v 31, wdMs := v.setWidth 16 }
  if bit v 31 && !a.wdEn then a1.kick now else a1

/-- The always-on page's registers written by tenant 0 (R311). -/
def State.aonPageWrite (s : State) (off : Nat) (v : Word) : State :=
  match off with
  | 0x048 => { s with aon := { s.aon with alarm0 := v, rang := s.aon.rang.set 0 none } }
  | 0x04C => { s with aon := { s.aon with alarm1 := v, rang := s.aon.rang.set 1 none } }
  | 0x050 => { s with aon := { s.aon with alctrl := v.setWidth 2 } }
  | 0x054 => { s with aon := s.aon.watchdog v s.now }
  | 0x058 => { s with aon := s.aon.kick s.now }
  | _ => s

/-- The injection page's registers written by its owner (R339). -/
def State.injPageWrite (s : State) (who : Agent) (off : Nat) (v : Word) : State :=
  match off with
  | 0x040 => s.injUnlock who v
  | 0x048 => ({ s with inj := { s.inj with window := v &&& 0xFFFF#32 } } : State).injTouch who
  | 0x04C => s.injClose
  | _ => s.injTouch who

/-- The Churn page's registers written by its owner (R250). -/
def State.churnPageWrite (s : State) (who : Agent) (off : Nat) (v : Word) : State :=
  let c := s.churn
  if off = 0x040 then s.poolWrite v
  else if off = 0x048 then { s with churn := { c with sel := v.setWidth 9 } }
  else if 0x04C ≤ off ∧ off ≤ 0x08C then orSame s (s.chWriteField who.ten c.sel.toNat ((off - 0x04C) / 4) v)
  else if off = 0x0C0 then outState s (execChCmdUnknown who (BitVec.ofNat 4 (fld v 15 12)) (finOf 512 (by decide) (fld v 8 0)) s)
  else if off = 0x0C8 then { s with churn := { c with tcapSel := v.setWidth 12 } }
  else if off = 0x0CC then s.tcapWrite v
  else s

/-- WAKE_EN of one half put (R229, R236). -/
def State.wakeEnPut (s : State) (hi : Bool) (v : Word) : State :=
  let m := (0xFFFFFFFF#64) <<< (if hi then 32 else 0)
  { s with evc := { s.evc with wakeEn := (s.evc.wakeEn &&& ~~~m) ||| (v.setWidth 64 <<< (if hi then 32 else 0)) } }

/-- The WAKE_EN half of an offset as it reads. -/
def State.wakeEnHalf (s : State) (hi : Bool) : Word := s.evc.wakeEn.extractLsb' (if hi then 32 else 0) 32

/-- The EVC page's registers and aliases written by its owner (R229, R230, R330). -/
def State.evcPageWrite (s : State) (who : Agent) (off : Nat) (v : Word) : State :=
  let e := s.evc
  let k := fun base => finOf 64 (by decide) ((off - base) / 4)
  if off = 0x040 then { s with evc := { e with sel := v.setWidth 11 } }
  else if 0x044 ≤ off ∧ off ≤ 0x070 then
    orSame s (s.srcWrite who.ten (finOf 2048 (by decide) e.sel.toNat) ((off - 0x044) / 4) v)
  else if 0x100 ≤ off ∧ off < 0x200 then s.evcDirect false (k 0x100) v
  else if 0x200 ≤ off ∧ off < 0x300 then s.evcDirect true (k 0x200) v
  else if off = 0x300 then s.wakeEnPut false v
  else if off = 0x304 then s.wakeEnPut true v
  else if off = 0x308 then s.latchClear false v
  else if off = 0x30C then s.latchClear true v
  else if 0x500 ≤ off ∧ off < 0x600 then s.evcAlias false true (k 0x500) v
  else if 0x600 ≤ off ∧ off < 0x700 then s.evcAlias true true (k 0x600) v
  else if off = 0x700 then s.wakeEnPut false (s.wakeEnHalf false ||| v)
  else if off = 0x704 then s.wakeEnPut true (s.wakeEnHalf true ||| v)
  else if 0x900 ≤ off ∧ off < 0xA00 then s.evcAlias false false (k 0x900) v
  else if 0xA00 ≤ off ∧ off < 0xB00 then s.evcAlias true false (k 0xA00) v
  else if off = 0xB00 then s.wakeEnPut false (clearBits (s.wakeEnHalf false) v)
  else if off = 0xB04 then s.wakeEnPut true (clearBits (s.wakeEnHalf true) v)
  else s

/-- A link page's registers written by its owner (R278). -/
def State.linkPageWrite (s : State) (who : Agent) (l off : Nat) (v : Word) : State :=
  if off = 0x040 then s.lctrlPut l v
  else if off = 0x044 then s.lperiodPut l v
  else if off = 0x060 then
    if 1 ≤ fld v 4 0 ∧ fld v 4 0 ≤ 30 then s.modLink l fun x => { x with psel := v.setWidth 5 } else s
  else if off = 0x074 then s.modLink l fun x => { x with bindLo := v }
  else if off = 0x078 then s.modLink l fun x => { x with bindHi := v }
  else if off = 0x084 then
    outState s (execLcmdUnknown who (finOf 4 (by decide) l) (BitVec.ofNat 4 (fld v 15 12)) (BitVec.ofNat 5 (fld v 4 0)) s)
  else if 0x0C0 ≤ off ∧ off ≤ 0x0DC then s.akeyPut l ((off - 0x0C0) / 4) v
  else if off = 0x104 then s.modLink l fun x => { x with vlogIdx := v.setWidth 8 }
  else s

/-- A field of a register whose offset the spec does not give, as a store finds it (log entry 38). -/
def storedField (off id n : Nat) (v : Word) (old : Nat) : Nat :=
  if off = Config.regOffset id then fld v (Config.regBit id + n - 1) (Config.regBit id) else old

/-- Settings as a store leaves them. -/
def setupWrite (t : Tbl Word) (ids : List Nat) (off : Nat) (v : Word) : Tbl Word :=
  ids.foldl (fun u i => if off = Config.regOffset i then u.put i (word (storedField off i (setupWidth i) v 0)) else u) t

/-- A port page's clock and mode registers written by its owner (R286). -/
def State.ethPageWrite (s : State) (p off : Nat) (v : Word) : State :=
  match off with
  | 0x044 => s.modEth p fun e => { e with mode := v &&& (if p < 2 then 0x80000003#32 else 0x80000001#32) }
  | 0x048 => s.ptpInc p v
  | 0x04C => s.ptpStep p v
  | _ => s.modEth p fun e => { e with setup := setupWrite e.setup ethIds off v }

/-- A UART's settings written by the page's owner (R288): a UART_IDLE of 0 and a rate outside 300 baud to 12 Mbaud are not taken. -/
def Uart.write (u : Uart) (off : Nat) (v : Word) : Uart :=
  let idle := storedField off 1 8 v u.idle.toNat
  let baud := storedField off 23 32 v u.baud.toNat
  { u with
    idle := if idle = 0 then u.idle else BitVec.ofNat 8 idle
    baud := if 300 ≤ baud ∧ baud ≤ 12000000 then word baud else u.baud
    seven := decide (storedField off 24 1 v u.seven.toNat = 1)
    parity := BitVec.ofNat 2 (storedField off 25 2 v u.parity.toNat)
    twoStop := decide (storedField off 26 1 v u.twoStop.toNat = 1)
    echoSup := decide (storedField off 2 1 v u.echoSup.toNat = 1)
    lead := BitVec.ofNat 8 (storedField off 3 8 v u.lead.toNat)
    lag := BitVec.ofNat 8 (storedField off 4 8 v u.lag.toNat) }

/-- A write of the CFG data register: to the port's own configuration space, or a request to the other side (R289). -/
def Pcie.cfgWrite (c : Pcie) (v : Word) : Pcie :=
  match Config.cfgOwn c.cfgAddr with
  | some r => c.configure r v
  | none => if c.up then { c with sent := c.sent ++ [.configWrite c.cfgAddr v] } else c

/-- PCIE_CPLTO is 50 µs to 50,000 µs; another value is kept out (R290). -/
def Pcie.write (c : Pcie) (off : Nat) (v : Word) : Pcie :=
  if off = 0x050 then
    if 50 ≤ fld v 19 0 ∧ fld v 19 0 ≤ 50000 then { c with cplto := v &&& 0xFFFFF#32 } else c
  else if off = Config.regOffset 33 ∧ c.root then c.cfgWrite v
  else
    { c with
      cfgAddr := word (storedField off 32 32 v c.cfgAddr.toNat)
      aer := clearBits c.aer (word (storedField off 34 32 v 0))
      root := decide (storedField off 5 1 v c.root.toNat = 1)
      ob := word (storedField off 6 32 v c.ob.toNat)
      txa := Vector.ofFn fun i => word (storedField off (7 + i.val) 32 v c.txa[i].toNat) }

/-- TM_LOG is taken where it keeps the whole log below the spill area (R209). -/
def Tidemark.logOk (t : Tidemark) (v : Word) : Bool :=
  decide (fld v 6 0 * 0x4000 + 0x4000 * 2 ^ min (fld t.ctrlNext 2 0) 4 ≤ 0x1F4000)

/-- A redundancy page's registers written by tenant 0 (R216, R319); what the tests of a RESTART find is the cove's. -/
def State.redWrite (s : State) (n off : Nat) (v : Word) : State :=
  match off with
  | 0x044 =>
    match fld v 2 0 with
    | 1 => s.changeMode n (BitVec.ofNat 2 (fld v 5 4))
    | 2 => s.rotate n (fld v 11 8)
    | 3 =>
      let (d, s1) := s.drawBelow 256
      let (p, s2) := s1.drawBelow 256
      s2.restart n (fld v 11 8) (BitVec.ofNat 8 d) (BitVec.ofNat 8 p)
    | _ => if (s.cove n).busy then s.modCove n fun c => c.refuse 6 else s.modCove n fun c => c.refuse 7
  | 0x050 => s.modCove n fun c => { c with onPerm := bit v 0 }
  | 0x060 => s.modCove n fun c => { c with stestCtrl := v &&& 0xCFFF0000#32 }
  | 0x064 => s.modCove n fun c => { c with stestPhase := v &&& 0xFFFFFF#32 }
  | _ => s

/-- The registers of a core page that only tenant 0 writes, whoever owns it (R172, R209). -/
def headlandCoreReg (off : Nat) : Bool :=
  (decide (0x080 ≤ off) && decide (off < 0x0A0)) || (decide (0x100 ≤ off) && decide (off < 0x180))
    || decide (off = 0x180) || decide (off = 0x184) || decide (off = 0x188)

/-- Those registers as they are written (R161, R169, R209). -/
def State.coreHeadlandWrite (s : State) (k off : Nat) (v : Word) : State :=
  s.modCore k fun c =>
    if off < 0x0A0 then { c with tlbWin := c.tlbWin.setIfInBounds ((off - 0x080) / 4) (v &&& 0xCFFF0FFF#32) }
    else if off < 0x180 then
      if off % 8 = 0 then { c with mpuBase := c.mpuBase.setIfInBounds ((off - 0x100) / 8) v }
      else { c with mpuAttr := c.mpuAttr.setIfInBounds ((off - 0x100) / 8) v }
    else if off = 0x180 then { c with tm := { c.tm with ctrlNext := v &&& 0x03FF0007#32 } }
    else if off = 0x184 then if c.tm.logOk v then { c with tm := { c.tm with logNext := v &&& 0x7F#32 } } else c
    else { c with tm := { c.tm with privNext := v &&& 0x01FF01FF#32 } }

/-- Whether a block's map has a register at an offset that takes stores: R6 leaves any other offset without a count. A read-only
register's write by the page's owner has no effect, and one by another is counted (R332). -/
def assignedOff (kind : PageKind) (off : Nat) : Bool :=
  let within := fun lo hi => decide (lo ≤ off) && decide (off ≤ hi)
  match kind with
  | .features => within 0x040 0x04C
  | .tenants => within 0x040 0x05C
  | .power => decide (off = 0x040) || within 0x048 0x054 || within 0x060 0x08C
  | .aon => within 0x040 0x06C
  | .inj => within 0x040 0x04C
  | .debug => decide (off = 0x040)
  | .mesh | .cave | .tide | .none => false
  | .memc _ => (List.range 4).any fun i => decide (off = Config.regOffset (19 + i))
  | .churn => within 0x040 0x08C || within 0x0C0 0x0D0
  | .evc => within 0x040 0x070 || within 0x080 0x084 || within 0x100 0x30C || within 0x500 0x6FC || within 0x700 0x704
      || within 0x900 0xAFC || within 0xB00 0xB04
  | .link _ => within 0x040 0x058 || within 0x060 0x088 || within 0x090 0x0AC || within 0x0C0 0x0DC || within 0x100 0x10C
  | .eth _ => within 0x040 0x064 || (18 :: ethIds).any fun i => decide (off = Config.regOffset i)
  | .can _ => decide (off = 0x040) || (0 :: canIds).any fun i => decide (off = Config.regOffset i)
  | .uart _ => decide (off = 0x040) || [1, 2, 3, 4, 23, 24, 25, 26].any fun i => decide (off = Config.regOffset i)
  | .pcie => decide (off = 0x040) || decide (off = 0x050) || ([32, 33, 34] ++ (List.range 13).map (5 + ·)).any fun i => decide (off = Config.regOffset i)
  | .xspi | .i2c _ => decide (off = 0x040)
  | .coveMem _ => within 0x040 0x048 || within 0x050 0x05C || within 0x070 0x078
  | .redundancy _ => within 0x040 0x06C
  | .core _ => within 0x040 0x058 || within 0x080 0x09C || within 0x100 0x1A4
  | .event _ => within 0x040 0x044

/-- A store to a block register of a page (R332): by the page's owner, or by tenant 0 where the chapter reserves it. -/
def State.blockStore (s : State) (who : Agent) (page off : Nat) (v : Word) : State :=
  let own := s.ifOwner who page
  let headland := s.ifHeadland who page
  match pageKind page with
  | .features | .mesh | .cave | .tide | .none => own id
  | .memc c => own fun t =>
    if off = Config.regOffset 22 then { t with memCtl := t.memCtl.put c { t.memc c with scrubCtrl := v &&& 0xFFFF0001#32 } } else t
  | .tenants => own fun t => t.tenPageWrite off v
  | .power =>
    if off = 0x080 then headland fun t => t.sysReset v
    else s.powerWrite who fun t => t.powerPageWrite off v
  | .aon => headland fun t => t.aonPageWrite off v
  | .inj => own fun t => t.injPageWrite who off v
  | .debug => headland fun t => t.hykEnPut v
  | .churn => if off = 0x0C0 then s.churnPageWrite who off v else own fun t => t.churnPageWrite who off v
  | .evc => own fun t => t.evcPageWrite who off v
  | .link l => if off = 0x084 then s.linkPageWrite who l off v else own fun t => t.linkPageWrite who l off v
  | .eth p =>
    if off = 0x040 then headland fun t => t.modEth p fun e => { e with stamp := v &&& stampMask }
    else own fun t => t.ethPageWrite p off v
  | .can c =>
    if off = 0x040 then headland fun t => t.modCan c fun e => { e with stamp := v &&& stampMask }
    else own fun t => t.modCan c fun e => { e with
      autorec := decide (storedField off 0 1 v e.autorec.toNat = 1), setup := setupWrite e.setup canIds off v }
  | .uart u =>
    if off = 0x040 then headland fun t => t.modUart u fun e => { e with stamp := v &&& stampMask }
    else own fun t => t.modUart u fun e => e.write off v
  | .pcie =>
    if off = 0x040 then headland fun t => { t with pcie := { t.pcie with stamp := v &&& stampMask } }
    else own fun t => { t with pcie := t.pcie.write off v }
  | .xspi => headland fun t => { t with xspi := { t.xspi with stamp := v &&& stampMask } }
  | .i2c i => headland fun t => t.modI2c i fun e => { e with stamp := v &&& stampMask }
  | .coveMem n =>
    own fun t => if off = 0x040 then t.modCove n fun c => { c with scrubCtrl := v &&& 0xFFFF0001#32 } else t
  | .redundancy n => headland fun t => t.redWrite n off v
  | .core k =>
    s.ifLeaderPage k fun t =>
      if headlandCoreReg off then t.ifHeadland who page fun u => u.coreHeadlandWrite k off v
      else if off = 0x040 then t.ifOwner who page fun u => u.wheelStore k v
      else if off = 0x044 then t.ifOwner who page fun u => u.bankWrite k v
      else t.ifOwner who page id
  | .event k =>
    if s.isLeader k then own fun t => if off = 0x044 ∧ t.isEventSlot who k then t.done k else t else s

/-- A word store to a register page (R6, R328 to R332). A write to the power page that is not one to SYS_RESET takes back the
first half of a reset. -/
def State.pageWrite (s : State) (who : Agent) (page off : Nat) (v : Word) : State :=
  let s1 := if page = powerPage ∧ off ≠ 0x080 then { s with power := { s.power with resetKey := false } } else s
  let s2 := if page = injPage ∧ off ≠ 0x040 then s1.injTouch who else s1
  let s2 := if (page = 0 ∧ off = 0x018) ∨ (page = tenPage ∧ off = 0x058) then s2.class0 who sysPort
    else match pageKind page with
      | .redundancy n => if off = 0x044 then s2.class0 who (8 * n) else s2
      | _ => s2
  if off < 0x040 then s2.headerStore who page off v
  else if off < 0xC00 then if assignedOff (pageKind page) off then s2.blockStore who page off v else s2
  else s2.detStore who page off v

/-- A word store to a register without a row of its own. -/
def execRegisterWrite (who : Agent) (page : BitVec 12) (off : BitVec 12) (v : Word) (s : State) : Host.Outcome State Fault Refusal :=
  .next (s.pageWrite who page.toNat (off.toNat / 4 * 4) v)

/-- A read of a counter that clears as it is read. -/
def execCounterRcRead (who : Agent) (page : BitVec 12) (off : BitVec 12) (s : State) : Host.Outcome State Fault Refusal :=
  .next (s.pageRead who page.toNat (off.toNat / 4 * 4)).2

end Sys2Proof.Machine
end

