-- ==== Sys2Proof/Machine/Access.lean ====
section
/-! DEFINITION. Data accesses of threads: the checks of R55 in their order (TLB R158 to R167, MPU R169 to R171, the target R39,
R40, R328), what the targets do, and what the Tidemark logs or replays of them (R207, R211). -/

namespace Sys2Proof.Machine

/-! ## Replay (R211, R214) -/

/-- The position of the last of a list of records that has one. -/
def lastPosition (l : List LogRec) : Nat := (l.filterMap LogRec.position).foldl max 0

/-- A core after an invalidation that its log holds (R168). -/
def Core.relive (c : Core) (r : LogRec) : Core :=
  match r with
  | .tlbi va form ten headland _ => c.invalidate form ten va.toNat headland
  | _ => c

/-- A divergence: the replay ends, the remaining records are discarded and the group runs on (R214). An invalidation that the
cores have acknowledged is applied all the same (log entry 48). -/
def State.diverge (s : State) (k : Nat) : State :=
  let t := (s.core k).tm
  let rest := t.values ++ t.releases ++ t.inputs
  let kept := t.log.filter fun r => !rest.contains r
  let s1 := s.modCore k fun c => t.inputs.foldl Core.relive { c with tm := { t with
    st := .run, diverge := satInc t.diverge, log := kept, lastPos := lastPosition kept
    issues := t.issues.filter fun e => decide (e.1 < t.pos)
    goal := 0, values := [], releases := [], inputs := [], replayIssues := [], restored := [], undone := [] } }
  (((s1.raiseN (tidemarkSource (k / 8))).undertowSend 3 evcPort).endTrial k).releaseHeld k

/-- The next logged response of a slot, and the list without it. -/
def nextValue (sl : Nat) : List LogRec → Option ((Word × Tag × Nat) × List LogRec)
  | [] => none
  | .value v t code second slot pos :: r =>
    if slot = sl then some ((v, t, code), r)
    else (nextValue sl r).map fun q => (q.1, .value v t code second slot pos :: q.2)
  | x :: r => (nextValue sl r).map fun q => (q.1, x :: q.2)

/-- The next VALUE of a slot, if its group replays (R211). -/
def State.takeValue (s : State) (k : Nat) (sl : Fin 8) : Option ((Word × Tag × Nat) × State) :=
  if s.replaying k then
    (nextValue sl.val (s.core k).tm.values).map fun q =>
      (q.1, s.modCore k fun c => { c with tm := { c.tm with values := q.2 } })
  else none

/-- The kind, in a digest, of a request that takes no store along (R203, R207). -/
def readKind : Nat := 12

/-- A response from outside the group's private region: live and logged, or from the log in replay (R207, R211). The code is 0
where there is no fault. -/
def State.respond (s : State) (k : Nat) (sl : Fin 8) (second : Bool) (live : State → Except Nat (Word × Tag) × State) :
    Except Nat (Word × Tag) × State :=
  match s.takeValue k sl with
  | some ((v, t, code), s1) => (if code = 0 then .ok (v, t) else .error code, s1)
  | none =>
    match live s with
    | (.ok (v, t), s1) => (.ok (v, t), s1.logValue k sl v t 0 second)
    | (.error e, s1) => (.error e, s1.logValue k sl 0 .written e second)

/-- An output of a group: released with its digest, or in replay suppressed where the digest is the next one of the log, else a
divergence (R207, R211, R214). -/
def State.emit (s : State) (k kind pa be : Nat) (data : List Word) (act : State → State) : State :=
  if s.replaying k then
    match (s.core k).tm.releases with
    | .release d _ :: rest =>
      if d = Config.releaseDigest kind pa be data then
        s.modCore k fun c => { c with tm := { c.tm with releases := rest } }
      else act ((s.diverge k).logRelease k kind pa be data)
    | _ => act ((s.diverge k).logRelease k kind pa be data)
  else act (s.logRelease k kind pa be data)

/-- A read request with what it asks, as it leaves the group: its digest is logged, or in replay compared (R203, R204, R207). -/
def State.asks (s : State) (k : Nat) (n : Nat) (data : List Word) : State := s.emit k readKind n 0xF data id

/-- Replay has passed one original store of each of some words (R213): `restored` lists a word once for each store that it still
has to pass, so that no other agent sees an earlier one's value (R64). -/
def State.passWords (s : State) (k : Nat) (pas : List Nat) : State :=
  s.modCore k fun c => { c with tm := { c.tm with
    restored := pas.foldl (fun l p => l.erase (sramOff p / 4)) c.tm.restored } }

/-- A store of a group: undone by the log inside its private region, an output outside it (R207). -/
def State.outStore (s : State) (k kind pa be : Nat) (data : List Word) (act : State → State) : State :=
  if s.inPrivate k pa then (act (s.logStore k pa be data)).passWords k (s.storedWords pa (decide (data.length = 2)))
  else s.emit k kind pa be data act

/-- Another group replays toward the original store of a word, so an access to it waits (R64, R213). -/
def State.heldBack (s : State) (k pa : Nat) : Bool :=
  s.awaited (some k) pa

/-! ## Who accesses, and faults -/

/-- The context on whose behalf an access is made: its thread, its TENANT.CUR and whether it is in user mode. -/
structure Issuer where
  core : Fin 128
  slot : Fin 8
  cur : TenantId
  user : Bool
deriving DecidableEq, Repr

/-- The issuer of a thread's context. -/
def issuerOf (th : ThreadId) (x : Ctx) : Issuer := { core := th.core, slot := th.slot, cur := x.cur, user := !x.ts.m }

/-- The requester as packets carry it (R241). -/
def Issuer.agent (i : Issuer) : Agent := { ten := i.cur, core := i.core, slot := i.slot }

/-- log2 of an access size. -/
def sizeLog (n : Nat) : Nat := if n = 1 then 0 else if n = 2 then 1 else if n = 4 then 2 else 3

/-- The access that an operation makes: its capability register and the register's mode, displacement, size, kind, and the
capability that a capability store writes (R55, R78). -/
structure Query where
  cap : Cap
  creg : Option Nat
  am : BitVec 24
  reg : Fin 8
  disp : Int
  size : Nat
  kind : AccessKind
  val : Option Cap
  /-- A short operation makes it, which reaches no register page (R70). -/
  short : Bool := false
deriving DecidableEq, Repr

/-- A fault of a data access (R136, R140). -/
def Query.fault (q : Query) (code : Nat) (va : Option Word) (pa : Option Nat) (detail : Nat) : FaultInfo :=
  { code := code, op := 0, parcel := 0, detail := word detail, probe := true, vaddr := va
    acc := some { pa := pa, write := q.kind.store, capacc := q.kind.cap, size := sizeLog q.size, creg := q.creg } }

/-- The flash answers first. -/
def notYetFlash : Nat := 0x101

/-- PCIe answers first. -/
def notYetPcie : Nat := 0x102

/-- A fault of an operation that makes no data access. -/
def plainFault (code : Nat) (detail : Nat := 0) : FaultInfo :=
  { code := code, op := 0, parcel := 0, vaddr := none, acc := none, detail := word detail, probe := false }

/-! ## The TLB (R158 to R167) -/

/-- A TLB entry of a core. -/
def Core.tlbEntry (c : Core) (j : Nat) : TlbEntry := c.arch.tlb.get (fun _ => TlbEntry.reset) j

/-- Put a TLB entry of a core. -/
def Core.setTlb (c : Core) (j : Nat) (e : TlbEntry) : Core := { c with arch := { c.arch with tlb := c.arch.tlb.put j e } }

/-- The lowest-numbered entry that matches (R158). -/
def Core.lookup (c : Core) (cur : TenantId) (va : Nat) : Option (Nat × TlbEntry) :=
  (c.arch.tlb.cells.find? fun e => e.2.words.hits cur va)

/-- An entry matched, or was written: the victim hint's history (R162). -/
def Core.touchTlb (c : Core) (j : Nat) : Core :=
  let c1 := c.setTlb j { c.tlbEntry j with last := c.arch.tlbSeq + 1 }
  { c1 with arch := { c1.arch with tlbSeq := c.arch.tlbSeq + 1 } }

/-- Invalidate an entry. -/
def Core.killTlb (c : Core) (j : Nat) : Core := c.setTlb j { c.tlbEntry j with w2 := clearBits (c.tlbEntry j).w2 0x80000000#32 }

/-- An injection at a core's TLB detector that waits for a lookup of an entry (R340, R342). -/
def parityOf (j : Nat) (w : Word) : Bool := decide (injKind w = 1) && decide (fld w 5 0 = j)

/-- A lookup that finds an entry meets the parity error of an injection (R167, R342): a core alone treats the entry as invalid, and it
loses V. Of a group one member misses where the others hit, which its comparator or voter sees (log entry 132). -/
def State.tlbParity (s : State) (k j : Nat) : State :=
  match (s.members k).find? fun m => (s.takeInj (corePage m) 1 (parityOf j)).1.isSome with
  | none => s
  | some m =>
    let s1 := (s.takeInj (corePage m) 1 (parityOf j)).2.detect (corePage m) 1 true
    if (s.members k).length = 1 then s1.modCore k fun c => c.killTlb j else s1

/-- A TLB window is open to a tenant at an index (R161). -/
def windowOpenTo (w : Word) (t : TenantId) (j : Nat) : Bool :=
  bit w 31 && (bit w 30 || decide (fld w 27 16 = t.toNat)) && decide (fld w 5 0 ≤ j) && decide (j ≤ fld w 11 6)

/-- A TLB index is open to a tenant (R160, R161). -/
def Core.indexOpen (c : Core) (t : TenantId) (j : Nat) : Bool := decide (t = 0) || c.tlbWin.toList.any fun w => windowOpenTo w t j

/-- The victim hint for a tenant (R162). -/
def Core.hint (c : Core) (t : TenantId) : Option Nat :=
  let mine := (List.range 64).filter fun j => c.indexOpen t j
  match mine.find? fun j => !(c.tlbEntry j).words.v with
  | some j => some j
  | none =>
    (mine.filter fun j => !bit (c.tlbEntry j).w2 2).foldl (fun best j => match best with
      | none => some j
      | some b => if (c.tlbEntry j).last < (c.tlbEntry b).last then some j else some b) none

/-- DETAIL of a TLB_MISS (R162). -/
def Core.missDetail (c : Core) (t : TenantId) : Nat :=
  match c.hint t with
  | some j => 0x80 + j
  | none => 0

/-! ## The MPU (R169 to R171) -/

/-- A region matches an access of a tenant whose first byte lies at a physical address (R170). -/
def mpuMatch (base attr : Word) (cur : TenantId) (pa : Nat) : Bool :=
  let z := min (max (fld attr 29 24) 8) 40
  bit attr 31 && decide (pa / 2 ^ z = base.toNat * 256 / 2 ^ z) && !bit attr (16 + pa % 2 ^ z / 2 ^ (z - 3))
    && (bit attr 30 || decide (fld attr 15 4 = cur.toNat))

/-- A region's rights permit an access of a mode. -/
def mpuPermits (attr : Word) (user load store : Bool) : Bool :=
  if user then (!load || bit attr 3) && (!store || bit attr 2) else (!load || bit attr 1) && (!store || bit attr 0)

/-- The judgement of the MPU: none where it permits, else DETAIL (R162, R170). -/
def Core.mpu (c : Core) (i : Issuer) (pa : Nat) (load store : Bool) : Option Nat :=
  match (List.range 16).reverse.find? fun n => mpuMatch (c.mpuBase.toList.getD n 0) (c.mpuAttr.toList.getD n 0) i.cur pa with
  | some n => if mpuPermits (c.mpuAttr.toList.getD n 0) i.user load store then none else some n
  | none => if i.user then some 0x10 else none

/-- How an access of a core reaches external memory under an entry: DEV makes it uncached (R159). -/
def EntryWords.route (e : EntryWords) : Route := if bit e.w2 3 && !bit e.w2 4 then .cached else .uncached

/-- The physical address that the parcel at hand was given for a virtual one before it went outside, where its answer has come since
(R165). -/
def State.givenPlace (s : State) (i : Issuer) (va : Nat) : Option Place :=
  (((s.core i.core).slot i.slot).given.find? fun e => decide (e.1 = word va)).map fun e =>
    { va := va, pa := e.2, lenient := false, route := .uncached, dev := true }

/-- Steps 2a to 4 of R55 at a virtual address. Of several entries that match, the one used counts as matched for the victim hint
(R162; log entry 131). -/
def State.translate (s : State) (i : Issuer) (q : Query) (va : Nat) : Except FaultInfo Place × State :=
  let s1 := match (s.core i.core).lookup i.cur va with
    | some (j, _) => s.tlbParity i.core j
    | none => s
  let c := s1.core i.core
  let vw := some (word va)
  match s.givenPlace i va with
  | some p => (.ok p, s)
  | none =>
  match c.lookup i.cur va with
  | none => (.error (q.fault fTLB_MISS vw none (c.missDetail i.cur)), s1)
  | some (j, e) =>
    let s2 := s1.modCore i.core fun c => c.touchTlb j
    let pa := e.words.pa va
    match e.words.permit q.kind.load q.kind.store with
    | .error code => (.error (q.fault code vw (some pa) j), s2)
    | .ok _ =>
      match c.mpu i pa q.kind.load q.kind.store with
      | some d => (.error (q.fault fMPU vw (some pa) d), s2)
      | none => (.ok { va := va, pa := pa, lenient := e.words.lenient, route := e.words.route, dev := bit e.words.w2 4 }, s2)

/-- A fault of an access at its place. -/
def Query.at_ (q : Query) (p : Place) (code : Nat) : FaultInfo := q.fault code (some (word p.va)) (some p.pa) 0

/-- No short operation reaches a register page: its access there ends in a bus error (R70; log entry 122). -/
def Query.shut (q : Query) (pa : Nat) : Bool :=
  q.short && (match region pa with
    | .page _ => true
    | _ => false)

/-- Steps 1a to 4 of R55. -/
def State.locate (s : State) (i : Issuer) (q : Query) : Except FaultInfo Place × State :=
  match capCheck q.cap q.kind q.val with
  | .error code => (.error (q.fault code none none 0), s)
  | .ok _ =>
    match formAddress q.am q.reg q.cap q.disp q.size with
    | .error (code, va) => (.error (q.fault code va none 0), s)
    | .ok va =>
      match s.translate i q va with
      | (.ok p, s1) => if q.shut p.pa then (.error (q.at_ p fBUS_ERROR), s1) else (.ok p, s1)
      | (.error f, s1) => (.error f, s1)

/-! ## Targets (step 5 of R55) -/

/-- A target that only the map decides on: nothing answers there, or it takes no store, or not one of this shape (R39, R40,
R87, R291, R312, R328; log entry 117). `word` says that the store is one aligned data word, `tagged` that it stores a tagged capability. -/
def State.storeRefused (s : State) (pa : Nat) (word tagged : Bool) : Bool :=
  match region pa with
  | .ext => decide (extExtent ≤ pa)
  | .sram _ | .churn => false
  | .cave => !caveOpen pa
  | .bootRom | .xspi | .nowhere => true
  | .pcie => tagged || !s.pcie.up || !s.ifaceOn 38
  | .page p => !word || !pageAssigned p

/-- A core access to a pool cell from a tenant other than 0 (R249). -/
def State.poolBarred (s : State) (i : Issuer) (pa : Nat) : Bool :=
  decide (region pa = .churn) && s.inPool pa && decide (i.cur ≠ 0)

/-- Bytes of a word from a lane on: size 1, 2 or 4. -/
def lane (w : Word) (pa size : Nat) : Word := word (w.toNat / 2 ^ (8 * (pa % 4)) % 2 ^ (8 * size))

/-- An access that leaves the device, at its target: the answer that has come, else the reason why there is none yet, else that
nothing answers there (R290 to R292). -/
def State.outsideLoad (s : State) (i : Issuer) (pcie : Bool) (p : Place) (size : Nat) : Except Nat (Word × Tag) × State :=
  match ((s.core i.core).slot i.slot).answers with
  | a :: r =>
    let s1 := s.modSlot i.core i.slot fun x => { x with answers := r }
    (match a with
      | .data v => .ok (lane v p.pa size, .written)
      | .poisoned => .error fPOISONED_READ
      | .error => .error fBUS_ERROR, s1)
  | [] =>
    let there := if pcie then s.pcie.up && s.ifaceOn 38 else !s.xspiBusy
    (.error (if !there then fBUS_ERROR else if pcie then notYetPcie else notYetFlash), s)

/-- A load of at most a word by its target: the value and its tag, or the fault's code. -/
def State.targetLoad (s : State) (i : Issuer) (p : Place) (size : Nat) : Except Nat (Word × Tag) × State :=
  let a := p.pa / 4 * 4
  match region p.pa with
  | .page n =>
    if size = 4 ∧ pageAssigned n then
      let (w, s1) := s.pageRead i.agent n (p.pa % 0x1000)
      (.ok (w, .written), s1)
    else (.error fBUS_ERROR, s)
  | .bootRom => (.ok (lane (Config.bootRom ((a - 0xE300000000) / 4)) p.pa size, .written), s)
  | .xspi => s.outsideLoad i false p size
  | .pcie => s.outsideLoad i true p size
  | .nowhere => (.error fBUS_ERROR, s)
  | _ =>
    let n := i.core.val / 8
    if !(s.taggedTarget p.pa || s.cacheHit n p) || s.poolBarred i p.pa then (.error fBUS_ERROR, s)
    else
      match s.memLoad n p i.cur with
      | (.error e, s1) => (.error e, s1)
      | (.ok (w, t), s1) => (.ok (lane w p.pa size, t), s1)

/-- A load by a group: from its private region, or a logged response (R207). -/
def State.groupLoad (s : State) (i : Issuer) (p : Place) (size : Nat) (second : Bool) : Except Nat (Word × Tag) × State :=
  if s.inPrivate i.core p.pa then s.targetLoad i p size
  else (if second then s else s.asks i.core p.pa [word size]).respond i.core i.slot second fun t =>
    (if region p.pa = .sram (i.core / 8) ∨ t.cacheHit (i.core.val / 8) p then t else t.flit).targetLoad i p size

/-! ## Loads -/

/-- A data load of 1, 2 or 4 bytes (R55, R87). -/
def State.dataLoad (s : State) (i : Issuer) (q : Query) : Except FaultInfo Word × State :=
  match s.locate i q with
  | (.error f, s1) => (.error f, s1)
  | (.ok p, s1) =>
    if s1.heldBack i.core p.pa then (.error (plainFault notYet), s1)
    else
      match s1.groupLoad i p q.size false with
      | (.ok (w, _), s2) => (.ok w, s2)
      | (.error e, s2) => (.error (q.at_ p e), s2)

/-- The worse of the errors of a capability's two words: an answer that is still to come, then Poisoned before Unwritten (R45). -/
def worseOf (e f : Nat) : Nat :=
  if notYet ≤ e then e else if notYet ≤ f then f else if e = fPOISONED_READ ∨ f = fPOISONED_READ then fPOISONED_READ else e

/-- A capability load at a place: from an untagged target its two words untagged (R40); both words are checked (R45), and it is
tagged only if both carry Capability (R16). -/
def State.capFrom (s : State) (i : Issuer) (p : Place) : Except Nat Cap × State :=
  match region p.pa with
  | .page _ => (.error fBUS_ERROR, s)
  | _ =>
    let (a, s1) := s.groupLoad i p 4 false
    let (b, s2) := s1.groupLoad i p.next 4 true
    (match a, b with
      | .ok (x, tx), .ok (y, ty) => .ok { w0 := x, w1 := y, tag := decide (tx = .capability) && decide (ty = .capability) }
      | .error e, .ok _ => .error e
      | .ok _, .error e => .error e
      | .error e, .error f => .error (worseOf e f), s2)

/-- A capability load (R55, R98). -/
def State.capLoad (s : State) (i : Issuer) (q : Query) : Except FaultInfo Cap × State :=
  match s.locate i q with
  | (.error f, s1) => (.error f, s1)
  | (.ok p, s1) =>
    if s1.heldBack i.core p.pa || s1.heldBack i.core (p.pa + 4) then (.error (plainFault notYet), s1)
    else
      match s1.capFrom i p with
      | (.ok c, s2) => (.ok c, s2)
      | (.error e, s2) => (.error (q.at_ p e), s2)

/-! ## Stores -/

/-- A write of a group that its cove refuses as foreign (R208), or that an injection makes count as one (R342): whether, and by
injection. -/
def State.foreignWrite (s : State) (k pa : Nat) : (Bool × Bool) × State :=
  match region pa with
  | .sram n =>
    let grp := (groupOf (s.cove (k / 8)).mode (k % 8)).getD 0
    match s.takeInj (covePage n) 3 (fun w => decide (injKind w = 1) && decide (fld w 2 0 = grp) && decide (n = k / 8)) with
    | (some _, s1) => ((true, true), s1)
    | (none, s1) => ((s1.foreignPrivate (some k) pa, false), s1)
  | _ => ((false, false), s)

/-- What a target will make of a posted store (R87, R208, R249, R305); a store into a line that the cluster cache holds reaches no
controller. -/
def State.postedKind (s : State) (i : Issuer) (p : Place) : (PostedKind × Bool) × State :=
  let pa := p.pa
  match region pa with
  | .ext =>
    if s.cacheHit (i.core.val / 8) p then ((.accepted, false), s) else
    let page := 0x018 + memChannel pa
    match s.takeInj page 2 (fun w => decide (injKind w = 1)) with
    | (some _, s1) => ((.lost, true), s1)
    | (none, s1) => ((if (s1.gate 44).st = .on then (if s1.extUp then .accepted else .refused) else .lost, false), s1)
  | .sram _ =>
    let ((f, inj), s1) := s.foreignWrite i.core pa
    ((if f then .privRegion else .accepted, inj), s1)
  | .churn => ((if s.poolBarred i pa then .refused else .accepted, false), s)
  | .pcie => ((.outside, false), s)
  | _ => ((.accepted, false), s)

/-- A posted store's queue entry (R129). -/
def State.post (s : State) (i : Issuer) (p : Place) (kind : PostedKind) (inj : Bool) (data : List Word) : State :=
  s.modCore i.core fun c => { c with posted := c.posted ++ [{ pa := p.pa, kind := kind, inj := inj, slot := i.slot, dev := p.dev
                                                              data := if kind = .outside then data else [] }] }

/-- The PCIe address of an outbound access (R290). -/
def State.pcieAddr (s : State) (pa : Nat) : Nat := s.pcie.ob.toNat * 2 ^ 32 + (pa - 0xE800000000)

/-- A word store as its target performs it. -/
def State.targetStore (s : State) (i : Issuer) (p : Place) (w : Word) : State :=
  match region p.pa with
  | .page n => s.pageWrite i.agent n (p.pa % 0x1000) w
  | .pcie => s.tlpWrite (s.pcieAddr p.pa) (leBytes 4 w.toNat)
  | _ => s.memStore (i.core.val / 8) p w

/-- A capability store as its target performs it: two word stores where the target has no tags (R40). -/
def State.targetCap (s : State) (i : Issuer) (p : Place) (c : Cap) : State :=
  if (region p.pa).tagged then s.memCap (i.core.val / 8) p c else (s.targetStore i p c.w0).targetStore i p.next c.w1

/-- The posted-store queue of a core is full (R129). -/
def Core.postedFull (c : Core) : Bool := decide (8 ≤ c.posted.length)

/-- A posted store at its place: refused, waiting, or released and queued (R55, R87). One that replay suppresses has left the group
already (R211). -/
def State.postedPut (s : State) (i : Issuer) (q : Query) (p : Place) (data : List Word) (tagged : Bool) (act : State → State) :
    Except FaultInfo Unit × State :=
  let two := decide (data.length = 2)
  if s.storeRefused p.pa (!two) tagged then (.error (q.at_ p fBUS_ERROR), s)
  else if s.heldBack i.core p.pa || (two && s.heldBack i.core (p.pa + 4)) || (s.core i.core).postedFull then
    (.error (plainFault notYet), s)
  else
    let ((kind, inj), s1) := s.postedKind i p
    (.ok (), s1.outStore i.core (if two then 2 else 1) p.pa (if two then 0xFF else 0xF) data fun t =>
      (if kind = .accepted then act t else t).post i p kind inj data)

/-- A word store, posted (R55, R87). -/
def State.wordStore (s : State) (i : Issuer) (q : Query) (w : Word) : Except FaultInfo Unit × State :=
  match s.locate i q with
  | (.error f, s1) => (.error f, s1)
  | (.ok p, s1) => s1.postedPut i q p [w] false fun t => t.targetStore i p w

/-- A capability store, posted (R20, R40, R55, R87). -/
def State.capStore (s : State) (i : Issuer) (q : Query) (c : Cap) : Except FaultInfo Unit × State :=
  match s.locate i q with
  | (.error f, s1) => (.error f, s1)
  | (.ok p, s1) => s1.postedPut i q p [c.w0, c.w1] c.tag fun t => t.targetCap i p c

/-- A byte or half-word merged into its word (R44). -/
def mergeLane (old v : Word) (pa size : Nat) : Word :=
  let sh := 8 * (pa % 4)
  let m := 2 ^ (8 * size) - 1
  word (old.toNat - old.toNat / 2 ^ sh % (m + 1) * 2 ^ sh + v.toNat % (m + 1) * 2 ^ sh)

/-- The merge of a sub-word store at a tagged target (R44, R49), or the fault's code. -/
def State.mergeStore (s : State) (n : Nat) (p : Place) (size : Nat) (v : Word) : Except Nat Unit × State :=
  let ((old, t), s1) := s.peek n p
  let a := { p with pa := p.pa / 4 * 4 }
  match t with
  | .poisoned => (.error fPOISONED_READ, s1)
  | .unwritten => (.ok (), s1.memStore n a (mergeLane 0 v p.pa size))
  | _ => (.ok (), s1.memStore n a (mergeLane old v p.pa size))

/-- What a waited store to a target comes to: 0, or the fault's code (R39, R40, R208, R249, R305). -/
def State.waitedBar (s : State) (i : Issuer) (p : Place) : Option Nat × State :=
  let pa := p.pa
  match region pa with
  | .sram n =>
    let ((f, inj), s1) := s.foreignWrite i.core pa
    if f then (some fBUS_ERROR, if inj then s1.detect (covePage n) 3 true else s1) else (none, s1)
  | _ => (if (s.taggedTarget pa || s.cacheHit (i.core.val / 8) p) && !s.poolBarred i pa then none else some fBUS_ERROR, s)

/-- A byte or half-word store performed by its target. -/
def State.targetMerge (s : State) (i : Issuer) (p : Place) (size : Nat) (v : Word) : Except Nat (Word × Tag) × State :=
  if region p.pa = .pcie then
    (.ok (0, .written), s.tlpWrite (s.pcieAddr p.pa) (leBytes size v.toNat))
  else
    match s.waitedBar i p with
    | (some e, s1) => (.error e, s1)
    | (none, s1) =>
      match s1.mergeStore (i.core.val / 8) p size v with
      | (.ok _, s2) => (.ok (0, .written), s2)
      | (.error e, s2) => (.error e, s2)

/-- A byte or half-word store: it waits for its response (R44, R87). -/
def State.subStore (s : State) (i : Issuer) (q : Query) (v : Word) : Except FaultInfo Unit × State :=
  match s.locate i q with
  | (.error f, s1) => (.error f, s1)
  | (.ok p, s1) =>
    if s1.storeRefused p.pa false false then (.error (q.at_ p fBUS_ERROR), s1)
    else if s1.heldBack i.core p.pa then (.error (plainFault notYet), s1)
    else if s1.inPrivate i.core p.pa then
      match s1.targetMerge i p q.size v with
      | (.error e, s2) => (.error (q.at_ p e), s2)
      | (.ok _, _) => (.ok (), s1.outStore i.core 3 p.pa (2 ^ q.size - 1) [v] fun t => (t.targetMerge i p q.size v).2)
    else
      let s2 := s1.emit i.core 3 p.pa (2 ^ q.size - 1) [v] id
      match s2.respond i.core i.slot false fun t => t.targetMerge i p q.size v with
      | (.ok _, s3) => (.ok (), s3)
      | (.error e, s3) => (.error (q.at_ p e), s3)

/-! ## Atomics (R61, R99) -/

/-- A target that takes CAS and AMO.ADD (R39). -/
def Region.atomic : Region → Bool
  | .ext | .sram _ | .churn => true
  | _ => false

/-- An atomic as its target performs it: the old value, and the new one where there is one. In external memory it is performed at
the memory controller, past the cluster cache, whose line is written back and invalidated first (R61). -/
def State.targetAtomic (s : State) (i : Issuer) (p : Place) (f : Word → Option Word) : Except Nat (Word × Tag) × State :=
  let n := i.core.val / 8
  let o : Place := { p with route := .uncached }
  match s.waitedBar i o with
  | (some e, s1) => (.error e, s1)
  | (none, s1) =>
    match s1.memLoad n o i.cur with
    | (.error e, s2) => (.error e, s2)
    | (.ok (w, _), s2) =>
      (.ok (w, .written), match f w with
        | some v => s2.memStore n o v
        | none => s2)

/-- An atomic on one word: its old value. -/
def State.atomic (s : State) (i : Issuer) (q : Query) (data : List Word) (f : Word → Option Word) : Except FaultInfo Word × State :=
  match s.locate i q with
  | (.error e, s1) => (.error e, s1)
  | (.ok p, s1) =>
    if !(region p.pa).atomic || !s1.taggedTarget p.pa then (.error (q.at_ p fBUS_ERROR), s1)
    else if s1.heldBack i.core p.pa then (.error (plainFault notYet), s1)
    else if s1.inPrivate i.core p.pa then
      match s1.targetAtomic i p f with
      | (.error e, s2) => (.error (q.at_ p e), s2)
      | (.ok (w, _), s2) =>
        if (f w).isSome then (.ok w, s1.outStore i.core 4 p.pa 0xF [w] fun t => (t.targetAtomic i p f).2) else (.ok w, s2)
    else
      let s2 := s1.emit i.core 4 p.pa 0xF data id
      match s2.respond i.core i.slot false fun t => t.targetAtomic i p f with
      | (.ok (w, _), s3) => (.ok w, s3)
      | (.error e, s3) => (.error (q.at_ p e), s3)

/-! ## Posted stores leave the queue (R87, R129) -/

/-- The page that serves a target and its detector for a posted store's error (R87). -/
def servingPage (pa : Nat) : Option Nat :=
  match region pa with
  | .sram n => some (covePage n)
  | .churn => some 0x008
  | .cave => some 0x007
  | .ext => some (0x018 + memChannel pa)
  | .pcie => some 0x040
  | .page p => some p
  | _ => none

/-- The error of a posted store, counted by the page that serves its target (R87, R208, R290, R305). -/
def State.postedError (s : State) (x : Posted) : State :=
  match servingPage x.pa with
  | some page =>
    let d := match x.kind with
      | .privRegion => 3
      | .lost => 2
      | _ => 0
    let s1 := s.detect page d x.inj
    if region x.pa = .pcie then s1.raiseN 307 else s1
  | none => s

/-- A target reports an error for the oldest posted store of a core; a write that left for PCIe may be lost on the way. -/
def execPostedStoreError (core : Fin 128) (s : State) : Host.Outcome State Fault Refusal :=
  match (s.core core).posted with
  | [] => .next s
  | x :: r =>
    if x.kind = .accepted then .next s
    else .next ((s.modCore core fun c => { c with posted := r }).postedError x)

/-- Words written out to PCIe at rising addresses (R290). -/
def State.pcieWrites (s : State) (pa : Nat) : List Word → State
  | [] => s
  | w :: r => (s.tlpWrite (s.pcieAddr pa) (leBytes 4 w.toNat)).pcieWrites (pa + 4) r

/-- The oldest posted store of a core is accepted by its target, or goes out to PCIe (R87, R129). The spec does not order stores to
different targets as they leave the queue: here they leave in the order of issue (DESIGN CHOICE, safe; log entry 133). -/
def execPostedStoreDrain (core : Fin 128) (s : State) : Host.Outcome State Fault Refusal :=
  match (s.core core).posted with
  | [] => .next s
  | x :: r => .next (if x.kind = .accepted ∨ x.kind = .outside then (s.modCore core fun c => { c with posted := r }).pcieWrites x.pa x.data else s)

end Sys2Proof.Machine
end

