-- ==== Sys2Proof/Machine/Flags.lean ====
section
/-! DEFINITION. The flags of FLG (R73), the flag classes (R74), the conditions (R75), and the arithmetic that the
operations of R91 to R95 do with them. FLG holds N in bit 3, Z in bit 2, C in bit 1 and V in bit 0. -/

namespace Sys2Proof.Machine

/-- FLG made of its four flags. -/
def mkFlg (n z c v : Bool) : BitVec 4 :=
  (if n then 8#4 else 0) ||| (if z then 4#4 else 0) ||| (if c then 2#4 else 0) ||| (if v then 1#4 else 0)

/-- N of an FLG. -/
def flgN (f : BitVec 4) : Bool := f.getLsbD 3

/-- Z of an FLG. -/
def flgZ (f : BitVec 4) : Bool := f.getLsbD 2

/-- C of an FLG. -/
def flgC (f : BitVec 4) : Bool := f.getLsbD 1

/-- V of an FLG. -/
def flgV (f : BitVec 4) : Bool := f.getLsbD 0

/-- Bit 31 of a result. -/
def negBit (w : Word) : Bool := w.getLsbD 31

/-- a + b + carry, exactly, as an unsigned number. -/
def sumNat (a b : Word) (cin : Bool) : Nat := a.toNat + b.toNat + cin.toNat

/-- a + b + carry, exactly, as a signed number. -/
def sumInt (a b : Word) (cin : Bool) : Int := a.toInt + b.toInt + (cin.toNat : Int)

/-- The 32-bit result of a + b + carry. -/
def addRes (a b : Word) (cin : Bool) : Word := BitVec.ofNat 32 (sumNat a b cin)

/-- The flags of the Arithmetic class for a + b + carry: carry out, and signed overflow as the exact sum against the
result (R74). A subtraction is a + NOT b + 1, so that C is 1 when there is no borrow. -/
def addFlags (a b : Word) (cin : Bool) : BitVec 4 :=
  let r := addRes a b cin
  mkFlg (negBit r) (decide (r = 0)) (decide (2 ^ 32 ≤ sumNat a b cin)) (decide (r.toInt ≠ sumInt a b cin))

/-- The flags of the Logical class (R74). -/
def logicFlags (f : BitVec 4) (r : Word) : BitVec 4 := mkFlg (negBit r) (decide (r = 0)) (flgC f) (flgV f)

/-- The flags of the Shift class; `out` is the last bit shifted out, none for a shift of 0 (R74). -/
def shiftFlags (f : BitVec 4) (r : Word) (out : Option Bool) : BitVec 4 :=
  mkFlg (negBit r) (decide (r = 0)) (out.getD (flgC f)) (flgV f)

/-- The flags of the Multiply and MAC class (R74). -/
def mulFlags (f : BitVec 4) (r : Word) (sat : Bool) : BitVec 4 := mkFlg (negBit r) (decide (r = 0)) (flgC f) sat

/-- The flags of the Multiply and MAC class for a 64-bit accumulator: N is its bit 63, Z all 64 bits zero (R93). -/
def mulFlags64 (f : BitVec 4) (r : BitVec 64) (sat : Bool) : BitVec 4 :=
  mkFlg (r.getLsbD 63) (decide (r = 0)) (flgC f) sat

/-- The flags of the Phase class (R74). -/
def phaseFlags (f : BitVec 4) (r : Word) (c : Bool) : BitVec 4 := mkFlg (negBit r) (decide (r = 0)) c (flgV f)

/-- Whether a condition holds (R75). -/
def condHolds (f : BitVec 4) (cond : BitVec 4) : Bool :=
  match cond.toNat with
  | 0 => flgZ f
  | 1 => !flgZ f
  | 2 => flgC f
  | 3 => !flgC f
  | 4 => flgN f
  | 5 => !flgN f
  | 6 => flgV f
  | 7 => !flgV f
  | 8 => flgC f && !flgZ f
  | 9 => !flgC f || flgZ f
  | 10 => flgN f == flgV f
  | 11 => flgN f != flgV f
  | 12 => !flgZ f && (flgN f == flgV f)
  | 13 => flgZ f || (flgN f != flgV f)
  | 14 => true
  | _ => false

/-- A signed number clamped to a width, and whether it clamped (R93). -/
def satInt (w : Nat) (x : Int) : Int × Bool :=
  if x < -(2 ^ (w - 1)) then (-(2 ^ (w - 1)), true)
  else if 2 ^ (w - 1) - 1 < x then (2 ^ (w - 1) - 1, true)
  else (x, false)

/-- Shift left by an amount below 32, and the last bit out (R92). -/
def shlRes (a : Word) (n : Nat) : Word × Option Bool :=
  (a <<< n, if n = 0 then none else some (a.getLsbD (32 - n)))

/-- Logical shift right (R92). -/
def shrRes (a : Word) (n : Nat) : Word × Option Bool :=
  (a >>> n, if n = 0 then none else some (a.getLsbD (n - 1)))

/-- Arithmetic shift right (R92). -/
def sarRes (a : Word) (n : Nat) : Word × Option Bool :=
  (a.sshiftRight n, if n = 0 then none else some (a.getLsbD (n - 1)))

/-- Rotate right; C becomes bit 31 of the result when the amount is not 0 (R92). -/
def rorRes (a : Word) (n : Nat) : Word × Option Bool :=
  let r := a.rotateRight n
  (r, if n = 0 then none else some (negBit r))

/-- The signed product of two words, exactly. -/
def mulInt (a b : Word) : Int := a.toInt * b.toInt

/-- (a × b) >> 30, an arithmetic shift of the exact product (R93). -/
def mulQ30 (a b : Word) : Int := floorDiv (mulInt a b) (2 ^ 30)

/-- The floor of the square root. -/
def isqrt (n : Nat) : Nat :=
  (List.range 33).reverse.foldl (fun r i => if (r + 2 ^ i) * (r + 2 ^ i) ≤ n then r + 2 ^ i else r) 0

/-- Signed division rounded toward zero; the one overflow gives 0x8000_0000 (R94). -/
def divRes (a b : Word) : Word := BitVec.ofInt 32 (Int.tdiv a.toInt b.toInt)

/-- Signed remainder with the sign of a; 0 for the one overflow (R94). -/
def remRes (a b : Word) : Word := BitVec.ofInt 32 (Int.tmod a.toInt b.toInt)

/-- SQRT.Q: floor of √(a × 2^30); 0 for a negative value (R94). -/
def sqrtQRes (a : Word) : Word := if a.toInt < 0 then 0 else word (isqrt (a.toNat * 2 ^ 30))

end Sys2Proof.Machine
end

