-- ==== Sys2Proof/Machine/Traps.lean ====
section
/-! DEFINITION. Entering a handler (R135 to R140), escalation and the lost core (R150 to R153), and how an operation that a
thread issues ends (R65, R72, R143). -/

namespace Sys2Proof.Machine

/-! ## The device's own reads (R137, R145) -/

/-- A capability access of the device through a register that has no number, at an offset from its cursor. -/
def devQuery (c : Cap) (off : Int) : Query :=
  { cap := c, creg := none, am := 0, reg := 0, disp := off, size := 8, kind := { load := true, store := false, cap := true }, val := none }

/-- A list of capabilities read through a capability, at offsets from its cursor, in order (R137, R138). -/
def State.readCaps (s : State) (i : Issuer) (c : Cap) : List Int → Except FaultInfo (List Cap) × State
  | [] => (.ok [], s)
  | o :: r =>
    match s.capLoad i (devQuery c o) with
    | (.error f, s1) => (.error f, s1)
    | (.ok x, s1) =>
      match s1.readCaps i c r with
      | (.error f, s2) => (.error f, s2)
      | (.ok l, s2) => (.ok (x :: l), s2)

/-- A byte offset of the thread's own cove's SRAM, as the device accesses it through a physical stack capability (R145). -/
def ownPlace (k off : Nat) : Place := { va := off, pa := coveBase (k / 8) + off, lenient := false, route := .uncached, dev := false }

/-- Capabilities read at byte offsets of the own cove's SRAM: the code of the first failing one, or that one must wait. -/
def State.ownCaps (s : State) (i : Issuer) : List Nat → Except Nat (List Cap) × State
  | [] => (.ok [], s)
  | o :: r =>
    let p := ownPlace i.core o
    if s.heldBack i.core p.pa || s.heldBack i.core (p.pa + 4) then (.error notYet, s)
    else
      match s.capFrom i p with
      | (.error e, s1) => (.error e, s1)
      | (.ok x, s1) =>
        match s1.ownCaps i r with
        | (.error e, s2) => (.error e, s2)
        | (.ok l, s2) => (.ok (x :: l), s2)

/-- Words read at byte offsets of the own cove's SRAM. -/
def State.ownWords (s : State) (i : Issuer) : List Nat → Except Nat (List Word) × State
  | [] => (.ok [], s)
  | o :: r =>
    let p := ownPlace i.core o
    if s.heldBack i.core p.pa then (.error notYet, s)
    else
      match s.groupLoad i p 4 false with
      | (.error e, s1) => (.error e, s1)
      | (.ok (x, _), s1) =>
        match s1.ownWords i r with
        | (.error e, s2) => (.error e, s2)
        | (.ok l, s2) => (.ok (x :: l), s2)

/-- A device store that no core waits for: performed, or its target's error counted at once (R87, R138). -/
def State.deviceStore (s : State) (i : Issuer) (p : Place) (kind be : Nat) (data : List Word) (act : State → State) : State :=
  let ((pk, inj), s1) := s.postedKind i p
  if pk = .accepted ∨ pk = .outside then s1.outStore i.core kind p.pa be data act
  else (s1.outStore i.core kind p.pa be data id).postedError { pa := p.pa, kind := pk, inj := inj, slot := i.slot, dev := p.dev, data := [] }

/-- Words stored at places, one by one. -/
def State.deviceWords (s : State) (i : Issuer) : List (Place × Word) → State
  | [] => s
  | (p, w) :: r => (s.deviceStore i p 1 0xF [w] fun t => t.targetStore i p w).deviceWords i r

/-- Capabilities stored at places, one by one, without the G rule (R145). -/
def State.deviceCaps (s : State) (i : Issuer) : List (Place × Cap) → State
  | [] => s
  | (p, c) :: r => (s.deviceStore i p 2 0xFF [c.w0, c.w1] fun t => t.targetCap i p c).deviceCaps i r

/-! ## The entry record (R136) -/

/-- A part of a word that the spec gives no value, or its value. -/
def State.orFree (s : State) (v : Option Word) : Word × State :=
  match v with
  | some w => (w, s)
  | none => s.drawWord

/-- Word 4 of the record but PVALID: free where no data access took part, CREG where it used no capability register (log
entry 40). -/
def State.accessWord (s : State) (a : Option AccInfo) : Word × State :=
  match a with
  | none =>
    let (w, s1) := s.drawWord
    (w &&& 0x7F0000FF#32, s1)
  | some x =>
    let (w, s1) := s.orFree (x.creg.map word)
    let (h, s2) := s1.orFree (x.pa.map fun p => word (p / 2 ^ 32))
    (flagAt x.pa.isSome 31 ||| flagAt x.write 30 ||| flagAt x.capacc 29 ||| at_ (x.size % 4) 27 ||| at_ (fld w 2 0) 24 ||| at_ (fld h 7 0) 0, s2)

/-- The 16 words of an entry record (R136): kind, TRAPNO, CODE2, the fault and the interrupted context. -/
def State.recordOf (s : State) (x : Ctx) (kind trapno code2 : Nat) (f : FaultInfo) : Vector Word 16 × State :=
  let (va, s1) := s.orFree f.vaddr
  let (lo, s2) := s1.orFree ((f.acc.bind fun a => a.pa).map word)
  let (w4, s3) := s2.accessWord f.acc
  (#v[at_ trapno 24 ||| at_ kind 22 ||| at_ (f.op % 4) 20 ||| at_ x.ts.level.toNat 18 ||| at_ (code2 % 64) 12 ||| at_ (f.code % 64) 0,
      f.parcel, va, lo, w4, x.addrmode.setWidth 32, x.ts.toWord, progWord x, tenantWord x.home x.cur, f.detail,
      0, 0, 0, 0, 0, 0], s3)

/-- A record under another KIND. -/
def withKind (r : Vector Word 16) (kind : Nat) : Vector Word 16 := r.set 0 (withFld r[0] 23 22 kind)

/-! ## Handler contexts (R135) -/

/-- ESC_STACK of a slot's context at a level: it is kept beside the banks, for its place in the image is not given (log
entry 20). -/
def Core.esc (c : Core) (sl : Fin 8) (lv : Nat) : Cap := c.arch.escs.get (fun _ => Cap.null) (3 * sl.val + lv)

/-- Put ESC_STACK of a slot's context at a level. -/
def Core.setEsc (c : Core) (sl : Fin 8) (lv : Nat) (x : Cap) : Core :=
  { c with arch := { c.arch with escs := c.arch.escs.put (3 * sl.val + lv) x } }

/-- The handler context above an interrupted one (R135); `resume` is the cursor of the resume point. WP is the thread's and is
copied with XDEPTH (log entries 96 and 124). -/
def Ctx.handler (x : Ctx) (lv : Nat) (c0 c6 pcc : Cap) (resume : Word) (r : Vector Word 16) : Ctx :=
  { d := x.d
    c := ((x.c.set 0 c0).set 6 c6).set 7 (x.pcc.withCursor resume)
    pcc := pcc, flg := x.flg, addrmode := 0, progValid := false, progDone := 0
    ts := { xdepth := x.ts.xdepth, level := BitVec.ofNat 2 lv, pcode := 0, wp := x.ts.wp, pf := false,
            h := if lv = 2 then true else x.ts.h, m := true }
    home := x.home
    cur := if lv = 2 then 0 else x.cur
    tideAuth := if lv = 2 then Cap.null else x.tideAuth
    tvec := if lv = 2 then Cap.null else x.tvec
    xstk := x.xstk, entry := Cap.null, record := r }

/-- PROG of a parcel before the one at hand is no longer valid (R143). -/
def State.freshProg (s : State) (th : ThreadId) : State :=
  if ((s.core th.core).slot th.slot).stale then
    (match s.topCtx th with
      | some x => s.setTop th { x with progValid := false }
      | none => s).modSlot th.core th.slot fun y => { y with stale := false }
  else s

/-- The new context is placed in a bank and becomes its slot's top one (R123, R135); ESC_STACK is copied. -/
def State.stackCtx (s : State) (th : ThreadId) (b : Nat) (from_ : Nat) (lv : Fin 3) (x : Ctx) : State :=
  let s1 := (s.freshProg th).placeCtx th.core b th.slot lv x
  s1.modCore th.core fun c =>
    let c1 := c.setEsc th.slot lv (c.esc th.slot from_)
    c1.setSlot th.slot { c1.slot th.slot with top := lv, buf := [], answers := [], given := [], wait := .none }

/-! ## The lost core (R153) -/

/-- A core is lost: a record with KIND 3 goes to the slot's level-2 image, and the group is lost (R153, R221). -/
def State.loseCore (s : State) (th : ThreadId) (r : Vector Word 16) : State :=
  let s1 := s.storeWords (imageAddr th.core th.slot 2 + 0xC0) (withKind r 3).toList
  s1.loseGroup th.core

/-! ## Level 2 (R150, R151) -/

/-- Another slot of the core is at level 2 (R151). -/
def Core.escalated (c : Core) (sl : Fin 8) : Bool :=
  slots8.any fun j => decide (j ≠ sl) && decide ((c.slot j).st ≠ .empty) && decide ((c.slot j).top = 2)

/-- A physical stack capability lets the device at n bytes from an offset: tagged, unsealed, with rights, and inside its bounds
and the cove's SRAM (R145). -/
def physOk (c : Cap) (off n : Int) (rights : Bool) : Bool :=
  let bd := decodeBounds c
  c.tag && !c.sealed && !c.isSpace && rights && decide (0 ≤ off) && decide (bd.base ≤ off) && decide (off + n ≤ bd.top)
    && decide (off + n ≤ 0x200000)

/-- ESC_STACK addresses a descriptor (R150). Its entries are read as capabilities, so the cursor is a multiple of 8 (R55; log entry
125). -/
def escOk (c : Cap) : Bool := physOk c c.w0.toNat 96 (c.rL && c.rLC && c.rS) && decide (c.w0.toNat % 8 = 0)

/-- The cursor of the resume point: the faulting parcel, or the parcel after a TRAP, whose record has CODE 0 (R135). -/
def resumeAt (x : Ctx) (code : Nat) : Word := if code = 0 then x.pcc.w0 + 1 else x.pcc.w0

/-- The targets take every word of a level-2 record, or the first that is refused is counted and the store of the record fails
(R153, R208). -/
def State.recordTaken (s : State) (i : Issuer) : List (Place × Word) → Bool × State
  | [] => (true, s)
  | (p, _) :: r =>
    let ((k, inj), s1) := s.postedKind i p
    if k = .accepted then s1.recordTaken i r
    else (false, s1.postedError { pa := p.pa, kind := k, inj := inj, slot := i.slot, dev := p.dev, data := [] })

/-- Entry to level 2 above the top context of a thread, which no other slot holds up (R135, R136, R150, R153); an error is the
reason why it must wait. -/
def State.enterLevel2 (s : State) (th : ThreadId) (x : Ctx) (f : FaultInfo) (trapno code2 : Nat) : Except FaultInfo State :=
  let i := issuerOf th x
  let esc := (s.core th.core).esc th.slot x.ts.level.toNat
  let o := esc.w0.toNat
  let (r, s1) := s.recordOf x 2 trapno code2 f
  if !escOk esc then .ok (s1.loseCore th r)
  else
    match s1.ownCaps i [o, o + 8, o + 16] with
    | (.error e, s2) => if notYet ≤ e then .error (plainFault e) else .ok (s2.loseCore th r)
    | (.ok l, s2) =>
      let words := r.toList.mapIdx fun n w => (ownPlace th.core (o + 0x20 + 4 * n), w)
      match s2.takeBank th.core, s2.recordTaken i words with
      | (none, _), _ => .error (plainFault notYet)
      | (some _, _), (false, s3) => .ok (s3.loseCore th r)
      | (some b, s3), _ =>
        .ok ((s3.deviceWords i words).stackCtx th b x.ts.level.toNat 2
          (x.handler 2 (l.getD 1 Cap.null) (l.getD 2 Cap.null) (l.getD 0 Cap.null) (resumeAt x f.code) r))

/-- An escalation: at once, or when the core's other one has returned (R151). -/
def State.escalate (s : State) (th : ThreadId) (x : Ctx) (f : FaultInfo) (trapno code2 : Nat) : Except FaultInfo State :=
  if (s.core th.core).escalated th.slot then
    .ok (s.modSlot th.core th.slot fun y => { y with wait := .escalate f trapno code2, answers := [], given := [] })
  else s.enterLevel2 th x f trapno code2

/-! ## Level 1 (R137 to R139) -/

/-- The places of the record's words through RECORD, steps 1a to 5 of R55 for every one before any is written (R138). R138 does not
order step 5 of a word against steps 1a to 4 of the next: the words are judged one after the other, and the first that fails gives
CODE2 (log entry 126). -/
def State.recordPlaces (s : State) (i : Issuer) (c : Cap) : List Nat → Except FaultInfo (List Place) × State
  | [] => (.ok [], s)
  | n :: r =>
    let q : Query := { devQuery c (4 * n) with size := 4, kind := { load := false, store := true, cap := false } }
    match s.locate i q with
    | (.error f, s1) => (.error f, s1)
    | (.ok p, s1) =>
      if s1.storeRefused p.pa true false then (.error (q.at_ p fBUS_ERROR), s1)
      else if s1.heldBack i.core p.pa then (.error (plainFault notYet), s1)
      else
        match s1.recordPlaces i c r with
        | (.error f, s2) => (.error f, s2)
        | (.ok l, s2) => (.ok (p :: l), s2)

/-- Entry to level 1: for a fault, or for TRAP n with its entry already read. A failed entry goes to level 2 with CODE2 naming
the failure (R135 to R138). -/
def State.enterLevel1 (s : State) (th : ThreadId) (x : Ctx) (f : FaultInfo) (trapno : Nat) (target : Option Cap) :
    Except FaultInfo State :=
  let i := issuerOf th x
  let (r, s0) := s.recordOf x (if target.isSome then 0 else 1) trapno 0 f
  match s0.readCaps i x.tvec [0, 8, 0x10, 0x18] with
  | (.error g, s1) => if notYet ≤ g.code then .error g else s1.escalate th x f trapno g.code
  | (.ok l, s1) =>
    match s1.recordPlaces i (l.getD 2 Cap.null) (List.range 16) with
    | (.error g, s2) => if notYet ≤ g.code then .error g else s2.escalate th x f trapno g.code
    | (.ok pas, s2) =>
      match s2.takeBank th.core with
      | (none, _) => .error (plainFault notYet)
      | (some b, s3) =>
        .ok ((s3.deviceWords i (pas.zip r.toList)).stackCtx th b 0 1
          (x.handler 1 (l.getD 0 Cap.null) (l.getD 1 Cap.null) (target.getD (l.getD 3 Cap.null)) (resumeAt x f.code) r))

/-- The faults that PF suppresses (R140). -/
def FaultInfo.suppressible (f : FaultInfo) : Bool :=
  f.probe && ((decide (1 ≤ f.code) && decide (f.code ≤ 0x0E)) || decide (f.code = 0x14) || decide (f.code = 0x16))

/-- A suppressed fault: PCODE and V, and the thread continues (R140). -/
def Ctx.suppressed (x : Ctx) (code : Nat) (keepProg : Bool) : Ctx :=
  { x with
    ts := { x.ts with pcode := BitVec.ofNat 6 code }, flg := x.flg ||| 1#4, pcc := x.pcc.withCursor (x.pcc.w0 + 1)
    progValid := keepProg && x.progValid }

/-- Where a fault goes by the level at which it arises (R139, R140); an error is the reason why it must wait. -/
def State.takeFault (s : State) (th : ThreadId) (f : FaultInfo) (keepProg : Bool) : Except FaultInfo State :=
  match s.topCtx th with
  | none => .ok s
  | some x =>
    if x.ts.pf && f.suppressible && decide (x.ts.level ≠ 2) then
      .ok ((s.setTop th (x.suppressed f.code keepProg)).modSlot th.core th.slot fun y => { y with stale := keepProg && x.progValid })
    else
      match x.ts.level.toNat with
      | 0 => s.enterLevel1 th x f 0 none
      | 1 => s.escalate th x f 0 0
      | _ =>
        let (r, s1) := s.recordOf x 3 0 0 f
        .ok (s1.loseCore th r)

/-- A core enters level 2 for the lowest slot that waits for it, once no other slot is there (R151), in a replay too. A thread that
RETIRE unwound while it was parked (R36) goes on at level 2, which is Headland's. -/
def execEscalationEntry (core : Fin 128) (s : State) : Host.Outcome State Fault Refusal :=
  let c := s.core core
  let pick := slots8.find? fun sl => decide ((c.slot sl).st = .active ∨ (c.slot sl).st = .parked) && (c.slot sl).awaitsLevel2
  match pick with
  | none => .next s
  | some sl =>
    if c.escalated sl || !s.executes core then .next s
    else
      let th : ThreadId := { core := core, slot := sl }
      match s.topCtx th, (c.slot sl).wait with
      | some x, .escalate f n c2 =>
        .next (match s.enterLevel2 th x f n c2 with
          | .ok t => t.unparkSlot core sl
          | .error _ => s)
      | _, _ => .next s

/-! ## How an operation ends -/

/-- How an operation ends: it completes; it sets PCC itself; it goes on at a later turn; it traps; it faults; or it escalates
with CODE2 (R36, R65, R72, R104, R143). -/
inductive OpOut where
  | done (s : State)
  | jump (s : State)
  | stay (s : State)
  | trap (n : Nat) (target : Cap) (s : State)
  | fault (f : FaultInfo) (s : State)
  | escalate (f : FaultInfo) (code2 : Nat) (s : State)

/-- An operation of a thread. -/
abbrev Op := ThreadId → State → OpOut

/-- A parcel without a transfer of control is over: PCC advances by one and PROG.VALID clears (R65, R143). -/
def State.stepOver (s : State) (th : ThreadId) : State :=
  let s1 := match s.topCtx th with
    | some x => s.setTop th { x with pcc := x.pcc.withCursor (x.pcc.w0 + 1), progValid := false }
    | none => s
  s1.modSlot th.core th.slot fun y => { y with answers := [], given := [], stale := false }

/-- A transfer of control: the fetch buffer is discarded and PROG.VALID clears (R119, R143). -/
def State.jumped (s : State) (th : ThreadId) : State :=
  let s1 := match s.topCtx th with
    | some x => s.setTop th { x with progValid := false }
    | none => s
  s1.modSlot th.core th.slot fun y => { y with buf := [], answers := [], given := [], stale := false }

/-- The entry that an access used has matched, and the access keeps the physical address it was given, whatever invalidation comes
before its answer (R162, R165). -/
def State.keepPlace (s : State) (th : ThreadId) (f : FaultInfo) : State :=
  match f.vaddr, f.acc.bind (·.pa), s.topCtx th with
  | some va, some pa, some x =>
    if ((s.core th.core).slot th.slot).given.any fun e => decide (e.1 = va) then s
    else
      let s1 := match (s.core th.core).lookup x.cur va.toNat with
        | some (j, _) => s.modCore th.core fun c => c.touchTlb j
        | none => s
      s1.modSlot th.core th.slot fun y => { y with given := y.given ++ [(va, pa)] }
  | _, _, _ => s

/-- A parcel that must wait: nothing has happened, but that its thread waits for an answer where it is one from outside. -/
def State.waitFor (s : State) (th : ThreadId) (f : FaultInfo) (ops : List Instr) : State :=
  if f.code = notYet then s
  else (s.keepPlace th f).modSlot th.core th.slot fun y => { y with wait := .outside (decide (f.code = notYetPcie)) ops }

/-- A fault with its parcel and operation filled in, unless it names a parcel of its own; CODE_ECC's PARCEL is 0 (R136). -/
def FaultInfo.ofParcel (f : FaultInfo) (parcel : Word) (op : Nat) : FaultInfo :=
  if f.parcel = 0 then { f with parcel := if f.code = fCODE_ECC then 0 else parcel, op := op } else f

/-- The end of a parcel (R65, R72, R139): `s` is the state before it, `parcel` its bits, `op` the operation that the outcome is
of, `block` whether that is a block instruction, `ops` what an answer from outside runs again. -/
def State.settled (s : State) (th : ThreadId) (parcel : Word) (op : Nat) (block : Bool) (ops : List Instr) (out : OpOut) : State :=
  let orWait := fun (r : Except FaultInfo State) => match r with
    | .ok t => t
    | .error g => s.waitFor th g ops
  match out with
  | .done t => t.stepOver th
  | .jump t => t.jumped th
  | .stay t => t
  | .trap n target t =>
    match t.topCtx th with
    | some x => orWait (t.enterLevel1 th x ((plainFault 0).ofParcel parcel op) n (some target))
    | none => s
  | .fault f t => if notYet ≤ f.code then s.waitFor th f ops else orWait (t.takeFault th (f.ofParcel parcel op) block)
  | .escalate f c2 t =>
    match t.topCtx th with
    | some x => orWait (t.escalate th x (f.ofParcel parcel op) 0 c2)
    | none => s

/-- A thread whose access waits for its response keeps the context before its parcel (R314). -/
def State.keepBefore (s t : State) (th : ThreadId) : State :=
  let w := ((t.core th.core).slot th.slot).wait
  if w.answerable ∧ ((s.core th.core).slot th.slot).wait = .none then t.modSlot th.core th.slot fun y => { y with before := s.topCtx th }
  else t

/-- The end of a parcel, and what an access of it that waits leaves behind. -/
def State.settleOp (s : State) (th : ThreadId) (parcel : Word) (op : Nat) (block : Bool) (ops : List Instr) (out : OpOut) : State :=
  s.keepBefore (s.settled th parcel op block ops out) th

/-- The parcel in the code store at a context's PCC: what a record of a single operation's fault gives as PARCEL (log
entry 41). -/
def State.parcelNow (s : State) (x : Ctx) : Word := (s.parcelAt x.pcc.w0.toNat).setWidth 32

/-- The instruction groups of R83. -/
inductive Group where
  | always
  | phase
  | divsq
  | block
  | mac
deriving DecidableEq, Repr

/-- A core has accepted a group (R83, R84). -/
def Core.accepts (c : Core) : Group → Bool
  | .always => true
  | .phase => c.arch.groups.getLsbD 0
  | .divsq => c.arch.groups.getLsbD 1
  | .block => c.arch.groups.getLsbD 2
  | .mac => c.arch.groups.getLsbD 3

/-- An operation as its table gives it: whether it is a supervisor operation (R88), its group (R83), whether it is a resumable
block instruction (R143), and what it does. -/
structure Operation where
  sup : Bool
  grp : Group
  block : Bool
  run : Op

/-- An operation of every program: no privilege, no group. -/
def plainOp (run : Op) : Operation := { sup := false, grp := .always, block := false, run := run }

/-- An operation of a group. -/
def groupOp (g : Group) (run : Op) : Operation := { sup := false, grp := g, block := false, run := run }

/-- A supervisor operation. -/
def supOp (run : Op) : Operation := { sup := true, grp := .always, block := false, run := run }

/-- A block instruction. -/
def blockOp (g : Group) (run : Op) : Operation := { sup := false, grp := g, block := true, run := run }

/-- Steps 3, 5 and 6 of R72 for an operation: its group is accepted, a supervisor operation is in supervisor mode, and then it
runs. -/
def Operation.checked (o : Operation) : Op := fun th s =>
  match s.topCtx th with
  | none => .stay s
  | some x =>
    if !(s.core th.core).accepts o.grp then .fault (plainFault fRESERVED_OP) s
    else if o.sup && !x.ts.m then .fault (plainFault fPRIV) s
    else o.run th s

/-- A thread issues an operation (R72), and its bank has issued now (R123): nothing happens where it may not issue now (R113, log
entry 42). -/
def State.issue (s : State) (th : ThreadId) (i : Instr) (o : Operation) : State :=
  match s.ready th with
  | none => s
  | some x =>
    let s1 := s.modCore th.core fun c => c.touchBank th.slot
    s1.settleOp th (s1.parcelNow x) 0 o.block [i] (o.checked th s1)

/-! ## Operations on registers -/

/-- An operation that only changes registers of its thread's top context. -/
def regOp (f : Ctx → Ctx) : Op := fun th s =>
  match s.topCtx th with
  | some x => .done (s.setTop th (f x))
  | none => .stay s

/-- An operation that changes registers, or faults without a data access. -/
def regOrFault (f : Ctx → Except Nat Ctx) : Op := fun th s =>
  match s.topCtx th with
  | some x =>
    match f x with
    | .ok y => .done (s.setTop th y)
    | .error e => .fault (plainFault e) s
  | none => .stay s

/-- A context with a data register written. -/
def Ctx.setD (x : Ctx) (r : DReg) (v : Word) : Ctx := { x with d := x.d.set r.val v }

/-- A data register. -/
def Ctx.getD (x : Ctx) (r : DReg) : Word := x.d[r.val]

/-- A context with a capability register written. -/
def Ctx.setC (x : Ctx) (r : CReg) (v : Cap) : Ctx := { x with c := x.c.set r.val v }

/-- A capability register. -/
def Ctx.getC (x : Ctx) (r : CReg) : Cap := x.c[r.val]

/-- A context with FLG written, unless the variant leaves it (R74). -/
def Ctx.setF (x : Ctx) (nf : Bool) (f : BitVec 4) : Ctx := if nf then x else { x with flg := f }

end Sys2Proof.Machine
end

