-- ==== Sys2Proof/Machine/Alu.lean ====
section
/-! DEFINITION. Integer arithmetic, logic and shifts (R91, R92), and select, constants and the long NOP (R69, R97). -/

namespace Sys2Proof.Machine

/-- d := a + b + carry with the flags of the Arithmetic class (R74, R91). -/
def Ctx.arith (x : Ctx) (d : DReg) (nf : Bool) (a b : Word) (cin : Bool) : Ctx :=
  (x.setD d (addRes a b cin)).setF nf (addFlags a b cin)

/-- d := r with the flags of the Logical class (R74, R91). -/
def Ctx.logic (x : Ctx) (d : DReg) (nf : Bool) (r : Word) : Ctx := (x.setD d r).setF nf (logicFlags x.flg r)

/-- d := a shifted, with the flags of the Shift class (R74, R92). -/
def Ctx.shift (x : Ctx) (d : DReg) (nf : Bool) (r : Word × Option Bool) : Ctx := (x.setD d r.1).setF nf (shiftFlags x.flg r.1 r.2)

/-- The shift amount in b[4:0] (R92). -/
def shiftAmount (w : Word) : Nat := w.toNat % 32

/-- The signed minimum or maximum is the first operand (R91). -/
def minFirst (a b : Word) : Bool := decide (a.toInt ≤ b.toInt)

/-- MOV: d := a (R91). -/
def opMov (d a : DReg) : Operation := plainOp (regOp fun x => x.setD d (x.getD a))

/-- MOV issued by a thread. -/
def execMov (th : ThreadId) (d a : DReg) (s : State) : Host.Outcome State Fault Refusal :=
  .next (s.issue th (.mov th d a) (opMov d a))

/-- MOVS: d := a with flags (R91). -/
def opMovs (d a : DReg) (nf : Bool) : Operation := plainOp (regOp fun x => x.logic d nf (x.getD a))

/-- MOVS issued by a thread. -/
def execMovs (th : ThreadId) (d a : DReg) (nf : Bool) (s : State) : Host.Outcome State Fault Refusal :=
  .next (s.issue th (.movs th d a nf) (opMovs d a nf))

/-- MOVI: d := imm5, signed (R90). -/
def opMovi (d : DReg) (imm : BitVec 5) : Operation := plainOp (regOp fun x => x.setD d (imm.signExtend 32))

/-- MOVI issued by a thread. -/
def execMovi (th : ThreadId) (d : DReg) (imm : BitVec 5) (s : State) : Host.Outcome State Fault Refusal :=
  .next (s.issue th (.movi th d imm) (opMovi d imm))

/-- ADD: d := a + b (R91). -/
def opAdd (d a b : DReg) (nf : Bool) : Operation := plainOp (regOp fun x => x.arith d nf (x.getD a) (x.getD b) false)

/-- ADD issued by a thread. -/
def execAdd (th : ThreadId) (d a b : DReg) (nf : Bool) (s : State) : Host.Outcome State Fault Refusal :=
  .next (s.issue th (.add th d a b nf) (opAdd d a b nf))

/-- ADDI: d := a + imm13, signed (R91). -/
def opAddi (d a : DReg) (imm : BitVec 13) (nf : Bool) : Operation := plainOp (regOp fun x => x.arith d nf (x.getD a) (imm.signExtend 32) false)

/-- ADDI issued by a thread. -/
def execAddi (th : ThreadId) (d a : DReg) (imm : BitVec 13) (nf : Bool) (s : State) : Host.Outcome State Fault Refusal :=
  .next (s.issue th (.addi th d a imm nf) (opAddi d a imm nf))

/-- SUB: d := a − b; C is 1 when there is no borrow (R91). -/
def opSub (d a b : DReg) (nf : Bool) : Operation := plainOp (regOp fun x => x.arith d nf (x.getD a) (~~~(x.getD b)) true)

/-- SUB issued by a thread. -/
def execSub (th : ThreadId) (d a b : DReg) (nf : Bool) (s : State) : Host.Outcome State Fault Refusal :=
  .next (s.issue th (.sub th d a b nf) (opSub d a b nf))

/-- ADC: d := a + b + C (R91). -/
def opAdc (d a b : DReg) (nf : Bool) : Operation := plainOp (regOp fun x => x.arith d nf (x.getD a) (x.getD b) (flgC x.flg))

/-- ADC issued by a thread. -/
def execAdc (th : ThreadId) (d a b : DReg) (nf : Bool) (s : State) : Host.Outcome State Fault Refusal :=
  .next (s.issue th (.adc th d a b nf) (opAdc d a b nf))

/-- SBC: d := a + NOT b + C (R91). -/
def opSbc (d a b : DReg) (nf : Bool) : Operation := plainOp (regOp fun x => x.arith d nf (x.getD a) (~~~(x.getD b)) (flgC x.flg))

/-- SBC issued by a thread. -/
def execSbc (th : ThreadId) (d a b : DReg) (nf : Bool) (s : State) : Host.Outcome State Fault Refusal :=
  .next (s.issue th (.sbc th d a b nf) (opSbc d a b nf))

/-- NEG: d := 0 − a (R91). -/
def opNeg (d a : DReg) (nf : Bool) : Operation := plainOp (regOp fun x => x.arith d nf 0 (~~~(x.getD a)) true)

/-- NEG issued by a thread. -/
def execNeg (th : ThreadId) (d a : DReg) (nf : Bool) (s : State) : Host.Outcome State Fault Refusal :=
  .next (s.issue th (.neg th d a nf) (opNeg d a nf))

/-- CMP: the flags of a − b (R91). -/
def opCmp (a b : DReg) : Operation := plainOp (regOp fun x => { x with flg := addFlags (x.getD a) (~~~(x.getD b)) true })

/-- CMP issued by a thread. -/
def execCmp (th : ThreadId) (a b : DReg) (s : State) : Host.Outcome State Fault Refusal :=
  .next (s.issue th (.cmp th a b) (opCmp a b))

/-- CMPI: the flags of a − imm13, signed (R91). -/
def opCmpi (a : DReg) (imm : BitVec 13) : Operation := plainOp (regOp fun x => { x with flg := addFlags (x.getD a) (~~~(imm.signExtend 32)) true })

/-- CMPI issued by a thread. -/
def execCmpi (th : ThreadId) (a : DReg) (imm : BitVec 13) (s : State) : Host.Outcome State Fault Refusal :=
  .next (s.issue th (.cmpi th a imm) (opCmpi a imm))

/-- AND: d := a AND b (R91). -/
def opAnd (d a b : DReg) (nf : Bool) : Operation := plainOp (regOp fun x => x.logic d nf (x.getD a &&& x.getD b))

/-- AND issued by a thread. -/
def execAnd (th : ThreadId) (d a b : DReg) (nf : Bool) (s : State) : Host.Outcome State Fault Refusal :=
  .next (s.issue th (Instr.and th d a b nf) (opAnd d a b nf))

/-- ANDI: d := a AND imm13, unsigned (R91). -/
def opAndi (d a : DReg) (imm : BitVec 13) (nf : Bool) : Operation := plainOp (regOp fun x => x.logic d nf (x.getD a &&& imm.setWidth 32))

/-- ANDI issued by a thread. -/
def execAndi (th : ThreadId) (d a : DReg) (imm : BitVec 13) (nf : Bool) (s : State) : Host.Outcome State Fault Refusal :=
  .next (s.issue th (.andi th d a imm nf) (opAndi d a imm nf))

/-- OR: d := a OR b (R91). -/
def opOr (d a b : DReg) (nf : Bool) : Operation := plainOp (regOp fun x => x.logic d nf (x.getD a ||| x.getD b))

/-- OR issued by a thread. -/
def execOr (th : ThreadId) (d a b : DReg) (nf : Bool) (s : State) : Host.Outcome State Fault Refusal :=
  .next (s.issue th (Instr.or th d a b nf) (opOr d a b nf))

/-- ORI: d := a OR imm13, unsigned (R91). -/
def opOri (d a : DReg) (imm : BitVec 13) (nf : Bool) : Operation := plainOp (regOp fun x => x.logic d nf (x.getD a ||| imm.setWidth 32))

/-- ORI issued by a thread. -/
def execOri (th : ThreadId) (d a : DReg) (imm : BitVec 13) (nf : Bool) (s : State) : Host.Outcome State Fault Refusal :=
  .next (s.issue th (.ori th d a imm nf) (opOri d a imm nf))

/-- XOR: d := a XOR b (R91). -/
def opXor (d a b : DReg) (nf : Bool) : Operation := plainOp (regOp fun x => x.logic d nf (x.getD a ^^^ x.getD b))

/-- XOR issued by a thread. -/
def execXor (th : ThreadId) (d a b : DReg) (nf : Bool) (s : State) : Host.Outcome State Fault Refusal :=
  .next (s.issue th (.xor th d a b nf) (opXor d a b nf))

/-- XORI: d := a XOR imm13, unsigned (R91). -/
def opXori (d a : DReg) (imm : BitVec 13) (nf : Bool) : Operation := plainOp (regOp fun x => x.logic d nf (x.getD a ^^^ imm.setWidth 32))

/-- XORI issued by a thread. -/
def execXori (th : ThreadId) (d a : DReg) (imm : BitVec 13) (nf : Bool) (s : State) : Host.Outcome State Fault Refusal :=
  .next (s.issue th (.xori th d a imm nf) (opXori d a imm nf))

/-- ANDN: d := a AND NOT b (R91). -/
def opAndn (d a b : DReg) (nf : Bool) : Operation := plainOp (regOp fun x => x.logic d nf (x.getD a &&& ~~~(x.getD b)))

/-- ANDN issued by a thread. -/
def execAndn (th : ThreadId) (d a b : DReg) (nf : Bool) (s : State) : Host.Outcome State Fault Refusal :=
  .next (s.issue th (.andn th d a b nf) (opAndn d a b nf))

/-- TST: the flags of a AND b (R91). -/
def opTst (a b : DReg) : Operation := plainOp (regOp fun x => { x with flg := logicFlags x.flg (x.getD a &&& x.getD b) })

/-- TST issued by a thread. -/
def execTst (th : ThreadId) (a b : DReg) (s : State) : Host.Outcome State Fault Refusal :=
  .next (s.issue th (.tst th a b) (opTst a b))

/-- TSTI: the flags of a AND imm13, unsigned (R91). -/
def opTsti (a : DReg) (imm : BitVec 13) : Operation := plainOp (regOp fun x => { x with flg := logicFlags x.flg (x.getD a &&& imm.setWidth 32) })

/-- TSTI issued by a thread. -/
def execTsti (th : ThreadId) (a : DReg) (imm : BitVec 13) (s : State) : Host.Outcome State Fault Refusal :=
  .next (s.issue th (.tsti th a imm) (opTsti a imm))

/-- NOT: d := NOT a (R91). -/
def opNot (d a : DReg) (nf : Bool) : Operation := plainOp (regOp fun x => x.logic d nf (~~~(x.getD a)))

/-- NOT issued by a thread. -/
def execNot (th : ThreadId) (d a : DReg) (nf : Bool) (s : State) : Host.Outcome State Fault Refusal :=
  .next (s.issue th (Instr.not th d a nf) (opNot d a nf))

/-- MIN: the signed minimum (R91). -/
def opMin (d a b : DReg) : Operation := plainOp (regOp fun x => x.setD d (if minFirst (x.getD a) (x.getD b) then x.getD a else x.getD b))

/-- MIN issued by a thread. -/
def execMin (th : ThreadId) (d a b : DReg) (s : State) : Host.Outcome State Fault Refusal :=
  .next (s.issue th (.min th d a b) (opMin d a b))

/-- MAX: the signed maximum (R91). -/
def opMax (d a b : DReg) : Operation := plainOp (regOp fun x => x.setD d (if minFirst (x.getD a) (x.getD b) then x.getD b else x.getD a))

/-- MAX issued by a thread. -/
def execMax (th : ThreadId) (d a b : DReg) (s : State) : Host.Outcome State Fault Refusal :=
  .next (s.issue th (.max th d a b) (opMax d a b))

/-- MINU: the unsigned minimum (R91). -/
def opMinu (d a b : DReg) : Operation := plainOp (regOp fun x => x.setD d (if x.getD a ≤ x.getD b then x.getD a else x.getD b))

/-- MINU issued by a thread. -/
def execMinu (th : ThreadId) (d a b : DReg) (s : State) : Host.Outcome State Fault Refusal :=
  .next (s.issue th (.minu th d a b) (opMinu d a b))

/-- MAXU: the unsigned maximum (R91). -/
def opMaxu (d a b : DReg) : Operation := plainOp (regOp fun x => x.setD d (if x.getD a ≤ x.getD b then x.getD b else x.getD a))

/-- MAXU issued by a thread. -/
def execMaxu (th : ThreadId) (d a b : DReg) (s : State) : Host.Outcome State Fault Refusal :=
  .next (s.issue th (.maxu th d a b) (opMaxu d a b))

/-- SHL: shift left by b[4:0] (R92). -/
def opShl (d a b : DReg) (nf : Bool) : Operation := plainOp (regOp fun x => x.shift d nf (shlRes (x.getD a) (shiftAmount (x.getD b))))

/-- SHL issued by a thread. -/
def execShl (th : ThreadId) (d a b : DReg) (nf : Bool) (s : State) : Host.Outcome State Fault Refusal :=
  .next (s.issue th (.shl th d a b nf) (opShl d a b nf))

/-- SHR: logical shift right by b[4:0] (R92). -/
def opShr (d a b : DReg) (nf : Bool) : Operation := plainOp (regOp fun x => x.shift d nf (shrRes (x.getD a) (shiftAmount (x.getD b))))

/-- SHR issued by a thread. -/
def execShr (th : ThreadId) (d a b : DReg) (nf : Bool) (s : State) : Host.Outcome State Fault Refusal :=
  .next (s.issue th (.shr th d a b nf) (opShr d a b nf))

/-- SAR: arithmetic shift right by b[4:0] (R92). -/
def opSar (d a b : DReg) (nf : Bool) : Operation := plainOp (regOp fun x => x.shift d nf (sarRes (x.getD a) (shiftAmount (x.getD b))))

/-- SAR issued by a thread. -/
def execSar (th : ThreadId) (d a b : DReg) (nf : Bool) (s : State) : Host.Outcome State Fault Refusal :=
  .next (s.issue th (.sar th d a b nf) (opSar d a b nf))

/-- ROR: rotate right by b[4:0] (R92). -/
def opRor (d a b : DReg) (nf : Bool) : Operation := plainOp (regOp fun x => x.shift d nf (rorRes (x.getD a) (shiftAmount (x.getD b))))

/-- ROR issued by a thread. -/
def execRor (th : ThreadId) (d a b : DReg) (nf : Bool) (s : State) : Host.Outcome State Fault Refusal :=
  .next (s.issue th (.ror th d a b nf) (opRor d a b nf))

/-- SHLI: shift left by imm13[4:0] (R92). -/
def opShli (d a : DReg) (amt : BitVec 5) (nf : Bool) : Operation := plainOp (regOp fun x => x.shift d nf (shlRes (x.getD a) amt.toNat))

/-- SHLI issued by a thread. -/
def execShli (th : ThreadId) (d a : DReg) (amt : BitVec 5) (nf : Bool) (s : State) : Host.Outcome State Fault Refusal :=
  .next (s.issue th (.shli th d a amt nf) (opShli d a amt nf))

/-- SHRI: logical shift right by imm13[4:0] (R92). -/
def opShri (d a : DReg) (amt : BitVec 5) (nf : Bool) : Operation := plainOp (regOp fun x => x.shift d nf (shrRes (x.getD a) amt.toNat))

/-- SHRI issued by a thread. -/
def execShri (th : ThreadId) (d a : DReg) (amt : BitVec 5) (nf : Bool) (s : State) : Host.Outcome State Fault Refusal :=
  .next (s.issue th (.shri th d a amt nf) (opShri d a amt nf))

/-- SARI: arithmetic shift right by imm13[4:0] (R92). -/
def opSari (d a : DReg) (amt : BitVec 5) (nf : Bool) : Operation := plainOp (regOp fun x => x.shift d nf (sarRes (x.getD a) amt.toNat))

/-- SARI issued by a thread. -/
def execSari (th : ThreadId) (d a : DReg) (amt : BitVec 5) (nf : Bool) (s : State) : Host.Outcome State Fault Refusal :=
  .next (s.issue th (.sari th d a amt nf) (opSari d a amt nf))

/-- RORI: rotate right by imm13[4:0] (R92). -/
def opRori (d a : DReg) (amt : BitVec 5) (nf : Bool) : Operation := plainOp (regOp fun x => x.shift d nf (rorRes (x.getD a) amt.toNat))

/-- RORI issued by a thread. -/
def execRori (th : ThreadId) (d a : DReg) (amt : BitVec 5) (nf : Bool) (s : State) : Host.Outcome State Fault Refusal :=
  .next (s.issue th (.rori th d a amt nf) (opRori d a amt nf))

/-- SEL: d := a where the condition holds, else b (R97); under NV the operation has no effect (R75). -/
def opSel (cond : BitVec 4) (d a b : DReg) : Operation :=
  plainOp (regOp fun x => if cond = 15#4 then x else x.setD d (if condHolds x.flg cond then x.getD a else x.getD b))

/-- SEL issued by a thread. -/
def execSel (th : ThreadId) (cond : BitVec 4) (d a b : DReg) (s : State) : Host.Outcome State Fault Refusal :=
  .next (s.issue th (.sel th cond d a b) (opSel cond d a b))

/-- LDI.LO: d := imm17, sign-extended (R69). -/
def opLdiLo (d : DReg) (imm : BitVec 17) : Operation := plainOp (regOp fun x => x.setD d (imm.signExtend 32))

/-- LDI.LO issued by a thread. -/
def execLdiLo (th : ThreadId) (d : DReg) (imm : BitVec 17) (s : State) : Host.Outcome State Fault Refusal :=
  .next (s.issue th (.ldiLo th d imm) (opLdiLo d imm))

/-- LDI.HI: d[31:16] := imm17[15:0] (R69). -/
def opLdiHi (d : DReg) (imm : BitVec 16) : Operation := plainOp (regOp fun x => x.setD d (imm ++ (x.getD d).setWidth 16))

/-- LDI.HI issued by a thread. -/
def execLdiHi (th : ThreadId) (d : DReg) (imm : BitVec 16) (s : State) : Host.Outcome State Fault Refusal :=
  .next (s.issue th (.ldiHi th d imm) (opLdiHi d imm))

/-- LDP: d := imm17 << 7 (R95). -/
def opLdp (d : DReg) (imm : BitVec 17) : Operation := plainOp (regOp fun x => x.setD d (imm.setWidth 32 <<< 7))

/-- LDP issued by a thread. -/
def execLdp (th : ThreadId) (d : DReg) (imm : BitVec 17) (s : State) : Host.Outcome State Fault Refusal :=
  .next (s.issue th (.ldp th d imm) (opLdp d imm))

/-- NOP: nothing but the next parcel (R70, R97). -/
def opNop : Operation := plainOp (regOp id)

/-- NOP issued by a thread. -/
def execNop (th : ThreadId) (s : State) : Host.Outcome State Fault Refusal := .next (s.issue th (.nop th) opNop)

end Sys2Proof.Machine
end

