-- ==== Sys2Proof/Machine/Memory.lean ====
section
/-! DEFINITION. Loads, stores and atomics of threads (R44, R60, R87, R98, R99), and PLD (R100). Accesses take effect in the order
in which they are issued, so the orders of LD.ACQ and ST.REL hold (log entry 45). -/

namespace Sys2Proof.Machine

/-- A query of an access through a capability register in its mode (R78). -/
def regQuery (x : Ctx) (c : CReg) (disp : Int) (size : Nat) (kind : AccessKind) (v : Option Cap) : Query :=
  { cap := x.getC c, creg := some c.val, am := x.addrmode, reg := c, disp := disp, size := size, kind := kind, val := v }

/-- A load. -/
def loads : AccessKind := { load := true, store := false, cap := false }

/-- A store. -/
def stores : AccessKind := { load := false, store := true, cap := false }

/-- A thread waits for the response of its access (R87). -/
def State.awaits (s : State) (th : ThreadId) : State := s.modSlot th.core th.slot fun y => { y with wait := .access }

/-- A load of 1, 2 or 4 bytes into a data register, extended (R98). -/
def loadOp (c : CReg) (disp : Ctx → Int) (size : Nat) (signed : Bool) (d : DReg) (short : Bool := false) : Op := fun th s =>
  match s.topCtx th with
  | none => .stay s
  | some x =>
    match s.dataLoad (issuerOf th x) { regQuery x c (disp x) size loads none with short := short } with
    | (.error f, s1) => .fault f s1
    | (.ok w, s1) =>
      let v : Word := if signed then (if size = 1 then (w.setWidth 8).signExtend 32 else if size = 2 then (w.setWidth 16).signExtend 32 else w) else w
      .done ((s1.setTop th (x.setD d v)).awaits th)

/-- A byte or half-word store, which waits for its response (R44, R87). -/
def subStoreOp (c : CReg) (disp : Ctx → Int) (size : Nat) (d : DReg) : Op := fun th s =>
  match s.topCtx th with
  | none => .stay s
  | some x =>
    match s.subStore (issuerOf th x) (regQuery x c (disp x) size stores none) (x.getD d) with
    | (.error f, s1) => .fault f s1
    | (.ok _, s1) => .done (s1.awaits th)

/-- A word store, posted (R87). -/
def storeOp (c : CReg) (disp : Ctx → Int) (d : DReg) (short : Bool := false) : Op := fun th s =>
  match s.topCtx th with
  | none => .stay s
  | some x =>
    match s.wordStore (issuerOf th x) { regQuery x c (disp x) 4 stores none with short := short } (x.getD d) with
    | (.error f, s1) => .fault f s1
    | (.ok _, s1) => .done s1

/-- An atomic on one word: d := the old value (R61, R99). -/
def atomicOp (c : CReg) (d : DReg) (data : Ctx → List Word) (f : Ctx → Word → Option Word) : Op := fun th s =>
  match s.topCtx th with
  | none => .stay s
  | some x =>
    match s.atomic (issuerOf th x) (regQuery x c 0 4 { load := true, store := true, cap := false } none) (data x) (f x) with
    | (.error e, s1) => .fault e s1
    | (.ok w, s1) => .done ((s1.setTop th (x.setD d w)).awaits th)

/-- LD.B: d := byte, sign-extended (R98). -/
def opLdB (d : DReg) (c : CReg) (disp : BitVec 14) : Operation := plainOp (loadOp c (fun _ => disp.toInt) 1 true d)

/-- LD.B issued by a thread. -/
def execLdB (th : ThreadId) (d : DReg) (c : CReg) (disp : BitVec 14) (s : State) : Host.Outcome State Fault Refusal :=
  .next (s.issue th (.ldB th d c disp) (opLdB d c disp))

/-- LDX.B: the indexed form, b a signed byte index (R68, R98). -/
def opLdxB (d : DReg) (a : CReg) (b : DReg) : Operation := plainOp (loadOp a (fun x => (x.getD b).toInt) 1 true d)

/-- LDX.B issued by a thread. -/
def execLdxB (th : ThreadId) (d : DReg) (a : CReg) (b : DReg) (s : State) : Host.Outcome State Fault Refusal :=
  .next (s.issue th (.ldxB th d a b) (opLdxB d a b))

/-- LD.BU: d := byte, zero-extended (R98). -/
def opLdBu (d : DReg) (c : CReg) (disp : BitVec 14) : Operation := plainOp (loadOp c (fun _ => disp.toInt) 1 false d)

/-- LD.BU issued by a thread. -/
def execLdBu (th : ThreadId) (d : DReg) (c : CReg) (disp : BitVec 14) (s : State) : Host.Outcome State Fault Refusal :=
  .next (s.issue th (.ldBu th d c disp) (opLdBu d c disp))

/-- LDX.BU: the indexed form, b a signed byte index (R68, R98). -/
def opLdxBu (d : DReg) (a : CReg) (b : DReg) : Operation := plainOp (loadOp a (fun x => (x.getD b).toInt) 1 false d)

/-- LDX.BU issued by a thread. -/
def execLdxBu (th : ThreadId) (d : DReg) (a : CReg) (b : DReg) (s : State) : Host.Outcome State Fault Refusal :=
  .next (s.issue th (.ldxBu th d a b) (opLdxBu d a b))

/-- LD.H: d := half-word, sign-extended (R98). -/
def opLdH (d : DReg) (c : CReg) (disp : BitVec 14) : Operation := plainOp (loadOp c (fun _ => disp.toInt) 2 true d)

/-- LD.H issued by a thread. -/
def execLdH (th : ThreadId) (d : DReg) (c : CReg) (disp : BitVec 14) (s : State) : Host.Outcome State Fault Refusal :=
  .next (s.issue th (.ldH th d c disp) (opLdH d c disp))

/-- LDX.H: the indexed form, b a signed byte index (R68, R98). -/
def opLdxH (d : DReg) (a : CReg) (b : DReg) : Operation := plainOp (loadOp a (fun x => (x.getD b).toInt) 2 true d)

/-- LDX.H issued by a thread. -/
def execLdxH (th : ThreadId) (d : DReg) (a : CReg) (b : DReg) (s : State) : Host.Outcome State Fault Refusal :=
  .next (s.issue th (.ldxH th d a b) (opLdxH d a b))

/-- LD.HU: d := half-word, zero-extended (R98). -/
def opLdHu (d : DReg) (c : CReg) (disp : BitVec 14) : Operation := plainOp (loadOp c (fun _ => disp.toInt) 2 false d)

/-- LD.HU issued by a thread. -/
def execLdHu (th : ThreadId) (d : DReg) (c : CReg) (disp : BitVec 14) (s : State) : Host.Outcome State Fault Refusal :=
  .next (s.issue th (.ldHu th d c disp) (opLdHu d c disp))

/-- LDX.HU: the indexed form, b a signed byte index (R68, R98). -/
def opLdxHu (d : DReg) (a : CReg) (b : DReg) : Operation := plainOp (loadOp a (fun x => (x.getD b).toInt) 2 false d)

/-- LDX.HU issued by a thread. -/
def execLdxHu (th : ThreadId) (d : DReg) (a : CReg) (b : DReg) (s : State) : Host.Outcome State Fault Refusal :=
  .next (s.issue th (.ldxHu th d a b) (opLdxHu d a b))

/-- LD.W: d := word (R98). -/
def opLdW (d : DReg) (c : CReg) (disp : BitVec 14) : Operation := plainOp (loadOp c (fun _ => disp.toInt) 4 false d)

/-- LD.W issued by a thread. -/
def execLdW (th : ThreadId) (d : DReg) (c : CReg) (disp : BitVec 14) (s : State) : Host.Outcome State Fault Refusal :=
  .next (s.issue th (.ldW th d c disp) (opLdW d c disp))

/-- LDX.W: the indexed form, b a signed byte index (R68, R98). -/
def opLdxW (d : DReg) (a : CReg) (b : DReg) : Operation := plainOp (loadOp a (fun x => (x.getD b).toInt) 4 false d)

/-- LDX.W issued by a thread. -/
def execLdxW (th : ThreadId) (d : DReg) (a : CReg) (b : DReg) (s : State) : Host.Outcome State Fault Refusal :=
  .next (s.issue th (.ldxW th d a b) (opLdxW d a b))

/-- ST.B (R44, R98). -/
def opStB (d : DReg) (c : CReg) (disp : BitVec 14) : Operation := plainOp (subStoreOp c (fun _ => disp.toInt) 1 d)

/-- ST.B issued by a thread. -/
def execStB (th : ThreadId) (d : DReg) (c : CReg) (disp : BitVec 14) (s : State) : Host.Outcome State Fault Refusal :=
  .next (s.issue th (.stB th d c disp) (opStB d c disp))

/-- STX.B: the indexed form (R98). -/
def opStxB (d : DReg) (a : CReg) (b : DReg) : Operation := plainOp (subStoreOp a (fun x => (x.getD b).toInt) 1 d)

/-- STX.B issued by a thread. -/
def execStxB (th : ThreadId) (d : DReg) (a : CReg) (b : DReg) (s : State) : Host.Outcome State Fault Refusal :=
  .next (s.issue th (.stxB th d a b) (opStxB d a b))

/-- ST.H (R44, R98). -/
def opStH (d : DReg) (c : CReg) (disp : BitVec 14) : Operation := plainOp (subStoreOp c (fun _ => disp.toInt) 2 d)

/-- ST.H issued by a thread. -/
def execStH (th : ThreadId) (d : DReg) (c : CReg) (disp : BitVec 14) (s : State) : Host.Outcome State Fault Refusal :=
  .next (s.issue th (.stH th d c disp) (opStH d c disp))

/-- STX.H: the indexed form (R98). -/
def opStxH (d : DReg) (a : CReg) (b : DReg) : Operation := plainOp (subStoreOp a (fun x => (x.getD b).toInt) 2 d)

/-- STX.H issued by a thread. -/
def execStxH (th : ThreadId) (d : DReg) (a : CReg) (b : DReg) (s : State) : Host.Outcome State Fault Refusal :=
  .next (s.issue th (.stxH th d a b) (opStxH d a b))

/-- ST.W: word := d (R98). -/
def opStW (d : DReg) (c : CReg) (disp : BitVec 14) : Operation := plainOp (storeOp c (fun _ => disp.toInt) d)

/-- ST.W issued by a thread. -/
def execStW (th : ThreadId) (d : DReg) (c : CReg) (disp : BitVec 14) (s : State) : Host.Outcome State Fault Refusal :=
  .next (s.issue th (.stW th d c disp) (opStW d c disp))

/-- STX.W: the indexed form (R98). -/
def opStxW (d : DReg) (a : CReg) (b : DReg) : Operation := plainOp (storeOp a (fun x => (x.getD b).toInt) d)

/-- STX.W issued by a thread. -/
def execStxW (th : ThreadId) (d : DReg) (a : CReg) (b : DReg) (s : State) : Host.Outcome State Fault Refusal :=
  .next (s.issue th (.stxW th d a b) (opStxW d a b))

/-- LD.ACQ: as LD.W, before every later access (R60, R98). -/
def opLdAcq (d : DReg) (c : CReg) (disp : BitVec 14) : Operation := plainOp (loadOp c (fun _ => disp.toInt) 4 false d)

/-- LD.ACQ issued by a thread. -/
def execLdAcq (th : ThreadId) (d : DReg) (c : CReg) (disp : BitVec 14) (s : State) : Host.Outcome State Fault Refusal :=
  .next (s.issue th (.ldAcq th d c disp) (opLdAcq d c disp))

/-- ST.REL: as ST.W, after every earlier access (R60, R98). -/
def opStRel (d : DReg) (c : CReg) (disp : BitVec 14) : Operation := plainOp (storeOp c (fun _ => disp.toInt) d)

/-- ST.REL issued by a thread. -/
def execStRel (th : ThreadId) (d : DReg) (c : CReg) (disp : BitVec 14) (s : State) : Host.Outcome State Fault Refusal :=
  .next (s.issue th (.stRel th d c disp) (opStRel d c disp))

/-- LD.W.S: the word at [c + 4k] (R70). -/
def opLdWS (d : DReg) (c : CReg) (k : BitVec 2) : Operation := plainOp (loadOp c (fun _ => 4 * (k.toNat : Int)) 4 false d true)

/-- LD.W.S issued by a thread. -/
def execLdWS (th : ThreadId) (d : DReg) (c : CReg) (k : BitVec 2) (s : State) : Host.Outcome State Fault Refusal :=
  .next (s.issue th (.ldWS th d c k) (opLdWS d c k))

/-- ST.W.S: the word at [c + 4k] (R70). -/
def opStWS (d : DReg) (c : CReg) (k : BitVec 2) : Operation := plainOp (storeOp c (fun _ => 4 * (k.toNat : Int)) d true)

/-- ST.W.S issued by a thread. -/
def execStWS (th : ThreadId) (d : DReg) (c : CReg) (k : BitVec 2) (s : State) : Host.Outcome State Fault Refusal :=
  .next (s.issue th (.stWS th d c k) (opStWS d c k))

/-- A capability load: cd := the capability, tagged only if both its words carry Capability (R16, R20, R98). -/
def capLoadOp (c cd : CReg) (disp : Int) : Op := fun th s =>
  match s.topCtx th with
  | none => .stay s
  | some x =>
    match s.capLoad (issuerOf th x) (regQuery x c disp 8 { loads with cap := true } none) with
    | (.error f, s1) => .fault f s1
    | (.ok v, s1) => .done ((s1.setTop th (x.setC cd v)).awaits th)

/-- A capability store, posted; the G rule binds a tagged one (R20, R98). -/
def capStoreOp (c cd : CReg) (disp : Int) : Op := fun th s =>
  match s.topCtx th with
  | none => .stay s
  | some x =>
    match s.capStore (issuerOf th x) (regQuery x c disp 8 { stores with cap := true } (some (x.getC cd))) (x.getC cd) with
    | (.error f, s1) => .fault f s1
    | (.ok _, s1) => .done s1

/-- LD.C (R20, R98). -/
def opLdC (cd : CReg) (c : CReg) (disp : BitVec 14) : Operation := plainOp (capLoadOp c cd disp.toInt)

/-- LD.C issued by a thread. -/
def execLdC (th : ThreadId) (cd : CReg) (c : CReg) (disp : BitVec 14) (s : State) : Host.Outcome State Fault Refusal :=
  .next (s.issue th (.ldC th cd c disp) (opLdC cd c disp))

/-- ST.C (R20, R98). -/
def opStC (cd : CReg) (c : CReg) (disp : BitVec 14) : Operation := plainOp (capStoreOp c cd disp.toInt)

/-- ST.C issued by a thread. -/
def execStC (th : ThreadId) (cd : CReg) (c : CReg) (disp : BitVec 14) (s : State) : Host.Outcome State Fault Refusal :=
  .next (s.issue th (.stC th cd c disp) (opStC cd c disp))

/-- CAS: word := b where it equals d; d := the old word (R99). -/
def opCas (d : DReg) (a : CReg) (b : DReg) : Operation := plainOp (atomicOp a d (fun x => [x.getD d, x.getD b]) fun x old => if old = x.getD d then some (x.getD b) else none)

/-- CAS issued by a thread. -/
def execCas (th : ThreadId) (d : DReg) (a : CReg) (b : DReg) (s : State) : Host.Outcome State Fault Refusal :=
  .next (s.issue th (.cas th d a b) (opCas d a b))

/-- AMO.ADD: word := word + b; d := the old word (R99). -/
def opAmoAdd (d : DReg) (a : CReg) (b : DReg) : Operation := plainOp (atomicOp a d (fun x => [x.getD b]) fun x old => some (old + x.getD b))

/-- AMO.ADD issued by a thread. -/
def execAmoAdd (th : ThreadId) (d : DReg) (a : CReg) (b : DReg) (s : State) : Host.Outcome State Fault Refusal :=
  .next (s.issue th (.amoAdd th d a b) (opAmoAdd d a b))

/-- Steps 1 to 4 of R100: the code address, or the fault's code. -/
def pldCheck (c : Cap) (off : Int) : Except Nat Nat :=
  let bd := decodeBounds c
  let a := (c.w0.toNat : Int) + off
  if !c.tag then .error fCAP_TAG
  else if c.sealed then .error fCAP_SEALED
  else if !(c.rX && c.rL) then .error fCAP_RIGHTS
  else if a < bd.base ∨ bd.top ≤ a then .error fCAP_BOUNDS
  else .ok a.toNat

/-- PLD: reads a parcel of any cove's code store, with its check (R50, R100). -/
def opPld (d : DReg) (a : CReg) (b : DReg) : Operation := plainOp fun th s =>
  match s.topCtx th with
  | none => .stay s
  | some x =>
    match pldCheck (x.getC a) (x.getD b).toInt with
    | .error e => .fault (plainFault e) s
    | .ok adr =>
      let (r, s1) := (s.asks th.core adr []).respond th.core th.slot false fun t =>
        match t.checkParcel adr false with
        | (true, t1) => (.error fCODE_ECC, t1)
        | (false, t1) => (.ok ((t1.parcelAt adr).setWidth 32, .written), t1)
      match r with
      | .error e => .fault (plainFault e) s1
      | .ok (w, _) => .done ((s1.setTop th (x.setD d w)).awaits th)

/-- PLD issued by a thread. -/
def execPld (th : ThreadId) (d : DReg) (a : CReg) (b : DReg) (s : State) : Host.Outcome State Fault Refusal :=
  .next (s.issue th (.pld th d a b) (opPld d a b))

end Sys2Proof.Machine
end

