-- ==== Sys2Proof/Machine/Block.lean ====
section
/-! DEFINITION. The resumable block instructions (R46, R47, R57, R109, R110, R143). -/

namespace Sys2Proof.Machine

/-! ## Units and PROG (R143) -/

/-- The units of a block instruction from one on, as many as run before it is abandoned: the fault that stopped it, the units done,
and the state. -/
def unitsFrom (total : Nat) (unit : Nat → State → Except FaultInfo Unit × State) : Nat → Nat → State → Option FaultInfo × Nat × State
  | 0, k, s => (none, k, s)
  | n + 1, k, s =>
    if total ≤ k then (none, k, s)
    else
      match unit k s with
      | (.error f, t) => (some f, k, t)
      | (.ok _, t) => unitsFrom total unit n (k + 1) t

/-- VALID and DONE of PROG as an abandonment or a fault leaves them (R143). -/
def State.setProg (s : State) (th : ThreadId) (k : Nat) : State :=
  match s.topCtx th with
  | some x => (s.setTop th { x with progValid := true, progDone := BitVec.ofNat 30 k }).modSlot th.core th.slot fun y => { y with stale := false }
  | none => s

/-- The units that a block instruction skips (R143). -/
def Ctx.doneUnits (x : Ctx) : Nat := if x.progValid then x.progDone.toNat else 0

/-- A block instruction from where PROG says, over a number of units: it completes, is abandoned, or faults at a unit (R57, R110,
R143). DONE counts the units completed at completion too (log entry 51), and the end of the parcel clears VALID. -/
def runBlock (th : ThreadId) (x : Ctx) (total units : Nat) (unit : Nat → State → Except FaultInfo Unit × State) (s : State) : OpOut :=
  let k0 := x.doneUnits
  match unitsFrom total unit units k0 s with
  | (none, k, t) => if total ≤ k then .done (t.setProg th k) else .stay (t.setProg th k)
  | (some f, k, t) =>
    if notYet ≤ f.code ∧ k ≠ k0 then .stay (t.setProg th k)
    else .fault f (t.setProg th k)

/-- A block instruction with its checks before any unit, whose fault is at no word and leaves PROG; a length of 0 touches nothing and
raises no fault (R110, R143). -/
def blockRun (units : Nat) (total : Ctx → Nat) (before : Ctx → Except FaultInfo Unit)
    (unit : ThreadId → Ctx → Nat → State → Except FaultInfo Unit × State) : Op := fun th s0 =>
  let s := s0.freshProg th
  match s.topCtx th with
  | none => .stay s
  | some x =>
    if total x = 0 then .done s
    else
      match before x with
      | .error f => .fault f s
      | .ok _ => runBlock th x (total x) units (unit th x) s

/-- A misalignment, before any word is touched (R110). -/
def alignFirst (ok : Bool) : Except FaultInfo Unit := if ok then .ok () else .error { plainFault fALIGN with probe := true }

/-- A cursor is a multiple of a size. -/
def Cap.cursorAt (c : Cap) (n : Nat) : Bool := decide (c.w0.toNat % n = 0)

/-! ## Word accesses of block instructions -/

/-- A query at a byte offset from a capability's cursor; ADDRMODE is ignored (R78, R110). -/
def blockQuery (x : Ctx) (c : CReg) (off : Nat) (size : Nat) (kind : AccessKind) : Query :=
  { cap := x.getC c, creg := some c.val, am := 0, reg := c, disp := off, size := size, kind := kind, val := none }

/-- A target's answer to a store that is waited for: performed, or the fault's code (R39, R87, R208). -/
def State.waitedPut (s : State) (i : Issuer) (p : Place) (act : State → State) : Except Nat (Word × Tag) × State :=
  match region p.pa with
  | .page _ | .pcie => (.ok (0, .written), act s)
  | _ =>
    match s.waitedBar i p with
    | (some e, s1) => (.error e, s1)
    | (none, s1) => (.ok (0, .written), act s1)

/-- A waited store of a block instruction at its place: an undo record in the private region, else an output and a logged
response (R87, R109, R207). -/
def State.blockPut (s : State) (i : Issuer) (q : Query) (p : Place) (kind : Nat) (data : List Word) (act : State → State) :
    Except FaultInfo Unit × State :=
  if s.heldBack i.core p.pa then (.error (plainFault notYet), s)
  else if s.inPrivate i.core p.pa then (.ok (), s.outStore i.core kind p.pa 0xF data act)
  else
    match (s.emit i.core kind p.pa 0xF data id).respond i.core i.slot false fun t => t.waitedPut i p act with
    | (.ok _, s1) => (.ok (), s1)
    | (.error e, s1) => (.error (q.at_ p e), s1)

/-- A word store of MOVB or FILLB (R43, R55). -/
def State.blockWord (s : State) (i : Issuer) (q : Query) (w : Word) : Except FaultInfo Unit × State :=
  match s.locate i q with
  | (.error f, s1) => (.error f, s1)
  | (.ok p, s1) =>
    if s1.storeRefused p.pa true false then (.error (q.at_ p fBUS_ERROR), s1)
    else s1.blockPut i q p 1 [w] fun t => t.targetStore i p w

/-! ## The instructions -/

/-- A load then a store of one word: the tag of the source never moves (R47). -/
def movbUnit (ca cd : CReg) (th : ThreadId) (x : Ctx) (k : Nat) (s : State) : Except FaultInfo Unit × State :=
  let i := issuerOf th x
  match s.dataLoad i (blockQuery x ca (4 * k) 4 loads) with
  | (.error f, s1) => (.error f, s1)
  | (.ok w, s1) =>
    match s1.blockWord i (blockQuery x cd (4 * k) 4 stores) w with
    | (.error f, s2) => (.error f, if notYet ≤ f.code then s else s2)
    | (.ok u, s2) => (.ok u, s2)

/-- MOVB: db bytes, one word at a time at ascending addresses (R47, R109, R110). -/
def opMovb (cd ca : CReg) (b : DReg) (units : Nat) : Operation := blockOp .block (blockRun units
  (fun x => ((x.getD b).toNat + 3) / 4)
  (fun x => alignFirst ((x.getC cd).cursorAt 4 && (x.getC ca).cursorAt 4 && decide ((x.getD b).toNat % 4 = 0)))
  (movbUnit ca cd))

/-- MOVB issued by a thread. -/
def execMovb (th : ThreadId) (cd ca : CReg) (b : DReg) (units : Nat) (s : State) : Host.Outcome State Fault Refusal :=
  .next (s.issue th (.movb th cd ca b units) (opMovb cd ca b units))

/-- FILLB: da to each word (R109). -/
def opFillb (cd : CReg) (a b : DReg) (units : Nat) : Operation := blockOp .block (blockRun units
  (fun x => ((x.getD b).toNat + 3) / 4)
  (fun x => alignFirst ((x.getC cd).cursorAt 4 && decide ((x.getD b).toNat % 4 = 0)))
  (fun th x k s => s.blockWord (issuerOf th x) (blockQuery x cd (4 * k) 4 stores) (x.getD a)))

/-- FILLB issued by a thread. -/
def execFillb (th : ThreadId) (cd : CReg) (a b : DReg) (units : Nat) (s : State) : Host.Outcome State Fault Refusal :=
  .next (s.issue th (.fillb th cd a b units) (opFillb cd a b units))

/-- Bytes lo to hi - 1 of a word folded into a CRC, the lowest address first. -/
def crcWord (c w : Word) (lo hi : Nat) : Word :=
  (List.range 4).foldl (fun x j => if lo ≤ j ∧ j < hi then crcByte x (w.extractLsb' (8 * j) 8) else x) c

/-- The word at an index of the words that CRCB touches: only the bytes it folds are checked against the bounds, and every other
check applies to the word (R110). -/
def State.crcPlace (s : State) (i : Issuer) (q : Query) (lo hi wa : Nat) : Except FaultInfo Place × State :=
  match capCheck q.cap q.kind q.val with
  | .error code => (.error (q.fault code none none 0), s)
  | .ok _ =>
    let bd := decodeBounds q.cap
    if (lo : Int) < bd.base ∨ bd.top < (hi : Int) then (.error (q.fault fCAP_BOUNDS (some (word lo)) none 0), s)
    else s.translate i q wa

/-- CRCB's unit: the word that holds the next bytes, folded into the running value in dd. -/
def crcbUnit (d : DReg) (ca : CReg) (b : DReg) (th : ThreadId) (x : Ctx) (k : Nat) (s : State) : Except FaultInfo Unit × State :=
  let i := issuerOf th x
  let cur := (x.getC ca).w0.toNat
  let wa := cur / 4 * 4 + 4 * k
  let lo := max cur wa
  let hi := min (cur + (x.getD b).toNat) (wa + 4)
  let q := blockQuery x ca 0 4 loads
  match s.crcPlace i q lo hi wa with
  | (.error f, s1) => (.error f, s1)
  | (.ok p, s1) =>
    if s1.heldBack i.core p.pa then (.error (plainFault notYet), s1)
    else
      match s1.groupLoad i p 4 false with
      | (.error e, s2) => (.error (q.at_ p e), s2)
      | (.ok (w, _), s2) =>
        (.ok (), match s2.topCtx th with
          | some y => s2.setTop th (y.setD d (crcWord (y.getD d) w (lo - wa) (hi - wa)))
          | none => s2)

/-- CRCB: db bytes folded into dd (R109, R110). -/
def opCrcb (d : DReg) (ca : CReg) (b : DReg) (units : Nat) : Operation := blockOp .block (blockRun units
  (fun x => if x.getD b = 0 then 0 else ((x.getC ca).w0.toNat % 4 + (x.getD b).toNat + 3) / 4)
  (fun _ => .ok ())
  (crcbUnit d ca b))

/-- CRCB issued by a thread. -/
def execCrcb (th : ThreadId) (d : DReg) (ca : CReg) (b : DReg) (units : Nat) (s : State) : Host.Outcome State Fault Refusal :=
  .next (s.issue th (.crcb th d ca b units) (opCrcb d ca b units))

/-- TAGZ's unit: a doubleword of a target with tags (R40, R46). -/
def tagzUnit (cd : CReg) (th : ThreadId) (x : Ctx) (k : Nat) (s : State) : Except FaultInfo Unit × State :=
  let i := issuerOf th x
  let q := blockQuery x cd (8 * k) 8 stores
  match s.locate i q with
  | (.error f, s1) => (.error f, s1)
  | (.ok p, s1) =>
    if !(region p.pa).tagged || s1.storeRefused p.pa false false then (.error (q.at_ p fBUS_ERROR), s1)
    else if s1.heldBack i.core (p.pa + 4) then (.error (plainFault notYet), s1)
    else s1.blockPut i q p 10 [0, 0] fun t => t.memUnwrite (i.core.val / 8) p

/-- TAGZ: db bytes become Unwritten (R46, R109). -/
def opTagz (cd : CReg) (b : DReg) (units : Nat) : Operation := blockOp .always (blockRun units
  (fun x => ((x.getD b).toNat + 7) / 8)
  (fun x => alignFirst ((x.getC cd).cursorAt 8 && decide ((x.getD b).toNat % 8 = 0)))
  (tagzUnit cd))

/-- TAGZ issued by a thread. -/
def execTagz (th : ThreadId) (cd : CReg) (b : DReg) (units : Nat) (s : State) : Host.Outcome State Fault Refusal :=
  .next (s.issue th (.tagz th cd b units) (opTagz cd b units))

/-- PSTORE.N's check of its code destination, over the whole range of parcels (R110). -/
def pstoreCheck (c : Cap) (n : Nat) : Except Nat Unit :=
  let bd := decodeBounds c
  let a : Int := c.w0.toNat
  if !c.tag then .error fCAP_TAG
  else if c.sealed then .error fCAP_SEALED
  else if !(c.rX && c.rS) then .error fCAP_RIGHTS
  else if a < bd.base ∨ bd.top < a + (n : Int) then .error fCAP_BOUNDS
  else .ok ()

/-- A parcel is written to its code store, where fetch may still hold the old one until FENCE.C (R59, R110). -/
def State.storeParcel (s : State) (th : ThreadId) (adr : Nat) (p : Parcel) : State :=
  (s.putParcel adr p).modCove (codeIndex adr / 2 ^ 18) fun c =>
    { c with dirty := if c.dirty.contains (th, codeIndex adr) then c.dirty else c.dirty ++ [(th, codeIndex adr)] }

/-- PSTORE.N's unit: a source word is read, and its bits [28:0] are written as a parcel. -/
def pstoreUnit (cd ca : CReg) (th : ThreadId) (x : Ctx) (k : Nat) (s : State) : Except FaultInfo Unit × State :=
  match s.dataLoad (issuerOf th x) (blockQuery x ca (4 * k) 4 loads) with
  | (.error f, s1) => (.error f, s1)
  | (.ok w, s1) =>
    let adr := (x.getC cd).w0.toNat + k
    (.ok (), s1.emit th.core 11 adr 0xF [w] fun t => t.storeParcel th adr (w.setWidth 29))

/-- PSTORE.N: db parcels from successive source words (R109, R110). -/
def opPstoreN (cd ca : CReg) (b : DReg) (units : Nat) : Operation := blockOp .always (blockRun units
  (fun x => (x.getD b).toNat)
  (fun x =>
    match alignFirst ((x.getC ca).cursorAt 4) with
    | .error f => .error f
    | .ok _ =>
      match pstoreCheck (x.getC cd) (x.getD b).toNat with
      | .error e => .error (plainFault e)
      | .ok _ => .ok ())
  (pstoreUnit cd ca))

/-- PSTORE.N issued by a thread. -/
def execPstoreN (th : ThreadId) (cd ca : CReg) (b : DReg) (units : Nat) (s : State) : Host.Outcome State Fault Refusal :=
  .next (s.issue th (.pstoreN th cd ca b units) (opPstoreN cd ca b units))

end Sys2Proof.Machine
end

