-- ==== Sys2Proof/Machine/PhaseOps.lean ====
section
/-! DEFINITION. Phase operations (R80 to R82, R95, R96, R181), and the responses that a thread waits for from a block of the
device (R87, R128, R207). -/

namespace Sys2Proof.Machine

/-! ## Waited answers of blocks (R87, R207) -/

/-- The answer of a block to a thread: a word, or a fault without a data access. The thread waits for the response, and the
Tidemark logs it (R128, R207). -/
def answered (ask : State → Except Nat Word × State) (put : Ctx → Word → Ctx) : Op := fun th s =>
  let (r, s1) := s.respond th.core th.slot false fun t =>
    match ask (t.flit) with
    | (.ok w, t1) => (.ok (w, .written), t1)
    | (.error e, t1) => (.error e, t1)
  match r, s1.topCtx th with
  | .ok (w, _), some x =>
    .done ((s1.setTop th (put x w)).modSlot th.core th.slot fun y => { y with wait := .access })
  | .error e, _ => .fault (plainFault e) s1
  | _, none => .stay s

/-- A read request to a block outside the group, and its answer (R87, R207). -/
def requested (n : Nat) (data : List Word) (ask : State → Except Nat Word × State) (put : Ctx → Word → Ctx) : Op := fun th s =>
  answered ask put th (s.asks th.core n data)

/-- TIDE_AUTH lets a context use tides: tagged, a space capability of space 5, and a span that holds them all (R96). -/
def tideAuthCheck (c : Cap) (tides : List Nat) : Except Nat Unit :=
  if !c.tag then .error fCAP_TAG
  else if c.sealed then .error fCAP_SEALED
  else if !(c.isSpace && decide (c.space = 5)) then .error fCAP_RIGHTS
  else if tides.all fun t => c.spans t then .ok ()
  else .error fCAP_BOUNDS

/-! ## Sine and cosine (R82) -/

/-- 2π in units of 2^-96. -/
def twoPi : Nat := 497805226624462170461043889244

/-- The terms of the sine's series from a term on: x in units of 2^-96, over a number of terms. -/
def sineTerms (x2 : Int) : Int → Nat → Nat → Int
  | _, _, 0 => 0
  | term, k, n + 1 => term + sineTerms x2 (floorDiv (-(term * x2)) (2 ^ 96 * ((2 * k + 2) * (2 * k + 3) : Nat))) (k + 1) n

/-- The sine of a fraction of a turn below 1/4 turn, in units of 2^-96; the error is far below 2^-80. -/
def sineSeries (f : Nat) : Int :=
  let x : Int := (twoPi * f / 2 ^ 24 : Nat)
  sineTerms (floorDiv (x * x) (2 ^ 96)) x 0 22

/-- The floor of the sine in Q1.30 at a fraction of a turn, and whether it is exact there: a multiple of 1/4 turn. -/
def sineFloor (f : Nat) : Int × Bool :=
  let f := f % 2 ^ 24
  let q := 2 ^ 22
  if f % q = 0 then (match f / q with | 0 => 0 | 1 => 2 ^ 30 | 2 => 0 | _ => -(2 ^ 30), true)
  else
    let up := fun g => floorDiv (sineSeries g) (2 ^ 66)
    (match f / q with
      | 0 => up f
      | 1 => up (2 * q - f)
      | 2 => -(up (f - 2 * q)) - 1
      | _ => -(up (4 * q - f)) - 1, false)

/-- PSIN or PCOS of a phase word: any value within 2^-28 of the exact one, exact at multiples of 1/4 turn (R82, log entry 7). -/
def sineWord (cosine : Bool) (a : Word) : Word :=
  let f := fld a 23 0
  let (v, exact) := sineFloor (if cosine then f + 2 ^ 22 else f)
  if exact then BitVec.ofInt 32 v else BitVec.ofInt 32 (v - 3 + Config.sineOffset cosine f % 8)

/-! ## Conversion (R96, R181) -/

/-- The nearest integer to a / b for b above 0; a tie goes either way (log entry 6). -/
def nearestTie (a b : Int) : Int := if (2 * a) % (2 * b) = b then rdiv a b else nearest a b

/-- PCVT of an interval with both units as b names them; a conversion from a tide whose rate is zero has no stated result (R96,
log entry 43). -/
def State.pcvt (s : State) (a b : Word) : Word × State :=
  let src := fld b 3 0
  let dst := fld b 11 8
  let (sn, dn) := (bit b 4, bit b 12)
  if sn && dn then (a, s)
  else if (!sn && decide ((s.tide src).st = .off)) || (!dn && decide ((s.tide dst).st = .off)) then (0x80000000#32, s)
  else
    -- ticks = num / den
    let (rn, rd) := s.tideRate src
    let (num, den) : Int × Int := if sn then (a.toInt * 36, 5) else (a.toInt * 2 ^ 32 * rd, rn)
    if den ≤ 0 then s.drawWord
    else
      let (qn, qd) := s.tideRate dst
      let v := if dn then nearestTie (num * 5) (den * 36) else nearestTie (num * qn) (den * qd * 2 ^ 32)
      (BitVec.ofInt 32 (satInt 32 v).1, s)

/-- The tides that a PCVT names. -/
def pcvtTides (b : Word) : List Nat :=
  if bit b 4 && bit b 12 then [] else (if bit b 4 then [] else [fld b 3 0]) ++ (if bit b 12 then [] else [fld b 11 8])

/-! ## The operations -/

/-- PADD (R80, R95). -/
def opPadd (d a b : DReg) (nf : Bool) : Operation := plainOp (regOp fun x =>
  let r := x.getD a + x.getD b
  (x.setD d r).setF nf (phaseFlags x.flg r (decide (2 ^ 32 ≤ (x.getD a).toNat + (x.getD b).toNat))))

/-- PADD issued by a thread. -/
def execPadd (th : ThreadId) (d a b : DReg) (nf : Bool) (s : State) : Host.Outcome State Fault Refusal :=
  .next (s.issue th (.padd th d a b nf) (opPadd d a b nf))

/-- PSUB: C is 1 when a is below b (R95). -/
def opPsub (d a b : DReg) (nf : Bool) : Operation := plainOp (regOp fun x =>
  let r := x.getD a - x.getD b
  (x.setD d r).setF nf (phaseFlags x.flg r (decide (x.getD a < x.getD b))))

/-- PSUB issued by a thread. -/
def execPsub (th : ThreadId) (d a b : DReg) (nf : Bool) (s : State) : Host.Outcome State Fault Refusal :=
  .next (s.issue th (.psub th d a b nf) (opPsub d a b nf))

/-- PDIFF: the signed distance from b to a (R81). -/
def opPdiff (d a b : DReg) : Operation := plainOp (regOp fun x => x.setD d (BitVec.ofInt 32 (pdiff (x.getD a) (x.getD b))))

/-- PDIFF issued by a thread. -/
def execPdiff (th : ThreadId) (d a b : DReg) (s : State) : Host.Outcome State Fault Refusal :=
  .next (s.issue th (.pdiff th d a b) (opPdiff d a b))

/-- PSIN (R82). -/
def opPsin (d a : DReg) : Operation := groupOp .phase (regOp fun x => x.setD d (sineWord false (x.getD a)))

/-- PSIN issued by a thread. -/
def execPsin (th : ThreadId) (d a : DReg) (s : State) : Host.Outcome State Fault Refusal :=
  .next (s.issue th (.psin th d a) (opPsin d a))

/-- PCOS (R82). -/
def opPcos (d a : DReg) : Operation := groupOp .phase (regOp fun x => x.setD d (sineWord true (x.getD a)))

/-- PCOS issued by a thread. -/
def execPcos (th : ThreadId) (d a : DReg) (s : State) : Host.Outcome State Fault Refusal :=
  .next (s.issue th (.pcos th d a) (opPcos d a))

/-- PCVT (R96): TIDE_AUTH, then the conversion by the Tide Table. -/
def opPcvt (d a b : DReg) : Operation := groupOp .phase fun th s =>
  match s.topCtx th with
  | none => .stay s
  | some x =>
    match if pcvtTides (x.getD b) = [] then Except.ok () else tideAuthCheck x.tideAuth (pcvtTides (x.getD b)) with
    | .error e => .fault (plainFault e) s
    | .ok _ => requested 0 [x.getD a, x.getD b] (fun t => let (w, t1) := t.pcvt (x.getD a) (x.getD b); (.ok w, t1)) (fun y w => y.setD d w) th s

/-- PCVT issued by a thread. -/
def execPcvt (th : ThreadId) (d a b : DReg) (s : State) : Host.Outcome State Fault Refusal :=
  .next (s.issue th (.pcvt th d a b) (opPcvt d a b))

/-- PNOW: the predicted phase word of tide b[3:0] (R95, R96, R181). -/
def opPnow (d b : DReg) : Operation := plainOp fun th s =>
  match s.topCtx th with
  | none => .stay s
  | some x =>
    let t := fld (x.getD b) 3 0
    match tideAuthCheck x.tideAuth [t] with
    | .error e => .fault (plainFault e) s
    | .ok _ => requested t [] (fun u => (.ok (u.pnow t), u)) (fun y w => y.setD d w) th s

/-- PNOW issued by a thread. -/
def execPnow (th : ThreadId) (d b : DReg) (s : State) : Host.Outcome State Fault Refusal :=
  .next (s.issue th (.pnow th d b) (opPnow d b))

end Sys2Proof.Machine
end

