-- ==== Sys2Proof/Machine/Capability.lean ====
section
/-! DEFINITION. Capability operations (R25, R28, R101, R102), CMINT (R29, R30), and the handle and space operations (R103). -/

namespace Sys2Proof.Machine

/-- A derivation: cd := the result, or its fault (R25, R28). -/
def derive (cd : CReg) (f : Ctx → Except Nat Cap) : Op := regOrFault fun x =>
  match f x with
  | .ok c => .ok (x.setC cd c)
  | .error e => .error e

/-- CADD and CADDI: a free cursor where a modulo step leaves the ring (R79, log entry 13). -/
def capAddOp (cd ca : CReg) (v : Ctx → Int) : Op := fun th s =>
  match s.topCtx th with
  | none => .stay s
  | some x =>
    let (lost, s1) := if modLost (modeOf x.addrmode ca) (x.getC ca) (v x) then s.drawWord else (0, s)
    match capAdd (modeOf x.addrmode ca) (x.getC ca) (v x) lost with
    | .ok c => .done (s1.setTop th (x.setC cd c))
    | .error e => .fault (plainFault e) s

/-- The source of a CGET form (R101). -/
def Ctx.source (x : Ctx) : CapSrc → Cap
  | .reg c => x.getC c
  | .pcc => x.pcc

/-- CMOV (R25). -/
def opCmov (cd ca : CReg) : Operation := plainOp (regOp fun x => x.setC cd (x.getC ca))

/-- CMOV issued by a thread. -/
def execCmov (th : ThreadId) (cd ca : CReg) (s : State) : Host.Outcome State Fault Refusal :=
  .next (s.issue th (.cmov th cd ca) (opCmov cd ca))

/-- CADD (R25, R79). -/
def opCadd (cd ca : CReg) (b : DReg) : Operation := plainOp (capAddOp cd ca fun x => (x.getD b).toInt)

/-- CADD issued by a thread. -/
def execCadd (th : ThreadId) (cd ca : CReg) (b : DReg) (s : State) : Host.Outcome State Fault Refusal :=
  .next (s.issue th (.cadd th cd ca b) (opCadd cd ca b))

/-- CADDI (R25, R79). -/
def opCaddi (cd ca : CReg) (imm : BitVec 13) : Operation := plainOp (capAddOp cd ca fun _ => imm.toInt)

/-- CADDI issued by a thread. -/
def execCaddi (th : ThreadId) (cd ca : CReg) (imm : BitVec 13) (s : State) : Host.Outcome State Fault Refusal :=
  .next (s.issue th (.caddi th cd ca imm) (opCaddi cd ca imm))

/-- CSETC (R25). -/
def opCsetc (cd ca : CReg) (b : DReg) : Operation := plainOp (derive cd fun x => capSetC (x.getC ca) (x.getD b))

/-- CSETC issued by a thread. -/
def execCsetc (th : ThreadId) (cd ca : CReg) (b : DReg) (s : State) : Host.Outcome State Fault Refusal :=
  .next (s.issue th (.csetc th cd ca b) (opCsetc cd ca b))

/-- CSETBND (R24, R25). -/
def opCsetbnd (cd ca : CReg) (b : DReg) : Operation := plainOp (derive cd fun x => capSetBnd false (x.getC ca) (x.getD b))

/-- CSETBND issued by a thread. -/
def execCsetbnd (th : ThreadId) (cd ca : CReg) (b : DReg) (s : State) : Host.Outcome State Fault Refusal :=
  .next (s.issue th (.csetbnd th cd ca b) (opCsetbnd cd ca b))

/-- CSETBND.X (R24, R25). -/
def opCsetbndX (cd ca : CReg) (b : DReg) : Operation := plainOp (derive cd fun x => capSetBnd true (x.getC ca) (x.getD b))

/-- CSETBND.X issued by a thread. -/
def execCsetbndX (th : ThreadId) (cd ca : CReg) (b : DReg) (s : State) : Host.Outcome State Fault Refusal :=
  .next (s.issue th (.csetbndX th cd ca b) (opCsetbndX cd ca b))

/-- CANDR (R25). -/
def opCandr (cd ca : CReg) (imm : BitVec 7) : Operation := plainOp (derive cd fun x => capAndR (x.getC ca) (imm.toNat % 64))

/-- CANDR issued by a thread. -/
def execCandr (th : ThreadId) (cd ca : CReg) (imm : BitVec 7) (s : State) : Host.Outcome State Fault Refusal :=
  .next (s.issue th (.candr th cd ca imm) (opCandr cd ca imm))

/-- CSPAN (R25). -/
def opCspan (cd ca : CReg) (b : DReg) : Operation := plainOp (derive cd fun x => capSpan (x.getC ca) (x.getD b))

/-- CSPAN issued by a thread. -/
def execCspan (th : ThreadId) (cd ca : CReg) (b : DReg) (s : State) : Host.Outcome State Fault Refusal :=
  .next (s.issue th (.cspan th cd ca b) (opCspan cd ca b))

/-- CSEAL (R28). -/
def opCseal (cd ca cb : CReg) : Operation := plainOp (derive cd fun x => capSeal (x.getC ca) (x.getC cb))

/-- CSEAL issued by a thread. -/
def execCseal (th : ThreadId) (cd ca cb : CReg) (s : State) : Host.Outcome State Fault Refusal :=
  .next (s.issue th (.cseal th cd ca cb) (opCseal cd ca cb))

/-- CUNSEAL (R28). -/
def opCunseal (cd ca cb : CReg) : Operation := plainOp (derive cd fun x => capUnseal (x.getC ca) (x.getC cb))

/-- CUNSEAL issued by a thread. -/
def execCunseal (th : ThreadId) (cd ca cb : CReg) (s : State) : Host.Outcome State Fault Refusal :=
  .next (s.issue th (.cunseal th cd ca cb) (opCunseal cd ca cb))

/-- CGET.C (R102). -/
def opCgetC (d : DReg) (src : CapSrc) : Operation := plainOp (regOp fun x => x.setD d (capGetC (x.source src)))

/-- CGET.C issued by a thread. -/
def execCgetC (th : ThreadId) (d : DReg) (src : CapSrc) (s : State) : Host.Outcome State Fault Refusal :=
  .next (s.issue th (.cgetC th d src) (opCgetC d src))

/-- CGET.B (R102). -/
def opCgetB (d : DReg) (src : CapSrc) : Operation := plainOp (regOp fun x => x.setD d (capGetB (x.source src)))

/-- CGET.B issued by a thread. -/
def execCgetB (th : ThreadId) (d : DReg) (src : CapSrc) (s : State) : Host.Outcome State Fault Refusal :=
  .next (s.issue th (.cgetB th d src) (opCgetB d src))

/-- CGET.LAST (R102). -/
def opCgetLast (d : DReg) (src : CapSrc) : Operation := plainOp (regOp fun x => x.setD d (capGetLast (x.source src)))

/-- CGET.LAST issued by a thread. -/
def execCgetLast (th : ThreadId) (d : DReg) (src : CapSrc) (s : State) : Host.Outcome State Fault Refusal :=
  .next (s.issue th (.cgetLast th d src) (opCgetLast d src))

/-- CGET.R (R102). -/
def opCgetR (d : DReg) (src : CapSrc) : Operation := plainOp (regOp fun x => x.setD d (capGetR (x.source src)))

/-- CGET.R issued by a thread. -/
def execCgetR (th : ThreadId) (d : DReg) (src : CapSrc) (s : State) : Host.Outcome State Fault Refusal :=
  .next (s.issue th (.cgetR th d src) (opCgetR d src))

/-- CGET.OT (R102). -/
def opCgetOt (d : DReg) (src : CapSrc) : Operation := plainOp (regOp fun x => x.setD d (capGetOt (x.source src)))

/-- CGET.OT issued by a thread. -/
def execCgetOt (th : ThreadId) (d : DReg) (src : CapSrc) (s : State) : Host.Outcome State Fault Refusal :=
  .next (s.issue th (.cgetOt th d src) (opCgetOt d src))

/-- CGET.TAG (R102). -/
def opCgetTag (d : DReg) (src : CapSrc) : Operation := plainOp (regOp fun x => x.setD d (capGetTag (x.source src)))

/-- CGET.TAG issued by a thread. -/
def execCgetTag (th : ThreadId) (d : DReg) (src : CapSrc) (s : State) : Host.Outcome State Fault Refusal :=
  .next (s.issue th (.cgetTag th d src) (opCgetTag d src))

/-- CGET.E (R102). -/
def opCgetE (d : DReg) (ca : CReg) : Operation := plainOp (regOp fun x => x.setD d (capGetE (x.getC ca)))

/-- CGET.E issued by a thread. -/
def execCgetE (th : ThreadId) (d : DReg) (ca : CReg) (s : State) : Host.Outcome State Fault Refusal :=
  .next (s.issue th (.cgetE th d ca) (opCgetE d ca))

/-- CGRAN (R24, R102). -/
def opCgran (d a : DReg) : Operation := plainOp (regOp fun x => x.setD d (word (granule (x.getD a).toNat)))

/-- CGRAN issued by a thread. -/
def execCgran (th : ThreadId) (d a : DReg) (s : State) : Host.Outcome State Fault Refusal :=
  .next (s.issue th (.cgran th d a) (opCgran d a))

/-- CPCC: cd := PCC, cursor at this parcel (R101). -/
def opCpcc (cd : CReg) : Operation := plainOp (regOp fun x => x.setC cd x.pcc)

/-- CPCC issued by a thread. -/
def execCpcc (th : ThreadId) (cd : CReg) (s : State) : Host.Outcome State Fault Refusal :=
  .next (s.issue th (.cpcc th cd) (opCpcc cd))

/-! ## CMINT (R29, R30) -/

/-- How many objects a space has (R31). -/
def spaceSize : Nat → Nat
  | 0 => 64
  | 1 => 4096
  | 2 => 512
  | 3 => 4096
  | 4 => 2048
  | 5 => 16
  | 6 => 64
  | 7 => 32
  | 8 => 16
  | _ => 0

/-- The current generation of an object of space 1 to 4 (R30). -/
def State.objGen (s : State) (space n : Nat) : Gen :=
  match space with
  | 1 => (s.tenant n).gen
  | 2 => genOf s.chGens n
  | 3 => genOf s.entryGens n
  | _ => genOf s.srcGens n

/-- The checks of CMINT on its space capability (R29). -/
def mintCheck (c : Cap) (n : Nat) : Except Nat Unit :=
  if !c.tag then .error fCAP_TAG
  else if c.sealed then .error fCAP_SEALED
  else if !(c.isSpace && decide (1 ≤ c.space) && decide (c.space ≤ 4)) then .error fCAP_RIGHTS
  else if c.spans n && decide (n < spaceSize c.space) then .ok ()
  else .error fCAP_BOUNDS

/-- CMINT: a handle of the object's current generation, which the Cave answers; one whose generation has reached 0xF_FFFF is
refused. fn[0] asks for L and fn[1] for S (R29, R30, R101, log entry 46). -/
def opCmint (cd ca : CReg) (b : DReg) (rights : BitVec 2) : Operation := plainOp fun th s =>
  match s.topCtx th with
  | none => .stay s
  | some x =>
    let c := x.getC ca
    let n := (x.getD b).toNat
    match mintCheck c n with
    | .error e => .fault (plainFault e) s
    | .ok _ =>
      requested n [word c.space] (fun t =>
          let g := t.objGen c.space n
          (if g = 0xFFFFF#20 then .error fCAP_TAG else .ok (g.setWidth 32), t))
        (fun y w => y.setC cd (mkHandle c.space (w.setWidth 20) n (rights.getLsbD 0) (rights.getLsbD 1) c.rG)) th s

/-- CMINT issued by a thread. -/
def execCmint (th : ThreadId) (cd ca : CReg) (b : DReg) (rights : BitVec 2) (s : State) : Host.Outcome State Fault Refusal :=
  .next (s.issue th (.cmint th cd ca b rights) (opCmint cd ca b rights))

/-! ## Fields of objects (R103) -/

/-- A field of a channel, tide entry or event source, which its block reads behind its generation check (R29, R103). -/
def State.objRead (s : State) (h : Cap) (f : Nat) : Except Nat Word × State :=
  let n := h.hNum
  let (r, s1) : Option Word × State :=
    match h.otype with
    | 3 => s.chReadField n f
    | 4 => s.entryRead n f
    | _ => (if n < 2048 then (s.source n).field f else none, s)
  if s.objGen (h.otype - 1) n ≠ h.hGen ∨ spaceSize (h.otype - 1) ≤ n then (.error fCAP_TAG, s)
  else match r with
    | some w => (.ok w, s1)
    | none => (.error fCAP_BOUNDS, s)

/-- A write to such a field (R29, R103, R174). -/
def State.objWrite (s : State) (ten : TenantId) (h : Cap) (f : Nat) (v : Word) : Except Nat Word × State :=
  let n := h.hNum
  if s.objGen (h.otype - 1) n ≠ h.hGen ∨ spaceSize (h.otype - 1) ≤ n then (.error fCAP_TAG, s)
  else
    let r : Except Nat State :=
      match h.otype with
      | 3 => s.chWriteField ten n f v
      | 4 => s.entryWrite ten n f v
      | _ => if k : n < 2048 then s.srcWrite ten ⟨n, k⟩ f v else .error fCAP_TAG
    match r with
    | .ok t => (.ok 0, t)
    | .error e => (.error e, s)

/-- A field of a tide, output, modulator input or wave engine (R103). -/
def State.spaceRead (s : State) (space n f : Nat) : Except Nat Word × State :=
  let (r, s1) : Option Word × State :=
    match space with
    | 5 => s.tideRead n f
    | 6 => s.outRead n f
    | 7 => s.modRead n f
    | _ => s.waveRead n f
  match r with
  | some w => (.ok w, s1)
  | none => (.error fCAP_BOUNDS, s)

/-- A write to such a field (R103, R174). -/
def State.spaceWrite (s : State) (ten : TenantId) (space n f : Nat) (v : Word) : Except Nat Word × State :=
  let r : Except Nat State :=
    match space with
    | 5 => s.tideWrite ten n f v
    | 6 => s.outWrite ten n f v
    | 7 => s.modWrite ten n f v
    | _ => s.waveWrite ten n f v
  match r with
  | .ok t => (.ok 0, t)
  | .error e => (.error e, s)

/-- A write that a block performs for a thread: it leaves the group as an output, and its answer is a logged response (R103,
R207). -/
def told (kind pa : Nat) (data : List Word) (act : State → Except Nat Word × State) : Op := fun th s =>
  answered act (fun y _ => y) th (s.emit th.core kind pa 0xF data id)

/-- The OTYPEs of the handles that HLD and HST take (R103). -/
def fieldHandle (ot : Nat) : Bool := decide (3 ≤ ot) && decide (ot ≤ 5)

/-- With TUNIT 1 a COAL write by a Harbour tenant needs TIDE_AUTH over its tide (R228). -/
def coalBarred (x : Ctx) (v : Word) : Bool :=
  bit v 23 && decide (x.cur ≠ 0) && (match tideAuthCheck x.tideAuth [fld v 22 19] with
    | .ok _ => false
    | .error _ => true)

/-- SLD and SST: ca is a space capability of space 5 to 8 whose span contains the object (R103). -/
def spaceCheck (c : Cap) (n : Nat) : Except Nat Unit :=
  if !c.tag then .error fCAP_TAG
  else if c.sealed then .error fCAP_SEALED
  else if !(c.isSpace && decide (5 ≤ c.space) && decide (c.space ≤ 8)) then .error fCAP_RIGHTS
  else if c.spans n && decide (n < spaceSize c.space) then .ok ()
  else .error fCAP_BOUNDS

/-- HLD: dd := field db[7:0] of the handle's object (R103). -/
def opHld (d : DReg) (ca : CReg) (b : DReg) : Operation := plainOp fun th s =>
  match s.topCtx th with
  | none => .stay s
  | some x =>
    match handleCheck (x.getC ca) fieldHandle false with
    | .error e => .fault (plainFault e) s
    | .ok _ => requested (x.getC ca).hNum [(x.getC ca).w0, x.getD b] (fun t => t.objRead (x.getC ca) (fld (x.getD b) 7 0)) (fun y w => y.setD d w) th s

/-- HLD issued by a thread. -/
def execHld (th : ThreadId) (d : DReg) (ca : CReg) (b : DReg) (s : State) : Host.Outcome State Fault Refusal :=
  .next (s.issue th (.hld th d ca b) (opHld d ca b))

/-- An EN_CLR or a cleared mask bit of a source that has not taken effect yet (R234). -/
def State.evcOwesFor (s : State) (src : Fin 2048) : Bool :=
  decide ((s.source src).enClrAt ≠ []) || decide ((s.source src).maskClr ≠ [])

/-- What the thread of a handle write waits for: the response, which for a write of EN_CLR or MASK comes when the write has taken
effect (R87, R227, R234). -/
def State.writeWait (s : State) (h : Cap) (f : Nat) : Wait :=
  if k : h.otype = 5 ∧ h.hNum < 2048 then
    if (decide (f = 2) || (decide (7 ≤ f) && decide (f ≤ 10))) && s.evcOwesFor ⟨h.hNum, k.2⟩ then .event ⟨h.hNum, k.2⟩ else .access
  else .access

/-- HST: field db[7:0] := dd (R103, R228, R234). -/
def opHst (ca : CReg) (b d : DReg) : Operation := plainOp fun th s =>
  match s.topCtx th with
  | none => .stay s
  | some x =>
    let h := x.getC ca
    let f := fld (x.getD b) 7 0
    match handleCheck h fieldHandle true with
    | .error e => .fault (plainFault e) s
    | .ok _ =>
      if h.otype = 5 ∧ f = 5 ∧ coalBarred x (x.getD d) then .fault (plainFault fCAP_RIGHTS) s
      else match told 6 h.w0.toNat [word h.otype, word f, x.getD d] (fun t => t.objWrite x.cur h f (x.getD d)) th s with
        | .done t => .done (t.modSlot th.core th.slot fun y => { y with wait := t.writeWait h f })
        | o => o

/-- HST issued by a thread. -/
def execHst (th : ThreadId) (ca : CReg) (b d : DReg) (s : State) : Host.Outcome State Fault Refusal :=
  .next (s.issue th (.hst th ca b d) (opHst ca b d))

/-- SLD: dd := field db[23:16] of object db[15:0] (R103). -/
def opSld (d : DReg) (ca : CReg) (b : DReg) : Operation := plainOp fun th s =>
  match s.topCtx th with
  | none => .stay s
  | some x =>
    let c := x.getC ca
    let n := fld (x.getD b) 15 0
    match spaceCheck c n with
    | .error e => .fault (plainFault e) s
    | .ok _ => requested n [word c.space, x.getD b] (fun t => t.spaceRead c.space n (fld (x.getD b) 23 16)) (fun y w => y.setD d w) th s

/-- SLD issued by a thread. -/
def execSld (th : ThreadId) (d : DReg) (ca : CReg) (b : DReg) (s : State) : Host.Outcome State Fault Refusal :=
  .next (s.issue th (.sld th d ca b) (opSld d ca b))

/-- SST: field db[23:16] of object db[15:0] := dd (R103). -/
def opSst (ca : CReg) (b d : DReg) : Operation := plainOp fun th s =>
  match s.topCtx th with
  | none => .stay s
  | some x =>
    let c := x.getC ca
    let n := fld (x.getD b) 15 0
    let f := fld (x.getD b) 23 16
    match spaceCheck c n with
    | .error e => .fault (plainFault e) s
    | .ok _ => told 7 n [word c.space, word f, x.getD d] (fun t => t.spaceWrite x.cur c.space n f (x.getD d)) th s

/-- SST issued by a thread. -/
def execSst (th : ThreadId) (ca : CReg) (b d : DReg) (s : State) : Host.Outcome State Fault Refusal :=
  .next (s.issue th (.sst th ca b d) (opSst ca b d))

/-- A write to a source's COAL by the thread that holds its handle (R227, R228). -/
def opCoalWrite (src : Fin 2048) (v : Word) : Operation := plainOp fun th s =>
  match s.topCtx th with
  | none => .stay s
  | some x =>
    if coalBarred x v then .fault (plainFault fCAP_RIGHTS) s
    else told 6 src [5, 5, v] (fun t => match t.srcWrite x.cur src 5 v with
      | .ok u => (.ok 0, u)
      | .error e => (.error e, t)) th s

/-- A COAL write issued by a thread. -/
def execCoalWrite (th : ThreadId) (src : Fin 2048) (v : Word) (s : State) : Host.Outcome State Fault Refusal :=
  .next (s.issue th (.coalWrite th src v) (opCoalWrite src v))

/-! ## Tenant handles (R103) -/

/-- A tenant handle's generation is current at the tenant table (R29). -/
def State.tenantLive (s : State) (h : Cap) : Bool := decide ((s.tenant h.hNum).gen = h.hGen)

/-- TSTAT: dd := the tenant's state, as TEN_STATE (R33, R103). -/
def opTstat (d : DReg) (ca : CReg) : Operation := plainOp fun th s =>
  match s.topCtx th with
  | none => .stay s
  | some x =>
    let h := x.getC ca
    match handleCheck h (fun ot => decide (ot = 2)) false with
    | .error e => .fault (plainFault e) s
    | .ok _ => requested h.hNum [h.w0] (fun t => (if t.tenantLive h then .ok (t.tenState h.hNum) else .error fCAP_TAG, t)) (fun y w => y.setD d w) th s

/-- TSTAT issued by a thread. -/
def execTstat (th : ThreadId) (d : DReg) (ca : CReg) (s : State) : Host.Outcome State Fault Refusal :=
  .next (s.issue th (.tstat th d ca) (opTstat d ca))

/-- A handle command that has not been judged yet is waited for again in a replay (R34, R211). -/
def State.stillHeld (s : State) (th : ThreadId) : State :=
  if s.tenTable.held.any fun h => decide (h.handle = some th) then s.modSlot th.core th.slot fun y => { y with wait := .table } else s

/-- TSTOP and TRESUME: the handle and its generation, then the command, whose judgement the thread waits for (R34, R103). -/
def tenantOp (cmd : TenCmd) (code : Word) (ca : CReg) : Op := fun th s =>
  match s.topCtx th with
  | none => .stay s
  | some x =>
    let h := x.getC ca
    match handleCheck h (fun ot => decide (ot = 2)) true with
    | .error e => .fault (plainFault e) s
    | .ok _ =>
      match (s.asks th.core h.hNum [h.w0]).respond th.core th.slot false fun t => (if t.tenantLive h then .ok (0, .written) else .error fCAP_TAG, t.flit) with
      | (.error e, s1) => .fault (plainFault e) s1
      | (.ok _, s1) =>
        let again := s1.replaying th.core
        let s2 := s1.emit th.core 8 h.hNum 0xF [code] fun t => t.tenHandle cmd (BitVec.ofNat 12 h.hNum) th
        .done (if again then s2.stillHeld th else s2)

/-- TSTOP (R103). -/
def opTstop (ca : CReg) : Operation := plainOp (tenantOp .stop 3 ca)

/-- TSTOP issued by a thread. -/
def execTstop (th : ThreadId) (ca : CReg) (s : State) : Host.Outcome State Fault Refusal :=
  .next (s.issue th (.tstop th ca) (opTstop ca))

/-- TRESUME (R103). -/
def opTresume (ca : CReg) : Operation := plainOp (tenantOp .resume 4 ca)

/-- TRESUME issued by a thread. -/
def execTresume (th : ThreadId) (ca : CReg) (s : State) : Host.Outcome State Fault Refusal :=
  .next (s.issue th (.tresume th ca) (opTresume ca))

end Sys2Proof.Machine
end

