-- ==== Sys2Proof/Machine/Control.lean ====
section
/-! DEFINITION. Branches and transfers (R97, R104), sleep, wake and waits (R104, R105, R134, R182), TMARK (R104 to R106), and
TRAP and RFE (R138, R141). -/

namespace Sys2Proof.Machine

/-! ## Branches (R97) -/

/-- The address of the top context's parcel plus an offset in parcels, in PCC; refused where R19 refuses it. -/
def branchTo (x : Ctx) (cove : Nat) (off : BitVec 17) : Except Nat Cap :=
  let a := (x.pcc.w0.toNat : Int) + off.toInt
  if targetOk x.pcc a cove then .ok (x.pcc.withCursor (BitVec.ofInt 32 a)) else .error fCAP_BOUNDS

/-- PCC with its cursor at the next parcel: the return capability of BL and JRL (R104). -/
def Ctx.link (x : Ctx) : Cap := x.pcc.withCursor (x.pcc.w0 + 1)

/-- B: a taken branch sets PCC (R97). -/
def opB (cond : BitVec 4) (off : BitVec 17) : Operation := plainOp fun th s =>
  match s.topCtx th with
  | none => .stay s
  | some x =>
    if condHolds x.flg cond then
      match branchTo x (th.core / 8) off with
      | .ok p => .jump (s.setTop th { x with pcc := p })
      | .error e => .fault (plainFault e) s
    else .done s

/-- B issued by a thread. -/
def execB (th : ThreadId) (cond : BitVec 4) (off : BitVec 17) (s : State) : Host.Outcome State Fault Refusal :=
  .next (s.issue th (.b th cond off) (opB cond off))

/-- BL: c7 takes the return capability, then as B (R97). -/
def opBl (cond : BitVec 4) (off : BitVec 17) : Operation := plainOp fun th s =>
  match s.topCtx th with
  | none => .stay s
  | some x =>
    if condHolds x.flg cond then
      match branchTo x (th.core / 8) off with
      | .ok p => .jump (s.setTop th { x.setC 7 x.link with pcc := p })
      | .error e => .fault (plainFault e) s
    else .done s

/-- BL issued by a thread. -/
def execBl (th : ThreadId) (cond : BitVec 4) (off : BitVec 17) (s : State) : Host.Outcome State Fault Refusal :=
  .next (s.issue th (.bl th cond off) (opBl cond off))

/-- JR: PCC := ca (R104). -/
def opJr (ca : CReg) : Operation := plainOp fun th s =>
  match s.topCtx th with
  | none => .stay s
  | some x =>
    match jumpCheck (x.getC ca) (th.core / 8) with
    | .ok _ => .jump (s.setTop th { x with pcc := x.getC ca })
    | .error e => .fault (plainFault e) s

/-- JR issued by a thread. -/
def execJr (th : ThreadId) (ca : CReg) (s : State) : Host.Outcome State Fault Refusal := .next (s.issue th (.jr th ca) (opJr ca))

/-- JRL: c7 := PCC with cursor + 1, then PCC := ca as it was before, where ca is c7 too (R104; log entry 127). -/
def opJrl (ca : CReg) : Operation := plainOp fun th s =>
  match s.topCtx th with
  | none => .stay s
  | some x =>
    match jumpCheck (x.getC ca) (th.core / 8) with
    | .ok _ => .jump (s.setTop th { x.setC 7 x.link with pcc := x.getC ca })
    | .error e => .fault (plainFault e) s

/-- JRL issued by a thread. -/
def execJrl (th : ThreadId) (ca : CReg) (s : State) : Host.Outcome State Fault Refusal := .next (s.issue th (.jrl th ca) (opJrl ca))

/-! ## TRAP and RFE (R138, R141) -/

/-- TRAP n at level 0: its entry is read through TVEC and must be a code capability; a failure is a fault of the parcel
(R138). -/
def opTrap (n : BitVec 8) : Operation := plainOp fun th s =>
  match s.topCtx th with
  | none => .stay s
  | some x =>
    if x.ts.level ≠ 0 then .fault (plainFault fRESERVED_OP) s
    else
      match s.capLoad (issuerOf th x) (devQuery x.tvec (0x40 + 8 * (n.toNat : Int))) with
      | (.error f, s1) => .fault { f with probe := false } s1
      | (.ok c, s1) =>
        if !c.tag then .fault (plainFault fCAP_TAG) s1
        else if c.sealed then .fault (plainFault fCAP_SEALED) s1
        else if !c.rX then .fault (plainFault fCAP_RIGHTS) s1
        else .trap n.toNat c s1

/-- TRAP issued by a thread. -/
def execTrap (th : ThreadId) (n : BitVec 8) (s : State) : Host.Outcome State Fault Refusal := .next (s.issue th (.trap th n) (opTrap n))

/-- The registers that a handler gives back to the context below (R141): PROG.VALID clears where the new PCC is not the resume
point. -/
def Ctx.resumed (below x : Ctx) : Ctx :=
  let back := fun (c : Vector Cap 8) (i : Fin 8) => c.set i.val x.c[i.val]
  { below with
    d := x.d, c := ([1, 2, 3, 4, 5] : List (Fin 8)).foldl back below.c, flg := x.flg, pcc := x.getC 7
    progValid := below.progValid && decide ((x.getC 7).w0 = resumeAt below (fld x.record[0] 5 0)) }

/-- The level below the top context of a slot: a level-2 context's record says what it was entered from (R136). -/
def State.levelBelow (s : State) (th : ThreadId) : Fin 3 :=
  if ((s.core th.core).slot th.slot).top = 2 then s.fromLevel th.core th.slot else 0

/-- A thread whose tenant was stopped while an escalation ran parks at its return (R35, R154); in a replay the log says so. -/
def State.parkStopped (s : State) (th : ThreadId) : State :=
  if !s.replaying th.core ∧ (s.tenant (s.topCur th.core th.slot).toNat).st = .stopped then s.parkSlot th.core th.slot none else s

/-- RFE: the handler context is dropped, and the context below goes on at c7 (R141). A context below that was spilled is filled
for it, and the bank that the handler leaves is free for the fill; a bad word there holds the slot, whose RFE is then still to
come (R123, R124, log entry 44). -/
def opRfe : Operation := supOp fun th s =>
  match s.topCtx th with
  | none => .stay s
  | some x =>
    if x.ts.level = 0 then .fault (plainFault fRESERVED_OP) s
    else
      match jumpCheck (x.getC 7) (th.core / 8) with
      | .error e => .fault (plainFault e) s
      | .ok _ =>
        let lv := s.levelBelow th
        let top := ((s.core th.core).slot th.slot).top
        let s1 := if ((s.core th.core).ctx th.slot lv).isSome then s
          else (s.modCore th.core fun c => c.dropCtx th.slot top).fill th.core th.slot lv
        match (s1.core th.core).ctx th.slot lv with
        | none => .stay (s.fill th.core th.slot lv)
        | some below =>
          let s2 := s1.modCore th.core fun c =>
            let c1 := (c.dropCtx th.slot top).setCtx th.slot lv (below.resumed x)
            c1.setSlot th.slot { c1.slot th.slot with top := lv, buf := [], answers := [], given := [] }
          .stay (if top = 2 then s2.parkStopped th else s2)

/-- RFE issued by a thread. -/
def execRfe (th : ThreadId) (s : State) : Host.Outcome State Fault Refusal := .next (s.issue th (.rfe th) opRfe)

/-! ## Sleep, wake and TMARK (R104, R105, R134) -/

/-- The handler contexts above a thread's level 0 are dropped (R105, R154). -/
def State.dropHandlers (s : State) (k : Nat) (sl : Fin 8) : State :=
  s.modCore k fun c =>
    let c1 := (c.dropCtx sl 1).dropCtx sl 2
    c1.setSlot sl { c1.slot sl with top := 0, buf := [], answers := [], given := [], wait := .none }

/-- SLEEP in the event slot: the service ends, PCC goes back to the entry capability and the slot is idle (R105, R130, R233). Where a
trap or fault handler executes it, the handler contexts above level 0 end with the service (log entry 15). -/
def State.endHandler (s : State) (th : ThreadId) : State :=
  let s0 := if ((s.core th.core).slot th.slot).top = 0 then s else s.dropHandlers th.core th.slot
  let s1 := match s0.topCtx th with
    | some x => s0.setTop th { x with pcc := x.entry, ts := { x.ts with h := false, wp := false } }
    | none => s0
  let s2 := s1.modSlot th.core th.slot fun y => { y with st := .sleeping }
  s2.emit th.core 5 0 0 [] fun t => t.endService th.core

/-- SLEEP: H clears, and the thread sleeps unless a wake is pending, which it clears (R104, R134). -/
def opSleep : Operation := plainOp fun th s =>
  match s.topCtx th with
  | none => .stay s
  | some x =>
    if th.slot = 0 then .jump (s.endHandler th)
    else
      let s1 := s.setTop th { x with ts := { x.ts with h := false } }
      .done (if x.ts.wp then s1.threadWp th.core th.slot false else s1.modSlot th.core th.slot fun y => { y with st := .sleeping })

/-- SLEEP issued by a thread. -/
def execSleep (th : ThreadId) (s : State) : Host.Outcome State Fault Refusal := .next (s.issue th (.sleep th) opSleep)

/-- WAKE: the thread in slot da[2:0] of the same core, if its tenant is the waker's (R104). -/
def opWake (a : DReg) : Operation := plainOp fun th s =>
  match s.topCtx th with
  | none => .stay s
  | some x => .done (s.wakeBy x.cur th.core (slotOf (x.getD a).toNat))

/-- WAKE issued by a thread. -/
def execWake (th : ThreadId) (a : DReg) (s : State) : Host.Outcome State Fault Refusal := .next (s.issue th (.wake th a) (opWake a))

/-- TMARK: a checkpoint of the group, for whose commit the thread waits; while another is pending it waits its turn (R104 to
R106, R213). -/
def opTmark : Operation := supOp fun th s =>
  match s.topCtx th with
  | none => .stay s
  | some x =>
    if (s.core th.core).tm.st = .run then
      let s1 := s.setTop th { x with pcc := x.link, progValid := false }
      .stay ((s1.modSlot th.core th.slot fun y => { y with wait := .commit, answers := [], given := [] }).checkpoint th.core)
    else .stay s

/-- TMARK issued by a thread. -/
def execTmark (th : ThreadId) (s : State) : Host.Outcome State Fault Refusal := .next (s.issue th (.tmark th) opTmark)

/-! ## Waits on a tide (R104, R105, R182) -/

/-- The wait that the Tide Table already holds for a slot whose WAIT.TIDE is executed again in a replay (R182, R211). -/
def Tidemark.heldWait (t : Tidemark) (sl : Fin 8) (i : Fin 16) : Option TideWait :=
  (t.waits.find? fun e => decide (e.1 = sl.val) && decide (e.2.tide = i)).map (·.2)

/-- The target of a wait for a fraction of a turn: the next moment at which the tide has it (R182). -/
def State.waitTarget (s : State) (i : Nat) (frac : Nat) : Word :=
  let now := s.tideWord i
  now + word ((frac + 2 ^ 24 - fld now 23 0) % 2 ^ 24)

/-- A wait on a tide is accepted; one that completes at once is done already (R182). -/
def waitOp (tideFrac : Ctx → Nat × Nat) : Op := fun th s =>
  match s.topCtx th with
  | none => .stay s
  | some x =>
    let (t, frac) := tideFrac x
    let i : Fin 16 := ⟨t % 16, Nat.mod_lt _ (by decide)⟩
    if th.slot = 0 then .fault (plainFault fRESERVED_OP) s
    else
      match tideAuthCheck x.tideAuth [i.val] with
      | .error e => .fault (plainFault e) s
      | .ok _ =>
        let target := s.waitTarget i frac
        let fresh : TideWait := { tide := i, target := target, done := (s.tide i).still || decide (target = s.tideWord i) }
        let w := if s.replaying th.core then ((s.core th.core).tm.heldWait th.slot i).getD { fresh with done := false } else fresh
        .done (s.modSlot th.core th.slot fun y => { y with st := .waiting, tideWait := some w })

/-- WAIT.TIDE: the tide and FRAC[23:7] are immediates (R104). -/
def opWaitTide (t : Fin 16) (imm : BitVec 17) : Operation := plainOp (waitOp fun _ => (t.val, imm.toNat * 128))

/-- WAIT.TIDE issued by a thread. -/
def execWaitTide (th : ThreadId) (t : Fin 16) (imm : BitVec 17) (s : State) : Host.Outcome State Fault Refusal :=
  .next (s.issue th (.waitTide th t imm) (opWaitTide t imm))

/-- WAIT.TIDE.R: tide da[3:0], FRAC from db[23:0] (R104). -/
def opWaitTideR (a b : DReg) : Operation := plainOp (waitOp fun x => (fld (x.getD a) 3 0, fld (x.getD b) 23 0))

/-- WAIT.TIDE.R issued by a thread. -/
def execWaitTideR (th : ThreadId) (a b : DReg) (s : State) : Host.Outcome State Fault Refusal :=
  .next (s.issue th (.waitTideR th a b) (opWaitTideR a b))

/-- A wait completes when the prediction reaches its target, or when its tide stands still (R182). In standby the completion is
held at the crossing (R306); a group that rolls back, replays, copies or is gated gets it afterwards (R211, R218, R305). -/
def execWaitComplete (th : ThreadId) (at_ : Nat) (s : State) : Host.Outcome State Fault Refusal :=
  let s1 := s.advance at_
  match ((s1.core th.core).slot th.slot).tideWait with
  | none => .next s1
  | some w =>
    if !(w.done || (s1.tide w.tide).still || s1.reached w.tide w.target) then .next s1
    else if s1.takesInput th.core then .next (s1.waitEnds th.core th.slot)
    else .next ((s1.modSlot th.core th.slot fun y => { y with tideWait := some { w with done := true } }).holdWake
      { core := th.core, slot := th.slot, wait := true })

end Sys2Proof.Machine
end

