-- ==== Sys2Proof/Machine/Fences.lean ====
section
/-! DEFINITION. Fences: what each begins, and when it completes (R59, R108, R168, R234, R312). -/

namespace Sys2Proof.Machine

/-- A thread waits for a fence (R108). -/
def State.awaitFence (s : State) (th : ThreadId) (k : FenceKind) : State :=
  s.modSlot th.core th.slot fun y => { y with wait := .fence k }

/-- A fence whose condition the completion judges. -/
def fenceOp (k : FenceKind) : Op := fun th s => .done (s.awaitFence th k)

/-- FENCE.L (R59). -/
def opFenceL : Operation := plainOp (fenceOp .l)

/-- FENCE.L issued by a thread. -/
def execFenceL (th : ThreadId) (s : State) : Host.Outcome State Fault Refusal := .next (s.issue th (.fenceL th) opFenceL)

/-- FENCE.M (R59). -/
def opFenceM : Operation := plainOp (fenceOp .m)

/-- FENCE.M issued by a thread. -/
def execFenceM (th : ThreadId) (s : State) : Host.Outcome State Fault Refusal := .next (s.issue th (.fenceM th) opFenceM)

/-- FENCE.IO (R59). -/
def opFenceIo : Operation := plainOp (fenceOp .io)

/-- FENCE.IO issued by a thread. -/
def execFenceIo (th : ThreadId) (s : State) : Host.Outcome State Fault Refusal := .next (s.issue th (.fenceIo th) opFenceIo)

/-- FENCE.T (R59). -/
def opFenceT : Operation := plainOp (fenceOp .t)

/-- FENCE.T issued by a thread. -/
def execFenceT (th : ThreadId) (s : State) : Host.Outcome State Fault Refusal := .next (s.issue th (.fenceT th) opFenceT)

/-! ## FENCE.C (R59, R119, R120) -/

/-- A cove's parcels that a thread has overwritten since its last FENCE.C. -/
def Cove.written (c : Cove) (th : ThreadId) : List Nat := (c.dirty.filter fun e => decide (e.1 = th)).map (·.2)

/-- A buffer holds one of a list of parcels. -/
def holdsAny (l : List Nat) (buf : List Fetched) : Bool := buf.any fun f => l.contains (codeIndex f.adr)

/-- A core's fetch buffers that hold an overwritten parcel are discarded, and its vector buffer is to be reloaded if it holds
one. -/
def Core.refetch (c : Core) (l : List Nat) : Core :=
  { c with
    arch := { c.arch with slots := c.arch.slots.map fun x => if holdsAny l x.buf then { x with buf := [] } else x }
    vvalid := c.vvalid && !holdsAny l c.vbuf }

/-- FENCE.C in a cove: the buffers of its cores. -/
def State.refetchCove (s : State) (th : ThreadId) (n : Nat) : State :=
  let l := (s.cove n).written th
  if l = [] then s else (s.leaders n).foldl (fun t k => t.modCore k fun c => c.refetch l) s

/-- FENCE.C (R59). -/
def opFenceC : Operation := plainOp fun th s =>
  .done (((List.range 16).foldl (fun t n => t.refetchCove th n) s).awaitFence th .c)

/-- FENCE.C issued by a thread. -/
def execFenceC (th : ThreadId) (s : State) : Host.Outcome State Fault Refusal := .next (s.issue th (.fenceC th) opFenceC)

/-! ## Completion -/

/-- A vector buffer still holds an overwritten parcel and waits to be reloaded. -/
def State.vectorOwed (s : State) (th : ThreadId) (n : Nat) : Bool :=
  let l := (s.cove n).written th
  (s.leaders n).any fun k => !(s.core k).vvalid && holdsAny l (s.core k).vbuf && decide (((s.core k).slot 0).st ≠ .empty)

/-- A write to the EVC that it has not acknowledged yet: it does so when the write has taken effect (R234). -/
def State.evcOwes (s : State) : Bool :=
  s.sources.cells.any fun e => decide (e.2.enClrAt ≠ []) || decide (e.2.maskClr ≠ [])

/-- A posted store to a register page or a device window, or through an entry marked DEV (R159). -/
def Posted.device (p : Posted) : Bool :=
  p.dev || (match region p.pa with
    | .page _ | .xspi | .pcie => true
    | _ => false)

/-- The condition of a fence (R59): the thread's own posted stores (R129) have been accepted by their targets (R87), every core has
acknowledged the thread's invalidations, and no buffer waits to be reloaded. -/
def State.fenceDone (s : State) (th : ThreadId) (k : FenceKind) : Bool :=
  let posted := (s.core th.core).posted.filter fun p => decide (p.slot = th.slot)
  match k with
  | .l => !(posted.any fun p => decide (region p.pa = .sram (th.core / 8)))
  | .m => decide (posted = [])
  | .io => !(posted.any Posted.device) && !s.evcOwes
  | .t => !(s.tlbis.any fun b => decide (b.core = th.core.val) && decide (b.slot = th.slot.val))
  | .c => !((List.range 16).any fun n => s.vectorOwed th n)

/-- What a completed fence leaves: FENCE.M has written the cove's cluster cache back and invalidated it (R59), and makes the Cave's stores durable (R312), and a FENCE.C that overwrote parcels advances the
configuration epoch (R318). -/
def State.fenceEffect (s : State) (th : ThreadId) (k : FenceKind) : State :=
  match k with
  | .m => { s.cacheFlush (th.core / 8) with undurable := [] }
  | .c =>
    let mine := (List.range 16).filter fun n => decide ((s.cove n).written th ≠ [])
    let s1 := mine.foldl (fun t n => t.modCove n fun c => { c with dirty := c.dirty.filter fun e => decide (e.1 ≠ th) }) s
    if mine = [] then s1 else s1.epochAdvance
  | _ => s

/-- A fence completes, and its thread is eligible again (R108). -/
def execFenceComplete (th : ThreadId) (s : State) : Host.Outcome State Fault Refusal :=
  match ((s.core th.core).slot th.slot).wait with
  | .fence k =>
    .next (if s.fenceDone th k then (s.fenceEffect th k).modSlot th.core th.slot fun y => { y with wait := .none } else s)
  | _ => .next s

end Sys2Proof.Machine
end

