-- ==== Sys2Proof/Machine/Gates.lean ====
section
/-! DEFINITION. Gates (R144 to R149): GCALL, GRET and the unwinding of crossing frames (R36); and TEN_CMD's completion, which
for RETIRE discards and unwinds threads (R34, R36). -/

namespace Sys2Proof.Machine

/-! ## The descriptor (R144, R146, R147) -/

/-- CHK of an argument, with its MINLEN (R144). -/
structure ArgCheck where
  chk : Word
  minLen : Word
deriving DecidableEq, Repr

/-- A gate descriptor (R144). -/
structure Gate96 where
  entry : Cap
  data : Cap
  stack : Cap
  tvec : Cap
  tide : Cap
  callee : Word
  mode : Word
  args : List ArgCheck
deriving DecidableEq, Repr

/-- A capability of the descriptor, read through the gate's register under the caller's TENANT.CUR: steps 2 to 6 of R55 (R144, R146). -/
def State.gateCap (s : State) (i : Issuer) (ca : CReg) (va : Nat) : Except FaultInfo Cap × State :=
  let q : Query := { devQuery Cap.null 0 with creg := some ca.val }
  match s.translate i q va with
  | (.error f, s1) => (.error f, s1)
  | (.ok p, s1) =>
    if s1.heldBack i.core p.pa || s1.heldBack i.core (p.pa + 4) then (.error (plainFault notYet), s1)
    else
      match s1.capFrom i p with
      | (.ok c, s2) => (.ok c, s2)
      | (.error e, s2) => (.error (q.at_ p e), s2)

/-- A word of the descriptor. -/
def State.gateWord (s : State) (i : Issuer) (ca : CReg) (va : Nat) : Except FaultInfo Word × State :=
  let q : Query := { devQuery Cap.null 0 with creg := some ca.val, size := 4, kind := { load := true, store := false, cap := false } }
  match s.translate i q va with
  | (.error f, s1) => (.error f, s1)
  | (.ok p, s1) =>
    if s1.heldBack i.core p.pa then (.error (plainFault notYet), s1)
    else
      match s1.groupLoad i p 4 false with
      | (.ok (w, _), s2) => (.ok w, s2)
      | (.error e, s2) => (.error (q.at_ p e), s2)

/-- Capabilities of the descriptor, in order. -/
def State.gateCaps (s : State) (i : Issuer) (ca : CReg) : List Nat → Except FaultInfo (List Cap) × State
  | [] => (.ok [], s)
  | a :: r =>
    match s.gateCap i ca a with
    | (.error f, s1) => (.error f, s1)
    | (.ok c, s1) =>
      match s1.gateCaps i ca r with
      | (.error f, s2) => (.error f, s2)
      | (.ok l, s2) => (.ok (c :: l), s2)

/-- Words of the descriptor, in order. -/
def State.gateWords (s : State) (i : Issuer) (ca : CReg) : List Nat → Except FaultInfo (List Word) × State
  | [] => (.ok [], s)
  | a :: r =>
    match s.gateWord i ca a with
    | (.error f, s1) => (.error f, s1)
    | (.ok w, s1) =>
      match s1.gateWords i ca r with
      | (.error f, s2) => (.error f, s2)
      | (.ok l, s2) => (.ok (w :: l), s2)

/-- The descriptor at an address (R144). -/
def State.gateRead (s : State) (i : Issuer) (ca : CReg) (a : Nat) : Except FaultInfo Gate96 × State :=
  match s.gateCaps i ca [a, a + 8, a + 0x10, a + 0x18, a + 0x20] with
  | (.error f, s1) => (.error f, s1)
  | (.ok l, s1) =>
    match s1.gateWords i ca ([a + 0x28, a + 0x2C] ++ (List.range 10).map fun n => a + 0x30 + 4 * n) with
    | (.error f, s2) => (.error f, s2)
    | (.ok w, s2) =>
      (.ok { entry := l.getD 0 Cap.null, data := l.getD 1 Cap.null, stack := l.getD 2 Cap.null, tvec := l.getD 3 Cap.null,
             tide := l.getD 4 Cap.null, callee := w.getD 0 0, mode := w.getD 1 0
             args := (List.range 5).map fun k => { chk := w.getD (2 + 2 * k) 0, minLen := w.getD (3 + 2 * k) 0 } }, s2)

/-- The number of the check that an argument fails, or 0 (R147). -/
def ArgCheck.fails (k : ArgCheck) (c : Cap) : Nat :=
  let ot := fld k.chk 12 7
  let bd := decodeBounds c
  if !bit k.chk 31 then 0
  else if !c.tag then (if bit k.chk 30 then 0 else 1)
  else if (if ot ≠ 0 then !c.sealed || decide (c.otype ≠ ot) else c.sealed) then 2
  else if fld k.chk 6 0 &&& c.rights ≠ fld k.chk 6 0 then 3
  else if !c.sealed && !(decide (bd.base ≤ (c.w0.toNat : Int)) && decide ((k.minLen.toNat : Int) ≤ bd.top - c.w0.toNat)) then 4
  else 0

/-- An argument as it is passed: an untagged one under NULLOK is the null capability (R147). -/
def ArgCheck.pass (k : ArgCheck) (c : Cap) : Cap := if bit k.chk 31 && !c.tag then Cap.null else c

/-- The first argument that fails, by its number, with its check; `n` is the number of the list's first (R147). -/
def firstFailing (x : Ctx) : Nat → List ArgCheck → Option (Nat × Nat)
  | _, [] => none
  | n, k :: r =>
    let f := k.fails (x.getC ⟨n % 8, Nat.mod_lt _ (by decide)⟩)
    if f = 0 then firstFailing x (n + 1) r else some (n, f)

/-- The arguments as they are passed. -/
def passArgs (x : Ctx) : Nat → List ArgCheck → Ctx
  | _, [] => x
  | n, k :: r =>
    let i : CReg := ⟨n % 8, Nat.mod_lt _ (by decide)⟩
    passArgs (x.setC i (k.pass (x.getC i))) (n + 1) r

/-! ## Crossing frames (R145, R148, R149) -/

/-- XSTK lets the device at a frame: tagged, unsealed, with L, S, LC and SC, aligned, inside its bounds and the SRAM (R146,
R149). -/
def frameOk (c : Cap) (o : Int) : Bool := physOk c o 64 (c.rL && c.rS && c.rLC && c.rSC) && decide (o % 64 = 0)

/-- A crossing frame (R148). -/
structure Crossing where
  pcc : Cap
  c0 : Cap
  c6 : Cap
  c7 : Cap
  tvec : Cap
  tide : Cap
  caller : Word
  addrmode : Word
  callee : Word
  state : Word
deriving DecidableEq, Repr

/-- A tenant and its generation as one word (R144). -/
def State.tenantTag (s : State) (t : TenantId) : Word := at_ (s.tenant t.toNat).gen.toNat 12 ||| at_ t.toNat 0

/-- The tenant of such a word. -/
def tagTenant (w : Word) : TenantId := BitVec.ofNat 12 (fld w 11 0)

/-- The generation of such a word is current. -/
def State.tagLive (s : State) (w : Word) : Bool := decide (s.tenantTag (tagTenant w) = w)

/-- The frame at an offset: unreadable where a word is Unwritten or Poisoned or the saved PCC is untagged (R149); or that one
must wait. -/
def State.frameAt (s : State) (i : Issuer) (o : Nat) : Except Nat Crossing × State :=
  match s.ownCaps i [o, o + 8, o + 0x10, o + 0x18, o + 0x20, o + 0x28] with
  | (.error e, s1) => (.error e, s1)
  | (.ok l, s1) =>
    match s1.ownWords i [o + 0x30, o + 0x34, o + 0x38, o + 0x3C] with
    | (.error e, s2) => (.error e, s2)
    | (.ok w, s2) =>
      let p := l.getD 0 Cap.null
      if !p.tag then (.error fUNWRITTEN_READ, s2)
      else
        (.ok { pcc := p, c0 := l.getD 1 Cap.null, c6 := l.getD 2 Cap.null, c7 := l.getD 3 Cap.null, tvec := l.getD 4 Cap.null
               tide := l.getD 5 Cap.null, caller := w.getD 0 0, addrmode := w.getD 1 0, callee := w.getD 2 0
               state := w.getD 3 0 }, s2)

/-- XSTK's cursor moved by one frame (R148, R149). -/
def Ctx.moveStack (x : Ctx) (by_ : Int) : Ctx :=
  { x with xstk := x.xstk.withCursor (BitVec.ofInt 32 ((x.xstk.w0.toNat : Int) + 64 * by_))
           ts := { x.ts with xdepth := BitVec.ofInt 7 ((x.ts.xdepth.toNat : Int) + by_) } }

/-- GRET restores what the frame holds (R149); `pc` is the cursor that PCC takes. The frame holds no FLG, and FLG carries the results
back unchanged (R148, R149), though R104 says that GRET restores it (log entry 128). -/
def Ctx.uncross (x : Ctx) (f : Crossing) (pc : Word) : Ctx :=
  { ((((x.moveStack (-1)).setC 0 f.c0).setC 6 f.c6).setC 7 f.c7) with
    pcc := f.pcc.withCursor pc, tvec := f.tvec, tideAuth := f.tide, cur := tagTenant f.caller
    addrmode := f.addrmode.setWidth 24
    ts := { (x.moveStack (-1)).ts with h := bit f.state 1, m := bit f.state 0 } }

/-- What unwinding comes to: the restored context at the caller's GCALL, an unreadable frame, or that one must wait (R36). -/
inductive Unwound where
  | live (x : Ctx)
  | unreadable (x : Ctx)
  | waits
deriving DecidableEq, Repr

/-- Unwinding from the innermost frame (R36 step 5), over at most a number of frames. -/
def State.unwind (s : State) (i : Issuer) (x : Ctx) : Nat → Unwound × State
  | 0 => (.unreadable x, s)
  | n + 1 =>
    let o : Int := (x.xstk.w0.toNat : Int) - 64
    if x.ts.xdepth = 0 ∨ !frameOk x.xstk o then (.unreadable x, s)
    else
      match s.frameAt i o.toNat with
      | (.error e, s1) => (if e = notYet then .waits else .unreadable x, s1)
      | (.ok f, s1) =>
        let (r, s2) := (s1.asks i.core (tagTenant f.caller).toNat [f.caller]).respond i.core i.slot false fun t => (.ok (if t.tagLive f.caller then 1 else 0, .written), t)
        match r with
        | .ok (w, _) => if w = 0 then s2.unwind i (x.moveStack (-1)) n else (.live (x.uncross f (f.pcc.w0 - 1)), s2)
        | .error _ => (.unreadable x, s2)

/-- The end of an unwinding: 0x12 GATE_STACK with DETAIL 4 at the caller's GCALL, or escalation with DETAIL 3 (R36, R149). -/
def unwoundOut (th : ThreadId) (u : Unwound) (s : State) : OpOut :=
  match u with
  | .live x =>
    let s1 := s.setTop th x
    .fault ((plainFault fGATE_STACK 4).ofParcel (s1.parcelNow x) 0) s1
  | .unreadable x => .escalate (plainFault fGATE_STACK 3) fGATE_STACK (s.setTop th x)
  | .waits => .fault (plainFault notYet) s

/-! ## GCALL (R146 to R148) -/

/-- Step 2 of R146. -/
def gateCheck (c : Cap) : Except Nat Unit :=
  let bd := decodeBounds c
  let cur : Int := c.w0.toNat
  if !c.tag then .error fCAP_TAG
  else if !c.sealed || decide (c.otype ≠ 1) then .error fCAP_SEALED
  else if !(c.rL && c.rLC) then .error fCAP_RIGHTS
  else if cur < bd.base ∨ bd.top < cur + 96 then .error fCAP_BOUNDS
  else if c.w0.toNat % 8 ≠ 0 then .error fALIGN
  else .ok ()

/-- The frame that GCALL writes (R148). -/
def State.frameStore (s : State) (i : Issuer) (x : Ctx) (g : Gate96) : State :=
  let a := x.xstk.w0.toNat
  let caps := [x.link, x.getC 0, x.getC 6, x.getC 7, x.tvec, x.tideAuth]
  let words := [s.tenantTag x.cur, x.addrmode.setWidth 32, g.callee, flagAt x.ts.h 1 ||| flagAt x.ts.m 0]
  let s1 := s.deviceCaps i (caps.mapIdx fun n c => (ownPlace i.core (a + 8 * n), c))
  s1.deviceWords i (words.mapIdx fun n w => (ownPlace i.core (a + 0x30 + 4 * n), w))

/-- The context that GCALL makes of the caller's (R148). -/
def Ctx.cross (x : Ctx) (g : Gate96) : Ctx :=
  let y := passArgs (x.moveStack 1) 1 g.args
  { (((y.setC 0 g.data).setC 6 g.stack).setC 7 Cap.null) with
    pcc := g.entry, tvec := g.tvec, tideAuth := g.tide, cur := tagTenant g.callee, addrmode := 0
    ts := { y.ts with m := bit g.mode 0 } }

/-- A crossing parks while the tenant that it crosses to is STOPPED, or where it calls BUILDING (R35); in a replay the log says
so. -/
def State.crossingParks (s : State) (k : Nat) (t : TenantId) (call : Bool) : Bool :=
  let st := (s.tenant t.toNat).st
  !s.replaying k && (decide (st = .stopped) || (call && decide (st = .building)))

/-- Steps 5 to 7 of R146 and the crossing (R148). -/
def gateCross (th : ThreadId) (x : Ctx) (g : Gate96) (s : State) : OpOut :=
  if 64 ≤ x.ts.xdepth.toNat then .fault (plainFault fXSTK_LIMIT) s
  else if !frameOk x.xstk x.xstk.w0.toNat then .fault (plainFault fGATE_STACK 2) s
  else
    match firstFailing x 1 g.args with
    | some (k, n) => .fault (plainFault fGATE_ARG (k + 16 * n)) s
    | none => .jump ((s.frameStore (issuerOf th x) x g).setTop th (x.cross g))

/-- GCALL (R146): the checks in their order, a callee that is not running parks the thread before the call takes effect, and
then the crossing. -/
def opGcall (ca : CReg) : Operation := plainOp fun th s =>
  match s.topCtx th with
  | none => .stay s
  | some x =>
    let c := x.getC ca
    if x.ts.level ≠ 0 then .fault (plainFault fGATE_STACK 5) s
    else
      match gateCheck c with
      | .error e => .fault (plainFault e) s
      | .ok _ =>
        match s.gateRead (issuerOf th x) ca c.w0.toNat with
        | (.error f, s1) => .fault { f with probe := false } s1
        | (.ok g, s1) =>
          match (s1.asks th.core (tagTenant g.callee).toNat [g.callee]).respond th.core th.slot false fun t => (if t.tagLive g.callee then .ok (0, .written) else .error fCAP_TAG, t) with
          | (.error e, s2) => .fault (plainFault e) s2
          | (.ok _, s2) =>
            if s2.crossingParks th.core (tagTenant g.callee) true then .stay (s.parkSlot th.core th.slot (some (tagTenant g.callee)))
            else gateCross th x g s2

/-- GCALL issued by a thread. -/
def execGcall (th : ThreadId) (ca : CReg) (s : State) : Host.Outcome State Fault Refusal :=
  .next (s.issue th (.gcall th ca) (opGcall ca))

/-! ## GRET (R149) -/

/-- GRET (R149): the checks in their order; a stopped caller parks the thread (R35), a caller that is gone unwinds the stack to the
innermost live one, which parks the thread in the same way where it is stopped, and otherwise the frame is restored. -/
def opGret : Operation := plainOp fun th s =>
  match s.topCtx th with
  | none => .stay s
  | some x =>
    let i := issuerOf th x
    let o : Int := (x.xstk.w0.toNat : Int) - 64
    if x.ts.level ≠ 0 then .fault (plainFault fGATE_STACK 5) s
    else if x.ts.xdepth = 0 then .fault (plainFault fGATE_STACK 1) s
    else if !frameOk x.xstk o then .fault (plainFault fGATE_STACK 2) s
    else
      match s.frameAt i o.toNat with
      | (.error e, s1) => if e = notYet then .fault (plainFault notYet) s1 else .fault (plainFault fGATE_STACK 3) s1
      | (.ok f, s1) =>
        if s1.crossingParks th.core (tagTenant f.caller) false then .stay (s.parkSlot th.core th.slot (some (tagTenant f.caller)))
        else
          match (s1.asks th.core (tagTenant f.caller).toNat [f.caller]).respond th.core th.slot false fun t => (.ok (if t.tagLive f.caller then 1 else 0, .written), t) with
          | (.ok (w, _), s2) =>
            if w = 0 then
              match s2.unwind i x 128 with
              | (.live y, s3) =>
                if s3.crossingParks th.core y.cur false then .stay (s.parkSlot th.core th.slot (some y.cur)) else unwoundOut th (.live y) s3
              | (u, s3) => unwoundOut th u s3
            else .jump (s2.setTop th (x.uncross f f.pcc.w0))
          | (.error e, s2) => .fault (plainFault e) s2

/-- GRET issued by a thread. -/
def execGret (th : ThreadId) (s : State) : Host.Outcome State Fault Refusal := .next (s.issue th (.gret th) opGret)

/-! ## TEN_CMD completes (R34, R36) -/

/-- Some frame of a thread's stack was written by a crossing into a tenant, or its context is inside one (R36 step 5): over at
most a number of frames, from an offset down. -/
def State.framesInto (s : State) (k : Nat) (t : TenantId) : Nat → Nat → Bool
  | 0, _ => false
  | n + 1, o =>
    if o < 64 then false
    else decide (tagTenant (s.wordAt (coveBase (k / 8) + (o - 64) + 0x38)) = t) || s.framesInto k t n (o - 64)

/-- A parked thread of another tenant is inside a gate call into a tenant. -/
def State.insideCall (s : State) (k : Nat) (sl : Fin 8) (t : TenantId) : Bool :=
  let x := s.anyCtx k sl 0
  let slot := (s.core k).slot sl
  decide (slot.st = .parked ∨ (slot.st = .held ∧ slot.prior = .parked)) && decide (x.ts.xdepth ≠ 0) && decide (x.home ≠ t)
    && (decide (x.cur = t) || s.framesInto k t x.ts.xdepth.toNat (x.xstk.w0.toNat % 0x200000))

/-- A parked thread that has been unwound takes its fault, and goes on where its tenant lets it. -/
def Slot.unwound (x : Slot) : Slot := if x.st = .held ∨ x.st = .parked then { x with under := .active, tideWait := none, crossing := none, before := none } else x

/-- A parked thread inside a call into a retired tenant is unwound (R36 step 5). -/
def State.unwindParked (s : State) (k : Fin 128) (sl : Fin 8) : State :=
  let th : ThreadId := { core := k, slot := sl }
  let s1 := s.dropHandlers k sl
  let s2 := if ((s1.core k).ctx sl 0).isSome then s1 else s1.fill k sl 0
  match (s2.core k).ctx sl 0 with
  | none => s2
  | some x =>
    let (u, s3) := s2.unwind (issuerOf th x) x 128
    let s4 := (s3.settleOp th (s3.parcelNow x) 0 false [] (unwoundOut th u s3)).modSlot k sl Slot.unwound
    s4.unparkSlot k sl

/-- The threads of the device that hold a context, those that a lost or stopped group keeps among them (R153, R219). -/
def State.allThreads (s : State) : List (Fin 128 × Fin 8) :=
  let ks : List (Fin 128) := (List.range 128).filterMap fun k => if h : k < 128 then some ⟨k, h⟩ else none
  ks.flatMap fun k : Fin 128 => (slots8.filter fun sl => decide (((s.core k.val).slot sl).st ≠ .empty)).map fun sl => (k, sl)

/-- Steps 4 and 5 of R36 for a retired tenant. -/
def State.retireThreads (s : State) (t : TenantId) : State :=
  let s1 := s.allThreads.foldl (fun u p => if u.homeOf p.1 p.2 = t then u.dropSlot p.1 p.2 else u) s
  s1.allThreads.foldl (fun u p => if u.insideCall p.1 p.2 t then u.unwindParked p.1 p.2 else u) s1

/-- Threads that a crossing parked go on where they may (R35). -/
def State.unparkCrossings (s : State) (t : TenantId) : State :=
  s.allThreads.foldl (fun u p =>
    if ((u.core p.1).slot p.2).crossing = some t ∧ u.takesInput p.1 then u.unparkSlot p.1 p.2 else u) s

/-- What a command of the tenant table still waits for: its broadcast, or a group that it has not reached (R34); a gated group has
recorded it for its ungating (R305). -/
def State.tenUnfinished (s : State) (t : TenantId) : Bool :=
  (s.tlbis.any fun b => decide (b.core = notACore) && decide (b.ten = t))
    || ((List.range 128).any fun k => !(s.core k).gated && (s.core k).arrivals.any fun a => decide (a.ten = t))

/-- The command in progress takes full effect: RESULT reads DONE and the held commands are judged (R34, R36). -/
def State.tenComplete (s : State) : State :=
  match s.tenTable.current with
  | none => s
  | some h =>
    if s.tenUnfinished h.ten then s
    else
      let s1 := match h.cmd with
        | .retire =>
          let s2 := s.retireThreads h.ten
          (s2.setTenant h.ten.toNat { s2.tenant h.ten.toNat with st := .free }).unparkCrossings h.ten
        | .start | .resume => s.unparkCrossings h.ten
        | _ => s
      let s3 : State := { s1 with tenTable := { s1.tenTable with
        current := none, result := if h.handle.isSome then s1.tenTable.result else 0 } }
      s3.tenDrain (s3.tenTable.held.length + 1)

/-- The tenant command in progress completes. -/
def execTenCmdComplete (s : State) : Host.Outcome State Fault Refusal := .next s.tenComplete

end Sys2Proof.Machine
end

