-- ==== Sys2Proof/Machine/Multiply.lean ====
section
/-! DEFINITION. Multiply, MAC, divide and square root (R93, R94). -/

namespace Sys2Proof.Machine

/-- d := r with the flags of the Multiply and MAC class (R74, R93). -/
def Ctx.product (x : Ctx) (d : DReg) (nf : Bool) (r : Word) (sat : Bool) : Ctx := (x.setD d r).setF nf (mulFlags x.flg r sat)

/-- d := an exact value clamped to the signed 32-bit range (R93). -/
def Ctx.product32 (x : Ctx) (d : DReg) (nf : Bool) (v : Int) : Ctx :=
  x.product d nf (BitVec.ofInt 32 (satInt 32 v).1) (satInt 32 v).2

/-- The register after an even one. -/
def highReg (d : DReg) : DReg := ⟨(d.val + 1) % 16, Nat.mod_lt _ (by decide)⟩

/-- The 64-bit accumulator {d+1, d} as a signed number (R93). -/
def Ctx.acc64 (x : Ctx) (d : DReg) : Int := pair64 (x.getD (highReg d)) (x.getD d)

/-- {d+1, d} := an exact value clamped to the signed 64-bit range (R93). -/
def Ctx.setAcc64 (x : Ctx) (d : DReg) (nf : Bool) (v : Int) : Ctx :=
  let r := BitVec.ofInt 64 (satInt 64 v).1
  ((x.setD d (r.setWidth 32)).setD (highReg d) ((r >>> 32).setWidth 32)).setF nf (mulFlags64 x.flg r (satInt 64 v).2)

/-- MAC.L and MSUB.L need an even d (R93). -/
def evenOnly (d : DReg) (f : Ctx → Ctx) : Ctx → Except Nat Ctx := fun x => if d.val % 2 = 0 then .ok (f x) else .error fRESERVED_OP

/-- A division, refused for a zero divisor (R94). -/
def divided (d b : DReg) (f : Ctx → Word) : Ctx → Except Nat Ctx :=
  fun x => if x.getD b = 0 then .error fDIV_ZERO else .ok (x.setD d (f x))

/-- MUL: the low 32 bits of the product (R93). -/
def opMul (d a b : DReg) (nf : Bool) : Operation := plainOp (regOp fun x => x.product d nf (x.getD a * x.getD b) false)

/-- MUL issued by a thread. -/
def execMul (th : ThreadId) (d a b : DReg) (nf : Bool) (s : State) : Host.Outcome State Fault Refusal :=
  .next (s.issue th (.mul th d a b nf) (opMul d a b nf))

/-- MULH: the high 32 bits of the signed product (R93). -/
def opMulh (d a b : DReg) (nf : Bool) : Operation := plainOp (regOp fun x => x.product d nf (BitVec.ofInt 32 (floorDiv (mulInt (x.getD a) (x.getD b)) (2 ^ 32))) false)

/-- MULH issued by a thread. -/
def execMulh (th : ThreadId) (d a b : DReg) (nf : Bool) (s : State) : Host.Outcome State Fault Refusal :=
  .next (s.issue th (.mulh th d a b nf) (opMulh d a b nf))

/-- MULHU: the high 32 bits of the unsigned product (R93). -/
def opMulhu (d a b : DReg) (nf : Bool) : Operation := plainOp (regOp fun x => x.product d nf (word ((x.getD a).toNat * (x.getD b).toNat / 2 ^ 32)) false)

/-- MULHU issued by a thread. -/
def execMulhu (th : ThreadId) (d a b : DReg) (nf : Bool) (s : State) : Host.Outcome State Fault Refusal :=
  .next (s.issue th (.mulhu th d a b nf) (opMulhu d a b nf))

/-- MULQ: sat32 of (a × b) >> 30 (R93). -/
def opMulq (d a b : DReg) (nf : Bool) : Operation := plainOp (regOp fun x => x.product32 d nf (mulQ30 (x.getD a) (x.getD b)))

/-- MULQ issued by a thread. -/
def execMulq (th : ThreadId) (d a b : DReg) (nf : Bool) (s : State) : Host.Outcome State Fault Refusal :=
  .next (s.issue th (.mulq th d a b nf) (opMulq d a b nf))

/-- MULI: the low 32 bits of a × imm13, signed (R93). -/
def opMuli (d a : DReg) (imm : BitVec 13) (nf : Bool) : Operation := plainOp (regOp fun x => x.product d nf (x.getD a * imm.signExtend 32) false)

/-- MULI issued by a thread. -/
def execMuli (th : ThreadId) (d a : DReg) (imm : BitVec 13) (nf : Bool) (s : State) : Host.Outcome State Fault Refusal :=
  .next (s.issue th (.muli th d a imm nf) (opMuli d a imm nf))

/-- MAC: d := d + a × b, wrapping (R93). -/
def opMac (d a b : DReg) (nf : Bool) : Operation := groupOp .mac (regOp fun x => x.product d nf (x.getD d + x.getD a * x.getD b) false)

/-- MAC issued by a thread. -/
def execMac (th : ThreadId) (d a b : DReg) (nf : Bool) (s : State) : Host.Outcome State Fault Refusal :=
  .next (s.issue th (.mac th d a b nf) (opMac d a b nf))

/-- MSUB: d := d − a × b, wrapping (R93). -/
def opMsub (d a b : DReg) (nf : Bool) : Operation := groupOp .mac (regOp fun x => x.product d nf (x.getD d - x.getD a * x.getD b) false)

/-- MSUB issued by a thread. -/
def execMsub (th : ThreadId) (d a b : DReg) (nf : Bool) (s : State) : Host.Outcome State Fault Refusal :=
  .next (s.issue th (.msub th d a b nf) (opMsub d a b nf))

/-- MAC.Q: d := sat32(d + ((a × b) >> 30)) (R93). -/
def opMacQ (d a b : DReg) (nf : Bool) : Operation := groupOp .mac (regOp fun x => x.product32 d nf ((x.getD d).toInt + mulQ30 (x.getD a) (x.getD b)))

/-- MAC.Q issued by a thread. -/
def execMacQ (th : ThreadId) (d a b : DReg) (nf : Bool) (s : State) : Host.Outcome State Fault Refusal :=
  .next (s.issue th (.macQ th d a b nf) (opMacQ d a b nf))

/-- MSUB.Q: d := sat32(d − ((a × b) >> 30)) (R93). -/
def opMsubQ (d a b : DReg) (nf : Bool) : Operation := groupOp .mac (regOp fun x => x.product32 d nf ((x.getD d).toInt - mulQ30 (x.getD a) (x.getD b)))

/-- MSUB.Q issued by a thread. -/
def execMsubQ (th : ThreadId) (d a b : DReg) (nf : Bool) (s : State) : Host.Outcome State Fault Refusal :=
  .next (s.issue th (.msubQ th d a b nf) (opMsubQ d a b nf))

/-- MAC.L: the 64-bit accumulator plus a × b, clamped (R93). -/
def opMacL (d a b : DReg) (nf : Bool) : Operation := groupOp .mac (regOrFault (evenOnly d fun x => x.setAcc64 d nf (x.acc64 d + mulInt (x.getD a) (x.getD b))))

/-- MAC.L issued by a thread. -/
def execMacL (th : ThreadId) (d a b : DReg) (nf : Bool) (s : State) : Host.Outcome State Fault Refusal :=
  .next (s.issue th (.macL th d a b nf) (opMacL d a b nf))

/-- MSUB.L: the 64-bit accumulator less a × b, clamped (R93). -/
def opMsubL (d a b : DReg) (nf : Bool) : Operation := groupOp .mac (regOrFault (evenOnly d fun x => x.setAcc64 d nf (x.acc64 d - mulInt (x.getD a) (x.getD b))))

/-- MSUB.L issued by a thread. -/
def execMsubL (th : ThreadId) (d a b : DReg) (nf : Bool) (s : State) : Host.Outcome State Fault Refusal :=
  .next (s.issue th (.msubL th d a b nf) (opMsubL d a b nf))

/-- DIV: signed, rounded toward zero (R94). -/
def opDiv (d a b : DReg) : Operation := groupOp .divsq (regOrFault (divided d b fun x => divRes (x.getD a) (x.getD b)))

/-- DIV issued by a thread. -/
def execDiv (th : ThreadId) (d a b : DReg) (s : State) : Host.Outcome State Fault Refusal :=
  .next (s.issue th (.div th d a b) (opDiv d a b))

/-- DIVU: unsigned (R94). -/
def opDivu (d a b : DReg) : Operation := groupOp .divsq (regOrFault (divided d b fun x => x.getD a / x.getD b))

/-- DIVU issued by a thread. -/
def execDivu (th : ThreadId) (d a b : DReg) (s : State) : Host.Outcome State Fault Refusal :=
  .next (s.issue th (.divu th d a b) (opDivu d a b))

/-- REM: the signed remainder with the sign of a (R94). -/
def opRem (d a b : DReg) : Operation := groupOp .divsq (regOrFault (divided d b fun x => remRes (x.getD a) (x.getD b)))

/-- REM issued by a thread. -/
def execRem (th : ThreadId) (d a b : DReg) (s : State) : Host.Outcome State Fault Refusal :=
  .next (s.issue th (.rem th d a b) (opRem d a b))

/-- REMU: the unsigned remainder (R94). -/
def opRemu (d a b : DReg) : Operation := groupOp .divsq (regOrFault (divided d b fun x => x.getD a % x.getD b))

/-- REMU issued by a thread. -/
def execRemu (th : ThreadId) (d a b : DReg) (s : State) : Host.Outcome State Fault Refusal :=
  .next (s.issue th (.remu th d a b) (opRemu d a b))

/-- SQRT: the floor of the square root, unsigned (R94). -/
def opSqrt (d a : DReg) : Operation := groupOp .divsq (regOp fun x => x.setD d (word (isqrt (x.getD a).toNat)))

/-- SQRT issued by a thread. -/
def execSqrt (th : ThreadId) (d a : DReg) (s : State) : Host.Outcome State Fault Refusal :=
  .next (s.issue th (.sqrt th d a) (opSqrt d a))

/-- SQRT.Q: the floor of √(a × 2^30), 0 for a negative value (R94). -/
def opSqrtQ (d a : DReg) : Operation := groupOp .divsq (regOp fun x => x.setD d (sqrtQRes (x.getD a)))

/-- SQRT.Q issued by a thread. -/
def execSqrtQ (th : ThreadId) (d a : DReg) (s : State) : Host.Outcome State Fault Refusal :=
  .next (s.issue th (.sqrtQ th d a) (opSqrtQ d a))

end Sys2Proof.Machine
end

