-- ==== Sys2Proof/Machine/SysRegs.lean ====
section
/-! DEFINITION. The moves to and from the system registers (R106), with what R117, R126, R133, R142 and R161 add to them. -/

namespace Sys2Proof.Machine

/-- CORE_SLOT: the number of the group's lowest-numbered member, and the slot (R106). -/
def coreSlotWord (th : ThreadId) : Word := at_ th.core.val 0 ||| at_ th.slot.val 7

/-- A data system register as a thread reads it (R106), or the fault. -/
def State.readData (s : State) (th : ThreadId) (x : Ctx) (n : Nat) : Except Nat Word :=
  match n with
  | 0 => .ok (x.flg.setWidth 32)
  | 1 => .ok (x.addrmode.setWidth 32)
  | 2 => .ok (progWord x)
  | 3 => .ok x.ts.toWord
  | 4 => .ok (tenantWord x.home x.cur)
  | 5 => if x.ts.m then .ok (s.core th.core).arch.wheel else .error fPRIV
  | 6 => if x.ts.m then .ok (s.core th.core).bankWord else .error fPRIV
  | 7 => .ok (coreSlotWord th)
  | _ => .error fRESERVED_OP

/-- THREAD_STATE written by MTS: M, H, PF and PCODE (R133). -/
def ThreadState.moved (t : ThreadState) (v : Word) : ThreadState :=
  { t with m := bit v 0, h := bit v 1, pf := bit v 2, pcode := BitVec.ofNat 6 (fld v 11 6) }

/-- The page of a thread's core is owned by its tenant (R117, R126). -/
def State.ownsCore (s : State) (th : ThreadId) (x : Ctx) : Bool := decide ((s.frame (corePage th.core)).owner = x.cur)

/-- A write of a data system register (R106, R117, R126, R133), or the fault. -/
def State.writeData (s : State) (th : ThreadId) (x : Ctx) (n : Nat) (v : Word) : Except Nat State :=
  match n with
  | 0 => .ok (s.setTop th { x with flg := v.setWidth 4 })
  | 1 => .ok (s.setTop th { x with addrmode := v.setWidth 24 })
  | 3 =>
    if !x.ts.m then .error fPRIV
    else if th.slot = 0 ∧ bit v 1 ∧ x.cur ≠ 0 then .error fPRIV
    else .ok (s.setTop th { x with ts := x.ts.moved v })
  | 5 =>
    if !x.ts.m || !s.ownsCore th x then .error fPRIV
    else if 16 < wheelSum v then .error fRESERVED_OP
    else .ok (s.wheelPut th.core v)
  | 6 => if !x.ts.m || !s.ownsCore th x then .error fPRIV else .ok (s.bankWrite th.core v)
  | _ => .error fRESERVED_OP

/-- MFS: dd := data system register n (R106). -/
def opMfs (d : DReg) (n : BitVec 13) : Operation := plainOp fun th s =>
  match s.topCtx th with
  | none => .stay s
  | some x =>
    match s.readData th x n.toNat with
    | .ok w => .done (s.setTop th (x.setD d w))
    | .error e => .fault (plainFault e) s

/-- MFS issued by a thread. -/
def execMfs (th : ThreadId) (d : DReg) (n : BitVec 13) (s : State) : Host.Outcome State Fault Refusal :=
  .next (s.issue th (.mfs th d n) (opMfs d n))

/-- MTS: data system register n := da (R106). -/
def opMts (n : BitVec 13) (a : DReg) : Operation := plainOp fun th s =>
  match s.topCtx th with
  | none => .stay s
  | some x =>
    match s.writeData th x n.toNat (x.getD a) with
    | .ok t => .done t
    | .error e => .fault (plainFault e) s

/-- MTS issued by a thread. -/
def execMts (th : ThreadId) (n : BitVec 13) (a : DReg) (s : State) : Host.Outcome State Fault Refusal :=
  .next (s.issue th (.mts th n a) (opMts n a))

/-- The register of the context below that a number names: IC0, IC6, IC7 (R142). -/
def icReg (n : Nat) : CReg := if n = 5 then 0 else if n = 6 then 6 else 7

/-- PHYS_CAP: the allotment of TENANT.CUR, untagged (R161). -/
def State.physCap (s : State) (t : TenantId) : Cap := { w0 := (s.tenant t.toNat).base, w1 := (s.tenant t.toNat).last, tag := false }

/-- A capability system register that a context holds itself, as it reads, or the fault (R106, R133, R161). -/
def State.readCapReg (s : State) (th : ThreadId) (x : Ctx) (n : Nat) : Except Nat Cap :=
  match n with
  | 0 => if x.ts.m then .ok x.tvec else .error fPRIV
  | 1 => if x.ts.m && decide (x.cur = 0) then .ok ((s.core th.core).esc th.slot x.ts.level.toNat) else .error fPRIV
  | 2 => if x.ts.m && decide (x.cur = 0) then .ok x.xstk else .error fPRIV
  | 3 => if x.ts.m then .ok (s.physCap x.cur) else .error fPRIV
  | 4 => .ok x.tideAuth
  | _ => .error fRESERVED_OP

/-- A write of such a register, or the fault (R106, R133). -/
def State.writeCapReg (s : State) (th : ThreadId) (x : Ctx) (n : Nat) (v : Cap) : Except Nat State :=
  if !x.ts.m && decide (n ≤ 4) then .error fPRIV
  else
    match n with
    | 0 => .ok (s.setTop th { x with tvec := v })
    | 1 => if x.cur = 0 then .ok (s.modCore th.core fun c => c.setEsc th.slot x.ts.level.toNat v) else .error fPRIV
    | 2 => if x.cur = 0 then .ok (s.setTop th { x with xstk := v }) else .error fPRIV
    | 4 => .ok (s.setTop th { x with tideAuth := v })
    | _ => .error fRESERVED_OP

/-- A move of IC0, IC6 or IC7: in supervisor mode at level 1 or 2, on the context below, which is filled first where it was
spilled (R142, log entry 44). -/
def icOp (act : State → ThreadId → Ctx → Fin 3 → Ctx → State) : Op := fun th s =>
  match s.topCtx th with
  | none => .stay s
  | some x =>
    if !x.ts.m then .fault (plainFault fPRIV) s
    else if x.ts.level = 0 then .fault (plainFault fRESERVED_OP) s
    else
      let lv := s.levelBelow th
      let s1 := if ((s.core th.core).ctx th.slot lv).isSome then s else s.fill th.core th.slot lv
      match (s1.core th.core).ctx th.slot lv with
      | none => .stay s1
      | some below => .done (act s1 th x lv below)

/-- The number is that of IC0, IC6 or IC7. -/
def isIc (n : BitVec 13) : Bool := decide (5 ≤ n.toNat) && decide (n.toNat ≤ 7)

/-- MFSC: cd := capability system register n (R106, R142). -/
def opMfsc (cd : CReg) (n : BitVec 13) : Operation := plainOp fun th s =>
  if isIc n then icOp (fun t th x _ below => t.setTop th (x.setC cd (below.getC (icReg n.toNat)))) th s
  else
    match s.topCtx th with
    | none => .stay s
    | some x =>
      match s.readCapReg th x n.toNat with
      | .ok c => .done (s.setTop th (x.setC cd c))
      | .error e => .fault (plainFault e) s

/-- MFSC issued by a thread. -/
def execMfsc (th : ThreadId) (cd : CReg) (n : BitVec 13) (s : State) : Host.Outcome State Fault Refusal :=
  .next (s.issue th (.mfsc th cd n) (opMfsc cd n))

/-- MTSC: capability system register n := ca (R106, R142). -/
def opMtsc (n : BitVec 13) (ca : CReg) : Operation := plainOp fun th s =>
  if isIc n then
    icOp (fun t th x lv below => t.modCore th.core fun c => c.setCtx th.slot lv (below.setC (icReg n.toNat) (x.getC ca))) th s
  else
    match s.topCtx th with
    | none => .stay s
    | some x =>
      match s.writeCapReg th x n.toNat (x.getC ca) with
      | .ok t => .done t
      | .error e => .fault (plainFault e) s

/-- MTSC issued by a thread. -/
def execMtsc (th : ThreadId) (n : BitVec 13) (ca : CReg) (s : State) : Host.Outcome State Fault Refusal :=
  .next (s.issue th (.mtsc th n ca) (opMtsc n ca))

end Sys2Proof.Machine
end

