-- ==== Sys2Proof/Machine/Translation.lean ====
section
/-! DEFINITION. TLB operations (R107, R156, R157, R160 to R162), invalidations and their way to the cores (R164, R165, R168,
R255), and WLD (R56, R163). -/

namespace Sys2Proof.Machine

/-! ## TLBW and TLBR -/

/-- A data register by number. -/
def Ctx.dAt (x : Ctx) (n : Nat) : Word := x.d.toList.getD n 0

/-- The four words of d(n) to d(n + 3). -/
def Ctx.quad (x : Ctx) (n : Nat) : EntryWords := { w0 := x.dAt n, w1 := x.dAt (n + 1), w2 := x.dAt (n + 2), w3 := x.dAt (n + 3) }

/-- A field rule of an operation, then its privilege, which comes after it (R72, R107). -/
def fieldThenSup (ok : Bool) (run : Op) : Op := fun th s =>
  match s.topCtx th with
  | none => .stay s
  | some x => if !ok then .fault (plainFault fRESERVED_OP) s else if !x.ts.m then .fault (plainFault fPRIV) s else run th s

/-- An entry as TLBW stores it, after steps 1 to 3 of R160; or the fault. -/
def State.tlbwEntry (s : State) (k : Nat) (cur : TenantId) (j : Nat) (e : EntryWords) : Except Nat EntryWords :=
  let n := normEntry cur e
  if !(s.core k).indexOpen cur j then .error fPRIV
  else if n.v && !s.inAllot cur n.phys.1 n.phys.2 then .error fPHYS_ALLOT
  else .ok n

/-- TLBW: entry da[5:0] := d(b) to d(b + 3) (R107, R160); it counts as a match of the entry (R162). -/
def opTlbw (a b : DReg) : Operation := plainOp (fieldThenSup (decide (b.val % 4 = 0)) fun th s =>
  match s.topCtx th with
  | none => .stay s
  | some x =>
    let j := fld (x.getD a) 5 0
    match s.tlbwEntry th.core x.cur j (x.quad b.val) with
    | .error e => .fault (plainFault e) s
    | .ok n =>
      .done (s.modCore th.core fun c => (c.setTlb j { w0 := n.w0, w1 := n.w1, w2 := n.w2, w3 := n.w3, last := 0 }).touchTlb j))

/-- TLBW issued by a thread. -/
def execTlbw (th : ThreadId) (a b : DReg) (s : State) : Host.Outcome State Fault Refusal :=
  .next (s.issue th (.tlbw th a b) (opTlbw a b))

/-- A context with four data registers written. -/
def Ctx.setQuad (x : Ctx) (n : Nat) (e : EntryWords) : Ctx :=
  { x with d := (((x.d.setIfInBounds n e.w0).setIfInBounds (n + 1) e.w1).setIfInBounds (n + 2) e.w2).setIfInBounds (n + 3) e.w3 }

/-- TLBR: d(d) to d(d + 3) := entry da[5:0], with the check of step 1 (R107, R160). -/
def opTlbr (d a : DReg) : Operation := plainOp (fieldThenSup (decide (d.val % 4 = 0)) fun th s =>
  match s.topCtx th with
  | none => .stay s
  | some x =>
    let j := fld (x.getD a) 5 0
    if !(s.core th.core).indexOpen x.cur j then .fault (plainFault fPRIV) s
    else .done (s.setTop th (x.setQuad d.val ((s.core th.core).tlbEntry j).words)))

/-- TLBR issued by a thread. -/
def execTlbr (th : ThreadId) (d a : DReg) (s : State) : Host.Outcome State Fault Refusal :=
  .next (s.issue th (.tlbr th d a) (opTlbr d a))

/-! ## Invalidations (R107, R164, R165) -/

/-- The capability of a TLBI form lets it name a tenant, or every tenant (R107). -/
def tlbiCheck (c : Cap) (ten : Option TenantId) : Except Nat Unit :=
  if !c.tag then .error fCAP_TAG
  else if c.sealed then .error fCAP_SEALED
  else if !(c.isSpace && decide (c.space = 1)) then .error fCAP_RIGHTS
  else if match ten with
    | some t => c.spans t.toNat
    | none => decide (c.spBase = 0) && decide (c.spLimit = 4096)
  then .ok ()
  else .error fCAP_BOUNDS

/-- A TLBI: its own group applies it as it issues it, and it goes to every other core and to the Churn (R164, R165, log
entry 47). In a replay it has left the group already (R168). -/
def tlbiOp (form : Nat) (cd : CReg) (ten : Ctx → Option TenantId) (va : Ctx → Word) : Op := fun th s =>
  match s.topCtx th with
  | none => .stay s
  | some x =>
    match if ten x = some x.cur then Except.ok () else tlbiCheck (x.getC cd) (ten x) with
    | .error e => .fault (plainFault e) s
    | .ok _ =>
      let t := (ten x).getD 0
      let headland := decide (x.cur = 0)
      let s1 := s.modCore th.core fun c => c.invalidate form t (va x).toNat headland
      .done (s1.emit th.core 9 (va x).toNat form [t.setWidth 32] fun u => u.tlbiSend form (va x) t headland th.core th.slot)

/-- The tenant that a register names. -/
def tenantOf (w : Word) : TenantId := w.setWidth 12

/-- TLBI.VA: address da for tenant db[11:0] (R107, R164). -/
def opTlbiVa (cd : CReg) (a b : DReg) : Operation :=
  supOp (tlbiOp 1 cd (fun x => some (tenantOf (x.getD b))) fun x => x.getD a)

/-- TLBI.VA issued by a thread. -/
def execTlbiVa (th : ThreadId) (cd : CReg) (a b : DReg) (s : State) : Host.Outcome State Fault Refusal :=
  .next (s.issue th (.tlbiVa th cd a b) (opTlbiVa cd a b))

/-- TLBI.T: tenant db[11:0] (R107, R164). -/
def opTlbiT (cd : CReg) (b : DReg) : Operation := supOp (tlbiOp 2 cd (fun x => some (tenantOf (x.getD b))) fun _ => 0)

/-- TLBI.T issued by a thread. -/
def execTlbiT (th : ThreadId) (cd : CReg) (b : DReg) (s : State) : Host.Outcome State Fault Refusal :=
  .next (s.issue th (.tlbiT th cd b) (opTlbiT cd b))

/-- TLBI.ALL: every entry on every core (R107, R164). -/
def opTlbiAll (cd : CReg) : Operation := supOp (tlbiOp 3 cd (fun _ => none) fun _ => 0)

/-- TLBI.ALL issued by a thread. -/
def execTlbiAll (th : ThreadId) (cd : CReg) (s : State) : Host.Outcome State Fault Refusal :=
  .next (s.issue th (.tlbiAll th cd) (opTlbiAll cd))

/-- A core that answers an invalidation by discarding its TLB: lost, in self-test, gated or with its clocks stopped, or in a
hand-over (R165). -/
def State.dropsTlb (s : State) (k : Nat) : Bool :=
  let c := s.core k
  c.lost || c.gated || decide (c.tm.st = .copy) || decide (c.tm.st = .stopped) || decide (s.phase = .standby)
    || decide ((s.cove (k / 8)).step = .slice ⟨k % 8, Nat.mod_lt _ (by decide)⟩)

/-- An invalidation reaches a group, with its TLBI record; one that rolls back or replays applies it where the replay ends (R165,
R168). -/
def State.tlbiAtCore (s : State) (k : Nat) (b : Tlbi) : State :=
  let t := (s.core k).tm
  if s.dropsTlb k then s.modCore k Core.dropTlb
  else if t.st = .restore ∨ t.st = .replay then
    let r := LogRec.tlbi b.va b.form b.ten b.headland t.goal
    (s.logRecord k r).modCore k fun c =>
      { c with tm := { c.tm with inputs := if t.st = .replay then c.tm.inputs ++ [r] else c.tm.inputs } }
  else
    (s.logInput k (.tlbi b.va b.form b.ten b.headland t.pos)).modCore k fun c => c.invalidate b.form b.ten b.va.toNat b.headland

/-- The oldest invalidation that a receiver has not acknowledged, and the list once it has. -/
def takeTlbi (me : Nat) : List Tlbi → Option (Tlbi × List Tlbi)
  | [] => none
  | b :: r =>
    if b.owing.contains me then
      let left := b.owing.filter fun k => decide (k ≠ me)
      some (b, if left = [] then r else { b with owing := left } :: r)
    else (takeTlbi me r).map fun q => (q.1, b :: q.2)

/-- A core, or the Churn, applies the oldest TLBI on its way to it and acknowledges it (R165, R255). -/
def execTlbiReceive (core : Option (Fin 128)) (s : State) : Host.Outcome State Fault Refusal :=
  let me := match core with
    | some k => k.val
    | none => notACore
  match takeTlbi me s.tlbis with
  | none => .next s
  | some (b, l) =>
    let s1 := ({ s with tlbis := l } : State).undertowSend 1 (if b.core < 128 then b.core else sysPort)
    .next (match core with
      | some k => s1.tlbiAtCore k b
      | none => s1.churnTlbi b.form b.ten b.va.toNat)

/-! ## WLD (R56, R163) -/

/-- A fault of a walk: its physical address is in the record (R163). -/
def walkFault (code pa : Nat) : FaultInfo :=
  { code := code, op := 0, parcel := 0, vaddr := none, detail := 0, probe := true
    acc := some { pa := some pa, write := false, capacc := false, size := 2, creg := none } }

/-- A device region of a walk (R163). -/
def Region.device : Region → Bool
  | .xspi | .pcie | .page _ => true
  | _ => false

/-- A walk: the word at a physical address, in the order of R56; or the fault. -/
def State.walk (s : State) (i : Issuer) (pa : Nat) : Except FaultInfo Word × State :=
  if !s.inAllot i.cur pa 4 then (.error (walkFault fPHYS_ALLOT pa), s)
  else if pa % 4 ≠ 0 then (.error (walkFault fALIGN pa), s)
  else if (region pa).device then (.error (walkFault fWALK_DEVICE pa), s)
  else if s.heldBack i.core pa then (.error (plainFault notYet), s)
  else
    match s.groupLoad i { va := 0, pa := pa, lenient := false, route := .uncached, dev := false } 4 false with
    | (.ok (w, _), s1) => (.ok w, s1)
    | (.error e, s1) => (.error (if notYet ≤ e then plainFault e else walkFault (if e = fBUS_ERROR then fWALK_BUS else e) pa), s1)

/-- WLD: dd := the word at physical address db[7:0], da (R107, R163). -/
def opWld (d a b : DReg) : Operation := supOp fun th s =>
  match s.topCtx th with
  | none => .stay s
  | some x =>
    match s.walk (issuerOf th x) (fld (x.getD b) 7 0 * 2 ^ 32 + (x.getD a).toNat) with
    | (.error f, s1) => .fault f s1
    | (.ok w, s1) => .done ((s1.setTop th (x.setD d w)).awaits th)

/-- WLD issued by a thread. -/
def execWld (th : ThreadId) (d a b : DReg) (s : State) : Host.Outcome State Fault Refusal :=
  .next (s.issue th (.wld th d a b) (opWld d a b))

end Sys2Proof.Machine
end

