-- ==== Sys2Proof/Machine/Parcel.lean ====
section
/-! DEFINITION. Parcels: the formats (R65 to R70), the opcode maps (R88 to R109), the pairing rules (R71), and what each
operation does. -/

namespace Sys2Proof.Machine

/-- A decoded operation: the command it is, what it reads and writes, and the accumulators it extends. Registers are numbered d0
to d15 from 0, c0 to c7 from 16; 24 stands for N, Z and V and 25 for C. A written register comes with the Result of its operation
(R86). -/
structure Dec where
  instr : Instr
  reads : List Nat
  writes : List (Nat × Nat)
  acc : List Nat
deriving DecidableEq, Repr

/-! ## Fields (R67, R68) -/

/-- A data register by the number in its field. -/
def dreg (n : Nat) : DReg := ⟨n % 16, Nat.mod_lt _ (by decide)⟩

/-- A capability register by the number in its field: bit 3 must be 0. -/
def creg (n : Nat) : Option CReg := if h : n < 8 then some ⟨n, h⟩ else none

/-- The place of a capability register among the registers. -/
def cAt (c : CReg) : Nat := 16 + c.val

/-- The flags that an operation sets (R74): none under .NF; C where its class gives it. -/
def flagsOf (nf : Bool) (c : Bool) (r : Nat) : List (Nat × Nat) := if nf then [] else if c then [(24, r), (25, r)] else [(24, r)]

/-- An operation with a destination register. -/
def decD (i : Instr) (reads : List Nat) (d r : Nat) (flags : List (Nat × Nat) := []) : Option Dec :=
  some { instr := i, reads := reads, writes := (d, r) :: flags, acc := [] }

/-- An operation without a destination register. -/
def decN (i : Instr) (reads : List Nat) (flags : List (Nat × Nat) := []) : Option Dec :=
  some { instr := i, reads := reads, writes := flags, acc := [] }

/-- A field rule: a condition, else no operation (R68). -/
def need (ok : Bool) (r : Option Dec) : Option Dec := if ok then r else none

/-! ## L-RR (R91 to R109) -/

/-- op 0x00 (R91). -/
def decArith (th : ThreadId) (d a b fn : Nat) : Option Dec :=
  let (D, A, B) := (dreg d, dreg a, dreg b)
  let nf := decide (fn / 256 = 1)
  let ar := flagsOf nf true 1
  let lg := flagsOf nf false 1
  match fn % 256 with
  | 0x01 => decD (.add th D A B nf) [a, b] d 1 ar
  | 0x02 => decD (.sub th D A B nf) [a, b] d 1 ar
  | 0x03 => decD (.adc th D A B nf) [a, b, 25] d 1 ar
  | 0x04 => decD (.sbc th D A B nf) [a, b, 25] d 1 ar
  | 0x05 => need (b = 0) (decD (.neg th D A nf) [a] d 1 ar)
  | 0x06 => need (d = 0 && !nf) (decN (.cmp th A B) [a, b] ar)
  | 0x07 => decD (.and th D A B nf) [a, b] d 1 lg
  | 0x08 => decD (.or th D A B nf) [a, b] d 1 lg
  | 0x09 => decD (.xor th D A B nf) [a, b] d 1 lg
  | 0x0A => decD (.andn th D A B nf) [a, b] d 1 lg
  | 0x0B => need (d = 0 && !nf) (decN (.tst th A B) [a, b] lg)
  | 0x0C => need (b = 0) (decD (.not th D A nf) [a] d 1 lg)
  | 0x0D => need (b = 0) (decD (.movs th D A nf) [a] d 1 lg)
  | 0x0E => need (b = 0 && !nf) (decD (.mov th D A) [a] d 1)
  | 0x0F => need (!nf) (decD (.min th D A B) [a, b] d 1)
  | 0x10 => need (!nf) (decD (.max th D A B) [a, b] d 1)
  | 0x11 => need (!nf) (decD (.minu th D A B) [a, b] d 1)
  | 0x12 => need (!nf) (decD (.maxu th D A B) [a, b] d 1)
  | _ => none

/-- op 0x01 (R92). -/
def decShift (th : ThreadId) (d a b fn : Nat) : Option Dec :=
  let (D, A, B) := (dreg d, dreg a, dreg b)
  let nf := decide (fn / 256 = 1)
  let sh := flagsOf nf true 1
  match fn % 256 with
  | 0x01 => decD (.shl th D A B nf) [a, b] d 1 sh
  | 0x02 => decD (.shr th D A B nf) [a, b] d 1 sh
  | 0x03 => decD (.sar th D A B nf) [a, b] d 1 sh
  | 0x04 => decD (.ror th D A B nf) [a, b] d 1 sh
  | _ => none

/-- op 0x02 (R93). -/
def decMul (th : ThreadId) (d a b fn : Nat) : Option Dec :=
  let (D, A, B) := (dreg d, dreg a, dreg b)
  let nf := decide (fn / 256 = 1)
  let fl := flagsOf nf false 2
  match fn % 256 with
  | 0x01 => decD (.mul th D A B nf) [a, b] d 2 fl
  | 0x02 => decD (.mulh th D A B nf) [a, b] d 2 fl
  | 0x03 => decD (.mulhu th D A B nf) [a, b] d 2 fl
  | 0x04 => decD (.mulq th D A B nf) [a, b] d 2 fl
  | _ => none

/-- An operation of the MAC group: its accumulators are written with Result 2 (R93). -/
def decAcc (i : Instr) (reads acc : List Nat) (nf : Bool) : Option Dec :=
  some { instr := i, reads := reads, writes := acc.map (fun r => (r, 2)) ++ flagsOf nf false 2, acc := acc }

/-- op 0x03 (R93); MAC.L and MSUB.L need an even d. -/
def decMac (th : ThreadId) (d a b fn : Nat) : Option Dec :=
  let (D, A, B) := (dreg d, dreg a, dreg b)
  let nf := decide (fn / 256 = 1)
  match fn % 256 with
  | 0x01 => decAcc (.mac th D A B nf) [a, b] [d] nf
  | 0x02 => decAcc (.msub th D A B nf) [a, b] [d] nf
  | 0x03 => decAcc (.macQ th D A B nf) [a, b] [d] nf
  | 0x04 => decAcc (.msubQ th D A B nf) [a, b] [d] nf
  | 0x05 => need (d % 2 = 0) (decAcc (.macL th D A B nf) [a, b] [d, d + 1] nf)
  | 0x06 => need (d % 2 = 0) (decAcc (.msubL th D A B nf) [a, b] [d, d + 1] nf)
  | _ => none

/-- op 0x04 (R94). -/
def decDiv (th : ThreadId) (d a b fn : Nat) : Option Dec :=
  let (D, A, B) := (dreg d, dreg a, dreg b)
  match fn with
  | 0x01 => decD (.div th D A B) [a, b] d 20
  | 0x02 => decD (.divu th D A B) [a, b] d 20
  | 0x03 => decD (.rem th D A B) [a, b] d 20
  | 0x04 => decD (.remu th D A B) [a, b] d 20
  | 0x05 => need (b = 0) (decD (.sqrt th D A) [a] d 18)
  | 0x06 => need (b = 0) (decD (.sqrtQ th D A) [a] d 18)
  | _ => none

/-- op 0x05 (R95). -/
def decPhase (th : ThreadId) (d a b fn : Nat) : Option Dec :=
  let (D, A, B) := (dreg d, dreg a, dreg b)
  let nf := decide (fn / 256 = 1)
  match fn % 256 with
  | 0x01 => decD (.padd th D A B nf) [a, b] d 1 (flagsOf nf true 1)
  | 0x02 => decD (.psub th D A B nf) [a, b] d 1 (flagsOf nf true 1)
  | 0x03 => need (!nf) (decD (.pdiff th D A B) [a, b] d 1)
  | 0x04 => need (!nf && decide (b = 0)) (decD (.psin th D A) [a] d 6)
  | 0x05 => need (!nf && decide (b = 0)) (decD (.pcos th D A) [a] d 6)
  | 0x06 => need (!nf) (decD (.pcvt th D A B) [a, b] d 1)
  | 0x07 => need (!nf && decide (a = 0)) (decD (.pnow th D B) [b] d 1)
  | _ => none

/-- op 0x08: the indexed forms, the capability register in a and the index in b (R68, R98). -/
def decIndexed (th : ThreadId) (d a b fn : Nat) : Option Dec :=
  let (D, B) := (dreg d, dreg b)
  match creg a with
  | none => none
  | some A =>
    let ld := fun (i : Instr) => decD i [cAt A, b] d 1
    let st := fun (i : Instr) => decN i [cAt A, b, d]
    match fn with
    | 0x01 => ld (.ldxB th D A B)
    | 0x02 => ld (.ldxBu th D A B)
    | 0x03 => ld (.ldxH th D A B)
    | 0x04 => ld (.ldxHu th D A B)
    | 0x05 => ld (.ldxW th D A B)
    | 0x06 => st (.stxB th D A B)
    | 0x07 => st (.stxH th D A B)
    | 0x08 => st (.stxW th D A B)
    | _ => none

/-- op 0x09 (R99). -/
def decAtomic (th : ThreadId) (d a b fn : Nat) : Option Dec :=
  match creg a, fn with
  | some A, 0x01 => decD (.cas th (dreg d) A (dreg b)) [cAt A, b, d] d 1
  | some A, 0x02 => decD (.amoAdd th (dreg d) A (dreg b)) [cAt A, b] d 1
  | _, _ => none

/-- op 0x10 (R101). -/
def decCap (th : ThreadId) (d a b fn : Nat) : Option Dec :=
  -- forms that write a capability register
  let toC := fun (r : Nat) (f : CReg → CReg → Instr) (reads : List Nat) => match creg d, creg a with
    | some cd, some ca => decD (f cd ca) (cAt ca :: reads) (cAt cd) r
    | _, _ => none
  let toC2 := fun (f : CReg → CReg → CReg → Instr) => match creg d, creg a, creg b with
    | some cd, some ca, some cb => decD (f cd ca cb) [cAt ca, cAt cb] (cAt cd) 1
    | _, _, _ => none
  -- CGET forms
  let get := fun (f : CapSrc → Instr) => match creg a with
    | some ca => need (b = 0) (decD (f (.reg ca)) [cAt ca] d 1)
    | none => none
  let getP := fun (f : CapSrc → Instr) => need (a = 0 && b = 0) (decD (f .pcc) [] d 1)
  let (D, B) := (dreg d, dreg b)
  match fn with
  | 0x001 => need (b = 0) (toC 1 (.cmov th) [])
  | 0x002 => toC 1 (fun x y => .cadd th x y B) [b]
  | 0x003 => toC 1 (fun x y => .csetc th x y B) [b]
  | 0x004 => toC 2 (fun x y => .csetbnd th x y B) [b]
  | 0x005 => toC 2 (fun x y => .csetbndX th x y B) [b]
  | 0x006 => toC 1 (fun x y => .cspan th x y B) [b]
  | 0x007 => toC2 (.cseal th)
  | 0x008 => toC2 (.cunseal th)
  | 0x009 => get (.cgetC th D)
  | 0x00A => get (.cgetB th D)
  | 0x00B => get (.cgetLast th D)
  | 0x00C => get (.cgetR th D)
  | 0x00D => get (.cgetOt th D)
  | 0x00E => get (.cgetTag th D)
  | 0x00F => need (b = 0) (decD (.cgran th D (dreg a)) [a] d 1)
  | 0x010 => match creg a with
    | some ca => need (b = 0) (decD (.cgetE th D ca) [cAt ca] d 1)
    | none => none
  | 0x011 => match creg d with
    | some cd => need (a = 0 && b = 0) (decD (.cpcc th cd) [] (cAt cd) 1)
    | none => none
  | 0x109 => getP (.cgetC th D)
  | 0x10A => getP (.cgetB th D)
  | 0x10B => getP (.cgetLast th D)
  | 0x10C => getP (.cgetR th D)
  | 0x10D => getP (.cgetOt th D)
  | 0x10E => getP (.cgetTag th D)
  | _ => none

/-- op 0x11 (R101). -/
def decMint (th : ThreadId) (d a b fn : Nat) : Option Dec :=
  match creg d, creg a with
  | some cd, some ca => need (fn < 4) (decD (.cmint th cd ca (dreg b) (BitVec.ofNat 2 fn)) [cAt ca, b] (cAt cd) 1)
  | _, _ => none

/-- op 0x14 (R103). -/
def decHandle (th : ThreadId) (d a b fn : Nat) : Option Dec :=
  let (D, B) := (dreg d, dreg b)
  match creg a with
  | none => none
  | some ca =>
    match fn with
    | 0x01 => decD (.hld th D ca B) [cAt ca, b] d 1
    | 0x02 => decN (.hst th ca B D) [cAt ca, b, d]
    | 0x03 => decD (.sld th D ca B) [cAt ca, b] d 1
    | 0x04 => decN (.sst th ca B D) [cAt ca, b, d]
    | 0x05 => need (b = 0) (decD (.tstat th D ca) [cAt ca] d 1)
    | 0x06 => need (b = 0 && d = 0) (decN (.tstop th ca) [cAt ca])
    | 0x07 => need (b = 0 && d = 0) (decN (.tresume th ca) [cAt ca])
    | _ => none

/-- op 0x18 (R104). -/
def decTransfer (th : ThreadId) (d a b fn : Nat) : Option Dec :=
  match fn with
  | 0x04 => need (d = 0 && a = 0 && b = 0) (decN (.gret th) [])
  | 0x05 => need (d = 0 && a = 0 && b = 0) (decN (.rfe th) [23])
  | _ =>
    match creg a, fn with
    | some ca, 0x01 => need (d = 0 && b = 0) (decN (.jr th ca) [cAt ca])
    | some ca, 0x02 => need (d = 0 && b = 0) (decD (.jrl th ca) [cAt ca] 23 1)
    | some ca, 0x03 => need (d = 0 && b = 0) (decN (.gcall th ca) [cAt ca])
    | _, _ => none

/-- op 0x19 (R104). -/
def decWait (th : ThreadId) (d a b fn : Nat) : Option Dec :=
  match fn with
  | 0x01 => need (d = 0 && a = 0 && b = 0) (decN (.sleep th) [])
  | 0x02 => need (d = 0 && b = 0) (decN (.wake th (dreg a)) [a])
  | 0x03 => need (d = 0 && a = 0 && b = 0) (decN (.tmark th) [])
  | 0x04 => need (d = 0) (decN (.waitTideR th (dreg a) (dreg b)) [a, b])
  | _ => none

/-- Four registers from one on. -/
def quadRegs (n : Nat) : List Nat := [n, n + 1, n + 2, n + 3]

/-- op 0x1A (R107). -/
def decTlb (th : ThreadId) (d a b fn : Nat) : Option Dec :=
  match fn with
  | 0x01 => need (d = 0 && b % 4 = 0) (decN (.tlbw th (dreg a) (dreg b)) (a :: quadRegs b))
  | 0x02 => need (b = 0 && d % 4 = 0)
      (some { instr := .tlbr th (dreg d) (dreg a), reads := [a], writes := (quadRegs d).map fun r => (r, 2), acc := [] })
  | _ =>
    match creg d, fn with
    | some cd, 0x03 => decN (.tlbiVa th cd (dreg a) (dreg b)) [cAt cd, a, b]
    | some cd, 0x04 => need (a = 0) (decN (.tlbiT th cd (dreg b)) [cAt cd, b])
    | some cd, 0x05 => need (a = 0 && b = 0) (decN (.tlbiAll th cd) [cAt cd])
    | _, _ => none

/-- op 0x1C (R108). -/
def decFence (th : ThreadId) (d a b fn : Nat) : Option Dec :=
  need (d = 0 && a = 0 && b = 0) (match fn with
    | 0x01 => decN (.fenceL th) []
    | 0x02 => decN (.fenceM th) []
    | 0x03 => decN (.fenceIo th) []
    | 0x04 => decN (.fenceT th) []
    | 0x05 => decN (.fenceC th) []
    | _ => none)

/-- op 0x1E (R109): each turn performs one unit (log entry 51). -/
def decBlock (th : ThreadId) (d a b fn : Nat) : Option Dec :=
  let B := dreg b
  match fn with
  | 0x01 => match creg d, creg a with
    | some cd, some ca => decN (.movb th cd ca B 1) [cAt cd, cAt ca, b]
    | _, _ => none
  | 0x02 => match creg d with
    | some cd => decN (.fillb th cd (dreg a) B 1) [cAt cd, a, b]
    | none => none
  | 0x03 => match creg a with
    | some ca => decD (.crcb th (dreg d) ca B 1) [d, cAt ca, b] d 1
    | none => none
  | 0x04 => match creg d with
    | some cd => need (a = 0) (decN (.tagz th cd B 1) [cAt cd, b])
    | none => none
  | 0x05 => match creg d, creg a with
    | some cd, some ca => decN (.pstoreN th cd ca B 1) [cAt cd, cAt ca, b]
    | _, _ => none
  | _ => none

/-- The L-RR format (R66, R67, R89). -/
def decRR (th : ThreadId) (op w : Nat) : Option Dec :=
  let d := w / 2 ^ 17 % 16
  let a := w / 2 ^ 13 % 16
  let b := w / 2 ^ 9 % 16
  let fn := w % 2 ^ 9
  match op with
  | 0x00 => decArith th d a b fn
  | 0x01 => decShift th d a b fn
  | 0x02 => decMul th d a b fn
  | 0x03 => decMac th d a b fn
  | 0x04 => decDiv th d a b fn
  | 0x05 => decPhase th d a b fn
  | 0x06 => need (fn < 16) (decD (.sel th (BitVec.ofNat 4 fn) (dreg d) (dreg a) (dreg b)) [a, b, 24, 25] d 1)
  | 0x08 => decIndexed th d a b fn
  | 0x09 => decAtomic th d a b fn
  | 0x0A => need (fn = 1) (decD (.wld th (dreg d) (dreg a) (dreg b)) [a, b] d 1)
  | 0x0B => match creg a with
    | some ca => need (fn = 1) (decD (.pld th (dreg d) ca (dreg b)) [cAt ca, b] d 1)
    | none => none
  | 0x10 => decCap th d a b fn
  | 0x11 => decMint th d a b fn
  | 0x14 => decHandle th d a b fn
  | 0x18 => decTransfer th d a b fn
  | 0x19 => decWait th d a b fn
  | 0x1A => decTlb th d a b fn
  | 0x1C => decFence th d a b fn
  | 0x1E => decBlock th d a b fn
  | _ => none

/-! ## The other long formats -/

/-- The arithmetic immediates and their .NF forms, by op less 0x40 (R91 to R93). -/
def decImm (th : ThreadId) (k d a imm : Nat) (nf : Bool) : Option Dec :=
  let (D, A, I, S) := (dreg d, dreg a, BitVec.ofNat 13 imm, BitVec.ofNat 5 imm)
  let ar := flagsOf nf true 1
  let lg := flagsOf nf false 1
  match k with
  | 0x0 => decD (.addi th D A I nf) [a] d 1 ar
  | 0x1 => decD (.andi th D A I nf) [a] d 1 lg
  | 0x2 => decD (.ori th D A I nf) [a] d 1 lg
  | 0x3 => decD (.xori th D A I nf) [a] d 1 lg
  | 0x4 => need (d = 0 && !nf) (decN (.cmpi th A I) [a] ar)
  | 0x5 => need (d = 0 && !nf) (decN (.tsti th A I) [a] lg)
  | 0x6 => need (imm < 32) (decD (.shli th D A S nf) [a] d 1 ar)
  | 0x7 => need (imm < 32) (decD (.shri th D A S nf) [a] d 1 ar)
  | 0x8 => need (imm < 32) (decD (.sari th D A S nf) [a] d 1 ar)
  | 0x9 => need (imm < 32) (decD (.rori th D A S nf) [a] d 1 ar)
  | 0xA => decD (.muli th D A I nf) [a] d 2 (flagsOf nf false 2)
  | _ => none

/-- The L-RI format (R67, R89, R91, R101, R104, R106). -/
def decRI (th : ThreadId) (op w : Nat) : Option Dec :=
  let d := w / 2 ^ 17 % 16
  let a := w / 2 ^ 13 % 16
  let imm := w % 2 ^ 13
  let n := BitVec.ofNat 13 imm
  if op < 0x4B then decImm th (op - 0x40) d a imm false
  else if 0x50 ≤ op ∧ op < 0x5B then decImm th (op - 0x50) d a imm true
  else
    match op with
    | 0x4B => match creg d, creg a with
      | some cd, some ca => decD (.caddi th cd ca n) [cAt ca] (cAt cd) 1
      | _, _ => none
    | 0x4C => match creg d, creg a with
      | some cd, some ca => need (imm < 128) (decD (.candr th cd ca (BitVec.ofNat 7 imm)) [cAt ca] (cAt cd) 1)
      | _, _ => none
    | 0x4D => need (a = 0) (decD (.mfs th (dreg d) n) (if imm = 0 then [24, 25] else []) d 1)
    | 0x4E => need (d = 0) (decN (.mts th n (dreg a)) [a] (if imm = 0 then [(24, 1), (25, 1)] else []))
    | 0x4F => need (d = 0 && a = 0 && imm < 256) (decN (.trap th (BitVec.ofNat 8 imm)) [])
    | 0x5B => match creg d with
      | some cd => need (a = 0) (decD (.mfsc th cd n) [] (cAt cd) 1)
      | none => none
    | 0x5C => match creg a with
      | some ca => need (d = 0) (decN (.mtsc th n ca) [cAt ca])
      | none => none
    | _ => none

/-- The L-MEM format (R67, R98). -/
def decMem (th : ThreadId) (op w : Nat) : Option Dec :=
  let d := w / 2 ^ 17 % 16
  let c : CReg := ⟨w / 2 ^ 14 % 8, Nat.mod_lt _ (by decide)⟩
  let disp := BitVec.ofNat 14 w
  let D := dreg d
  let ld := fun (i : Instr) => decD i [cAt c] d 1
  let st := fun (i : Instr) => decN i [cAt c, d]
  match op with
  | 0x60 => ld (.ldB th D c disp)
  | 0x61 => ld (.ldBu th D c disp)
  | 0x62 => ld (.ldH th D c disp)
  | 0x63 => ld (.ldHu th D c disp)
  | 0x64 => ld (.ldW th D c disp)
  | 0x65 => st (.stB th D c disp)
  | 0x66 => st (.stH th D c disp)
  | 0x67 => st (.stW th D c disp)
  | 0x68 => match creg d with
    | some cd => decD (.ldC th cd c disp) [cAt c] (cAt cd) 1
    | none => none
  | 0x69 => match creg d with
    | some cd => decN (.stC th cd c disp) [cAt c, cAt cd]
    | none => none
  | 0x6A => ld (.ldAcq th D c disp)
  | 0x6B => st (.stRel th D c disp)
  | _ => none

/-- The L-BR and L-WIDE formats (R67, R69, R95, R97, R104). -/
def decWide (th : ThreadId) (op w : Nat) : Option Dec :=
  let d := w / 2 ^ 17 % 16
  let imm := BitVec.ofNat 17 w
  let D := dreg d
  match op with
  | 0x70 => decN (.b th (BitVec.ofNat 4 d) imm) [24, 25]
  | 0x71 => decD (.bl th (BitVec.ofNat 4 d) imm) [24, 25] 23 1
  | 0x78 => decD (.ldiLo th D imm) [] d 1
  | 0x79 => need (w % 2 ^ 17 < 2 ^ 16) (decD (.ldiHi th D (BitVec.ofNat 16 w)) [d] d 1)
  | 0x7A => decN (.waitTide th ⟨d % 16, Nat.mod_lt _ (by decide)⟩ imm) []
  | 0x7B => decD (.ldp th D imm) [] d 1
  | _ => none

/-- A long operation in bits [27:0] (R66). -/
def decodeLong (th : ThreadId) (w : Nat) : Option Dec :=
  let op := w / 2 ^ 21 % 128
  if op < 0x40 then decRR th op w
  else if op < 0x60 then decRI th op w
  else if op < 0x70 then decMem th op w
  else decWide th op w

/-! ## Short operations (R69, R70, R90) -/

/-- A short operation: d is its first source and its destination. -/
def decodeShort (th : ThreadId) (w : Nat) : Option Dec :=
  let sop := w / 2 ^ 9 % 32
  let d := w / 2 ^ 5 % 16
  let a := w / 2 % 16
  let x := decide (w % 2 = 1)
  let imm := w % 32
  let (D, A) := (dreg d, dreg a)
  let I : BitVec 13 := (BitVec.ofNat 5 imm).signExtend 13
  let ar := flagsOf x true 1
  let lg := flagsOf x false 1
  let on := flagsOf false true 1
  let mem : CReg := ⟨imm / 4 % 8, Nat.mod_lt _ (by decide)⟩
  let k := BitVec.ofNat 2 imm
  match sop with
  | 0x00 => need (!x) (decD (.mov th D A) [a] d 1)
  | 0x01 => decD (.add th D D A x) [d, a] d 1 ar
  | 0x02 => decD (.sub th D D A x) [d, a] d 1 ar
  | 0x03 => decD (.adc th D D A x) [d, a, 25] d 1 ar
  | 0x04 => decD (.sbc th D D A x) [d, a, 25] d 1 ar
  | 0x05 => decD (.and th D D A x) [d, a] d 1 lg
  | 0x06 => decD (.or th D D A x) [d, a] d 1 lg
  | 0x07 => decD (.xor th D D A x) [d, a] d 1 lg
  | 0x08 => decD (.andn th D D A x) [d, a] d 1 lg
  | 0x09 => need (!x) (decN (.cmp th D A) [d, a] ar)
  | 0x0A => need (!x) (decN (.tst th D A) [d, a] lg)
  | 0x0B => decD (.neg th D A x) [a] d 1 ar
  | 0x0C => decD (.not th D A x) [a] d 1 lg
  | 0x0D => decD (.shl th D D A x) [d, a] d 1 ar
  | 0x0E => decD (.shr th D D A x) [d, a] d 1 ar
  | 0x0F => decD (.sar th D D A x) [d, a] d 1 ar
  | 0x10 => decD (.mul th D D A x) [d, a] d 2 (flagsOf x false 2)
  | 0x11 => decD (.mulq th D D A x) [d, a] d 2 (flagsOf x false 2)
  | 0x12 => decD (.padd th D D A x) [d, a] d 1 ar
  | 0x13 => decD (.psub th D D A x) [d, a] d 1 ar
  | 0x14 => need (!x) (decD (.pdiff th D D A) [d, a] d 1)
  | 0x15 => need (!x) (decD (.min th D D A) [d, a] d 1)
  | 0x16 => need (!x) (decD (.max th D D A) [d, a] d 1)
  | 0x18 => decD (.addi th D D I false) [d] d 1 on
  | 0x19 => decD (.movi th D (BitVec.ofNat 5 imm)) [] d 1
  | 0x1A => decN (.cmpi th D I) [d] on
  | 0x1B => decD (.shli th D D (BitVec.ofNat 5 imm) false) [d] d 1 on
  | 0x1C => decD (.shri th D D (BitVec.ofNat 5 imm) false) [d] d 1 on
  | 0x1D => decD (.ldWS th D mem k) [cAt mem] d 1
  | 0x1E => decN (.stWS th D mem k) [cAt mem, d]
  | 0x1F => need (w % 2 ^ 9 = 0) (decN (.nop th) [])
  | _ => none

/-! ## The operations -/

/-- What each operation of a thread does. -/
def operationOf : Instr → Option Operation
  | .mov _ d a => some (opMov d a)
  | .movs _ d a nf => some (opMovs d a nf)
  | .movi _ d imm => some (opMovi d imm)
  | .add _ d a b nf => some (opAdd d a b nf)
  | .addi _ d a imm nf => some (opAddi d a imm nf)
  | .sub _ d a b nf => some (opSub d a b nf)
  | .adc _ d a b nf => some (opAdc d a b nf)
  | .sbc _ d a b nf => some (opSbc d a b nf)
  | .neg _ d a nf => some (opNeg d a nf)
  | .cmp _ a b => some (opCmp a b)
  | .cmpi _ a imm => some (opCmpi a imm)
  | .and _ d a b nf => some (opAnd d a b nf)
  | .andi _ d a imm nf => some (opAndi d a imm nf)
  | .or _ d a b nf => some (opOr d a b nf)
  | .ori _ d a imm nf => some (opOri d a imm nf)
  | .xor _ d a b nf => some (opXor d a b nf)
  | .xori _ d a imm nf => some (opXori d a imm nf)
  | .andn _ d a b nf => some (opAndn d a b nf)
  | .tst _ a b => some (opTst a b)
  | .tsti _ a imm => some (opTsti a imm)
  | .not _ d a nf => some (opNot d a nf)
  | .min _ d a b => some (opMin d a b)
  | .max _ d a b => some (opMax d a b)
  | .minu _ d a b => some (opMinu d a b)
  | .maxu _ d a b => some (opMaxu d a b)
  | .shl _ d a b nf => some (opShl d a b nf)
  | .shr _ d a b nf => some (opShr d a b nf)
  | .sar _ d a b nf => some (opSar d a b nf)
  | .ror _ d a b nf => some (opRor d a b nf)
  | .shli _ d a amt nf => some (opShli d a amt nf)
  | .shri _ d a amt nf => some (opShri d a amt nf)
  | .sari _ d a amt nf => some (opSari d a amt nf)
  | .rori _ d a amt nf => some (opRori d a amt nf)
  | .mul _ d a b nf => some (opMul d a b nf)
  | .mulh _ d a b nf => some (opMulh d a b nf)
  | .mulhu _ d a b nf => some (opMulhu d a b nf)
  | .mulq _ d a b nf => some (opMulq d a b nf)
  | .muli _ d a imm nf => some (opMuli d a imm nf)
  | .mac _ d a b nf => some (opMac d a b nf)
  | .msub _ d a b nf => some (opMsub d a b nf)
  | .macQ _ d a b nf => some (opMacQ d a b nf)
  | .msubQ _ d a b nf => some (opMsubQ d a b nf)
  | .macL _ d a b nf => some (opMacL d a b nf)
  | .msubL _ d a b nf => some (opMsubL d a b nf)
  | .div _ d a b => some (opDiv d a b)
  | .divu _ d a b => some (opDivu d a b)
  | .rem _ d a b => some (opRem d a b)
  | .remu _ d a b => some (opRemu d a b)
  | .sqrt _ d a => some (opSqrt d a)
  | .sqrtQ _ d a => some (opSqrtQ d a)
  | .padd _ d a b nf => some (opPadd d a b nf)
  | .psub _ d a b nf => some (opPsub d a b nf)
  | .pdiff _ d a b => some (opPdiff d a b)
  | .psin _ d a => some (opPsin d a)
  | .pcos _ d a => some (opPcos d a)
  | .pcvt _ d a b => some (opPcvt d a b)
  | .pnow _ d b => some (opPnow d b)
  | .ldp _ d imm => some (opLdp d imm)
  | .sel _ cond d a b => some (opSel cond d a b)
  | .b _ cond off => some (opB cond off)
  | .bl _ cond off => some (opBl cond off)
  | .ldiLo _ d imm => some (opLdiLo d imm)
  | .ldiHi _ d imm => some (opLdiHi d imm)
  | .nop _ => some (opNop)
  | .ldB _ d c disp => some (opLdB d c disp)
  | .ldBu _ d c disp => some (opLdBu d c disp)
  | .ldH _ d c disp => some (opLdH d c disp)
  | .ldHu _ d c disp => some (opLdHu d c disp)
  | .ldW _ d c disp => some (opLdW d c disp)
  | .stB _ d c disp => some (opStB d c disp)
  | .stH _ d c disp => some (opStH d c disp)
  | .stW _ d c disp => some (opStW d c disp)
  | .ldC _ cd c disp => some (opLdC cd c disp)
  | .stC _ cd c disp => some (opStC cd c disp)
  | .ldAcq _ d c disp => some (opLdAcq d c disp)
  | .stRel _ d c disp => some (opStRel d c disp)
  | .ldxB _ d a b => some (opLdxB d a b)
  | .ldxBu _ d a b => some (opLdxBu d a b)
  | .ldxH _ d a b => some (opLdxH d a b)
  | .ldxHu _ d a b => some (opLdxHu d a b)
  | .ldxW _ d a b => some (opLdxW d a b)
  | .stxB _ d a b => some (opStxB d a b)
  | .stxH _ d a b => some (opStxH d a b)
  | .stxW _ d a b => some (opStxW d a b)
  | .ldWS _ d c k => some (opLdWS d c k)
  | .stWS _ d c k => some (opStWS d c k)
  | .cas _ d a b => some (opCas d a b)
  | .amoAdd _ d a b => some (opAmoAdd d a b)
  | .pld _ d a b => some (opPld d a b)
  | .cmov _ cd ca => some (opCmov cd ca)
  | .cadd _ cd ca b => some (opCadd cd ca b)
  | .caddi _ cd ca imm => some (opCaddi cd ca imm)
  | .csetc _ cd ca b => some (opCsetc cd ca b)
  | .csetbnd _ cd ca b => some (opCsetbnd cd ca b)
  | .csetbndX _ cd ca b => some (opCsetbndX cd ca b)
  | .candr _ cd ca imm => some (opCandr cd ca imm)
  | .cspan _ cd ca b => some (opCspan cd ca b)
  | .cseal _ cd ca cb => some (opCseal cd ca cb)
  | .cunseal _ cd ca cb => some (opCunseal cd ca cb)
  | .cgetC _ d src => some (opCgetC d src)
  | .cgetB _ d src => some (opCgetB d src)
  | .cgetLast _ d src => some (opCgetLast d src)
  | .cgetR _ d src => some (opCgetR d src)
  | .cgetOt _ d src => some (opCgetOt d src)
  | .cgetTag _ d src => some (opCgetTag d src)
  | .cgetE _ d ca => some (opCgetE d ca)
  | .cgran _ d a => some (opCgran d a)
  | .cpcc _ cd => some (opCpcc cd)
  | .cmint _ cd ca b rights => some (opCmint cd ca b rights)
  | .hld _ d ca b => some (opHld d ca b)
  | .hst _ ca b d => some (opHst ca b d)
  | .sld _ d ca b => some (opSld d ca b)
  | .sst _ ca b d => some (opSst ca b d)
  | .tstat _ d ca => some (opTstat d ca)
  | .tstop _ ca => some (opTstop ca)
  | .tresume _ ca => some (opTresume ca)
  | .jr _ ca => some (opJr ca)
  | .jrl _ ca => some (opJrl ca)
  | .gcall _ ca => some (opGcall ca)
  | .gret _ => some (opGret)
  | .rfe _ => some (opRfe)
  | .trap _ n => some (opTrap n)
  | .sleep _ => some (opSleep)
  | .wake _ a => some (opWake a)
  | .tmark _ => some (opTmark)
  | .waitTide _ t imm => some (opWaitTide t imm)
  | .waitTideR _ a b => some (opWaitTideR a b)
  | .mfs _ d n => some (opMfs d n)
  | .mts _ n a => some (opMts n a)
  | .mfsc _ cd n => some (opMfsc cd n)
  | .mtsc _ n ca => some (opMtsc n ca)
  | .tlbw _ a b => some (opTlbw a b)
  | .tlbr _ d a => some (opTlbr d a)
  | .tlbiVa _ cd a b => some (opTlbiVa cd a b)
  | .tlbiT _ cd b => some (opTlbiT cd b)
  | .tlbiAll _ cd => some (opTlbiAll cd)
  | .wld _ d a b => some (opWld d a b)
  | .fenceL _ => some (opFenceL)
  | .fenceM _ => some (opFenceM)
  | .fenceIo _ => some (opFenceIo)
  | .fenceT _ => some (opFenceT)
  | .fenceC _ => some (opFenceC)
  | .movb _ cd ca b units => some (opMovb cd ca b units)
  | .fillb _ cd a b units => some (opFillb cd a b units)
  | .crcb _ d ca b units => some (opCrcb d ca b units)
  | .tagz _ cd b units => some (opTagz cd b units)
  | .pstoreN _ cd ca b units => some (opPstoreN cd ca b units)
  | .coalWrite _ src v => some (opCoalWrite src v)
  | _ => none

/-! ## Pairs (R71, R72) -/

/-- A short memory operation (R70). -/
def shortMem : Instr → Bool
  | .ldWS _ _ _ _ => true
  | .stWS _ _ _ _ => true
  | _ => false

/-- The pairing rules: the second reads no register and no flag that the first writes, they do not write one register, and at most
one is a memory operation (R71, log entry 50). -/
def pairOk (p q : Dec) : Bool :=
  let pw := p.writes.map (·.1)
  let qw := q.writes.map (·.1)
  !(q.reads.any pw.contains) && !((qw.filter fun r => decide (r < 24)).any pw.contains) && !(shortMem p.instr && shortMem q.instr)

/-- An operation that posts a store (R87). -/
def posts : Instr → Bool
  | .stW _ _ _ _ => true
  | .stxW _ _ _ _ => true
  | .stC _ _ _ _ => true
  | .stRel _ _ _ _ => true
  | .stWS _ _ _ _ => true
  | _ => false

/-- The register of a block instruction's length (R109). -/
def blockLength : Instr → Option DReg
  | .movb _ _ _ b _ => some b
  | .fillb _ _ _ b _ => some b
  | .crcb _ _ _ b _ => some b
  | .tagz _ _ b _ => some b
  | .pstoreN _ _ _ b _ => some b
  | _ => none

/-- Issue cycles of one unit of a block instruction (R109). -/
def unitCycles : Instr → Nat
  | .movb _ _ _ _ _ => 2
  | .fillb _ _ _ _ _ => 1
  | .crcb _ _ _ _ _ => 1
  | .tagz _ _ _ _ => 1
  | .pstoreN _ _ _ _ _ => 2
  | _ => 0

/-- A parcel as it is decoded (R65). -/
inductive Decoded where
  | long (d : Option Dec)
  | pair (p q : Option Dec)
deriving DecidableEq, Repr

/-- A parcel's operations: F in bit 28, one long operation, or a first and a second short one (R65). -/
def decodeParcel (th : ThreadId) (p : Parcel) : Decoded :=
  let w := p.toNat
  if w / 2 ^ 28 = 0 then .long (decodeLong th (w % 2 ^ 28)) else .pair (decodeShort th (w / 2 ^ 14 % 2 ^ 14)) (decodeShort th (w % 2 ^ 14))

/-- The operations of a parcel that decodes. -/
def Decoded.ops : Decoded → List Dec
  | .long (some d) => [d]
  | .pair (some p) (some q) => [p, q]
  | _ => []

/-- The operation that a list of commands names by one of its places. -/
def runNth (l : List Instr) (n : Nat) : Op := fun th s =>
  match (l[n]?).bind operationOf with
  | some o => o.checked th s
  | none => .stay s

/-- The registers of a thread's top context are put back as they were before a parcel; memory that the parcel's check poisoned stays
so (R49, R72). -/
def State.undoParcel (s : State) (th : ThreadId) (x : Ctx) : State := s.setTop th x

/-- The operations of a parcel, one or two, with the one of which the outcome is: a fault of the second leaves no effect of the
first (R72). -/
def runOps (l : List Instr) (th : ThreadId) (s : State) : OpOut × Nat :=
  match l with
  | [_] => (runNth l 0 th s, 0)
  | _ =>
    match runNth l 0 th s, s.topCtx th with
    | .done s1, some x =>
      (match runNth l 1 th s1 with
        | .fault f t => .fault f (t.undoParcel th x)
        | o => o, 2)
    | o, _ => (o, 1)

/-- A list of commands is one block instruction (R143). -/
def blockOps : List Instr → Bool
  | [i] => match operationOf i with
    | some o => o.block
    | none => false
  | _ => false

/-- The operations of a parcel take effect, or are answered by a fault (R72). -/
def State.settleOps (s : State) (th : ThreadId) (parcel : Word) (l : List Instr) : State :=
  let (out, n) := runOps l th s
  s.settleOp th parcel n (blockOps l) l out

/-- A fault of a parcel before any operation runs. -/
def State.parcelFault (s : State) (th : ThreadId) (parcel : Word) (code n : Nat) : State :=
  s.settleOp th parcel n false [] (.fault (plainFault code) s)

/-- Steps 3 to 6 of R72 for a fetched parcel; no short operation belongs to a group or is a supervisor operation. -/
def State.runParcel (s : State) (th : ThreadId) (p : Parcel) : State :=
  let w := p.setWidth 32
  match decodeParcel th p with
  | .long none => s.parcelFault th w fRESERVED_OP 0
  | .long (some d) => s.settleOps th w [d.instr]
  | .pair none _ => s.parcelFault th w fRESERVED_OP 1
  | .pair (some _) none => s.parcelFault th w fRESERVED_OP 2
  | .pair (some a) (some b) =>
    if pairOk a b then s.settleOps th w [a.instr, b.instr] else s.parcelFault th w fPAIR_FORM 2

end Sys2Proof.Machine
end

