-- ==== Sys2Proof/Machine/Issue.lean ====
section
/-! DEFINITION. Fetch (R118, R119), the issue wheel (R113 to R116, R152), an issue cycle with its comparison and its trace (R204,
R205, R210), replay (R211), and the answers that threads wait for (R87, R128, R290 to R292). -/

namespace Sys2Proof.Machine

/-! ## Fetch (R19, R118, R119) -/

/-- A fetch buffer without what lies before an address. -/
def bufferFrom (adr : Nat) (l : List Fetched) : List Fetched := l.dropWhile fun f => decide (f.adr ≠ adr)

/-- Step 1 of R72: PCC is usable for a fetch, and its cursor lies in its bounds and in the cove (R18, R19, R26, R65). -/
def fetchCheck (pcc : Cap) (cove : Nat) : Except Nat Unit := jumpCheck pcc cove

/-- The event handler is at its first parcel, which comes from the vector buffer, and that is still to be reloaded (R120, R131). -/
def Core.awaitsVector (c : Core) (sl : Fin 8) : Bool :=
  let x := c.slot sl
  decide (sl = 0) && decide (x.st = .active) && decide (x.top = 0) && decide (x.buf = []) && !c.vvalid && (match c.ctx 0 0 with
    | some y => decide (y.pcc.w0 = y.entry.w0)
    | none => false)

/-- The parcels from PCC on that a slot's fetch buffer holds, and the next address to fetch where there is room and PCC lets it:
none at the top of PCC's bounds (R65). -/
def Core.nextFetch (c : Core) (cove : Nat) (sl : Fin 8) : Option (Nat × List Fetched) :=
  let x := c.slot sl
  match c.ctx sl x.top with
  | none => none
  | some y =>
    let l := bufferFrom y.pcc.w0.toNat x.buf
    let next := y.pcc.w0.toNat + l.length
    if x.st ≠ .empty ∧ x.st ≠ .held ∧ !c.awaitsVector sl ∧ l.length < 4 ∧ targetOk y.pcc next cove ∧ (fetchCheck y.pcc cove).isOk then some (next, l) else none

/-- The slot that fetch serves: the one whose buffer holds the fewest parcels, then the owner of the next position, then the lower
slot (R118). -/
def Core.fetchSlot (c : Core) (cove : Nat) : Option (Fin 8 × Nat × List Fetched) :=
  let owner := c.arch.owners.getD ((c.cyc + 1) % 16) none
  let rank := fun (sl : Fin 8) (l : List Fetched) => 16 * l.length + (if owner = some sl then 0 else 1 + sl.val)
  (slots8.filterMap fun sl => (c.nextFetch cove sl).map fun q => (sl, q.1, q.2)).foldl (fun best q => match best with
    | none => some q
    | some p => if rank q.1 q.2.2 < rank p.1 p.2.2 then some q else some p) none

/-- The port fetches one parcel, with its check (R50, R118). -/
def execParcelFetch (core : Fin 128) (s : State) : Host.Outcome State Fault Refusal :=
  if !s.executes core then .next s
  else
    match (s.core core).fetchSlot (core.val / 8) with
    | none => .next s
    | some (sl, adr, l) =>
      let (bad, s1) := s.checkParcel adr false
      .next (s1.modSlot core sl fun x => { x with buf := l ++ [{ adr := adr, bits := s1.parcelAt adr, bad := bad }] })

/-! ## Hazards (R86, R93, R113) -/

/-- A register's Result count has not elapsed: the results of the MAC group stand under 64 + their register, and an accumulator
that such an operation extends again is ready one cycle sooner (R93). -/
def busyAt (busy : List (Nat × Nat)) (now : Nat) (acc : Bool) (r : Nat) : Bool :=
  busy.any fun b => (decide (b.1 = r) && decide (now < b.2)) || (decide (b.1 = 64 + r) && decide (now < (if acc then b.2 - 1 else b.2)))

/-- An operation waits for the result of an earlier one. -/
def Dec.hazard (d : Dec) (busy : List (Nat × Nat)) (now : Nat) : Bool :=
  d.reads.any (busyAt busy now false) || (d.acc.filter fun r => !d.reads.contains r).any (busyAt busy now true)

/-- The results under way after an operation that issued at a cycle. -/
def Dec.results (d : Dec) (busy : List (Nat × Nat)) (now : Nat) : List (Nat × Nat) :=
  let kept := busy.filter fun b => decide (now < b.2) && !(d.writes.any fun w => decide (w.1 = b.1 % 64))
  kept ++ d.writes.map fun w => (if d.acc.contains w.1 then 64 + w.1 else w.1, now + w.2)

/-- What a slot would issue: its context, and the fetched parcel, or none where the fetch itself faults. -/
structure Ready where
  ctx : Ctx
  parcel : Option Fetched
deriving DecidableEq, Repr

/-- A slot is eligible (R113): what it would issue. -/
def State.eligible (s : State) (k : Fin 128) (sl : Fin 8) : Option Ready :=
  let c := s.core k
  let x := c.slot sl
  let late := decide (sl = 0) && (match c.firstIssue with
    | some t => decide (c.cyc < t)
    | none => false)
  if x.st ≠ .active ∨ x.wait ≠ .none ∨ late then none
  else
    match c.ctx sl x.top with
    | none => none
    | some y =>
      if (fetchCheck y.pcc (k.val / 8)).isOk then
        match bufferFrom y.pcc.w0.toNat x.buf with
        | [] => none
        | f :: _ =>
          let ds := (decodeParcel { core := k, slot := sl } f.bits).ops
          if !f.bad && (ds.any (fun d => d.hazard x.busy c.cyc) || (c.postedFull && ds.any fun d => posts d.instr)) then none
          else some { ctx := y, parcel := some f }
      else some { ctx := y, parcel := none }

/-! ## The wheel (R114, R115, R152) -/

/-- Who issues in a cycle and how: the slot, whether it took a free turn, and whether a handler's first issue took the turn of an
eligible owner. -/
structure Pick where
  slot : Option (Fin 8)
  free : Bool
  stolen : Bool
deriving DecidableEq, Repr

/-- The slots after a slot, in order and wrapping round. -/
def slotsAfter (sl : Fin 8) : List (Fin 8) := (List.range 8).map fun i => slotOf (sl.val + 1 + i)

/-- The choice of R114, with the precedence of a level-2 context (R152). -/
def pickSlot (c : Core) (can : Fin 8 → Bool) : Pick :=
  let owner := c.arch.owners.getD (c.cyc % 16) none
  let ownerCan := match owner with
    | some o => can o
    | none => false
  let esc := slots8.find? fun sl => can sl && decide ((c.slot sl).top = 2) && (decide (sl = 0) || decide (owner ≠ some 0))
  if c.firstIssue = some c.cyc ∧ can 0 then { slot := some 0, free := false, stolen := ownerCan && decide (owner ≠ some 0) }
  else
    match esc with
    | some sl => { slot := some sl, free := false, stolen := false }
    | none =>
      if ownerCan then { slot := owner, free := false, stolen := false }
      else
        match (slotsAfter c.arch.lastFree).find? can with
        | some sl => { slot := some sl, free := true, stolen := false }
        | none => { slot := none, free := false, stolen := false }

/-- At position 0 the shares of WHEEL are placed for the revolution (R115). -/
def Core.place (c : Core) : Core :=
  if c.cyc % 16 = 0 then { c with arch := { c.arch with owners := placeShares c.arch.wheel } } else c

/-- The cycle is over: cycle count and position advance, and the handler's first issue is past (R114, R207). -/
def Core.tickOver (c : Core) : Core :=
  { c with
    cyc := c.cyc + 1
    firstIssue := if c.firstIssue = some c.cyc then none else c.firstIssue
    tm := { c.tm with pos := c.tm.pos + 1 } }

/-- What a pick changes besides the parcel: the last free turn, the counters, and when the context's bank last issued (R114, R123,
R127). -/
def Core.picked (c : Core) (p : Pick) : Core :=
  let c1 := { c with
    stolenCnt := if p.stolen then satInc c.stolenCnt else c.stolenCnt
    freeCnt := if p.free then satInc c.freeCnt else c.freeCnt }
  match p.slot with
  | none => c1
  | some sl =>
    ({ c1 with arch := { c1.arch with lastFree := if p.free then sl else c1.arch.lastFree } } : Core).touchBank sl

/-! ## A parcel in an issue cycle -/

/-- The fault of a fetch, which no operation raises: PARCEL is 0 and VADDR the code address (R72, R136). -/
def State.fetchFault (s : State) (th : ThreadId) (x : Ctx) (code : Nat) : State :=
  s.settleOp th 0 0 false [] (.fault { plainFault code with vaddr := some x.pcc.w0 } s)

/-- The issue cycles that a block instruction still needs before its next unit is done: 2 as it begins, and those of the unit; a
length of 0 takes the 2 alone (R109, R110, log entry 51). -/
def stillNeeds (x : Ctx) (stale : Bool) (spent : Nat) (ds : List Dec) : Bool :=
  match ds with
  | [d] =>
    let begins := if x.progValid && !stale then 0 else 2
    match blockLength d.instr with
    | some r => decide (spent + 1 < if x.getD r = 0 then 2 else unitCycles d.instr + begins)
    | none => false
  | _ => false

/-- A slot issues its parcel (R65, R72, R86). -/
def State.issueParcel (s : State) (th : ThreadId) (r : Ready) : State :=
  match r.parcel with
  | none => match fetchCheck r.ctx.pcc (th.core / 8) with
    | .error e => s.fetchFault th r.ctx e
    | .ok _ => s
  | some f =>
    if f.bad then s.fetchFault th r.ctx fCODE_ECC
    else
      let ds := (decodeParcel th f.bits).ops
      let x := (s.core th.core).slot th.slot
      if stillNeeds r.ctx x.stale x.spent ds then s.modSlot th.core th.slot fun y => { y with spent := y.spent + 1 }
      else
        let now := (s.core th.core).cyc
        let s1 := s.modSlot th.core th.slot fun y =>
          { y with spent := 0, busy := ds.foldl (fun b d => d.results b now) y.busy, buf := bufferFrom f.adr y.buf }
        s1.runParcel th f.bits

/-- The outputs that a group has released since its last commit (R207). -/
def State.released (s : State) (k : Nat) : Nat :=
  ((s.core k).tm.log.filter fun r => match r with
    | .release _ _ => true
    | _ => false).length

/-- A group has put out words between two states: what it has released, and the words of banks that it has spilled or copied to
their images (R122, R207). -/
def State.putOut (s : State) (k : Nat) (t : State) : Bool :=
  decide (s.released k < t.released k) || decide ((s.core k).spillCnt ≠ (t.core k).spillCnt)
    || (((s.core k).ctx 0 0).isSome && ((t.core k).ctx 0 0).isNone)

/-- The member of a group, by its place, whose TLB entry a lookup found bad between two states as the other members hit, and the state
with that error counted (R167). -/
def State.tlbUpset (s : State) (k : Nat) (t : State) : Option (Fin 3 × State) :=
  if (s.members k).length ≤ 1 then none
  else
    let ms := s.members k
    match s.inj.waiting.find? fun w => decide (w.d = 1) && (ms.any fun m => decide (corePage m = w.page)) && !t.inj.waiting.contains w with
    | none => none
    | some w =>
      let p := ms.findIdx fun m => decide (corePage m = w.page)
      if h : p < 3 then
        some (⟨p, h⟩, ({ s with inj := { s.inj with waiting := s.inj.waiting.erase w } } : State).detect w.page 1 true)
      else none

/-- The end of an issue cycle. -/
def State.cycleOver (s : State) (k : Nat) : State := s.modCore k Core.tickOver

/-- An issue cycle of a group in a cycle of its own (R114): the members' outputs are compared before anything leaves, and a
difference that withholds them rolls the group back instead (R204, R205). -/
def State.liveTurn (s : State) (k : Fin 128) (upset : Upset) : State :=
  let s0 := s.modCore k Core.place
  let c := s0.core k
  let p := pickSlot c fun sl => (s0.eligible k sl).isSome
  let run := fun (t : State) =>
    let owner := c.arch.owners.getD (c.cyc % 16) none
    let t1 := (t.traceIssue k (decide (owner ≠ none) && decide (owner = p.slot)) (match p.slot with
      | some sl => sl.val
      | none => 8)).modCore k fun x => x.picked p
    let t2 := match p.slot with
      | none => t1
      | some sl => match s0.eligible k sl with
        | some r => t1.issueParcel { core := k, slot := sl } r
        | none => t1
    t2.cycleOver k
  let t := run s0
  let (go, s2) := match s0.tlbUpset k t with
    | some (m, s1) => s1.compare k (.minority m) false
    | none =>
      let (inj, s1) := if s0.putOut k t then s0.injectCompare k else (none, s0)
      match inj with
      | some m => s1.compare k (.minority m) true
      | none => s1.compare k upset false
  if go then (run s2).checkpointIfDue k else s2

/-! ## Replay (R211 to R213) -/

/-- An input of the log takes effect again (R211). -/
def State.applyInput (s : State) (k : Nat) (r : LogRec) : State :=
  match r with
  | .event _ _ => s.modCore k Core.dispatchEvent
  | .thread n kind why _ =>
    let sl := slotOf n
    match kind with
    | 0 => s.wakeThread k sl
    | 1 => s.modSlot k sl Slot.waitOver
    | 2 => s.parkNow k sl why
    | _ => s.modSlot k sl Slot.unpark
  | _ => s.modCore k fun c => c.relive r

/-- The inputs up to a position take effect, in log order. -/
def State.applyInputs (s : State) (k pos : Nat) : State :=
  let due := fun (r : LogRec) => match r.position with
    | some p => decide (p ≤ pos)
    | none => false
  let l := (s.core k).tm.inputs
  (l.filter due).foldl (fun t r => t.applyInput k r)
    (s.modCore k fun c => { c with tm := { c.tm with inputs := l.filter fun r => !due r } })

/-- The issuer that the trace gives for a position: an irregular one, or the owner (R210). -/
def Core.traced (c : Core) : Option (Fin 8) :=
  match c.tm.replayIssues.find? fun e => decide (e.1 = c.tm.pos) with
  | some (_, n) => if n < 8 then some (slotOf n) else none
  | none => c.arch.owners.getD (c.cyc % 16) none

/-- A cycle of a replay: the inputs at its position, then the parcel that the trace directs, for whose operands it waits; outputs
are compared as ever (R204, R205, R211). A slot that is not ACTIVE has nothing to issue. -/
def State.replayTurn (s : State) (k : Fin 128) (upset : Upset) : State :=
  let t := (s.core k).tm
  if t.goal ≤ t.pos then s
  else
    let s0 := (s.modCore k Core.place).applyInputs k t.pos
    let c := s0.core k
    let (go, s1) := s0.compare k upset false
    if !go then s1
    else
      match c.traced with
      | none => s1.cycleOver k
      | some sl =>
        if (c.slot sl).st ≠ .active then s1.cycleOver k
        else
          match s0.eligible k sl with
          | none => s1
          | some r =>
            let free := decide (c.arch.owners.getD (c.cyc % 16) none ≠ some sl) && decide (c.firstIssue ≠ some c.cyc)
              && decide ((c.slot sl).top ≠ 2)
            let s2 := s1.modCore k fun x => { x.picked { slot := some sl, free := free, stolen := false } with freeCnt := x.freeCnt }
            (s2.issueParcel { core := k, slot := sl } r).cycleOver k

/-- A core cycle of a group (R114, R211); a standby that waits for groups to catch up is entered first (R306). -/
def execIssueTurn (core : Fin 128) (upset : Upset) (tick : Nat) (s : State) : Host.Outcome State Fault Refusal :=
  let s1 := (s.advance tick).enterIfDue
  if !s1.executes core then .next s1
  else if s1.replaying core then .next (s1.replayTurn core upset)
  else .next (s1.liveTurn core upset)

/-- Crossings that a tenant no longer holds up go on (R35). -/
def State.unparkWaiting (s : State) (k : Nat) : State :=
  slots8.foldl (fun t sl => if ((t.core k).slot sl).crossing.isSome then t.unparkSlot k sl else t) s

/-- Replay has reached the goal: its last inputs take effect, held inputs are released and the group runs on; a spare on trial that
no vote named goes back (R211, R213, R219). -/
def execReplayCatchUp (core : Fin 128) (s : State) : Host.Outcome State Fault Refusal :=
  let t := (s.core core).tm
  if t.st = .replay ∧ t.goal ≤ t.pos then
    let s1 := (s.applyInputs core t.pos).modCore core fun c => { c with tm := { c.tm with
      st := .run, goal := 0, values := [], releases := [], inputs := [], replayIssues := [], restored := [], undone := [] } }
    .next ((((s1.undertowSend 3 evcPort).releaseHeld core).unparkWaiting core).endTrial core)
  else .next s

/-! ## Banks and the vector buffer (R120 to R125) -/

/-- An ACTIVE slot's top context is not resident. -/
def Core.needsFill (c : Core) (sl : Fin 8) : Bool :=
  decide ((c.slot sl).st = .active) && (c.ctx sl (c.slot sl).top).isNone

/-- What a group does to its banks, with the words that it spills compared or voted (R122). -/
def State.bankWork (s : State) (k : Nat) (f : State → State) : State :=
  if (s.core k).spillCnt = ((f s).core k).spillCnt then f s else s.voted k f

/-- A spill frees a bank where a context needs one and none is free (R123). -/
def execBankSpill (core : Fin 128) (s : State) : Host.Outcome State Fault Refusal :=
  .next (if slots8.any (s.core core).needsFill then s.bankWork core fun t => (t.takeBank core).2 else s)

/-- The image of a context holds a Poisoned or Unwritten word (R124). -/
def State.imageBad (s : State) (k : Nat) (sl lv : Nat) : Bool :=
  (List.range 64).any fun i => match s.tagAt (imageAddr k sl lv + 4 * i) with
    | .poisoned | .unwritten => true
    | _ => false

/-- A fill of a top context (R123, R124). A bad word in a level-2 image loses the core (R153); its record is made of the image as it
stands (log entry 130). -/
def State.fillTop (s : State) (th : ThreadId) (lv : Fin 3) : State :=
  let s1 := s.fill th.core th.slot lv
  if lv = 2 ∧ ((s1.core th.core).ctx th.slot 2).isNone ∧ s1.imageBad th.core th.slot 2 then
    let (r, s2) := s1.recordOf (s1.imageCtx th.core th.slot 2) 3 0 0 (plainFault fUNWRITTEN_READ)
    s2.loseCore th r
  else s1

/-- A fill of an ACTIVE slot's top context (R123, R124), or of bank 0 for the release of slot 0 (R121, R125). -/
def execBankFill (core : Fin 128) (slot : Fin 8) (s : State) : Host.Outcome State Fault Refusal :=
  let c := s.core core
  if c.needsFill slot then .next (s.bankWork core fun t => t.fillTop { core := core, slot := slot } (c.slot slot).top)
  else if slot = 0 ∧ c.arch.bankJob.isSome ∧ (c.ctx 0 0).isNone then
    let s1 := s.fill core 0 0
    .next (if ((s1.core core).ctx 0 0).isSome then s1
           else s1.modCore core fun x => { x with arch := { x.arch with bankJob := none } })
  else .next s

/-- The vector buffer is loaded again after its parcels were overwritten, and for a release of slot 0, which it ends (R120, R125). A
handler that waits for it issues its first parcel next (R131). -/
def execVectorBufferReload (core : Fin 128) (s : State) : Host.Outcome State Fault Refusal :=
  if (s.core core).vvalid ∨ ((s.core core).arch.bankJob.isSome ∧ ((s.core core).ctx 0 0).isNone) then .next s
  else
    let s1 := s.reloadVector core
    .next ((if (s.core core).awaitsVector 0 then
      s1.modCore core fun c => { (c.setSlot 0 { c.slot 0 with buf := c.vbuf }) with firstIssue := some (max (c.firstIssue.getD 0) c.cyc) }
    else s1).endRelease core)

/-! ## Answers (R87, R128, R290 to R292) -/

/-- The bits of the parcel whose operations wait for an answer: the one that was fetched, else the one in the code store. -/
def State.waitingParcel (s : State) (th : ThreadId) (x : Ctx) : Word :=
  match bufferFrom x.pcc.w0.toNat ((s.core th.core).slot th.slot).buf with
  | f :: _ => f.bits.setWidth 32
  | [] => s.parcelNow x

/-- An answer from outside: the parcel that waits for it runs with it, at the physical address it was given (R55, R87, R165; log entry
53). The answer is the response that the thread waits for. -/
def State.answerOutside (s : State) (th : ThreadId) (pcie : Bool) (a : Answer) : State :=
  match ((s.core th.core).slot th.slot).wait, s.topCtx th with
  | .outside p ops, some x =>
    if p ≠ pcie then s
    else
      let s1 := s.modSlot th.core th.slot fun y => { y with wait := .none, answers := y.answers ++ [a] }
      (s1.settleOps th (s.waitingParcel th x) ops).modSlot th.core th.slot fun y =>
        let z := if y.wait = .access then y.answered else y
        match z.wait with
        | .outside _ _ => z
        | _ => { z with given := [] }
  | _, _ => s

/-- The response to an access arrives: the thread is eligible again, or its outside access has its answer (R87). The event
controller withholds that of a write which has not taken effect (R234). -/
def execAccessResponse (th : ThreadId) (answer : Answer) (s : State) : Host.Outcome State Fault Refusal :=
  match ((s.core th.core).slot th.slot).wait with
  | .access => .next (s.modSlot th.core th.slot Slot.answered)
  | .event src => .next (if s.evcOwesFor src then s else s.modSlot th.core th.slot Slot.answered)
  | .outside p _ => .next (s.answerOutside th p answer)
  | _ => .next s

/-- A completion of an outbound read (R290). -/
def execPcieOutboundCompletion (th : ThreadId) (answer : Answer) (s : State) : Host.Outcome State Fault Refusal :=
  .next (s.answerOutside th true answer)

/-- An outbound read times out (R290). -/
def execPcieCompletionTimeout (th : ThreadId) (s : State) : Host.Outcome State Fault Refusal :=
  .next (s.answerOutside th true .error)

/-- The answer of the flash to a window read: its data, or an error after the strobe timeout (R292). -/
def execXspiWindowRead (th : ThreadId) (answer : Answer) (s : State) : Host.Outcome State Fault Refusal :=
  .next (s.answerOutside th false answer)

/-- The threads of the device. -/
def everyThread : List ThreadId :=
  (List.finRange 128).flatMap fun k => slots8.map fun sl => { core := k, slot := sl }

/-- Posted writes that wait for PCIe in the queues of the cores (R291). -/
def Core.pcieWrites (c : Core) : Nat := (c.posted.filter fun p => decide (p.kind = .outside)).length

/-- The data link goes down (R291): outstanding reads end in errors, and queued writes are discarded and counted. -/
def State.linkLost (s : State) : State :=
  let s0 : State := { s with pcie := { s.pcie with up := false } }
  let lost := (s0.cores.cells.map fun e => e.2.pcieWrites).sum
  let s1 : State := { s0 with
    pcie := { s0.pcie with discarded := (List.replicate lost ()).foldl (fun w _ => satInc w) s0.pcie.discarded }
    cores := ⟨s0.cores.cells.map fun e => (e.1, { e.2 with posted := e.2.posted.filter fun p => decide (p.kind ≠ .outside) })⟩ }
  everyThread.foldl (fun t th => t.answerOutside th true .error) s1

/-- PCIe goes down, and source 304 is raised (R291). -/
def execPcieLinkDown (tick : Nat) (s : State) : Host.Outcome State Fault Refusal :=
  let s1 := s.advance tick
  .next (if s1.pcie.up then (s1.linkLost).raiseN 304 else s1)

end Sys2Proof.Machine
end

