-- ==== Sys2Proof/Machine/Scrub.lean ====
section
/-! DEFINITION. The scrubber (R48 to R53), and the Hykiow port (R296, R335). -/

namespace Sys2Proof.Machine

/-! ## The scrubber -/

/-- A unit's clocks run: its domain is on and the device is not in standby or off (R302, R306). -/
def State.coveRuns (s : State) (n : Nat) : Bool := decide ((s.gate n).st = .on) && decide (s.phase ≠ .off) && decide (s.phase ≠ .standby)

/-- The place of a word index of a cove. -/
def sramWord (n idx : Nat) : Nat := coveBase n + 4 * idx

/-- A scrub step: one word of each bank and one parcel are checked, and single errors are rewritten (R52). The second counter is
that of the code store's pass. -/
def State.scrubStep (s : State) (n : Nat) : State :=
  let c := s.cove n
  if !bit c.scrubCtrl 0 || !s.coveRuns n then s
  else
    let s1 := (List.range 16).foldl (fun t b => t.checkWord (sramWord n (wordOfBank b c.scrubPos.toNat)) true) s
    let s2 := (s1.checkParcel (n * 2 ^ 18 + c.codePos.toNat) true).2
    s2.modCove n fun v => { v with
      scrubPos := v.scrubPos + 1, codePos := v.codePos + 1
      scrubPasses := if v.scrubPos + 1 = 0 then satInc v.scrubPasses else v.scrubPasses }

/-- The data beats of a memory channel: 15/16 of what it has (R41). -/
def channelBeats (c : Fin 2) : Nat := fitGiB (Config.memoryFit c) * 2 ^ 27 / 16 * 15

/-- The address of a data beat of a channel: the channels alternate at 4 KiB (R41). -/
def beatAddr (c n : Nat) : Nat := (n / 512 * 2 + c) * 0x1000 + n % 512 * 8

/-- A patrol scrub step of a memory controller: the next beat of its data extent, or after them of its carve-out (R51, R52; log
entry 123). -/
def State.patrolStep (s : State) (c : Fin 2) : State :=
  let m := s.memc c
  let n := channelBeats c
  if !bit m.scrubCtrl 0 || !s.extUp || decide (s.phase = .off) || decide (s.phase = .standby) || decide (n = 0) then s
  else
    let s1 := if m.scrubPos < n then s.checkBits (beatAddr c m.scrubPos) true
      else s.checkCarve (beatAddr c (16 * (m.scrubPos - n)))
    let v := s1.memc c
    let last := decide (n + n / 16 ≤ m.scrubPos + 1)
    { s1 with memCtl := s1.memCtl.put c { v with
        scrubPos := if last then 0 else m.scrubPos + 1
        scrubPasses := if last then satInc v.scrubPasses else v.scrubPasses } }

/-- A scrubber's step: in a cove, or the patrol scrub of external memory (R52). -/
def execScrubStep (unit : ScrubUnit) (s : State) : Host.Outcome State Fault Refusal :=
  match unit with
  | .cove n => .next (s.scrubStep n)
  | .memory c => .next (s.patrolStep c)

/-- A word of the repair queue is rewritten if it still holds its single error; the access has counted it (R52). -/
def State.repairWord (s : State) (pa : Nat) : State :=
  if (s.eccAt pa).cls pa = 3 then s.checkWord pa true else if (s.eccAt pa).cls pa = 0 then s else s.putEcc pa Ecc.clean

/-- A parcel of the repair queue is rewritten. -/
def State.repairParcel (s : State) (i : Nat) : State :=
  if (s.codeEccAt i).cls i = 3 then (s.checkParcel i true).2
  else if (s.codeEccAt i).cls i = 0 then s
  else { s with codeEcc := s.codeEcc.set (fun _ => Ecc.clean) i Ecc.clean }

/-- The scrubber serves the oldest entry of the repair queue, also while it is stopped (R52, R53). -/
def execRepairQueueRewrite (cove : Fin 16) (s : State) : Host.Outcome State Fault Refusal :=
  match (s.cove cove).repairs with
  | [] => .next s
  | r :: rest =>
    if !s.coveRuns cove then .next s
    else
      let s1 := s.modCove cove fun c => { c with repairs := rest }
      .next (match r with
        | .word idx => s1.repairWord (sramWord cove idx)
        | .parcel idx => s1.repairParcel (cove.val * 2 ^ 18 + idx))

/-! ## Hykiow (R296) -/

/-- The 76 bits that a scan shifts out: the result of the previous command. -/
def Jtag.hykOut (j : Jtag) : List Bool :=
  let w := j.hykStatus.toNat * 2 ^ 74 + j.hykCode.toNat * 2 ^ 64 + j.hykData.toNat
  (List.range 76).map fun i => w.testBit i

/-- The 76 bits of a command. -/
def hykWord (op adr data : Nat) : Nat := op * 2 ^ 74 + adr * 2 ^ 32 + data

/-- The result of an access: done with its data, or fault with its code. -/
def State.hykResult (s : State) (r : Except Nat Word) : State :=
  match r with
  | .ok w => { s with jtag := { s.jtag with hykStatus := 0, hykCode := 0, hykData := w } }
  | .error e => { s with jtag := { s.jtag with hykStatus := 2, hykCode := BitVec.ofNat 6 e, hykData := 0 } }

/-- The result register while the answer of a target outside the device is on its way: busy. -/
def State.hykBusy (s : State) : State := { s with jtag := { s.jtag with hykStatus := 1, hykCode := 0, hykData := 0 } }

/-- Hykiow as a requester: tenant 0, of no event slot (log entry 49). -/
def hykIssuer : Issuer := { core := Config.hykCore, slot := 7, cur := 0, user := false }

/-- An answer from outside the device to Hykiow: nothing that the table of steps has brings it, so it is free (log entry 49). -/
def State.hykOutside (s : State) : Except Nat Word × State :=
  let (n, s1) := s.drawBelow 3
  let (w, s2) := s1.drawWord
  (if n = 0 then .error fBUS_ERROR else if n = 1 then .error fPOISONED_READ else .ok w, s2)

/-- Where Hykiow reaches external memory: no cluster cache stands between. -/
def hykPlace (pa : Nat) : Place := { va := 0, pa := pa, lenient := false, route := .direct, dev := false }

/-- A read by Hykiow from step 5 of R55 on, under the strict policy; the Tidemark does not log it (R296). -/
def State.hykLoad (s : State) (pa : Nat) : Except Nat Word × State :=
  match s.targetLoad hykIssuer (hykPlace pa) 4 with
  | (.ok (w, _), s1) => (.ok w, s1)
  | (.error e, s1) => if notYet ≤ e then s1.hykOutside else (.error e, s1)

/-- A write by Hykiow from step 5 of R55 on: into no group's private region (R208). -/
def State.hykStore (s : State) (pa : Nat) (v : Word) : Except Nat Word × State :=
  if s.storeRefused pa true false || s.foreignPrivate none pa then (.error fBUS_ERROR, s)
  else
    match region pa with
    | .page _ | .pcie => (.ok 0, s.targetStore hykIssuer (hykPlace pa) v)
    | _ => if s.taggedTarget pa then (.ok 0, s.targetStore hykIssuer (hykPlace pa) v) else (.error fBUS_ERROR, s)

/-- An access by Hykiow at the word that holds its address: the MPU, then the target (R55 from step 4 on, R296). While a group
replays toward the word, the command waits and is busy (R64). -/
def State.hykAccess (s : State) (pa : Nat) (store : Option Word) : State :=
  match (s.core hykIssuer.core).mpu hykIssuer pa store.isNone store.isSome with
  | some _ => s.hykResult (.error fMPU)
  | none =>
    if s.heldBack notACore pa then { s.hykBusy with jtag := { s.hykBusy.jtag with hykWait := some (pa, store) } }
    else
      let (r, s1) := match store with
        | some v => s.hykStore pa v
        | none => s.hykLoad pa
      s1.hykResult r

/-- An access that waited is performed once no replay holds it back (R64, R296). -/
def State.hykRetry (s : State) : State :=
  match s.jtag.hykWait with
  | some (pa, store) =>
    if s.heldBack notACore pa then s else { s with jtag := { s.jtag with hykWait := none } }.hykAccess pa store
  | none => s

/-- A scan of HYKIOW: while the port is not enabled it acts as BYPASS, whose register gives the bits one scan clock late (R295,
R296). A command that finds the one before it busy is not begun (log entry 49). -/
def State.hykScan (s : State) (cmd : Nat) (act : State → State) : State :=
  let bits := (List.range 76).map fun i => cmd.testBit i
  if s.hykOn then
    let s1 := s.hykRetry
    let s2 := { s1 with jtag := { s1.jtag with ir := .hykiow, out := s1.jtag.hykOut, drives := false } }
    if s2.jtag.hykWait.isSome then s2 else act s2
  else { s with jtag := { s.jtag with ir := .hykiow, out := scanOut [false] bits, drives := false } }

/-- The word that holds an address. -/
def wordPlace (adr : BitVec 40) : Nat := adr.toNat / 4 * 4

/-- A scan with a read; with no address, its OP is 0 and it only leaves the result of the command before (R296). -/
def execHykiowReadWord (adr : Option (BitVec 40)) (s : State) : Host.Outcome State Fault Refusal :=
  .next (match adr with
    | some a => s.hykScan (hykWord 1 a.toNat 0) fun t => t.hykAccess (wordPlace a) none
    | none => s.hykScan (hykWord 0 0 0) id)

/-- A scan with a write (R296). -/
def execHykiowWriteWord (adr : BitVec 40) (v : Word) (s : State) : Host.Outcome State Fault Refusal :=
  .next (s.hykScan (hykWord 2 adr.toNat v.toNat) fun t => t.hykAccess (wordPlace adr) (some v))

/-- A scan that asks for the status of the previous command, and leaves its result (R296). -/
def execHykiowStatus (s : State) : Host.Outcome State Fault Refusal := .next (s.hykScan (hykWord 3 0 0) id)

end Sys2Proof.Machine
end

