-- ==== Sys2Proof/Machine/Dispatch.lean ====
section
/-! DEFINITION. The effect of each command: one arm per row of the table, each a call of its own meaning. -/

namespace Sys2Proof.Machine

def exec (i : Instr) (s : State) : Host.Outcome State Fault Refusal :=
  match i with
  | .issueTurn core upset at_ => Sys2Proof.Machine.execIssueTurn core upset at_ s
  | .parcelFetch core => Sys2Proof.Machine.execParcelFetch core s
  | .mov th d a => Sys2Proof.Machine.execMov th d a s
  | .movs th d a nf => Sys2Proof.Machine.execMovs th d a nf s
  | .movi th d imm => Sys2Proof.Machine.execMovi th d imm s
  | .add th d a b nf => Sys2Proof.Machine.execAdd th d a b nf s
  | .addi th d a imm nf => Sys2Proof.Machine.execAddi th d a imm nf s
  | .sub th d a b nf => Sys2Proof.Machine.execSub th d a b nf s
  | .adc th d a b nf => Sys2Proof.Machine.execAdc th d a b nf s
  | .sbc th d a b nf => Sys2Proof.Machine.execSbc th d a b nf s
  | .neg th d a nf => Sys2Proof.Machine.execNeg th d a nf s
  | .cmp th a b => Sys2Proof.Machine.execCmp th a b s
  | .cmpi th a imm => Sys2Proof.Machine.execCmpi th a imm s
  | .and th d a b nf => Sys2Proof.Machine.execAnd th d a b nf s
  | .andi th d a imm nf => Sys2Proof.Machine.execAndi th d a imm nf s
  | .or th d a b nf => Sys2Proof.Machine.execOr th d a b nf s
  | .ori th d a imm nf => Sys2Proof.Machine.execOri th d a imm nf s
  | .xor th d a b nf => Sys2Proof.Machine.execXor th d a b nf s
  | .xori th d a imm nf => Sys2Proof.Machine.execXori th d a imm nf s
  | .andn th d a b nf => Sys2Proof.Machine.execAndn th d a b nf s
  | .tst th a b => Sys2Proof.Machine.execTst th a b s
  | .tsti th a imm => Sys2Proof.Machine.execTsti th a imm s
  | .not th d a nf => Sys2Proof.Machine.execNot th d a nf s
  | .min th d a b => Sys2Proof.Machine.execMin th d a b s
  | .max th d a b => Sys2Proof.Machine.execMax th d a b s
  | .minu th d a b => Sys2Proof.Machine.execMinu th d a b s
  | .maxu th d a b => Sys2Proof.Machine.execMaxu th d a b s
  | .shl th d a b nf => Sys2Proof.Machine.execShl th d a b nf s
  | .shr th d a b nf => Sys2Proof.Machine.execShr th d a b nf s
  | .sar th d a b nf => Sys2Proof.Machine.execSar th d a b nf s
  | .ror th d a b nf => Sys2Proof.Machine.execRor th d a b nf s
  | .shli th d a amt nf => Sys2Proof.Machine.execShli th d a amt nf s
  | .shri th d a amt nf => Sys2Proof.Machine.execShri th d a amt nf s
  | .sari th d a amt nf => Sys2Proof.Machine.execSari th d a amt nf s
  | .rori th d a amt nf => Sys2Proof.Machine.execRori th d a amt nf s
  | .mul th d a b nf => Sys2Proof.Machine.execMul th d a b nf s
  | .mulh th d a b nf => Sys2Proof.Machine.execMulh th d a b nf s
  | .mulhu th d a b nf => Sys2Proof.Machine.execMulhu th d a b nf s
  | .mulq th d a b nf => Sys2Proof.Machine.execMulq th d a b nf s
  | .muli th d a imm nf => Sys2Proof.Machine.execMuli th d a imm nf s
  | .mac th d a b nf => Sys2Proof.Machine.execMac th d a b nf s
  | .msub th d a b nf => Sys2Proof.Machine.execMsub th d a b nf s
  | .macQ th d a b nf => Sys2Proof.Machine.execMacQ th d a b nf s
  | .msubQ th d a b nf => Sys2Proof.Machine.execMsubQ th d a b nf s
  | .macL th d a b nf => Sys2Proof.Machine.execMacL th d a b nf s
  | .msubL th d a b nf => Sys2Proof.Machine.execMsubL th d a b nf s
  | .div th d a b => Sys2Proof.Machine.execDiv th d a b s
  | .divu th d a b => Sys2Proof.Machine.execDivu th d a b s
  | .rem th d a b => Sys2Proof.Machine.execRem th d a b s
  | .remu th d a b => Sys2Proof.Machine.execRemu th d a b s
  | .sqrt th d a => Sys2Proof.Machine.execSqrt th d a s
  | .sqrtQ th d a => Sys2Proof.Machine.execSqrtQ th d a s
  | .padd th d a b nf => Sys2Proof.Machine.execPadd th d a b nf s
  | .psub th d a b nf => Sys2Proof.Machine.execPsub th d a b nf s
  | .pdiff th d a b => Sys2Proof.Machine.execPdiff th d a b s
  | .psin th d a => Sys2Proof.Machine.execPsin th d a s
  | .pcos th d a => Sys2Proof.Machine.execPcos th d a s
  | .pcvt th d a b => Sys2Proof.Machine.execPcvt th d a b s
  | .pnow th d b => Sys2Proof.Machine.execPnow th d b s
  | .ldp th d imm => Sys2Proof.Machine.execLdp th d imm s
  | .sel th cond d a b => Sys2Proof.Machine.execSel th cond d a b s
  | .b th cond off => Sys2Proof.Machine.execB th cond off s
  | .bl th cond off => Sys2Proof.Machine.execBl th cond off s
  | .ldiLo th d imm => Sys2Proof.Machine.execLdiLo th d imm s
  | .ldiHi th d imm => Sys2Proof.Machine.execLdiHi th d imm s
  | .nop th => Sys2Proof.Machine.execNop th s
  | .ldB th d c disp => Sys2Proof.Machine.execLdB th d c disp s
  | .ldBu th d c disp => Sys2Proof.Machine.execLdBu th d c disp s
  | .ldH th d c disp => Sys2Proof.Machine.execLdH th d c disp s
  | .ldHu th d c disp => Sys2Proof.Machine.execLdHu th d c disp s
  | .ldW th d c disp => Sys2Proof.Machine.execLdW th d c disp s
  | .stB th d c disp => Sys2Proof.Machine.execStB th d c disp s
  | .stH th d c disp => Sys2Proof.Machine.execStH th d c disp s
  | .stW th d c disp => Sys2Proof.Machine.execStW th d c disp s
  | .ldC th cd c disp => Sys2Proof.Machine.execLdC th cd c disp s
  | .stC th cd c disp => Sys2Proof.Machine.execStC th cd c disp s
  | .ldAcq th d c disp => Sys2Proof.Machine.execLdAcq th d c disp s
  | .stRel th d c disp => Sys2Proof.Machine.execStRel th d c disp s
  | .ldxB th d a b => Sys2Proof.Machine.execLdxB th d a b s
  | .ldxBu th d a b => Sys2Proof.Machine.execLdxBu th d a b s
  | .ldxH th d a b => Sys2Proof.Machine.execLdxH th d a b s
  | .ldxHu th d a b => Sys2Proof.Machine.execLdxHu th d a b s
  | .ldxW th d a b => Sys2Proof.Machine.execLdxW th d a b s
  | .stxB th d a b => Sys2Proof.Machine.execStxB th d a b s
  | .stxH th d a b => Sys2Proof.Machine.execStxH th d a b s
  | .stxW th d a b => Sys2Proof.Machine.execStxW th d a b s
  | .ldWS th d c k => Sys2Proof.Machine.execLdWS th d c k s
  | .stWS th d c k => Sys2Proof.Machine.execStWS th d c k s
  | .cas th d a b => Sys2Proof.Machine.execCas th d a b s
  | .amoAdd th d a b => Sys2Proof.Machine.execAmoAdd th d a b s
  | .escalationEntry core => Sys2Proof.Machine.execEscalationEntry core s
  | .accessResponse th answer => Sys2Proof.Machine.execAccessResponse th answer s
  | .postedStoreError core => Sys2Proof.Machine.execPostedStoreError core s
  | .postedStoreDrain core => Sys2Proof.Machine.execPostedStoreDrain core s
  | .pld th d a b => Sys2Proof.Machine.execPld th d a b s
  | .cmov th cd ca => Sys2Proof.Machine.execCmov th cd ca s
  | .cadd th cd ca b => Sys2Proof.Machine.execCadd th cd ca b s
  | .caddi th cd ca imm => Sys2Proof.Machine.execCaddi th cd ca imm s
  | .csetc th cd ca b => Sys2Proof.Machine.execCsetc th cd ca b s
  | .csetbnd th cd ca b => Sys2Proof.Machine.execCsetbnd th cd ca b s
  | .csetbndX th cd ca b => Sys2Proof.Machine.execCsetbndX th cd ca b s
  | .candr th cd ca imm => Sys2Proof.Machine.execCandr th cd ca imm s
  | .cspan th cd ca b => Sys2Proof.Machine.execCspan th cd ca b s
  | .cseal th cd ca cb => Sys2Proof.Machine.execCseal th cd ca cb s
  | .cunseal th cd ca cb => Sys2Proof.Machine.execCunseal th cd ca cb s
  | .cgetC th d src => Sys2Proof.Machine.execCgetC th d src s
  | .cgetB th d src => Sys2Proof.Machine.execCgetB th d src s
  | .cgetLast th d src => Sys2Proof.Machine.execCgetLast th d src s
  | .cgetR th d src => Sys2Proof.Machine.execCgetR th d src s
  | .cgetOt th d src => Sys2Proof.Machine.execCgetOt th d src s
  | .cgetTag th d src => Sys2Proof.Machine.execCgetTag th d src s
  | .cgetE th d ca => Sys2Proof.Machine.execCgetE th d ca s
  | .cgran th d a => Sys2Proof.Machine.execCgran th d a s
  | .cpcc th cd => Sys2Proof.Machine.execCpcc th cd s
  | .cmint th cd ca b rights => Sys2Proof.Machine.execCmint th cd ca b rights s
  | .hld th d ca b => Sys2Proof.Machine.execHld th d ca b s
  | .hst th ca b d => Sys2Proof.Machine.execHst th ca b d s
  | .sld th d ca b => Sys2Proof.Machine.execSld th d ca b s
  | .sst th ca b d => Sys2Proof.Machine.execSst th ca b d s
  | .tstat th d ca => Sys2Proof.Machine.execTstat th d ca s
  | .tstop th ca => Sys2Proof.Machine.execTstop th ca s
  | .tresume th ca => Sys2Proof.Machine.execTresume th ca s
  | .jr th ca => Sys2Proof.Machine.execJr th ca s
  | .jrl th ca => Sys2Proof.Machine.execJrl th ca s
  | .gcall th ca => Sys2Proof.Machine.execGcall th ca s
  | .gret th => Sys2Proof.Machine.execGret th s
  | .rfe th => Sys2Proof.Machine.execRfe th s
  | .trap th n => Sys2Proof.Machine.execTrap th n s
  | .sleep th => Sys2Proof.Machine.execSleep th s
  | .wake th a => Sys2Proof.Machine.execWake th a s
  | .tmark th => Sys2Proof.Machine.execTmark th s
  | .waitTide th t imm => Sys2Proof.Machine.execWaitTide th t imm s
  | .waitTideR th a b => Sys2Proof.Machine.execWaitTideR th a b s
  | .waitComplete th at_ => Sys2Proof.Machine.execWaitComplete th at_ s
  | .mfs th d n => Sys2Proof.Machine.execMfs th d n s
  | .mts th n a => Sys2Proof.Machine.execMts th n a s
  | .mfsc th cd n => Sys2Proof.Machine.execMfsc th cd n s
  | .mtsc th n ca => Sys2Proof.Machine.execMtsc th n ca s
  | .wheelWrite who core v => Sys2Proof.Machine.execWheelWrite who core v s
  | .hold who core slot level => Sys2Proof.Machine.execHold who core slot level s
  | .release who core slot level => Sys2Proof.Machine.execRelease who core slot level s
  | .releaseRun who core slot level => Sys2Proof.Machine.execReleaseRun who core slot level s
  | .create who core slot level => Sys2Proof.Machine.execCreate who core slot level s
  | .discard who core slot level => Sys2Proof.Machine.execDiscard who core slot level s
  | .bankSpill core => Sys2Proof.Machine.execBankSpill core s
  | .bankFill core slot => Sys2Proof.Machine.execBankFill core slot s
  | .vectorBufferReload core => Sys2Proof.Machine.execVectorBufferReload core s
  | .eventDispatch core => Sys2Proof.Machine.execEventDispatch core s
  | .tlbw th a b => Sys2Proof.Machine.execTlbw th a b s
  | .tlbr th d a => Sys2Proof.Machine.execTlbr th d a s
  | .tlbiVa th cd a b => Sys2Proof.Machine.execTlbiVa th cd a b s
  | .tlbiT th cd b => Sys2Proof.Machine.execTlbiT th cd b s
  | .tlbiAll th cd => Sys2Proof.Machine.execTlbiAll th cd s
  | .tlbiReceive core => Sys2Proof.Machine.execTlbiReceive core s
  | .wld th d a b => Sys2Proof.Machine.execWld th d a b s
  | .fenceL th => Sys2Proof.Machine.execFenceL th s
  | .fenceM th => Sys2Proof.Machine.execFenceM th s
  | .fenceIo th => Sys2Proof.Machine.execFenceIo th s
  | .fenceT th => Sys2Proof.Machine.execFenceT th s
  | .fenceC th => Sys2Proof.Machine.execFenceC th s
  | .fenceComplete th => Sys2Proof.Machine.execFenceComplete th s
  | .movb th cd ca b units => Sys2Proof.Machine.execMovb th cd ca b units s
  | .fillb th cd a b units => Sys2Proof.Machine.execFillb th cd a b units s
  | .crcb th d ca b units => Sys2Proof.Machine.execCrcb th d ca b units s
  | .tagz th cd b units => Sys2Proof.Machine.execTagz th cd b units s
  | .pstoreN th cd ca b units => Sys2Proof.Machine.execPstoreN th cd ca b units s
  | .scrubStep unit => Sys2Proof.Machine.execScrubStep unit s
  | .repairQueueRewrite cove => Sys2Proof.Machine.execRepairQueueRewrite cove s
  | .mint who => Sys2Proof.Machine.execMint who s
  | .start who => Sys2Proof.Machine.execStart who s
  | .stop who => Sys2Proof.Machine.execStop who s
  | .resume who => Sys2Proof.Machine.execResume who s
  | .retire who => Sys2Proof.Machine.execRetire who s
  | .tenCmdUnknown who code => Sys2Proof.Machine.execTenCmdUnknown who code s
  | .tenCmdComplete => Sys2Proof.Machine.execTenCmdComplete s
  | .tenantCommandArrive core => Sys2Proof.Machine.execTenantCommandArrive core s
  | .tenPhysWrite who last v => Sys2Proof.Machine.execTenPhysWrite who last v s
  | .tenUnwrittenRead who => Sys2Proof.Machine.execTenUnwrittenRead who s
  | .checkpoint core => Sys2Proof.Machine.execCheckpoint core s
  | .checkpointCommit core upset => Sys2Proof.Machine.execCheckpointCommit core upset s
  | .rollback core cause => Sys2Proof.Machine.execRollback core cause s
  | .glitchAlarm scope => Sys2Proof.Machine.execGlitchAlarm scope s
  | .restoreComplete core => Sys2Proof.Machine.execRestoreComplete core s
  | .replayCatchUp core => Sys2Proof.Machine.execReplayCatchUp core s
  | .change who cove mode => Sys2Proof.Machine.execChange who cove mode s
  | .rotate who cove lcore => Sys2Proof.Machine.execRotate who cove lcore s
  | .restart who cove lcore differ pass => Sys2Proof.Machine.execRestart who cove lcore differ pass s
  | .cmodeUnknown who cove code => Sys2Proof.Machine.execCmodeUnknown who cove code s
  | .copyEnd cove => Sys2Proof.Machine.execCopyEnd cove s
  | .selfTestSchedulePoint cove => Sys2Proof.Machine.execSelfTestSchedulePoint cove s
  | .coreTestComplete cove phys pass => Sys2Proof.Machine.execCoreTestComplete cove phys pass s
  | .sliceComplete cove pass => Sys2Proof.Machine.execSliceComplete cove pass s
  | .bankTestComplete cove pass => Sys2Proof.Machine.execBankTestComplete cove pass s
  | .eventArrival src at_ => Sys2Proof.Machine.execEventArrival src at_ s
  | .coalesceTimeout src at_ => Sys2Proof.Machine.execCoalesceTimeout src at_ s
  | .evcSelect at_ => Sys2Proof.Machine.execEvcSelect at_ s
  | .urgentEntry src at_ => Sys2Proof.Machine.execUrgentEntry src at_ s
  | .enSet ten src at_ => Sys2Proof.Machine.execEnSet ten src at_ s
  | .enClr ten src at_ => Sys2Proof.Machine.execEnClr ten src at_ s
  | .enClrEffect src at_ => Sys2Proof.Machine.execEnClrEffect src at_ s
  | .pendSet ten src at_ => Sys2Proof.Machine.execPendSet ten src at_ s
  | .pendClr ten src => Sys2Proof.Machine.execPendClr ten src s
  | .coalWrite th src v => Sys2Proof.Machine.execCoalWrite th src v s
  | .evcBindWrite ten src v => Sys2Proof.Machine.execEvcBindWrite ten src v s
  | .maskWrite ten src k v at_ => Sys2Proof.Machine.execMaskWrite ten src k v at_ s
  | .enablePendingDirectWrite who pending k v at_ => Sys2Proof.Machine.execEnablePendingDirectWrite who pending k v at_ s
  | .enablePendingAliasWrite who pending set k v at_ => Sys2Proof.Machine.execEnablePendingAliasWrite who pending set k v at_ s
  | .evcClaimRead who page => Sys2Proof.Machine.execEvcClaimRead who page s
  | .evcDoneWrite who page => Sys2Proof.Machine.execEvcDoneWrite who page s
  | .wakeLatchCatch k => Sys2Proof.Machine.execWakeLatchCatch k s
  | .wakeLatchClear who hi v => Sys2Proof.Machine.execWakeLatchClear who hi v s
  | .wakeBallEdge k at_ => Sys2Proof.Machine.execWakeBallEdge k at_ s
  | .tideMeasurement t m at_ => Sys2Proof.Machine.execTideMeasurement t m at_ s
  | .encoderReversal t at_ => Sys2Proof.Machine.execEncoderReversal t at_ s
  | .slackWaterEntry t at_ => Sys2Proof.Machine.execSlackWaterEntry t at_ s
  | .fallbackApply t at_ => Sys2Proof.Machine.execFallbackApply t at_ s
  | .tsrcWrite ten t v at_ => Sys2Proof.Machine.execTsrcWrite ten t v at_ s
  | .entryPhaseWrite ten e v at_ => Sys2Proof.Machine.execEntryPhaseWrite ten e v at_ s
  | .entryCtrlWrite ten e v at_ => Sys2Proof.Machine.execEntryCtrlWrite ten e v at_ s
  | .entryArgWrite ten e v at_ => Sys2Proof.Machine.execEntryArgWrite ten e v at_ s
  | .entryBindWrite ten e v => Sys2Proof.Machine.execEntryBindWrite ten e v s
  | .entryFire e at_ => Sys2Proof.Machine.execEntryFire e at_ s
  | .entryDispatch at_ => Sys2Proof.Machine.execEntryDispatch at_ s
  | .entryStage e at_ => Sys2Proof.Machine.execEntryStage e at_ s
  | .commitPoint e at_ => Sys2Proof.Machine.execCommitPoint e at_ s
  | .edgePlace e at_ => Sys2Proof.Machine.execEdgePlace e at_ s
  | .forceWrite ten o v => Sys2Proof.Machine.execForceWrite ten o v s
  | .ocfgWrite ten o v => Sys2Proof.Machine.execOcfgWrite ten o v s
  | .ownWrite ten o v => Sys2Proof.Machine.execOwnWrite ten o v s
  | .modulatorSample m bits at_ => Sys2Proof.Machine.execModulatorSample m bits at_ s
  | .modClockLost m => Sys2Proof.Machine.execModClockLost m s
  | .mcfgWrite ten m v => Sys2Proof.Machine.execMcfgWrite ten m v s
  | .halt ten e => Sys2Proof.Machine.execHalt ten e s
  | .wcmdResume ten e => Sys2Proof.Machine.execWcmdResume ten e s
  | .wcmdReset ten e => Sys2Proof.Machine.execWcmdReset ten e s
  | .trigger ten e => Sys2Proof.Machine.execTrigger ten e s
  | .waveProgWrite ten e adr v => Sys2Proof.Machine.execWaveProgWrite ten e adr v s
  | .waveRxRead ten e => Sys2Proof.Machine.execWaveRxRead ten e s
  | .weHalt e => Sys2Proof.Machine.execWeHalt e s
  | .weSet e => Sys2Proof.Machine.execWeSet e s
  | .weDir e => Sys2Proof.Machine.execWeDir e s
  | .waitp e pins => Sys2Proof.Machine.execWaitp e pins s
  | .waitpTimeout e at_ => Sys2Proof.Machine.execWaitpTimeout e at_ s
  | .shx e run => Sys2Proof.Machine.execShx e run s
  | .dly e => Sys2Proof.Machine.execDly e s
  | .ldc e => Sys2Proof.Machine.execLdc e s
  | .djnz e => Sys2Proof.Machine.execDjnz e s
  | .jmp e => Sys2Proof.Machine.execJmp e s
  | .jpin e pins => Sys2Proof.Machine.execJpin e pins s
  | .stamp e at_ => Sys2Proof.Machine.execStamp e at_ s
  | .tide e => Sys2Proof.Machine.execTide e s
  | .push e => Sys2Proof.Machine.execPush e s
  | .pull e => Sys2Proof.Machine.execPull e s
  | .evt e at_ => Sys2Proof.Machine.execEvt e at_ s
  | .clr e => Sys2Proof.Machine.execClr e s
  | .undertowPacket port => Sys2Proof.Machine.execUndertowPacket port s
  | .chStop who ch => Sys2Proof.Machine.execChStop who ch s
  | .flush who ch => Sys2Proof.Machine.execFlush who ch s
  | .chCmdUnknown who code ch => Sys2Proof.Machine.execChCmdUnknown who code ch s
  | .chPoolWrite who v => Sys2Proof.Machine.execChPoolWrite who v s
  | .tcapWrite who v => Sys2Proof.Machine.execTcapWrite who v s
  | .cbindWrite ten ch v => Sys2Proof.Machine.execCbindWrite ten ch v s
  | .cctrlWrite ten ch v => Sys2Proof.Machine.execCctrlWrite ten ch v s
  | .tailWrite ten ch v => Sys2Proof.Machine.execTailWrite ten ch v s
  | .cxeWrite ten ch second word v => Sys2Proof.Machine.execCxeWrite ten ch second word v s
  | .startWrite ten ch v => Sys2Proof.Machine.execStartWrite ten ch v s
  | .descriptorProcess ch => Sys2Proof.Machine.execDescriptorProcess ch s
  | .descriptorComplete ch at_ => Sys2Proof.Machine.execDescriptorComplete ch at_ s
  | .cycleStart l at_ => Sys2Proof.Machine.execCycleStart l at_ s
  | .freezePoint m => Sys2Proof.Machine.execFreezePoint m s
  | .frameReturn l loop devOk appends malformed at_ => Sys2Proof.Machine.execFrameReturn l loop devOk appends malformed at_ s
  | .frameDeadline l back at_ => Sys2Proof.Machine.execFrameDeadline l back at_ s
  | .joiningTimeout l pos => Sys2Proof.Machine.execJoiningTimeout l pos s
  | .positionLeft l pos at_ => Sys2Proof.Machine.execPositionLeft l pos at_ s
  | .linkUp l loop => Sys2Proof.Machine.execLinkUp l loop s
  | .linkDown l at_ => Sys2Proof.Machine.execLinkDown l at_ s
  | .lctrlWrite who l v => Sys2Proof.Machine.execLctrlWrite who l v s
  | .lperiodWrite who l v => Sys2Proof.Machine.execLperiodWrite who l v s
  | .bind who l pos => Sys2Proof.Machine.execBind who l pos s
  | .unbind who l pos => Sys2Proof.Machine.execUnbind who l pos s
  | .evict who l pos => Sys2Proof.Machine.execEvict who l pos s
  | .quarantine who l pos => Sys2Proof.Machine.execQuarantine who l pos s
  | .linkRelease who l pos => Sys2Proof.Machine.execLinkRelease who l pos s
  | .keyclr who l pos => Sys2Proof.Machine.execKeyclr who l pos s
  | .lcmdUnknown who l code pos => Sys2Proof.Machine.execLcmdUnknown who l code pos s
  | .akeyWrite who l v => Sys2Proof.Machine.execAkeyWrite who l v s
  | .ethernetFrameReceive p f at_ => Sys2Proof.Machine.execEthernetFrameReceive p f at_ s
  | .ethernetFrameTransmit p at_ => Sys2Proof.Machine.execEthernetFrameTransmit p at_ s
  | .ethernetLinkChange p up at_ => Sys2Proof.Machine.execEthernetLinkChange p up at_ s
  | .ptpStepWrite who p v => Sys2Proof.Machine.execPtpStepWrite who p v s
  | .ptpNsRead who p => Sys2Proof.Machine.execPtpNsRead who p s
  | .txtsRead who p k => Sys2Proof.Machine.execTxtsRead who p k s
  | .ptpTargetTime p at_ => Sys2Proof.Machine.execPtpTargetTime p at_ s
  | .canFrameReceive c f at_ => Sys2Proof.Machine.execCanFrameReceive c f at_ s
  | .canFrameTransmit c at_ => Sys2Proof.Machine.execCanFrameTransmit c at_ s
  | .canErrorStateChange c st at_ => Sys2Proof.Machine.execCanErrorStateChange c st at_ s
  | .busOffRecovery c at_ => Sys2Proof.Machine.execBusOffRecovery c at_ s
  | .uartRecordEnd u chars parity framing brk at_ => Sys2Proof.Machine.execUartRecordEnd u chars parity framing brk at_ s
  | .uartTransmit u at_ => Sys2Proof.Machine.execUartTransmit u at_ s
  | .pcieInboundWrite t data ep check at_ => Sys2Proof.Machine.execPcieInboundWrite t data ep check at_ s
  | .pcieInboundRead t at_ => Sys2Proof.Machine.execPcieInboundRead t at_ s
  | .pcieMsiReceive data at_ => Sys2Proof.Machine.execPcieMsiReceive data at_ s
  | .pcieOutboundCompletion th answer => Sys2Proof.Machine.execPcieOutboundCompletion th answer s
  | .pcieCompletionTimeout th => Sys2Proof.Machine.execPcieCompletionTimeout th s
  | .pcieLinkDown at_ => Sys2Proof.Machine.execPcieLinkDown at_ s
  | .pcieLinkUp at_ => Sys2Proof.Machine.execPcieLinkUp at_ s
  | .xspiCommand data strobe span => Sys2Proof.Machine.execXspiCommand data strobe span s
  | .xspiWindowRead th answer => Sys2Proof.Machine.execXspiWindowRead th answer s
  | .i2cTransfer n_ data run span => Sys2Proof.Machine.execI2cTransfer n_ data run span s
  | .i2cClockTimeout n_ hold => Sys2Proof.Machine.execI2cClockTimeout n_ hold s
  | .smbalert n_ at_ => Sys2Proof.Machine.execSmbalert n_ at_ s
  | .memoryTrainingComplete c ok => Sys2Proof.Machine.execMemoryTrainingComplete c ok s
  | .bypass tdi => Sys2Proof.Machine.execBypass tdi s
  | .idcode tdi => Sys2Proof.Machine.execIdcode tdi s
  | .samplePreload tdi => Sys2Proof.Machine.execSamplePreload tdi s
  | .extest tdi => Sys2Proof.Machine.execExtest tdi s
  | .clamp tdi => Sys2Proof.Machine.execClamp tdi s
  | .highz tdi => Sys2Proof.Machine.execHighz tdi s
  | .hykiowReadWord adr => Sys2Proof.Machine.execHykiowReadWord adr s
  | .hykiowWriteWord adr v => Sys2Proof.Machine.execHykiowWriteWord adr v s
  | .hykiowStatus => Sys2Proof.Machine.execHykiowStatus s
  | .profileWrite who v => Sys2Proof.Machine.execProfileWrite who v s
  | .profileSwitch => Sys2Proof.Machine.execProfileSwitch s
  | .profileChangeComplete => Sys2Proof.Machine.execProfileChangeComplete s
  | .thermalForcedNeap => Sys2Proof.Machine.execThermalForcedNeap s
  | .ungate who => Sys2Proof.Machine.execUngate who s
  | .clkgate who => Sys2Proof.Machine.execClkgate who s
  | .pwrgate who => Sys2Proof.Machine.execPwrgate who s
  | .gdHold who => Sys2Proof.Machine.execGdHold who s
  | .unhold who => Sys2Proof.Machine.execUnhold who s
  | .gdReset who => Sys2Proof.Machine.execGdReset who s
  | .gdCmdUnknown who code => Sys2Proof.Machine.execGdCmdUnknown who code s
  | .gatingComplete dom => Sys2Proof.Machine.execGatingComplete dom s
  | .blkGateWrite who dom v at_ => Sys2Proof.Machine.execBlkGateWrite who dom v at_ s
  | .enter who => Sys2Proof.Machine.execEnter who s
  | .standbyRestart at_ => Sys2Proof.Machine.execStandbyRestart at_ s
  | .arm who => Sys2Proof.Machine.execArm who s
  | .disarm who => Sys2Proof.Machine.execDisarm who s
  | .ebbTrigger cause => Sys2Proof.Machine.execEbbTrigger cause s
  | .ebbSeal => Sys2Proof.Machine.execEbbSeal s
  | .ebbReturn restore at_ => Sys2Proof.Machine.execEbbReturn restore at_ s
  | .epochCmd who v => Sys2Proof.Machine.execEpochCmd who v s
  | .epochRebuild dom at_ => Sys2Proof.Machine.execEpochRebuild dom at_ s
  | .sysReset who v => Sys2Proof.Machine.execSysReset who v s
  | .otpRollback who n => Sys2Proof.Machine.execOtpRollback who n s
  | .otpRevoke who k => Sys2Proof.Machine.execOtpRevoke who k s
  | .otpBootcfg who v => Sys2Proof.Machine.execOtpBootcfg who v s
  | .powerOnReset aonLost => Sys2Proof.Machine.execPowerOnReset aonLost s
  | .poreset => Sys2Proof.Machine.execPoreset s
  | .watchdogExpiry => Sys2Proof.Machine.execWatchdogExpiry s
  | .watchdogHalf at_ => Sys2Proof.Machine.execWatchdogHalf at_ s
  | .aonKick who => Sys2Proof.Machine.execAonKick who s
  | .aonAlarm k at_ => Sys2Proof.Machine.execAonAlarm k at_ s
  | .aonCntLoRead who => Sys2Proof.Machine.execAonCntLoRead who s
  | .supplyWarning at_ => Sys2Proof.Machine.execSupplyWarning at_ s
  | .supplyGlitch sram cove at_ => Sys2Proof.Machine.execSupplyGlitch sram cove at_ s
  | .clockMonitorAlarm scope at_ => Sys2Proof.Machine.execClockMonitorAlarm scope at_ s
  | .tidePllLoss at_ => Sys2Proof.Machine.execTidePllLoss at_ s
  | .crystalLoss at_ => Sys2Proof.Machine.execCrystalLoss at_ s
  | .crystalLossTimeout at_ => Sys2Proof.Machine.execCrystalLossTimeout at_ s
  | .thermalWarning at_ => Sys2Proof.Machine.execThermalWarning at_ s
  | .bootRomRun images => Sys2Proof.Machine.execBootRomRun images s
  | .bootRetry => Sys2Proof.Machine.execBootRetry s
  | .featAcceptWrite who page v => Sys2Proof.Machine.execFeatAcceptWrite who page v s
  | .flock who page => Sys2Proof.Machine.execFlock who page s
  | .featureSetApply core => Sys2Proof.Machine.execFeatureSetApply core s
  | .pageOwnWrite who page v => Sys2Proof.Machine.execPageOwnWrite who page v s
  | .errStatusClear who page v => Sys2Proof.Machine.execErrStatusClear who page v s
  | .injHitClear who page v => Sys2Proof.Machine.execInjHitClear who page v s
  | .errEventSet who page v => Sys2Proof.Machine.execErrEventSet who page v s
  | .errEventClr who page v => Sys2Proof.Machine.execErrEventClr who page v s
  | .injUnlock who v at_ => Sys2Proof.Machine.execInjUnlock who v at_ s
  | .injLock who => Sys2Proof.Machine.execInjLock who s
  | .injectionWindowExpiry at_ => Sys2Proof.Machine.execInjectionWindowExpiry at_ s
  | .injCtrlWrite who page d v => Sys2Proof.Machine.execInjCtrlWrite who page d v s
  | .injectionFire page d at_ => Sys2Proof.Machine.execInjectionFire page d at_ s
  | .hykEnWrite who v => Sys2Proof.Machine.execHykEnWrite who v s
  | .counterRcRead who page off => Sys2Proof.Machine.execCounterRcRead who page off s
  | .registerWrite who page off v => Sys2Proof.Machine.execRegisterWrite who page off v s
  | .supplyReturn => Sys2Proof.Machine.execSupplyReturn s
  | .powerOff => Sys2Proof.Machine.execPowerOff s
  | .vddIo33Fall => Sys2Proof.Machine.execVddIo33Fall s
  | .crystalReturn => Sys2Proof.Machine.execCrystalReturn s
  | .tidePllRelock at_ => Sys2Proof.Machine.execTidePllRelock at_ s
  | .thermalAlarmClear => Sys2Proof.Machine.execThermalAlarmClear s
  | .modClockReturn m => Sys2Proof.Machine.execModClockReturn m s
  | .unsolicited l byte => Sys2Proof.Machine.execUnsolicited l byte s

end Sys2Proof.Machine
end

