-- ==== Sys2Proof/Safety.lean ====
section
/-! DEFINITION. What counts as a safe state and a safe step. -/

namespace Sys2Proof

open Machine

/-- The form that every state of a run has: memory, its tags, the code stores and their check bits are canonical, so that equal
contents are equal data. -/
def Sound (s : State) : Prop :=
  Memory.wf s.mem = true ∧ s.tags.canonical tagDefault = true ∧ s.ecc.canonical (fun _ => Ecc.clean) = true
    ∧ s.code.canonical (fun _ => 0) = true ∧ s.codeEcc.canonical (fun _ => Ecc.clean) = true

/-- A safe step: it answers a next state, neither a fault nor a refusal. -/
def SafeStep (s : State) : Prop := ∃ t, step s = .next t

end Sys2Proof
end

