-- ==== Sys2Proof/Certificates/Slice0/Obligations.lean ====
section
/-! DEFINITION. The statements for the provers. -/

open Sys2Proof Sys2Proof.Machine

/-! ## What the statements are made of -/

namespace Sys2Proof.Claims

/-- The command answers a next state, of which `P` holds. -/
def Answers (c : Instr) (s : State) (P : State → Prop) : Prop := ∃ t, exec c s = .next t ∧ P t

/-- The state in which a thread's parcel runs: the bank of its top context is the one that issued last (R123). -/
def issuing (s : State) (th : ThreadId) : State := s.modCore th.core fun c => c.touchBank th.slot

/-- Nothing but one core has changed. -/
def OnlyCore (s t : State) (k : Nat) : Prop :=
  { t with cores := s.cores } = s ∧ ∀ j, j ≠ k → t.core j = s.core j

/-- Nothing has changed but the top context of a thread, which is now `y`, and its slot, which holds nothing of an answer from outside. -/
def OnlyTop (s t : State) (th : ThreadId) (y : Ctx) : Prop :=
  let c := s.core th.core
  let c' := t.core th.core
  OnlyCore s t th.core ∧ t.topCtx th = some y
    ∧ { c' with arch := { c'.arch with banks := c.arch.banks, slots := c.arch.slots } } = c
    ∧ (∀ sl lv, ¬(sl = th.slot ∧ lv = (c.slot th.slot).top) → c'.ctx sl lv = c.ctx sl lv)
    ∧ (∀ sl, sl ≠ th.slot → c'.slot sl = c.slot sl)
    ∧ { c'.slot th.slot with answers := (c.slot th.slot).answers, given := (c.slot th.slot).given, stale := (c.slot th.slot).stale }
        = c.slot th.slot

/-- The end of a parcel in order: PCC has moved on by one, and PROG.VALID is clear (R65, R143). -/
def nextParcel (x : Ctx) : Ctx := { x with pcc := x.pcc.withCursor (x.pcc.w0 + 1), progValid := false }

/-- FLG made of N, Z, C and V (R73). -/
def flg (n z c v : Bool) : BitVec 4 := BitVec.ofBool n ++ BitVec.ofBool z ++ BitVec.ofBool c ++ BitVec.ofBool v

/-- The flags that a context has: C and V. -/
def hasC (x : Ctx) : Bool := x.flg.getLsbD 1

/-- V of a context. -/
def hasV (x : Ctx) : Bool := x.flg.getLsbD 0

/-- C of a context as a number. -/
def cin (x : Ctx) : Nat := (hasC x).toNat

/-- The flags of the Logical class (R74): N and Z by the result, C and V as they were. -/
def logicFlg (x : Ctx) (r : Word) : BitVec 4 := flg r.msb (decide (r = 0)) (hasC x) (hasV x)

/-- The flags of a sum r of a, b and a carry (R74): C the carry out, V the signed overflow. -/
def sumFlg (a b : Word) (c : Nat) (r : Word) : BitVec 4 :=
  flg r.msb (decide (r = 0)) (decide (2 ^ 32 ≤ a.toNat + b.toNat + c))
    (decide (a.toInt + b.toInt + c < -2 ^ 31 ∨ 2 ^ 31 ≤ a.toInt + b.toInt + c))

/-- The flags of a difference r of a and b (R74): C is 1 when there is no borrow. -/
def diffFlg (a b r : Word) : BitVec 4 :=
  flg r.msb (decide (r = 0)) (decide (b.toNat ≤ a.toNat))
    (decide (a.toInt - b.toInt < -2 ^ 31 ∨ 2 ^ 31 ≤ a.toInt - b.toInt))

/-- The flags of a shift (R74): C is the last bit shifted out, and stays where the amount is 0. -/
def shiftFlg (x : Ctx) (r : Word) (n : Nat) (out : Bool) : BitVec 4 :=
  flg r.msb (decide (r = 0)) (if n = 0 then hasC x else out) (hasV x)

/-- A data register and what it takes, and the flags: what an operation of the Integer class leaves. -/
abbrev Result := Option (DReg × Word) × BitVec 4

/-- The result of an operation with a .NF variant: FLG stays under .NF (R74). -/
def withNf (x : Ctx) (nf : Bool) (d : DReg) (r : Word) (f : BitVec 4) : Result := (some (d, r), if nf then x.flg else f)

/-- The result of an operation without flags. -/
def plain (x : Ctx) (d : DReg) (r : Word) : Result := (some (d, r), x.flg)

/-- A context with a result written. -/
def written (x : Ctx) (r : Result) : Ctx :=
  match r.1 with
  | some (d, v) => { x with d := x.d.set d.val v, flg := r.2 }
  | none => { x with flg := r.2 }

/-- The operation completes: its thread's top context has the result and is past the parcel, and nothing else has changed. -/
def Leaves (s : State) (th : ThreadId) (x : Ctx) (i : Instr) (r : Result) : Prop :=
  Answers i s fun t => OnlyTop s t th (nextParcel (written x r))

/-- The condition of a select or a branch holds of N, Z, C and V (R75). -/
def holds (x : Ctx) (cond : BitVec 4) : Bool :=
  let n := x.flg.getLsbD 3
  let z := x.flg.getLsbD 2
  let c := x.flg.getLsbD 1
  let v := x.flg.getLsbD 0
  [z, !z, c, !c, n, !n, v, !v, c && !z, !c || z, n == v, n != v, !z && (n == v), z || (n != v), true, false].getD cond.toNat false

/-- The result of a shift to the left. -/
def leftShift (x : Ctx) (nf : Bool) (d : DReg) (v : Word) (n : Nat) : Result :=
  let r := v <<< n
  withNf x nf d r (shiftFlg x r n (v.getLsbD (32 - n)))

/-- The result r of a shift to the right: the last bit out is bit n - 1. -/
def rightShift (x : Ctx) (nf : Bool) (d : DReg) (v r : Word) (n : Nat) : Result :=
  withNf x nf d r (shiftFlg x r n (v.getLsbD (n - 1)))

/-- The result of a rotation: the last bit out is the new bit 31. -/
def rotation (x : Ctx) (nf : Bool) (d : DReg) (v : Word) (n : Nat) : Result :=
  let r := v.rotateRight n
  withNf x nf d r (shiftFlg x r n r.msb)

/-- A signed number clamped to 32 bits, and whether it clamped (R93). -/
def clamp32 (v : Int) : Word × Bool := (BitVec.ofInt 32 (max (-2 ^ 31) (min (2 ^ 31 - 1) v)), decide (v < -2 ^ 31 ∨ 2 ^ 31 ≤ v))

/-- A signed number clamped to 64 bits, and whether it clamped (R93). -/
def clamp64 (v : Int) : BitVec 64 × Bool := (BitVec.ofInt 64 (max (-2 ^ 63) (min (2 ^ 63 - 1) v)), decide (v < -2 ^ 63 ∨ 2 ^ 63 ≤ v))

/-- The result of a multiplication (R74, R93): V is the saturation. -/
def product (x : Ctx) (nf : Bool) (d : DReg) (r : Word × Bool) : Result :=
  withNf x nf d r.1 (flg r.1.msb (decide (r.1 = 0)) (hasC x) r.2)

/-- (a × b) >> 30, rounded toward minus infinity (R93). -/
def q30 (a b : Word) : Int := a.toInt * b.toInt / 2 ^ 30

/-- The core of a thread has accepted a group (R83, R84): 0 PHASE, 1 DIVSQ, 2 BLOCK, 3 MAC. -/
def accepted (s : State) (th : ThreadId) (g : Nat) : Prop := (s.core th.core).arch.groups.getLsbD g = true

end Sys2Proof.Claims

open Sys2Proof.Claims

/-- R91: every integer operation of a thread that may issue gives its destination register and FLG the values of the
rule's table, moves PCC on by one parcel, and changes nothing else in the device. -/
def Obligations.IntegerResult : Prop :=
  ∀ (s : State) (th : ThreadId) (x : Ctx) (d a b : DReg) (imm : BitVec 13) (i5 : BitVec 5) (nf : Bool), s.ready th = some x →
    let va := x.d[a.val]
    let vb := x.d[b.val]
    let si := imm.signExtend 32
    let ui := imm.zeroExtend 32
    let logic := fun (r : Word) => withNf x nf d r (logicFlg x r)
    let sum := fun (v w : Word) (c : Nat) => let r := v + w + BitVec.ofNat 32 c; withNf x nf d r (sumFlg v w c r)
    let diff := fun (v w : Word) => withNf x nf d (v - w) (diffFlg v w (v - w))
    let goes := Leaves s th x
    goes (.mov th d a) (plain x d va)
    ∧ goes (.movs th d a nf) (logic va)
    ∧ goes (.movi th d i5) (plain x d (i5.signExtend 32))
    ∧ goes (.add th d a b nf) (sum va vb 0)
    ∧ goes (.addi th d a imm nf) (sum va si 0)
    ∧ goes (.sub th d a b nf) (diff va vb)
    ∧ goes (.adc th d a b nf) (sum va vb (cin x))
    ∧ goes (.sbc th d a b nf) (sum va (~~~vb) (cin x))
    ∧ goes (.neg th d a nf) (diff 0 va)
    ∧ goes (.cmp th a b) (none, diffFlg va vb (va - vb))
    ∧ goes (.cmpi th a imm) (none, diffFlg va si (va - si))
    ∧ goes (.and th d a b nf) (logic (va &&& vb))
    ∧ goes (.andi th d a imm nf) (logic (va &&& ui))
    ∧ goes (.or th d a b nf) (logic (va ||| vb))
    ∧ goes (.ori th d a imm nf) (logic (va ||| ui))
    ∧ goes (.xor th d a b nf) (logic (va ^^^ vb))
    ∧ goes (.xori th d a imm nf) (logic (va ^^^ ui))
    ∧ goes (.andn th d a b nf) (logic (va &&& ~~~vb))
    ∧ goes (.tst th a b) (none, logicFlg x (va &&& vb))
    ∧ goes (.tsti th a imm) (none, logicFlg x (va &&& ui))
    ∧ goes (.not th d a nf) (logic (~~~va))
    ∧ goes (.min th d a b) (plain x d (if vb.slt va then vb else va))
    ∧ goes (.max th d a b) (plain x d (if va.slt vb then vb else va))
    ∧ goes (.minu th d a b) (plain x d (if vb < va then vb else va))
    ∧ goes (.maxu th d a b) (plain x d (if va < vb then vb else va))

/-- R69, R81, R92, R95, R97: the shifts, the constants, the select, the long NOP and the plain phase operations, in the same
form; SEL.NV has no effect (R75). -/
def Obligations.ShiftResult : Prop :=
  ∀ (s : State) (th : ThreadId) (x : Ctx) (d a b : DReg) (amt : BitVec 5) (cond : BitVec 4) (w : BitVec 17) (hi : BitVec 16)
    (nf : Bool), s.ready th = some x →
    let va := x.d[a.val]
    let vb := x.d[b.val]
    let n := vb.toNat % 32
    let goes := Leaves s th x
    goes (.shl th d a b nf) (leftShift x nf d va n)
    ∧ goes (.shli th d a amt nf) (leftShift x nf d va amt.toNat)
    ∧ goes (.shr th d a b nf) (rightShift x nf d va (va >>> n) n)
    ∧ goes (.shri th d a amt nf) (rightShift x nf d va (va >>> amt.toNat) amt.toNat)
    ∧ goes (.sar th d a b nf) (rightShift x nf d va (va.sshiftRight n) n)
    ∧ goes (.sari th d a amt nf) (rightShift x nf d va (va.sshiftRight amt.toNat) amt.toNat)
    ∧ goes (.ror th d a b nf) (rotation x nf d va n)
    ∧ goes (.rori th d a amt nf) (rotation x nf d va amt.toNat)
    ∧ goes (.sel th cond d a b) (if cond = 15#4 then (none, x.flg) else plain x d (if holds x cond then va else vb))
    ∧ goes (.ldiLo th d w) (plain x d (w.signExtend 32))
    ∧ goes (.ldiHi th d hi) (plain x d (hi ++ x.d[d.val].extractLsb' 0 16))
    ∧ goes (.nop th) (none, x.flg)
    ∧ goes (.ldp th d w) (plain x d (BitVec.ofNat 32 (w.toNat * 128)))
    ∧ goes (.padd th d a b nf)
        (withNf x nf d (va + vb) (flg (va + vb).msb (decide (va + vb = 0)) (decide (2 ^ 32 ≤ va.toNat + vb.toNat)) (hasV x)))
    ∧ goes (.psub th d a b nf)
        (withNf x nf d (va - vb) (flg (va - vb).msb (decide (va - vb = 0)) (decide (va.toNat < vb.toNat)) (hasV x)))
    ∧ goes (.pdiff th d a b) (plain x d (va - vb))

/-- R93: the multiplications, and the 32-bit and 64-bit accumulations of a core that has accepted the MAC group, in the same
form; a 64-bit accumulation names an even register and writes it and the one above. -/
def Obligations.MultiplyResult : Prop :=
  ∀ (s : State) (th : ThreadId) (x : Ctx) (d a b : DReg) (imm : BitVec 13) (nf : Bool), s.ready th = some x →
    let va := x.d[a.val]
    let vb := x.d[b.val]
    let vd := x.d[d.val]
    let goes := Leaves s th x
    let low := fun (r : Word) => product x nf d (r, false)
    goes (.mul th d a b nf) (low (va * vb))
    ∧ goes (.muli th d a imm nf) (low (va * imm.signExtend 32))
    ∧ goes (.mulh th d a b nf) (low (((va.signExtend 64 * vb.signExtend 64) >>> 32).setWidth 32))
    ∧ goes (.mulhu th d a b nf) (low (((va.zeroExtend 64 * vb.zeroExtend 64) >>> 32).setWidth 32))
    ∧ goes (.mulq th d a b nf) (product x nf d (clamp32 (q30 va vb)))
    ∧ (accepted s th 3 →
        goes (.mac th d a b nf) (low (vd + va * vb))
        ∧ goes (.msub th d a b nf) (low (vd - va * vb))
        ∧ goes (.macQ th d a b nf) (product x nf d (clamp32 (vd.toInt + q30 va vb)))
        ∧ goes (.msubQ th d a b nf) (product x nf d (clamp32 (vd.toInt - q30 va vb))))
    ∧ ∀ (h : d.val % 2 = 0), accepted s th 3 →
        let acc := (x.d[d.val + 1]'(by have := d.isLt; omega) ++ vd : BitVec 64).toInt
        let leaves := fun (i : Instr) (r : BitVec 64 × Bool) =>
          Answers i s fun t => OnlyTop s t th (nextParcel { x with
            d := (x.d.set d.val (r.1.extractLsb' 0 32)).set (d.val + 1) (r.1.extractLsb' 32 32) (by have := d.isLt; omega)
            flg := if nf then x.flg else flg r.1.msb (decide (r.1 = 0)) (hasC x) r.2 })
        leaves (.macL th d a b nf) (clamp64 (acc + va.toInt * vb.toInt))
        ∧ leaves (.msubL th d a b nf) (clamp64 (acc - va.toInt * vb.toInt))

/-! ## Accesses of threads -/

namespace Sys2Proof.Claims

/-- What a thread's context makes of an access through one of its capability registers (R78). -/
def query (x : Ctx) (c : CReg) (disp : Int) (size : Nat) (kind : AccessKind) : Query := regQuery x c disp size kind none

/-- The thread waits for a response (R87). -/
def Awaits (t : State) (th : ThreadId) : Prop := ((t.core th.core).slot th.slot).wait = .access

/-- The operation completes on top of what its access did to the device, `s1`: its thread's context is `y` past the parcel and
waits for the response, and nothing but its core has changed further. -/
def Responds (s s1 : State) (th : ThreadId) (i : Instr) (y : Ctx) : Prop :=
  Answers i s fun t => t.topCtx th = some (nextParcel y) ∧ Awaits t th ∧ OnlyCore s1 t th.core

/-- The same of a posted operation, which waits for nothing (R87). -/
def Posts (s s1 : State) (th : ThreadId) (i : Instr) (y : Ctx) : Prop :=
  Answers i s fun t => t.topCtx th = some (nextParcel y) ∧ OnlyCore s1 t th.core
    ∧ ((t.core th.core).slot th.slot).wait = ((s1.core th.core).slot th.slot).wait

/-- A load answers its value where the access succeeds and leaves the thread's context: the value goes to the register, extended. -/
def Loads (s : State) (th : ThreadId) (x : Ctx) (d : DReg) (ext : Word → Word) (i : Instr) (q : Query) : Prop :=
  ∀ w s1, (issuing s th).dataLoad (issuerOf th x) q = (.ok w, s1) → s1.topCtx th = some x →
    Responds s s1 th i { x with d := x.d.set d.val (ext w) }

/-- A posted word store completes where its access is accepted. -/
def Stores (s : State) (th : ThreadId) (x : Ctx) (v : Word) (i : Instr) (q : Query) : Prop :=
  ∀ s1, (issuing s th).wordStore (issuerOf th x) q v = (.ok (), s1) → s1.topCtx th = some x → Posts s s1 th i x

/-- A byte or half-word store completes where its access succeeds, and waits for its response. -/
def Merges (s : State) (th : ThreadId) (x : Ctx) (v : Word) (i : Instr) (q : Query) : Prop :=
  ∀ s1, (issuing s th).subStore (issuerOf th x) q v = (.ok (), s1) → s1.topCtx th = some x → Responds s s1 th i x

/-- A signed byte of a word. -/
def sbyte (w : Word) : Word := (w.extractLsb' 0 8).signExtend 32

/-- A signed half-word of a word. -/
def shalf (w : Word) : Word := (w.extractLsb' 0 16).signExtend 32

/-- An address is one of the bytes of a group's Tidemark log (R209, R210). -/
def inItsLog (s : State) (k a : Nat) : Prop :=
  let t := (s.core k).tm
  coveBase (k / 8) + t.logOffset ≤ a ∧ a < coveBase (k / 8) + t.logOffset + t.logSize

/-- A place in a group's private region and in no other, that no other group's replay holds back, whose word is in order (R43, R48, R64, R208). -/
def plainPlace (s : State) (k pa : Nat) : Prop :=
  s.inPrivate k pa = true ∧ s.foreignPrivate (some k) pa = false ∧ s.heldBack k pa = false ∧ pa % 4 = 0 ∧ s.eccAt pa = Ecc.clean

end Sys2Proof.Claims

open Sys2Proof.Claims

/-- R68, R70, R87, R98: every load completes where its access succeeds: its data register takes the value, sign-extended or
zero-extended as the form says, no other register and no flag changes, and the thread waits for the response. -/
def Obligations.LoadResult : Prop :=
  ∀ (s : State) (th : ThreadId) (x : Ctx) (d : DReg) (c : CReg) (b : DReg) (disp : BitVec 14) (k : BitVec 2), s.ready th = some x →
    let off := fun (n : Nat) => query x c disp.toInt n loads
    let idx := fun (n : Nat) => query x c x.d[b.val].toInt n loads
    let goes := Loads s th x d
    goes sbyte (.ldB th d c disp) (off 1) ∧ goes id (.ldBu th d c disp) (off 1)
    ∧ goes shalf (.ldH th d c disp) (off 2) ∧ goes id (.ldHu th d c disp) (off 2)
    ∧ goes id (.ldW th d c disp) (off 4) ∧ goes id (.ldAcq th d c disp) (off 4)
    ∧ goes sbyte (.ldxB th d c b) (idx 1) ∧ goes id (.ldxBu th d c b) (idx 1)
    ∧ goes shalf (.ldxH th d c b) (idx 2) ∧ goes id (.ldxHu th d c b) (idx 2) ∧ goes id (.ldxW th d c b) (idx 4)
    ∧ goes id (.ldWS th d c k) { query x c (4 * k.toNat) 4 loads with short := true }

/-- R68, R70, R87, R98: every store completes where its access is accepted, and changes no register; word stores are posted, and
byte and half-word stores wait for their response. -/
def Obligations.StoreResult : Prop :=
  ∀ (s : State) (th : ThreadId) (x : Ctx) (d : DReg) (c : CReg) (b : DReg) (disp : BitVec 14) (k : BitVec 2), s.ready th = some x →
    let v := x.d[d.val]
    let off := fun (n : Nat) => query x c disp.toInt n stores
    let idx := fun (n : Nat) => query x c x.d[b.val].toInt n stores
    Stores s th x v (.stW th d c disp) (off 4) ∧ Stores s th x v (.stRel th d c disp) (off 4)
    ∧ Stores s th x v (.stxW th d c b) (idx 4) ∧ Stores s th x v (.stWS th d c k) { query x c (4 * k.toNat) 4 stores with short := true }
    ∧ Merges s th x v (.stB th d c disp) (off 1) ∧ Merges s th x v (.stH th d c disp) (off 2)
    ∧ Merges s th x v (.stxB th d c b) (idx 1) ∧ Merges s th x v (.stxH th d c b) (idx 2)

/-- R16, R20, R98, R99, R100: capability loads and stores, the atomics and PLD complete where their access succeeds: LD.C writes the
capability, CAS and AMO.ADD the old word, PLD the parcel with bits [31:29] zero. That CAS needs both permissions even where its comparison
fails is the model's choice (log entry 91). -/
def Obligations.CapAtomicResult : Prop :=
  ∀ (s : State) (th : ThreadId) (x : Ctx) (d : DReg) (cd c : CReg) (b : DReg) (disp : BitVec 14), s.ready th = some x →
    (∀ v s1, (issuing s th).capLoad (issuerOf th x) (query x c disp.toInt 8 { loads with cap := true }) = (.ok v, s1) → s1.topCtx th = some x →
      Responds s s1 th (.ldC th cd c disp) { x with c := x.c.set cd.val v })
    ∧ (∀ s1, (issuing s th).capStore (issuerOf th x) { query x c disp.toInt 8 { stores with cap := true } with val := some x.c[cd.val] } x.c[cd.val]
        = (.ok (), s1) → s1.topCtx th = some x → Posts s s1 th (.stC th cd c disp) x)
    ∧ (let q := query x c 0 4 { load := true, store := true, cap := false }
      (∀ w s1, (issuing s th).atomic (issuerOf th x) q [x.d[d.val], x.d[b.val]] (fun old => if old = x.d[d.val] then some x.d[b.val] else none)
          = (.ok w, s1) → s1.topCtx th = some x → Responds s s1 th (.cas th d c b) { x with d := x.d.set d.val w })
      ∧ ∀ w s1, (issuing s th).atomic (issuerOf th x) q [x.d[b.val]] (fun old => some (old + x.d[b.val])) = (.ok w, s1) → s1.topCtx th = some x →
          Responds s s1 th (.amoAdd th d c b) { x with d := x.d.set d.val w })
    ∧ (∀ adr, pldCheck x.c[c.val] x.d[b.val].toInt = .ok adr → s.replaying th.core = false → s.codeEccAt adr = Ecc.clean →
      Answers (.pld th d c b) s fun t =>
        t.topCtx th = some (nextParcel { x with d := x.d.set d.val (0#3 ++ s.parcelAt adr) }) ∧ Awaits t th)

/-- R42, R43, R55, R98, R207: a word store into the group's private region. The word is stored at the address that the access
forms, and becomes Written; every byte outside those four and outside the group's Tidemark log reads as before. -/
def Obligations.PrivateWordStore : Prop :=
  ∀ (s s1 : State) (th : ThreadId) (x : Ctx) (d : DReg) (c : CReg) (disp : BitVec 14) (p : Place), s.ready th = some x →
    (issuing s th).locate (issuerOf th x) (query x c disp.toInt 4 stores) = (.ok p, s1) → Memory.wf s1.mem = true →
    plainPlace s1 th.core p.pa → (s1.core th.core).postedFull = false → s1.inj.waiting = [] →
    ∀ i, i = Instr.stW th d c disp ∨ i = Instr.stRel th d c disp →
      Answers i s fun t => t.wordAt p.pa = x.d[d.val] ∧ t.tagAt p.pa = .written ∧ t.topCtx th = some (nextParcel x)
        ∧ ∀ a, ¬(p.pa ≤ a ∧ a < p.pa + 4) → ¬inItsLog s1 th.core a → t.byteAt a = s.byteAt a

/-- R39, R42, R55, R87: a word load from the group's private region. Where the word is Written, it is the four bytes at the
address that the access forms, little-endian, and no byte of memory and no tag changes. -/
def Obligations.PrivateWordLoad : Prop :=
  ∀ (s s1 : State) (th : ThreadId) (x : Ctx) (d : DReg) (c : CReg) (disp : BitVec 14) (p : Place), s.ready th = some x →
    (issuing s th).locate (issuerOf th x) (query x c disp.toInt 4 loads) = (.ok p, s1) → s1.tagAt p.pa = .written → plainPlace s1 th.core p.pa →
    ∀ i, i = Instr.ldW th d c disp ∨ i = Instr.ldAcq th d c disp →
      Answers i s fun t => t.topCtx th = some (nextParcel { x with
          d := x.d.set d.val (s.byteAt (p.pa + 3) ++ s.byteAt (p.pa + 2) ++ s.byteAt (p.pa + 1) ++ s.byteAt p.pa) })
        ∧ (∀ a, t.byteAt a = s.byteAt a) ∧ ∀ a, t.tagAt a = s.tagAt a

/-- R45, R87, R234: the response to an access lets its thread issue again, that of a handle write that clears EN or a mask bit only once
the clear has taken effect, and the oldest posted store leaves its core's queue as its target accepts it, or as an error that the page
serving the target counts. That the oldest entry of the queue leaves first is the model's choice (log entry 133). -/
def Obligations.ResponsesArrive : Prop :=
  ∀ (s : State) (th : ThreadId) (a : Answer) (k : Fin 128) (p : Posted) (r : List Posted),
    (Awaits s th → Answers (.accessResponse th a) s fun t =>
      ((t.core th.core).slot th.slot).wait = .none ∧ OnlyCore s t th.core ∧ t.topCtx th = s.topCtx th)
    ∧ (∀ src, ((s.core th.core).slot th.slot).wait = .event src → Answers (.accessResponse th a) s fun t =>
      if (s.source src).enClrAt = [] ∧ (s.source src).maskClr = [] then
        ((t.core th.core).slot th.slot).wait = .none ∧ OnlyCore s t th.core ∧ t.topCtx th = s.topCtx th
      else t = s)
    ∧ ((s.core k).posted = p :: r → p.kind = .accepted → p.data = [] →
      Answers (.postedStoreDrain k) s fun t => (t.core k).posted = r ∧ OnlyCore s t k)
    ∧ ((s.core k).posted = p :: r → (p.kind = .refused ∨ p.kind = .privRegion) → ∀ n, region p.pa = .sram n →
      Answers (.postedStoreError k) s fun t => (t.core k).posted = r
        ∧ bit (t.frame (covePage n)).errStatus (if p.kind = .privRegion then 3 else 0) = true)

/-! ## Division, phase, branches and capabilities -/

namespace Sys2Proof.Claims

/-- Everything outside a core is as it was, but for the bytes of that core's Tidemark log and for words whose tags or check bits
the log covers (R207, R210). -/
def OnlyLogged (s t : State) (k : Nat) : Prop :=
  { t with cores := s.cores, mem := s.mem, tags := s.tags, ecc := s.ecc } = s
    ∧ (∀ j, j ≠ k → t.core j = s.core j) ∧ ∀ a, ¬inItsLog s k a → t.byteAt a = s.byteAt a

/-- A block of the device answers the thread, whose context is now `y` past the parcel; the thread waits for the response, and only
its core and its log have changed (R87, R207). -/
def Replies (s : State) (th : ThreadId) (i : Instr) (y : Ctx) : Prop :=
  Answers i s fun t => t.topCtx th = some (nextParcel y) ∧ Awaits t th ∧ OnlyLogged s t th.core

/-- A transfer of control: the thread's context is `y`, its fetch buffer is discarded, PROG.VALID is clear, and only its core has
changed (R119, R143). -/
def Jumps (s : State) (th : ThreadId) (i : Instr) (y : Ctx) : Prop :=
  Answers i s fun t => t.topCtx th = some { y with progValid := false } ∧ OnlyCore s t th.core
    ∧ (t.core th.core).slot th.slot = { (s.core th.core).slot th.slot with buf := [], answers := [], given := [], stale := false }

/-- No injection waits for its detector (R340). -/
def quiet (s : State) : Prop := s.inj.waiting = []

/-- A source after one arrival (R226): the count, its saturation, the start of the coalescing time, and pending at the threshold. -/
def arrived (s : State) (x : Source) : Source :=
  let n := if x.count = 255#8 then x.count else x.count + 1
  { x with
    count := n, sat := x.sat || decide (x.count = 255#8), pend := x.pend || decide (max (fld x.coal 31 24) 1 ≤ n.toNat)
    coalAt := if x.count = 0 then some (s.now, x.coal, s.tideWord (fld x.coal 22 19)) else x.coalAt }

/-- A capability holds no more authority than another: it is tagged only where the other is, its bounds lie within, and it has no
right that the other has not (R25). -/
def Narrower (c c' : Cap) : Prop :=
  c'.tag = true → c.tag = true ∧ (decodeBounds c).base ≤ (decodeBounds c').base ∧ (decodeBounds c').top ≤ (decodeBounds c).top
    ∧ ∀ n, n < 7 → bit c'.w1 n = true → bit c.w1 n = true

/-- A derivation that succeeds writes its capability register and nothing else. -/
def Derives (s : State) (th : ThreadId) (x : Ctx) (cd : CReg) (i : Instr) (r : Except Nat Cap) : Prop :=
  ∀ c, r = .ok c → Answers i s fun t => OnlyTop s t th (nextParcel { x with c := x.c.set cd.val c })

/-- The floor of a square root. -/
def isRoot (r n : Nat) : Prop := r * r ≤ n ∧ n < (r + 1) * (r + 1)

/-- The context that a slot's next lower level holds, where it is in a bank (R121). -/
def Below (s : State) (th : ThreadId) (lv : Fin 3) (y : Ctx) : Prop := (s.core th.core).ctx th.slot lv = some y

end Sys2Proof.Claims

open Sys2Proof.Claims

/-- R94: the DIVSQ group. Quotients round toward zero, remainders have the sign of a, and the one overflow gives 0x8000_0000 and
remainder 0; the roots are floors. No flag changes. -/
def Obligations.DivisionResult : Prop :=
  ∀ (s : State) (th : ThreadId) (x : Ctx) (d a b : DReg), s.ready th = some x → accepted s th 1 →
    let va := x.d[a.val]
    let vb := x.d[b.val]
    let goes := fun (i : Instr) (r : Word) => Leaves s th x i (plain x d r)
    (vb ≠ 0 →
      goes (.div th d a b) (BitVec.ofInt 32 (va.toInt.tdiv vb.toInt)) ∧ goes (.divu th d a b) (va / vb)
      ∧ goes (.rem th d a b) (BitVec.ofInt 32 (va.toInt.tmod vb.toInt)) ∧ goes (.remu th d a b) (va % vb)
      ∧ (va = 0x80000000#32 → vb = 0xFFFFFFFF#32 → goes (.div th d a b) 0x80000000#32 ∧ goes (.rem th d a b) 0))
    ∧ (∃ r : Nat, isRoot r va.toNat ∧ goes (.sqrt th d a) (BitVec.ofNat 32 r))
    ∧ ∃ r : Nat, isRoot r (va.toNat * 2 ^ 30) ∧ goes (.sqrtQ th d a) (if va.msb then 0 else BitVec.ofNat 32 r)

/-- R82, R95: PSIN and PCOS are functions of FRAC alone, exact at multiples of a quarter turn, and change no flag. -/
def Sys2Proof.Claims.SineResult : Prop :=
  ∃ f g : Nat → Word,
    (∀ n : Fin 4, let quarter : List Word := [0, 0x40000000#32, 0, 0xC0000000#32]
      f (n.val * 2 ^ 22) = quarter.getD n.val 0 ∧ g (n.val * 2 ^ 22) = quarter.getD ((n.val + 1) % 4) 0)
    ∧ ∀ (s : State) (th : ThreadId) (x : Ctx) (d a : DReg), s.ready th = some x → accepted s th 0 →
        Leaves s th x (.psin th d a) (plain x d (f (x.d[a.val].toNat % 2 ^ 24)))
        ∧ Leaves s th x (.pcos th d a) (plain x d (g (x.d[a.val].toNat % 2 ^ 24)))

/-- R80, R95, R96, R181: where TIDE_AUTH names the tides, PNOW gives the predicted phase word of a tide that runs, and 0x8000_0000 for one
that is off, which PCVT gives too; an interval in nanoseconds on both sides stays as it is. The phase of a tide before its first
measurement, and a quotient by a rate of 0, are free (log entries 22, 43). -/
def Sys2Proof.Claims.TideReads : Prop :=
  ∀ (s : State) (th : ThreadId) (x : Ctx) (d a b : DReg), s.ready th = some x → quiet s →
    let va := x.d[a.val]
    let vb := x.d[b.val]
    let off := fun (n : Nat) => (s.tide n).st = TideState.off
    (tideAuthCheck x.tideAuth [fld vb 3 0] = .ok () →
      (off (fld vb 3 0) → Replies s th (.pnow th d b) { x with d := x.d.set d.val 0x80000000#32 })
      ∧ (¬off (fld vb 3 0) → Replies s th (.pnow th d b) { x with d := x.d.set d.val (s.tideWord (fld vb 3 0)) }))
    ∧ (accepted s th 0 →
        (bit vb 4 = true → bit vb 12 = true → Replies s th (.pcvt th d a b) { x with d := x.d.set d.val va })
        ∧ (bit vb 4 = false → bit vb 12 = false → tideAuthCheck x.tideAuth [fld vb 3 0, fld vb 11 8] = .ok () →
          off (fld vb 3 0) ∨ off (fld vb 11 8) → Replies s th (.pcvt th d a b) { x with d := x.d.set d.val 0x80000000#32 }))

/-- R80, R82, R95, R96, R181: PSIN, PCOS, PNOW and PCVT. -/
def Obligations.PhaseResult : Prop := Sys2Proof.Claims.SineResult ∧ Sys2Proof.Claims.TideReads

/-- R19, R75, R97, R104: branches and jumps. A branch whose condition fails does nothing but end its parcel; a taken one sets
PCC's cursor, and BL and JRL leave the return capability in c7. That JRL through c7 jumps to the c7 from before is the model's choice
(log entry 127). -/
def Obligations.TransferResult : Prop :=
  ∀ (s : State) (th : ThreadId) (x : Ctx) (ca : CReg) (cond : BitVec 4) (off : BitVec 17), s.ready th = some x →
    let a := (x.pcc.w0.toNat : Int) + off.toInt
    let target := x.pcc.withCursor (BitVec.ofInt 32 a)
    let back := x.c.set 7 (x.pcc.withCursor (x.pcc.w0 + 1))
    (holds x cond = false → Leaves s th x (.b th cond off) (none, x.flg) ∧ Leaves s th x (.bl th cond off) (none, x.flg))
    ∧ (holds x cond = true → targetOk x.pcc a (th.core / 8) = true →
        Jumps s th (.b th cond off) { x with pcc := target } ∧ Jumps s th (.bl th cond off) { x with c := back, pcc := target })
    ∧ (jumpCheck x.c[ca.val] (th.core / 8) = .ok () →
        Jumps s th (.jr th ca) { x with pcc := x.c[ca.val] } ∧ Jumps s th (.jrl th ca) { x with c := back, pcc := x.c[ca.val] })

/-- R25, R28, R79, R101: the derivations of capabilities write their register where their checks pass, and change nothing else;
a modulo step that leaves the ring leaves an untagged capability whose cursor the spec does not state (log entry 13). -/
def Obligations.DerivationResult : Prop :=
  ∀ (s : State) (th : ThreadId) (x : Ctx) (cd ca cb : CReg) (b : DReg) (imm : BitVec 13) (mask : BitVec 7), s.ready th = some x →
    let c := x.c[ca.val]
    let v := x.d[b.val]
    let goes := Derives s th x cd
    let mode := modeOf x.addrmode ca
    goes (.cmov th cd ca) (.ok c) ∧ goes (.cpcc th cd) (.ok x.pcc)
    ∧ (modLost mode c v.toInt = false → goes (.cadd th cd ca b) (capAdd mode c v.toInt 0))
    ∧ (modLost mode c imm.toInt = false → goes (.caddi th cd ca imm) (capAdd mode c imm.toInt 0))
    ∧ (∀ i u, (i = Instr.cadd th cd ca b ∧ u = v.toInt) ∨ (i = Instr.caddi th cd ca imm ∧ u = imm.toInt) → modLost mode c u = true →
        moveCheck c = .ok () →
        Answers i s fun t => ∃ w,
          OnlyTop { s with free := s.free + 1 } t th (nextParcel { x with c := x.c.set cd.val { c with w0 := w, tag := false } }))
    ∧ goes (.csetc th cd ca b) (capSetC c v)
    ∧ goes (.csetbnd th cd ca b) (capSetBnd false c v) ∧ goes (.csetbndX th cd ca b) (capSetBnd true c v)
    ∧ goes (.candr th cd ca mask) (capAndR c (mask.toNat % 64)) ∧ goes (.cspan th cd ca b) (capSpan c v)
    ∧ goes (.cseal th cd ca cb) (capSeal c x.c[cb.val]) ∧ goes (.cunseal th cd ca cb) (capUnseal c x.c[cb.val])

/-- R22, R24, R25: no move, narrowing or masking of a capability widens it: the result is tagged only where its source was, its
bounds lie within the source's, and its rights are among the source's. CSETBND.X moreover gives exactly the bounds asked for. -/
def Obligations.DerivationNarrows : Prop :=
  ∀ (c c' : Cap) (v : Int) (w : Word) (n : Nat) (mode : Nat) (exact : Bool),
    (mode ≠ 1 → capAdd mode c v 0 = .ok c' → Narrower c c')
    ∧ (capSetC c w = .ok c' → Narrower c c')
    ∧ (capSetBnd exact c w = .ok c' → Narrower c c' ∧ c'.w0 = c.w0)
    ∧ (capSetBnd true c w = .ok c' → w.toNat + c.w0.toNat ≤ 2 ^ 32 →
        (decodeBounds c').base = c.w0.toNat ∧ (decodeBounds c').top = c.w0.toNat + w.toNat)
    ∧ (capAndR c n = .ok c' → Narrower c c' ∧ decodeBounds c' = decodeBounds c)
    ∧ (capSpan c w = .ok c' → c'.tag = true ∧ c.tag = true ∧ c.spBase ≤ c'.spBase ∧ c'.spLimit ≤ c.spLimit)

/-- R21, R24, R102: what the CGET forms and CGRAN read, from any bits and whatever the tag. -/
def Obligations.CapabilityReads : Prop :=
  ∀ (s : State) (th : ThreadId) (x : Ctx) (d a : DReg) (ca : CReg) (src : CapSrc), s.ready th = some x →
    let c := match src with
      | .reg r => x.c[r.val]
      | .pcc => x.pcc
    let space := decide (c.e = 31)
    let goes := fun (i : Instr) (r : Word) => Leaves s th x i (plain x d r)
    goes (.cgetC th d src) (if space then 0 else c.w0)
    ∧ goes (.cgetB th d src) (if space then (c.w0.extractLsb' 0 16).setWidth 32 else BitVec.ofInt 32 (decodeBounds c).base)
    ∧ goes (.cgetLast th d src) (if space then (c.w0.extractLsb' 16 16).setWidth 32 - 1 else BitVec.ofInt 32 ((decodeBounds c).top - 1))
    ∧ goes (.cgetR th d src) ((c.w1.extractLsb' 0 7).setWidth 32)
    ∧ goes (.cgetOt th d src) (if bit c.w1 6 then (c.w1.extractLsb' 7 6).setWidth 32 else 0)
    ∧ goes (.cgetTag th d src) (if c.tag then 1 else 0)
    ∧ goes (.cgetE th d ca) ((x.c[ca.val].w1.extractLsb' 27 5).setWidth 32)
    ∧ ∃ e, e ≤ 22 ∧ goes (.cgran th d a) (BitVec.ofNat 32 (2 ^ e))
        ∧ ((x.d[a.val].toNat + 2 ^ e - 1) / 2 ^ e ≤ 960 ∨ e = 22)
        ∧ ∀ f, f < e → 960 < (x.d[a.val].toNat + 2 ^ f - 1) / 2 ^ f

/-- R29, R30, R31, R103: CMINT and the reads through handles and space capabilities. The block answers with the minted handle's
generation, with the field, or with the tenant's state, and the thread waits for the response. Which of CMINT's two bits is L and which S
is read from R103 (log entry 46). -/
def Obligations.HandleReads : Prop :=
  ∀ (s : State) (th : ThreadId) (x : Ctx) (d b : DReg) (cd ca : CReg) (rights : BitVec 2), s.ready th = some x → quiet s →
    let c := x.c[ca.val]
    let v := x.d[b.val]
    let n := v.toNat
    (mintCheck c n = .ok () → s.objGen c.space n ≠ 0xFFFFF#20 →
      Replies s th (.cmint th cd ca b rights) { x with
        c := x.c.set cd.val (mkHandle c.space (s.objGen c.space n) n (rights.getLsbD 0) (rights.getLsbD 1) c.rG) })
    ∧ (handleCheck c fieldHandle false = .ok () → ∀ w s1, ((issuing s th).asks th.core c.hNum [c.w0, v]).objRead c (fld v 7 0) = (.ok w, s1) → s1.topCtx th = some x → quiet s1 →
      Answers (.hld th d ca b) s fun t => t.topCtx th = some (nextParcel { x with d := x.d.set d.val w }) ∧ Awaits t th
        ∧ OnlyLogged s1 t th.core)
    ∧ (spaceCheck c (fld v 15 0) = .ok () → ∀ w s1, ((issuing s th).asks th.core (fld v 15 0) [word c.space, v]).spaceRead c.space (fld v 15 0) (fld v 23 16) = (.ok w, s1) →
      s1.topCtx th = some x → quiet s1 →
      Answers (.sld th d ca b) s fun t => t.topCtx th = some (nextParcel { x with d := x.d.set d.val w }) ∧ Awaits t th
        ∧ OnlyLogged s1 t th.core)
    ∧ (handleCheck c (fun ot => decide (ot = 2)) false = .ok () → (s.tenant c.hNum).gen = c.hGen →
      Replies s th (.tstat th d ca) { x with d := x.d.set d.val (s.tenState c.hNum) })

/-- R103, R207, R228, R234: the writes through handles and space capabilities, and a COAL write by a thread whose TIDE_AUTH lets it. The
block performs the write on the state that its digest record leaves, and the thread waits for the response, which the event
controller withholds from a write of EN_CLR or of a mask while the source has a clear that has not taken effect. -/
def Sys2Proof.Claims.HandleWrites : Prop :=
  ∀ (s : State) (th : ThreadId) (x : Ctx) (d b : DReg) (ca : CReg) (src : Fin 2048) (w : Word), s.ready th = some x → quiet s →
    let c := x.c[ca.val]
    let v := x.d[b.val]
    let val := x.d[d.val]
    let f := fld v 7 0
    let sf := fld v 23 16
    let n := fld v 15 0
    let writesThen := fun (i : Instr) (s1 : State) (wt : Wait) => s1.topCtx th = some x → quiet s1 →
      Answers i s fun t => t.topCtx th = some (nextParcel x) ∧ ((t.core th.core).slot th.slot).wait = wt ∧ OnlyLogged s1 t th.core
    let writes := fun (i : Instr) (s1 : State) => writesThen i s1 .access
    (handleCheck c fieldHandle true = .ok () → ¬(c.otype = 5 ∧ f = 5 ∧ coalBarred x val = true) → ∀ r s1,
      ((issuing s th).logRelease th.core 6 c.w0.toNat 0xF [word c.otype, word f, val]).objWrite x.cur c f val = (.ok r, s1) →
      ((c.otype ≠ 5 ∨ ¬(f = 2 ∨ (7 ≤ f ∧ f ≤ 10))) → writes (.hst th ca b d) s1)
      ∧ (c.otype = 5 → c.hNum = src.val → (f = 2 ∨ (7 ≤ f ∧ f ≤ 10)) →
          writesThen (.hst th ca b d) s1 (if (s1.source src).enClrAt = [] ∧ (s1.source src).maskClr = [] then .access else .event src)))
    ∧ (spaceCheck c n = .ok () → ∀ r s1,
      ((issuing s th).logRelease th.core 7 n 0xF [word c.space, word sf, val]).spaceWrite x.cur c.space n sf val = (.ok r, s1) →
      writes (.sst th ca b d) s1)
    ∧ (coalBarred x w = false → ∀ s1, ((issuing s th).logRelease th.core 6 src 0xF [5, 5, w]).srcWrite x.cur src 5 w = .ok s1 → writes (.coalWrite th src w) s1)

/-- R34, R103: TSTOP and TRESUME through a current tenant handle with S reach the tenant table; while it judges another command,
the command is held behind it and the thread waits for the judgement. -/
def Sys2Proof.Claims.TenantHandleCommands : Prop :=
  ∀ (s : State) (th : ThreadId) (x : Ctx) (ca : CReg), s.ready th = some x → quiet s →
    handleCheck x.c[ca.val] (fun ot => decide (ot = 2)) true = .ok () → (s.tenant x.c[ca.val].hNum).gen = x.c[ca.val].hGen →
    ∀ cur, s.tenTable.current = some cur → ∀ i cmd, (i = Instr.tstop th ca ∧ cmd = TenCmd.stop) ∨ (i = Instr.tresume th ca ∧ cmd = TenCmd.resume) →
      Answers i s fun t => t.topCtx th = some (nextParcel x) ∧ ((t.core th.core).slot th.slot).wait = .table
        ∧ t.tenTable = { s.tenTable with
            held := s.tenTable.held ++ [{ cmd := cmd, ten := BitVec.ofNat 12 x.c[ca.val].hNum, handle := some th }] }
        ∧ t.tenants = s.tenants

/-- R34, R103, R207, R228: what handles and space capabilities write, COAL, and TSTOP and TRESUME. -/
def Obligations.HandleCommands : Prop := Sys2Proof.Claims.HandleWrites ∧ Sys2Proof.Claims.TenantHandleCommands

/-! ## Handlers, gates, waits and system registers -/

namespace Sys2Proof.Claims

/-- What the device reads for an entry to level 1 is in order: the table through TVEC, the record's places, a bank. `r` is the
record, `l` the table, `kind` 0 for TRAP and 1 for a fault (R136 to R138). -/
def EntryReady (s : State) (th : ThreadId) (x : Ctx) (kind n : Nat) (f : FaultInfo) (r : Vector Word 16) (l : List Cap) : Prop :=
  ∃ s1 s2 s3 s4 pas b, s.recordOf x kind n 0 f = (r, s1) ∧ s1.readCaps (issuerOf th x) x.tvec [0, 8, 0x10, 0x18] = (.ok l, s2)
    ∧ s2.recordPlaces (issuerOf th x) (l.getD 2 Cap.null) (List.range 16) = (.ok pas, s3) ∧ s3.takeBank th.core = (some b, s4)
    ∧ b < 12 ∧ ((s4.deviceWords (issuerOf th x) (pas.zip r.toList)).core th.core).ctx th.slot 1 = none

/-- A thread stands at the start of a handler above the context `x` (R135). That XDEPTH and WP are copied is the model's choice (log
entries 96 and 124). -/
def Entered (t : State) (th : ThreadId) (x y : Ctx) (lv : Fin 3) (c0 c6 pcc : Cap) (resume : Word) : Prop :=
  t.topCtx th = some y ∧ ((t.core th.core).slot th.slot).top = lv ∧ ((t.core th.core).slot th.slot).buf = []
    ∧ y.d = x.d ∧ y.flg = x.flg ∧ y.addrmode = 0 ∧ y.progValid = false ∧ y.pcc = pcc
    ∧ y.c[0] = c0 ∧ y.c[6] = c6 ∧ y.c[7] = x.pcc.withCursor resume ∧ (∀ n : Fin 8, 1 ≤ n.val → n.val ≤ 5 → y.c[n.val] = x.c[n.val])
    ∧ y.ts.level = BitVec.ofNat 2 lv.val ∧ y.ts.m = true ∧ y.ts.pf = false ∧ y.ts.xdepth = x.ts.xdepth ∧ y.ts.wp = x.ts.wp ∧ y.home = x.home ∧ y.xstk = x.xstk

/-- A record holds its first words as R136 lays them out: KIND, TRAPNO, the level, the code, the parcel, and the status and the
tenants of the interrupted context. -/
def Recorded (r : Vector Word 16) (x : Ctx) (kind trapno code : Nat) (parcel : Word) : Prop :=
  fld r[0] 5 0 = code ∧ fld r[0] 19 18 = x.ts.level.toNat ∧ fld r[0] 23 22 = kind ∧ fld r[0] 31 24 = trapno
    ∧ r[1] = parcel ∧ r[5] = x.addrmode.setWidth 32 ∧ r[6] = x.ts.toWord ∧ r[8] = tenantWord x.home x.cur

/-- What the device reads for an entry to level 2 is in order (R150, R151). -/
def EscalationReady (s : State) (th : ThreadId) (x : Ctx) (f : FaultInfo) (n c2 : Nat) (r : Vector Word 16) (l : List Cap) : Prop :=
  let esc := (s.core th.core).esc th.slot x.ts.level.toNat
  let o := esc.w0.toNat
  escOk esc = true ∧ ∃ s1 s2 s3 b, s.recordOf x 2 n c2 f = (r, s1) ∧ s1.ownCaps (issuerOf th x) [o, o + 8, o + 16] = (.ok l, s2)
    ∧ s2.takeBank th.core = (some b, s3) ∧ b < 12
    ∧ ((s3.deviceWords (issuerOf th x) (r.toList.mapIdx fun n w => (ownPlace th.core (o + 0x20 + 4 * n), w))).core th.core).ctx th.slot 2 = none

/-- The device takes a group's inputs at once (R207, R218, R305, R306). -/
def TakesInput (s : State) (k : Nat) : Prop :=
  s.phase ≠ .standby ∧ (s.core k).tm.st ≠ .restore ∧ (s.core k).tm.st ≠ .replay ∧ (s.core k).tm.st ≠ .copy ∧ (s.core k).gated = false

end Sys2Proof.Claims

open Sys2Proof.Claims

/-- R54, R88, R94, R135, R136, R139: a fault at level 0 enters the tenant's handler at level 1: a division by zero (0x18), an
operation of a group that the core has not accepted (0x0F), and a supervisor operation in user mode (0x13). The handler's PCC and
c0 and c6 are the table's, c7 is the faulting parcel, and the record says what happened. -/
def Obligations.FaultEntry : Prop :=
  ∀ (s : State) (th : ThreadId) (x : Ctx) (d a b : DReg) (code : Nat) (i : Instr) (r : Vector Word 16) (l : List Cap),
    s.ready th = some x → x.ts.level = 0 →
    (code = 0x18 ∧ accepted s th 1 ∧ x.d[b.val] = 0
        ∧ (i = Instr.div th d a b ∨ i = Instr.divu th d a b ∨ i = Instr.rem th d a b ∨ i = Instr.remu th d a b))
      ∨ (code = 0x0F ∧ ¬accepted s th 1 ∧ (i = Instr.div th d a b ∨ i = Instr.sqrt th d a ∨ i = Instr.sqrtQ th d a))
      ∨ (code = 0x0F ∧ ¬accepted s th 0 ∧ (i = Instr.psin th d a ∨ i = Instr.pcvt th d a b))
      ∨ (code = 0x13 ∧ x.ts.m = false ∧ (i = Instr.rfe th ∨ i = Instr.tmark th)) →
    EntryReady (issuing s th) th x 1 0 ((plainFault code).ofParcel (s.parcelNow x) 0) r l →
    Answers i s fun t => ∃ y, Entered t th x y 1 (l.getD 0 Cap.null) (l.getD 1 Cap.null) (l.getD 3 Cap.null) x.pcc.w0
      ∧ y.record = r ∧ y.cur = x.cur ∧ Recorded r x 1 0 code (s.parcelNow x)

/-- R104, R135, R136, R138: TRAP n at level 0 enters the handler that its TVEC entry names, to return after the trap; the record has KIND
0, TRAPNO n and CODE 0. Words of the record for which the rule names no content are free (log entry 40), and PARCEL is the code store's at
PCC (log entry 41). -/
def Obligations.TrapEntry : Prop :=
  ∀ (s s1 : State) (th : ThreadId) (x : Ctx) (n : BitVec 8) (c : Cap) (r : Vector Word 16) (l : List Cap),
    s.ready th = some x → x.ts.level = 0 →
    (issuing s th).capLoad (issuerOf th x) (devQuery x.tvec (0x40 + 8 * (n.toNat : Int))) = (.ok c, s1) →
    c.tag = true → c.sealed = false → c.rX = true → s1.topCtx th = some x →
    EntryReady s1 th x 0 n.toNat ((plainFault 0).ofParcel (s.parcelNow x) 0) r l →
    Answers (.trap th n) s fun t => ∃ y, Entered t th x y 1 (l.getD 0 Cap.null) (l.getD 1 Cap.null) c (x.pcc.w0 + 1)
      ∧ y.record = r ∧ y.cur = x.cur ∧ Recorded r x 0 n.toNat 0 (s.parcelNow x)

/-- R135, R136, R150, R151: a core enters level 2 for the lowest slot that waits for it: Headland's handler, with TENANT.CUR 0, H 1,
no TVEC and no tide authority, and the record of what led there. -/
def Obligations.EscalationEntryResult : Prop :=
  ∀ (s : State) (th : ThreadId) (x : Ctx) (f : FaultInfo) (n c2 : Nat) (r : Vector Word 16) (l : List Cap),
    s.coreRuns th.core = true → ((s.core th.core).slot th.slot).st = .active → ((s.core th.core).slot th.slot).wait = .escalate f n c2 →
    s.topCtx th = some x →
    (∀ j : Fin 8, j < th.slot → ∀ g m e, ((s.core th.core).slot j).wait ≠ .escalate g m e) →
    (∀ j : Fin 8, j ≠ th.slot → ((s.core th.core).slot j).top ≠ 2) → EscalationReady s th x f n c2 r l →
    Answers (.escalationEntry th.core) s fun t => ∃ y,
      Entered t th x y 2 (l.getD 1 Cap.null) (l.getD 2 Cap.null) (l.getD 0 Cap.null) (resumeAt x f.code)
      ∧ y.record = r ∧ y.cur = 0 ∧ y.ts.h = true ∧ y.tvec = Cap.null ∧ y.tideAuth = Cap.null
      ∧ ((t.core th.core).slot th.slot).wait = .none

/-- R141: RFE gives the context below the handler's data registers, c1 to c5 and FLG, and PCC from c7; the handler's context is
gone, and c0, c6, c7 and the status of the context below stay. -/
def Obligations.HandlerReturn : Prop :=
  ∀ (s : State) (th : ThreadId) (x y : Ctx), s.ready th = some x → x.ts.m = true → x.ts.level ≠ 0 →
    jumpCheck x.c[7] (th.core / 8) = .ok () → Below s th (s.levelBelow th) y →
    s.levelBelow th ≠ ((s.core th.core).slot th.slot).top → (∀ n, (s.tenant n).st ≠ .stopped) →
    Answers (.rfe th) s fun t => ∃ z, t.topCtx th = some z ∧ OnlyCore s t th.core
      ∧ z.d = x.d ∧ z.flg = x.flg ∧ z.pcc = x.c[7] ∧ (∀ n : Fin 8, 1 ≤ n.val → n.val ≤ 5 → z.c[n.val] = x.c[n.val])
      ∧ z.c[0] = y.c[0] ∧ z.c[6] = y.c[6] ∧ z.c[7] = y.c[7] ∧ z.ts = y.ts ∧ z.cur = y.cur ∧ z.addrmode = y.addrmode ∧ z.tvec = y.tvec
      ∧ ((t.core th.core).slot th.slot).top = s.levelBelow th
      ∧ (t.core th.core).ctx th.slot ((s.core th.core).slot th.slot).top = none

/-- R144 to R148: a gate call whose gate, arguments and crossing stack pass the checks enters the callee: PCC, c0, c6, TVEC and the
tide authority are the descriptor's, c7 is null, the mode and TENANT.CUR are the callee's, and XSTK has moved up by one frame. After
the descriptor has been read, memory changes in the frame and in the group's log alone. -/
def Sys2Proof.Claims.GateCall : Prop :=
  ∀ (s s1 : State) (th : ThreadId) (x : Ctx) (ca : CReg) (g : Gate96), s.ready th = some x → x.ts.level = 0 →
    gateCheck x.c[ca.val] = .ok () → (issuing s th).gateRead (issuerOf th x) ca x.c[ca.val].w0.toNat = (.ok g, s1) → s1.topCtx th = some x → quiet s1 →
    (s1.core th.core).tm.st = (s.core th.core).tm.st →
    s1.tagLive g.callee = true → (s1.tenant (tagTenant g.callee).toNat).st = .running → x.ts.xdepth.toNat < 64 →
    frameOk x.xstk x.xstk.w0.toNat = true → firstFailing x 1 g.args = none →
    Answers (.gcall th ca) s fun t =>
      t.topCtx th = some { x with
        pcc := g.entry, c := (((passArgs x 1 g.args).c.set 0 g.data).set 6 g.stack).set 7 Cap.null, tvec := g.tvec, tideAuth := g.tide
        cur := tagTenant g.callee, addrmode := 0, progValid := false, xstk := x.xstk.withCursor (x.xstk.w0 + 64)
        ts := { x.ts with m := bit g.mode 0, xdepth := x.ts.xdepth + 1 } }
      ∧ (∀ a, let o := coveBase (th.core / 8) + x.xstk.w0.toNat
          ¬(o ≤ a ∧ a < o + 64) → ¬inItsLog s1 th.core a → t.byteAt a = s1.byteAt a)

/-- R149: GRET through a frame whose caller is current restores what the frame holds and moves XSTK down by one frame. FLG stays as
the callee left it, which is the model's choice where R104 and R149 differ (log entry 128). -/
def Sys2Proof.Claims.GateReturn : Prop :=
  ∀ (s s1 : State) (th : ThreadId) (x : Ctx) (f : Crossing), s.ready th = some x → x.ts.level = 0 → x.ts.xdepth ≠ 0 →
    frameOk x.xstk ((x.xstk.w0.toNat : Int) - 64) = true →
    (issuing s th).frameAt (issuerOf th x) (x.xstk.w0.toNat - 64) = (.ok f, s1) → s1.topCtx th = some x → quiet s1 →
    (s1.core th.core).tm.st = (s.core th.core).tm.st →
    s1.tagLive f.caller = true → (s1.tenant (tagTenant f.caller).toNat).st ≠ .stopped →
    Answers (.gret th) s fun t =>
      t.topCtx th = some { x with
        pcc := f.pcc, c := ((x.c.set 0 f.c0).set 6 f.c6).set 7 f.c7, tvec := f.tvec, tideAuth := f.tide, cur := tagTenant f.caller
        addrmode := f.addrmode.setWidth 24, progValid := false, xstk := x.xstk.withCursor (x.xstk.w0 - 64)
        ts := { x.ts with h := bit f.state 1, m := bit f.state 0, xdepth := x.ts.xdepth - 1 } }
      ∧ OnlyLogged s1 t th.core

/-- R144 to R149: a gate call and the return from it. -/
def Obligations.GateCrossings : Prop := Sys2Proof.Claims.GateCall ∧ Sys2Proof.Claims.GateReturn

/-- R104, R105, R130, R134, R233: SLEEP clears H; a pending wake is used up, and otherwise the thread sleeps. In the event slot it
ends the service at any level: the slot is idle at its entry again, and the source is IDLE. That WP is one bit of all the thread's
contexts, and that the contexts above level 0 end with the service, are the model's choices (log entries 15 and 124). -/
def Sys2Proof.Claims.SleepResult : Prop :=
  ∀ (s : State) (th : ThreadId) (x : Ctx), s.ready th = some x →
    let asleep := fun (y : Ctx) => { y with ts := { y.ts with h := false, wp := false } }
    let st := fun (t : State) => ((t.core th.core).slot th.slot).st
    let top := ((s.core th.core).slot th.slot).top
    (th.slot ≠ 0 → x.ts.wp = false → Answers (.sleep th) s fun t =>
        t.topCtx th = some (nextParcel (asleep x)) ∧ OnlyCore s t th.core ∧ st t = .sleeping)
    ∧ (th.slot ≠ 0 → x.ts.wp = true → (∀ lv ∈ s.levels th.core th.slot, ((s.core th.core).ctx th.slot lv).isSome = true) →
        Answers (.sleep th) s fun t => t.topCtx th = some (nextParcel (asleep x)) ∧ OnlyCore s t th.core ∧ st t = .active
          ∧ ∀ lv ∈ s.levels th.core th.slot, ∀ y, (t.core th.core).ctx th.slot lv = some y → y.ts.wp = false)
    ∧ (th.slot = 0 → quiet s → ∀ y, Below s th 0 y → Answers (.sleep th) s fun t =>
        t.topCtx th = some { asleep y with pcc := y.entry, progValid := false } ∧ st t = .sleeping ∧ (t.core th.core).served = none
        ∧ ((t.core th.core).slot 0).top = 0 ∧ (top ≠ 0 → ∀ lv, lv ≠ 0 → (t.core th.core).ctx 0 lv = none)
        ∧ ∀ v, (s.core th.core).served = some v → (t.source v.src).svc = .idle)

/-- R104, R134: WAKE of a sleeper of the waker's tenant makes it ACTIVE; of a thread that does not sleep, or whose H is 1, it leaves
WP in every context of that thread; of slot 0 or an EMPTY slot it has no effect. That a wake of an ACTIVE thread is kept, and in which
contexts, is the model's choice (log entries 15 and 124). -/
def Sys2Proof.Claims.WakeResult : Prop :=
  ∀ (s : State) (th : ThreadId) (x y : Ctx) (a : DReg) (sl : Fin 8), s.ready th = some x → sl.val = x.d[a.val].toNat % 8 →
    let slot := (s.core th.core).slot sl
    let woken : State → Fin 8 → Slot := fun t j => (t.core th.core).slot j
    (sl = 0 ∨ slot.st = .empty → Leaves s th x (.wake th a) (none, x.flg))
    ∧ (s.curOf th.core sl ≠ x.cur → Leaves s th x (.wake th a) (none, x.flg))
    ∧ (sl ≠ 0 → slot.st = .sleeping → s.curOf th.core sl = x.cur → (s.anyCtx th.core sl slot.top).ts.h = false →
        Answers (.wake th a) s fun t => woken t sl = { slot with st := .active } ∧ t.topCtx th = some (nextParcel x) ∧ OnlyCore s t th.core
          ∧ ∀ j, j ≠ sl → j ≠ th.slot → woken t j = (s.core th.core).slot j)
    ∧ (sl ≠ 0 → sl ≠ th.slot → slot.st = .waiting ∨ slot.st = .active → s.curOf th.core sl = x.cur →
        (∀ lv ∈ s.levels th.core sl, ((s.core th.core).ctx sl lv).isSome = true) →
        ∀ lv ∈ s.levels th.core sl, (s.core th.core).ctx sl lv = some y →
        Answers (.wake th a) s fun t => (t.core th.core).ctx sl lv = some { y with ts := { y.ts with wp := true } }
          ∧ (∀ j, j ≠ th.slot → woken t j = (s.core th.core).slot j) ∧ t.topCtx th = some (nextParcel x) ∧ OnlyCore s t th.core)

/-- R104, R105, R130, R134, R233: SLEEP and WAKE. -/
def Obligations.SleepAndWake : Prop := Sys2Proof.Claims.SleepResult ∧ Sys2Proof.Claims.WakeResult

/-- R104, R105, R182, R206: WAIT.TIDE and WAIT.TIDE.R wait for the next moment of their tide's fraction, and complete when it comes or
where the tide stands still; TMARK starts a checkpoint and waits for its commit. That a TMARK during a pending commit waits and issues
again, and how a WAIT.TIDE that need not wait completes, are the model's choices (log entries 98, 100). -/
def Obligations.WaitResult : Prop :=
  ∀ (s : State) (th : ThreadId) (x : Ctx) (a b : DReg) (i : Fin 16) (imm : BitVec 17) (at_ : Nat),
    (s.ready th = some x →
      (∀ c tide frac, (c = Instr.waitTide th i imm ∧ tide = i.val ∧ frac = imm.toNat * 128)
          ∨ (c = Instr.waitTideR th a b ∧ tide = x.d[a.val].toNat % 16 ∧ frac = x.d[b.val].toNat % 2 ^ 24) →
        th.slot ≠ 0 → tideAuthCheck x.tideAuth [tide] = .ok () →
        Answers c s fun t => t.topCtx th = some (nextParcel x) ∧ OnlyCore s t th.core ∧ ((t.core th.core).slot th.slot).st = .waiting
          ∧ ∃ w, ((t.core th.core).slot th.slot).tideWait = some w ∧ w.tide.val = tide ∧ w.target.toNat % 2 ^ 24 = frac
              ∧ (w.target - s.tideWord tide).toNat < 2 ^ 24
              ∧ (w.done = true ↔ (s.tide tide).still = true ∨ w.target = s.tideWord tide))
      ∧ (quiet s → x.ts.m = true → (s.core th.core).tm.st = .run → Answers (.tmark th) s fun t =>
          t.topCtx th = some (nextParcel x) ∧ ((t.core th.core).slot th.slot).wait = .commit ∧ (t.core th.core).tm.st = .commit
          ∧ (t.core th.core).tm.seq = (s.core th.core).tm.seq + 1))
    ∧ ∀ w, let s1 := s.advance at_
        ((s.core th.core).slot th.slot).tideWait = some w → ((s.core th.core).slot th.slot).st = .waiting → quiet s → TakesInput s th.core →
        (w.done = true ∨ (s.tide w.tide).still = true ∨ 0 ≤ pdiff (s1.tideWord w.tide) w.target) →
        Answers (.waitComplete th at_) s fun t => ((t.core th.core).slot th.slot).st = .active
          ∧ ((t.core th.core).slot th.slot).tideWait = none ∧ OnlyLogged s1 t th.core ∧ t.topCtx th = s.topCtx th

/-- R106, R117, R126, R133: the moves from and to the data system registers, and a write of WHEEL through the core page by its
owner. -/
def Obligations.DataSystemRegisters : Prop :=
  ∀ (s : State) (th : ThreadId) (x : Ctx) (d a : DReg), s.ready th = some x →
    let c := s.core th.core
    let v := x.d[a.val]
    let reads := fun (n : BitVec 13) (w : Word) => Leaves s th x (.mfs th d n) (plain x d w)
    let writes := fun (n : BitVec 13) (y : Ctx) => Answers (.mts th n a) s fun t => OnlyTop s t th (nextParcel y)
    let wheel := wheelSum v ≤ 16 ∧ (s.frame (corePage th.core)).owner = x.cur
    (reads 0 (x.flg.setWidth 32) ∧ reads 1 (x.addrmode.setWidth 32) ∧ reads 2 (progWord x) ∧ reads 3 x.ts.toWord
      ∧ reads 4 (tenantWord x.home x.cur) ∧ (x.ts.m = true → reads 5 c.arch.wheel ∧ reads 6 c.bankWord)
      ∧ reads 7 (BitVec.ofNat 32 (th.core.val + 128 * th.slot.val)))
    ∧ writes 0 { x with flg := v.setWidth 4 } ∧ writes 1 { x with addrmode := v.setWidth 24 }
    ∧ (x.ts.m = true → ¬(th.slot = 0 ∧ bit v 1 = true ∧ x.cur ≠ 0) → writes 3 { x with ts := { x.ts with
        m := bit v 0, h := bit v 1, pf := bit v 2, pcode := v.extractLsb' 6 6 } })
    ∧ (x.ts.m = true → wheel → Answers (.mts th 5 a) s fun t =>
        (t.core th.core).arch.wheel = v ∧ t.topCtx th = some (nextParcel x) ∧ OnlyCore s t th.core)

/-- R106, R133, R142, R161: the moves from and to the capability system registers: TVEC, ESC_STACK, XSTK, PHYS_CAP and TIDE_AUTH of
the context itself, and IC0, IC6 and IC7 of the context below. -/
def Obligations.CapabilitySystemRegisters : Prop :=
  ∀ (s : State) (th : ThreadId) (x y : Ctx) (cd ca : CReg), s.ready th = some x →
    let c := x.c[ca.val]
    let head := x.ts.m = true ∧ x.cur = 0
    let reads := fun (n : BitVec 13) (v : Cap) => Derives s th x cd (.mfsc th cd n) (.ok v)
    let writes := fun (n : BitVec 13) (z : Ctx) => Answers (.mtsc th n ca) s fun t => OnlyTop s t th (nextParcel z)
    reads 4 x.tideAuth
    ∧ (x.ts.m = true → reads 0 x.tvec
        ∧ reads 3 { w0 := (s.tenant x.cur.toNat).base, w1 := (s.tenant x.cur.toNat).last, tag := false }
        ∧ writes 0 { x with tvec := c } ∧ writes 4 { x with tideAuth := c })
    ∧ (head → reads 1 ((s.core th.core).esc th.slot x.ts.level.toNat) ∧ reads 2 x.xstk ∧ writes 2 { x with xstk := c }
        ∧ Answers (.mtsc th 1 ca) s fun t => (t.core th.core).esc th.slot x.ts.level.toNat = c ∧ t.topCtx th = some (nextParcel x)
            ∧ OnlyCore s t th.core)
    ∧ (x.ts.m = true → x.ts.level ≠ 0 → Below s th (s.levelBelow th) y → s.levelBelow th ≠ ((s.core th.core).slot th.slot).top →
        ∀ (n : BitVec 13) (r : Fin 8), (n = 5 ∧ r = 0) ∨ (n = 6 ∧ r = 6) ∨ (n = 7 ∧ r = 7) →
          reads n y.c[r.val]
          ∧ Answers (.mtsc th n ca) s fun t => Below t th (s.levelBelow th) { y with c := y.c.set r.val c }
              ∧ t.topCtx th = some (nextParcel x) ∧ OnlyCore s t th.core)

/-! ## Banks, the bank window, the wheel and the event slot -/

namespace Sys2Proof.Claims

/-- A requester owns a page, and no injection waits (R332). -/
def Owns (s : State) (who : Agent) (page : Nat) : Prop := quiet s ∧ (s.frame page).owner = who.ten

/-- A core's page shows and takes its own state: it is a leader or a single core (R126). -/
def ownPage (s : State) (k : Nat) : Prop := s.pageCore k = some k

/-- The image of a context has no bad word (R124). -/
def goodImage (s : State) (k sl lv : Nat) : Prop :=
  ∀ n, n < 64 → s.eccAt (imageAddr k sl lv + 4 * n) = Ecc.clean
    ∧ (s.tagAt (imageAddr k sl lv + 4 * n) = .written ∨ s.tagAt (imageAddr k sl lv + 4 * n) = .capability)

/-- RESULT of the bank window, and the slot and level that the command named (R125). -/
def BankDone (t : State) (k : Nat) (sl : Fin 8) (lv : BitVec 2) (result : BitVec 2) : Prop :=
  (t.core k).bankResult = result ∧ (t.core k).bankSlot = sl ∧ (t.core k).bankLevel = lv

/-- No other core and nothing outside the cores and memory has changed. -/
def OnlyCoreAndMemory (s t : State) (k : Nat) : Prop :=
  { t with cores := s.cores, mem := s.mem, tags := s.tags, ecc := s.ecc } = s ∧ ∀ j, j ≠ k → t.core j = s.core j

end Sys2Proof.Claims

open Sys2Proof.Claims

/-- R122, R124: what a spill stores, a fill reads back: the image of a context holds the whole of it. -/
def Obligations.ImageRoundTrip : Prop :=
  ∀ (s : State) (k : Fin 128) (sl : Fin 8) (lv : Fin 3) (x : Ctx), Memory.wf s.mem = true → quiet s →
    (s.writeImage k sl lv x).imageCtx k sl lv = x
      ∧ ∀ a, ¬(imageAddr k sl lv ≤ a ∧ a < imageAddr k sl lv + 0x100) → (s.writeImage k sl lv x).byteAt a = s.byteAt a

/-- R114, R115, R117: a write of WHEEL by the page's owner takes a word whose shares sum to 16 or less; a larger sum changes no
share and is counted by detector 0 of the core page. -/
def Sys2Proof.Claims.WheelWrite : Prop :=
  ∀ (s : State) (who : Agent) (k : Fin 128) (v : Word), Owns s who (corePage k) → ownPage s k →
    (wheelSum v ≤ 16 → Answers (.wheelWrite who k v) s fun t => OnlyCore s t k
        ∧ t.core k = { s.core k with arch := { (s.core k).arch with wheel := v } })
    ∧ (16 < wheelSum v → Answers (.wheelWrite who k v) s fun t => t = s.detect (corePage k) 0 false)

/-- R114, R115: the placement of shares that sum to 16 or less gives every slot as many of the 16 positions as its share says, and
leaves the rest free. -/
def Obligations.WheelPlacement : Prop :=
  ∀ (v : Word) (sl : Fin 8), wheelSum v ≤ 16 →
    (placeShares v).length = 16 ∧ ((placeShares v).filter fun o => decide (o = some sl)).length = wheelShare v sl

/-- R124, R125, R126: the commands of the bank window that a core page's owner gives, where they are accepted. HOLD writes a resident
context to its image and holds its slot; RELEASE lets the slot go on as it was, that of slot 0 at level 0 once bank 0 and the vector
buffer are loaded again; RELEASE.RUN makes a thread ACTIVE; CREATE makes a PARKED thread with fresh registers; DISCARD empties the
slot. Which commands make the window BUSY is the model's choice (log entry 129). -/
def Sys2Proof.Claims.BankWindow : Prop :=
  ∀ (s : State) (who : Agent) (k : Fin 128) (sl : Fin 8) (lv : Fin 3) (x : Ctx), Owns s who (corePage k) → ownPage s k →
    (s.core k).arch.bankJob = none →
    let slot := (s.core k).slot sl
    let l := BitVec.ofNat 2 lv.val
    let done := fun (i : Instr) (P : State → Prop) =>
      Answers i s fun t => BankDone t k sl l 0 ∧ OnlyCoreAndMemory s t k ∧ P t
    (Memory.wf s.mem = true → lv ≤ slot.top → (s.core k).ctx sl lv = some x →
      slot.st = .sleeping ∨ (sl ≠ 0 ∧ (slot.st = .waiting ∨ slot.st = .parked)) →
        done (.hold who k sl l) fun t => (t.core k).slot sl = { slot with st := .held, prior := slot.st, made := false }
          ∧ (t.core k).ctx sl lv = none ∧ t.imageCtx k sl lv = x)
    ∧ (slot.st = .held → ¬(sl = 0 ∧ slot.top = 0) →
        done (.release who k sl l) fun t => (t.core k).slot sl = { slot with st := slot.prior, prior := .empty, made := false } ∧ t.mem = s.mem)
    ∧ (slot.st = .held → sl = 0 → slot.top = 0 →
        done (.release who k sl l) fun t => (t.core k).slot sl = slot ∧ (t.core k).vvalid = false
          ∧ bit (t.core k).bankWord 31 = true ∧ t.mem = s.mem)
    ∧ (slot.st = .held → slot.prior = .parked → sl ≠ 0 → (s.tenant (s.curOf k sl).toNat).st = .running →
        done (.releaseRun who k sl l) fun t => (t.core k).slot sl =
            { slot with st := .active, prior := .empty, under := .empty, made := false, crossing := none } ∧ t.mem = s.mem)
    ∧ (Memory.wf s.mem = true → slot.st = .empty → lv = 0 →
        done (.create who k sl l) fun t => (t.core k).slot sl = { Slot.fresh with st := .held, prior := .parked, made := true }
          ∧ t.imageCtx k sl 0 = Ctx.fresh)
    ∧ (slot.st = .held → slot.prior = .parked →
        done (.discard who k sl l) fun t => (t.core k).slot sl = Slot.fresh ∧ (∀ j, (t.core k).ctx sl j = none) ∧ t.mem = s.mem)

/-- R114, R117, R124 to R126: WHEEL and the bank window of a core page. -/
def Obligations.CorePageWrites : Prop := Sys2Proof.Claims.WheelWrite ∧ Sys2Proof.Claims.BankWindow

/-- R123, R124: where an ACTIVE slot's top context is in no bank and none of banks 1 to 11 is free, the idle context that issued
least recently is spilled to its image and counted; with a free bank, a fill makes the context resident from its image. -/
def Obligations.SpillAndFill : Prop :=
  ∀ (s : State) (k : Fin 128) (sl : Fin 8) (i : Nat) (b : Bank), quiet s → (s.core k).needsFill sl = true →
    ((s.core k).freeBank = none → (s.core k).victimBank = some (i, b) → Memory.wf s.mem = true →
      Answers (.bankSpill k) s fun t => (t.core k).arch.banks.toList[i]? = some none ∧ t.imageCtx k b.slot b.level = b.ctx
        ∧ (t.core k).spillCnt = satInc (s.core k).spillCnt ∧ OnlyCoreAndMemory s t k)
    ∧ (goodImage s k sl ((s.core k).slot sl).top → (s.core k).freeBank = some i →
        Answers (.bankFill k sl) s fun t =>
          (t.core k).ctx sl ((s.core k).slot sl).top = some (s.imageCtx k sl ((s.core k).slot sl).top)
          ∧ (t.core k).fillCnt = satInc (s.core k).fillCnt ∧ (t.core k).slot sl = (s.core k).slot sl ∧ OnlyCoreAndMemory s t k)

/-- R120, R130: the vector buffer is loaded again with the four parcels at the entry of slot 0, and a selected delivery whose target
is still idle makes the event slot ACTIVE on the vector buffer, its first instruction three cycles later; where the buffer is being
reloaded, the handler waits for it (R131). -/
def Obligations.EventSlot : Prop :=
  ∀ (s : State) (k : Fin 128) (x : Ctx) (v : Served), quiet s →
    ((s.core k).vvalid = false → (s.core k).ctx 0 0 = some x → (∀ n, n < 4 → s.codeEccAt (x.entry.w0.toNat + n) = Ecc.clean) →
      Answers (.vectorBufferReload k) s fun t => OnlyCore s t k ∧ (t.core k).vvalid = true
        ∧ (t.core k).vbuf = (List.range 4).map fun n => { adr := x.entry.w0.toNat + n, bits := s.parcelAt (x.entry.w0.toNat + n), bad := false })
    ∧ ((s.core k).served = some v → v.dispatched = false → s.stillTarget k = true →
      Answers (.eventDispatch k) s fun t => OnlyLogged s t k ∧ (t.core k).served = some { v with dispatched := true }
        ∧ ((t.core k).slot 0).st = .active ∧ ((t.core k).slot 0).buf = (if (s.core k).vvalid then (s.core k).vbuf else []) ∧ (t.core k).firstIssue = some ((s.core k).cyc + 3))

/-! ## Translation, fences, block instructions, fetch and issue -/

namespace Sys2Proof.Claims

/-- A TLB entry of a core, as its four words. -/
def tlbWords (s : State) (k j : Nat) : EntryWords := ((s.core k).tlbEntry j).words

/-- Invalidation of the entries that a TLBI names, and of no other (R164). -/
def Invalidated (s t : State) (k form : Nat) (ten : TenantId) (va : Nat) (headland : Bool) : Prop :=
  ∀ j, if (tlbWords s k j).named form ten va headland then (tlbWords t k j).v = false else tlbWords t k j = tlbWords s k j

/-- One unit of a block instruction was done, from `k` units on: it is abandoned there with PROG at the next unit, or is the last one
and the parcel ends (R110, R143). `y` is the context that the unit left, in state `s1`. -/
def UnitDone (s s1 : State) (th : ThreadId) (y : Ctx) (i : Instr) (k total : Nat) : Prop :=
  s1.topCtx th = some y →
    Answers i s fun t => OnlyCore s1 t th.core
      ∧ t.topCtx th = some (if k + 1 < total then { y with progValid := true, progDone := BitVec.ofNat 30 (k + 1) }
          else nextParcel { y with progDone := BitVec.ofNat 30 (k + 1) })

/-- The slot whose turn it is may issue a parcel, and this is it (R113, R114). -/
def Picks (s : State) (k : Fin 128) (sl : Fin 8) (x : Ctx) (f : Fetched) : Prop :=
  s.coreRuns k = true ∧ (s.core k).cyc % 16 ≠ 0 ∧ quiet s
    ∧ (pickSlot (s.core k) fun j => (s.eligible k j).isSome).slot = some sl ∧ s.eligible k sl = some { ctx := x, parcel := some f }

end Sys2Proof.Claims

open Sys2Proof.Claims

/-- R107, R156, R157, R160: TLBW of an index and a range that its tenant may use stores the four words normalised, and TLBR reads
them back into four registers; no other entry changes. -/
def Sys2Proof.Claims.TlbReadWrite : Prop :=
  ∀ (s : State) (th : ThreadId) (x : Ctx) (d a b : DReg), s.ready th = some x → x.ts.m = true →
    let j := x.d[a.val].toNat % 64
    let k := th.core.val
    (∀ n, b.val % 4 = 0 → s.tlbwEntry k x.cur j (x.quad b.val) = .ok n →
      Answers (.tlbw th a b) s fun t => tlbWords t k j = n ∧ (∀ i, i ≠ j → tlbWords t k i = tlbWords s k i)
        ∧ t.topCtx th = some (nextParcel x) ∧ OnlyCore s t k)
    ∧ (d.val % 4 = 0 → (s.core k).indexOpen x.cur j = true →
      Answers (.tlbr th d a) s fun t => ∃ y, OnlyTop s t th (nextParcel y) ∧ { y with d := x.d } = x
        ∧ y.dAt d.val = (tlbWords s k j).w0 ∧ y.dAt (d.val + 1) = (tlbWords s k j).w1 ∧ y.dAt (d.val + 2) = (tlbWords s k j).w2
        ∧ y.dAt (d.val + 3) = (tlbWords s k j).w3 ∧ ∀ n, n < 16 → n < d.val ∨ d.val + 3 < n → y.dAt n = x.dAt n)

/-- R157, R160: the normalised form of an entry: SIZE from 8 to 32, its base addresses aligned to it, and a tenant other than Headland
gets its own number and no global entry; and what it stores never reaches outside its tenant's allotment. -/
def Obligations.TlbEntryBounded : Prop :=
  ∀ (s : State) (k : Nat) (cur : TenantId) (j : Nat) (e n : EntryWords), s.tlbwEntry k cur j e = .ok n →
    let z := fld n.w2 29 24
    8 ≤ z ∧ z ≤ 32 ∧ n.w0.toNat % 2 ^ z = 0 ∧ n.w1.toNat % 2 ^ (z - 8) = 0 ∧ n.w3 = e.w3
    ∧ (cur ≠ 0 → bit n.w2 30 = false ∧ fld n.w2 23 12 = cur.toNat)
    ∧ (bit n.w2 31 = true → (s.tenant cur.toNat).base.toNat * 256 ≤ n.w1.toNat * 256
        ∧ n.w1.toNat * 256 + 2 ^ z ≤ ((s.tenant cur.toNat).last.toNat + 1) * 256)

/-- R107, R164, R165: a TLBI by a supervisor with authority over the tenant it names invalidates the entries of its own core at once, and
is on its way to every other group's leader and to the Churn; a core that receives it invalidates its entries, and acknowledges. When the
issuing group applies its own TLBI, and what a lost core answers, are the model's choices (log entries 47, 62). -/
def Obligations.TlbiResult : Prop :=
  ∀ (s : State) (th : ThreadId) (x : Ctx) (cd : CReg) (a b : DReg) (k : Fin 128) (m : Tlbi) (r : List Tlbi), quiet s →
    let ten : TenantId := x.d[b.val].setWidth 12
    let headland := decide (x.cur = 0)
    let sends := fun (i : Instr) (form : Nat) (t0 : TenantId) (va : Word) => Answers i s fun t =>
      Invalidated s t th.core form t0 va.toNat headland ∧ t.topCtx th = some (nextParcel x)
        ∧ t.tlbis = s.tlbis ++ [Tlbi.mk form va t0 headland th.core th.slot
            ((s.allLeaders.filter fun j => decide (j ≠ th.core.val)) ++ [notACore])]
    (s.ready th = some x → x.ts.m = true →
      (ten = x.cur ∨ tlbiCheck x.c[cd.val] (some ten) = .ok () →
        sends (.tlbiVa th cd a b) 1 ten x.d[a.val] ∧ sends (.tlbiT th cd b) 2 ten 0)
      ∧ (tlbiCheck x.c[cd.val] none = .ok () → sends (.tlbiAll th cd) 3 0 0))
    ∧ (takeTlbi k s.tlbis = some (m, r) → s.dropsTlb k = false → (s.core k).tm.st = .run ∨ (s.core k).tm.st = .commit →
        Answers (.tlbiReceive (some k)) s fun t => t.tlbis = r ∧ Invalidated s t k m.form m.ten m.va.toNat m.headland
          ∧ ∀ j, j ≠ k.val → t.core j = s.core j)
    ∧ (takeTlbi notACore s.tlbis = some (m, r) → Answers (.tlbiReceive none) s fun t => t.tlbis = r ∧ t.cores = s.cores)

/-- R45, R70, R159, R162: an access goes where the entry that its lookup gives says, uncached under DEV, and the entry is the latest to
have matched. That of several matching entries only the one used has matched, and that a short operation aimed at a register page ends in
BUS_ERROR, are the model's choices (log entries 131, 122). -/
def Sys2Proof.Claims.EntryUsed : Prop :=
  ∀ (s : State) (i : Issuer) (q : Query) (va j : Nat) (e : TlbEntry), quiet s → (s.core i.core).arch.tlb.sorted = true →
    (∀ g, g ∈ ((s.core i.core).slot i.slot).given → g.1 ≠ BitVec.ofNat 32 va) → capCheck q.cap q.kind q.val = .ok () →
    formAddress q.am q.reg q.cap q.disp q.size = .ok va → (s.core i.core).lookup i.cur va = some (j, e) →
    e.words.permit q.kind.load q.kind.store = .ok () → (s.core i.core).mpu i (e.words.pa va) q.kind.load q.kind.store = none →
    let c := s.core i.core
    let paged := q.short = true ∧ ∃ n, region (e.words.pa va) = .page n
    let place : Place := {
      va := va, pa := e.words.pa va, lenient := bit e.w2 5, dev := bit e.w2 4
      route := if bit e.w2 3 && !bit e.w2 4 then .cached else .uncached }
    ∃ r t, s.locate i q = (r, t) ∧ OnlyCore s t i.core
      ∧ (∀ m, (t.core i.core).tlbEntry m = if m = j then { c.tlbEntry j with last := c.arch.tlbSeq + 1 } else c.tlbEntry m)
      ∧ (∀ m, (c.tlbEntry m).last ≤ c.arch.tlbSeq → m ≠ j → ((t.core i.core).tlbEntry m).last < ((t.core i.core).tlbEntry j).last)
      ∧ (paged → ∃ f, r = .error f ∧ f.code = 0x14) ∧ (¬paged → r = .ok place)

/-- R56, R107, R163: WLD reads the word at a physical address that its tenant's allotment holds and writes it to its register; the
thread waits for the response. -/
def Sys2Proof.Claims.WalkLoad : Prop :=
  ∀ (s s1 : State) (th : ThreadId) (x : Ctx) (d a b : DReg) (w : Word), s.ready th = some x → x.ts.m = true →
    (issuing s th).walk (issuerOf th x) (x.d[b.val].toNat % 256 * 2 ^ 32 + x.d[a.val].toNat) = (.ok w, s1) → s1.topCtx th = some x →
    Responds s s1 th (.wld th d a b) { x with d := x.d.set d.val w }

/-- R56, R107, R156, R157, R159, R160, R162, R163: TLBW, TLBR and WLD, and the use of an entry. -/
def Obligations.TlbAndWalk : Prop := Sys2Proof.Claims.TlbReadWrite ∧ Sys2Proof.Claims.EntryUsed ∧ Sys2Proof.Claims.WalkLoad

/-- R59, R108, R129, R312: a fence's parcel ends, and its thread issues again when the fence completes: FENCE.L, FENCE.M and FENCE.IO
when no posted store of its own that it orders is waiting, FENCE.T when every invalidation of the thread has been acknowledged,
FENCE.C when no buffer waits to be loaded again. FENCE.C leaves no fetch buffer with a parcel that the thread overwrote; FENCE.M
writes the cove's cluster cache back and invalidates it, and makes the Cave's stores durable. That FENCE.IO also waits for writes
which the event controller has not acknowledged is read from R234 (log entry 104). -/
def Obligations.FenceResult : Prop :=
  ∀ (s : State) (th : ThreadId) (x : Ctx) (kind : FenceKind),
    let waits := fun (t : State) => ((t.core th.core).slot th.slot).wait
    let own := fun (p : Posted) => p ∈ (s.core th.core).posted ∧ p.slot = th.slot
    (s.ready th = some x → ∀ i, i = (match kind with
        | .l => Instr.fenceL th
        | .m => .fenceM th
        | .io => .fenceIo th
        | .t => .fenceT th
        | .c => .fenceC th) →
      Answers i s fun t => waits t = .fence kind ∧ t.topCtx th = some (nextParcel x) ∧ { t with cores := s.cores } = s
        ∧ (kind ≠ .c → OnlyCore s t th.core)
        ∧ (kind = .c → ∀ k, k < 128 → s.isLeader k = true → ∀ sl f, f ∈ ((t.core k).slot sl).buf →
            (th, codeIndex f.adr) ∉ (s.cove (k / 8)).dirty))
    ∧ (((s.core th.core).slot th.slot).wait = .fence kind →
      (kind = .l → (∀ p, own p → region p.pa ≠ .sram (th.core / 8)) →
        Answers (.fenceComplete th) s fun t => waits t = .none ∧ OnlyCore s t th.core)
      ∧ (kind = .m → (∀ p, ¬own p) → Answers (.fenceComplete th) s fun t => waits t = .none
        ∧ (t.cove (th.core / 8)).cache = Tbl.empty ∧ t.undurable = []
        ∧ ({ s.cacheFlush (th.core / 8) with undurable := [], cores := t.cores } : State) = t
        ∧ ∀ j, j ≠ th.core.val → t.core j = s.core j)
      ∧ (kind = .io → (∀ p, own p → p.device = false) → s.evcOwes = false →
        Answers (.fenceComplete th) s fun t => waits t = .none ∧ OnlyCore s t th.core)
      ∧ (kind = .t → (∀ b, b ∈ s.tlbis → ¬(b.core = th.core.val ∧ b.slot = th.slot.val)) →
        Answers (.fenceComplete th) s fun t => waits t = .none ∧ OnlyCore s t th.core)
      ∧ (kind = .c → (∀ n, n < 16 → s.vectorOwed th n = false) → Answers (.fenceComplete th) s fun t => waits t = .none
        ∧ (∀ n, n < 16 → ∀ e, e ∈ (t.cove n).dirty → e.1 ≠ th) ∧ ∀ j, j ≠ th.core.val → t.core j = s.core j)
      ∧ (kind = .m ∨ kind = .io → (∃ p, own p ∧ (kind = .m ∨ p.device = true)) → Answers (.fenceComplete th) s fun t => t = s))

/-- R46, R47, R109, R110, R143: a unit of a block instruction that succeeds counts in PROG.DONE; the last one ends the parcel. A length
of 0 touches nothing. PROG of an earlier parcel counts for none. What DONE reads once the last unit is done is the model's choice (log
entry 51). -/
def Sys2Proof.Claims.BlockUnits : Prop :=
  ∀ (s : State) (th : ThreadId) (x : Ctx) (cd ca : CReg) (d a b : DReg), s.ready th = some x →
    let len := x.d[b.val].toNat
    let s0 := (issuing s th).freshProg th
    let z := if ((s.core th.core).slot th.slot).stale then { x with progValid := false } else x
    let k := z.doneUnits
    let i := issuerOf th x
    let aligned := fun (c : CReg) (n : Nat) => x.c[c.val].w0.toNat % n = 0
    (len = 0 → ∀ n, (accepted s th 2 → Leaves s th x (.movb th cd ca b n) (none, x.flg) ∧ Leaves s th x (.fillb th cd a b n) (none, x.flg)
          ∧ Leaves s th x (.crcb th d ca b n) (none, x.flg))
        ∧ Leaves s th x (.tagz th cd b n) (none, x.flg) ∧ Leaves s th x (.pstoreN th cd ca b n) (none, x.flg))
    ∧ (accepted s th 2 → aligned cd 4 → len % 4 = 0 → k < len / 4 →
        (∀ s1, s0.blockWord i (blockQuery x cd (4 * k) 4 stores) x.d[a.val] = (.ok (), s1) →
          UnitDone s s1 th x (.fillb th cd a b 1) k (len / 4))
        ∧ (aligned ca 4 → ∀ w s1 s2, s0.dataLoad i (blockQuery x ca (4 * k) 4 loads) = (.ok w, s1) →
          s1.blockWord i (blockQuery x cd (4 * k) 4 stores) w = (.ok (), s2) → UnitDone s s2 th x (.movb th cd ca b 1) k (len / 4)))
    ∧ (accepted s th 2 → let cur := x.c[ca.val].w0.toNat
        let total := (cur % 4 + len + 3) / 4
        let wa := cur / 4 * 4 + 4 * k
        let lo := max cur wa
        let hi := min (cur + len) (wa + 4)
        0 < len → k < total → ∀ p w g s1 s2, s0.crcPlace i (blockQuery x ca 0 4 loads) lo hi wa = (.ok p, s1) →
          s1.heldBack th.core p.pa = false → s1.groupLoad i p 4 false = (.ok (w, g), s2) → s2.topCtx th = some z →
          Answers (.crcb th d ca b 1) s fun t => OnlyCore s2 t th.core ∧ ∃ y, t.topCtx th = some y
            ∧ y.d = x.d.set d.val (crcWord x.d[d.val] w (lo - wa) (hi - wa)) ∧ y.progDone = BitVec.ofNat 30 (k + 1)
            ∧ (y.progValid = true ↔ k + 1 < total) ∧ y.c = x.c ∧ y.flg = x.flg)
    ∧ (aligned cd 8 → len % 8 = 0 → k < len / 8 → ∀ s1, tagzUnit cd th z k s0 = (.ok (), s1) →
        UnitDone s s1 th x (.tagz th cd b 1) k (len / 8))
    ∧ (aligned ca 4 → pstoreCheck x.c[cd.val] len = .ok () → k < len → ∀ s1, pstoreUnit cd ca th z k s0 = (.ok (), s1) →
        UnitDone s s1 th x (.pstoreN th cd ca b 1) k len)

/-- R46, R110: what a unit of TAGZ and of PSTORE.N leaves behind in a place that nothing else claims: Unwritten words, and a parcel. -/
def Sys2Proof.Claims.BlockEffects : Prop :=
  ∀ (s s1 : State) (th : ThreadId) (x : Ctx) (cd ca : CReg) (k : Nat), s.ready th = some x → quiet s →
    (∀ p s0, s.locate (issuerOf th x) (blockQuery x cd (8 * k) 8 stores) = (.ok p, s0) → quiet s0 → plainPlace s0 th.core p.pa →
      Sound s0 → tagzUnit cd th x k s = (.ok (), s1) →
      s1.tagAt p.pa = .unwritten ∧ s1.tagAt (p.pa + 4) = .unwritten ∧ ∀ a, ¬inItsLog s0 th.core a → s1.byteAt a = s.byteAt a)
    ∧ (∀ w s0, s.dataLoad (issuerOf th x) (blockQuery x ca (4 * k) 4 loads) = (.ok w, s0) → quiet s0 → Sound s0 → s0.replaying th.core = false →
      pstoreUnit cd ca th x k s = (.ok (), s1) → s1.parcelAt (x.c[cd.val].w0.toNat + k) = w.setWidth 29)

/-- R43, R46, R47, R109, R110, R143: the block instructions, a unit at a time. How DONE counts a block that is complete, and what a block
of length 0 checks, are the model's choices (log entries 51, 103). -/
def Obligations.BlockInstructions : Prop := Sys2Proof.Claims.BlockUnits ∧ Sys2Proof.Claims.BlockEffects

/-- R50, R65, R118, R119: the port fetches the next parcel of the slot that it serves into that slot's buffer. -/
def Sys2Proof.Claims.FetchResult : Prop :=
  ∀ (s : State) (k : Fin 128) (sl : Fin 8) (adr : Nat) (l : List Fetched), s.executes k = true →
    (s.core k).fetchSlot (k.val / 8) = some (sl, adr, l) → s.codeEccAt adr = Ecc.clean →
    l.length < 4 ∧ (∀ f, f ∈ l → f ∈ ((s.core k).slot sl).buf)
    ∧ Answers (.parcelFetch k) s fun t => OnlyCore s t k
        ∧ (t.core k).slot sl = { (s.core k).slot sl with buf := l ++ [{ adr := adr, bits := s.parcelAt adr, bad := false }] }
        ∧ (t.core k).arch.banks = (s.core k).arch.banks ∧ ∀ j, j ≠ sl → (t.core k).slot j = (s.core k).slot j

/-- R65, R72, R91, R113, R114, R207: an issue cycle in which the members agree. A slot that the wheel picks runs the parcel that it has
fetched: for a long ADDI its register and flags take the sum, and PCC moves on. Where no slot can issue, nothing happens but the
cycle. Either way cycle count and position advance by one. No standby waits to be entered (R306). -/
def Sys2Proof.Claims.IssueTurnResult : Prop :=
  ∀ (s : State) (k : Fin 128) (sl : Fin 8) (at_ : Nat),
    let s1 := s.advance at_
    s.power.entering = false →
    let ticks := fun (t : State) => (t.core k).cyc = (s.core k).cyc + 1 ∧ (t.core k).tm.pos = (s.core k).tm.pos + 1
      ∧ (∀ j, j ≠ k.val → t.core j = s.core j) ∧ t.now = s1.now
    (∀ x f dec d a imm nf, Picks s1 k sl x f → f.bad = false → decodeParcel { core := k, slot := sl } f.bits = .long (some dec) →
      dec.instr = .addi { core := k, slot := sl } d a imm nf →
      Answers (.issueTurn k .agree at_) s fun t => ticks t
        ∧ let r := x.d[a.val] + imm.signExtend 32
          t.topCtx { core := k, slot := sl } = some (nextParcel (written x (withNf x nf d r (sumFlg x.d[a.val] (imm.signExtend 32) 0 r)))))
    ∧ (s1.coreRuns k = true → (s.core k).cyc % 16 ≠ 0 → quiet s → (∀ j, s1.eligible k j = none) →
        Answers (.issueTurn k .agree at_) s fun t => ticks t ∧ ∀ j lv, (t.core k).ctx j lv = (s.core k).ctx j lv)

/-- R50, R65, R72, R91, R113, R114, R118, R119, R207: fetch, and an issue cycle. -/
def Obligations.FetchAndIssue : Prop := Sys2Proof.Claims.FetchResult ∧ Sys2Proof.Claims.IssueTurnResult

/-- R87, R290, R292: an answer to a word load that left the device runs the parcel that waits for it: data goes to the register, and the
thread issues again; an error, as of a completion timeout, is BUS_ERROR, and at level 0 the thread's handler takes it. That the parcel
runs when the answer is there is the model's choice (log entries 53, 54). -/
def Obligations.OutsideAnswers : Prop :=
  ∀ (s s2 : State) (th : ThreadId) (x : Ctx) (d : DReg) (c : CReg) (disp : BitVec 14) (pcie : Bool) (a : Answer) (i : Instr),
    let slot := (s.core th.core).slot th.slot
    let s1 := s.modSlot th.core th.slot fun y => { y with wait := .none, answers := [a] }
    slot.wait = .outside pcie [.ldW th d c disp] → slot.answers = [] → s.topCtx th = some x →
    (i = .accessResponse th a ∨ (i = .pcieOutboundCompletion th a ∧ pcie = true) ∨ (i = .xspiWindowRead th a ∧ pcie = false)
      ∨ (i = .pcieCompletionTimeout th ∧ pcie = true ∧ a = .error)) →
    (∀ w, s1.dataLoad (issuerOf th x) (query x c disp.toInt 4 loads) = (.ok w, s2) → s2.topCtx th = some x →
      Answers i s fun t => t.topCtx th = some (nextParcel { x with d := x.d.set d.val w })
        ∧ ((t.core th.core).slot th.slot).wait = .none ∧ OnlyCore s2 t th.core)
    ∧ (∀ f r l, s1.dataLoad (issuerOf th x) (query x c disp.toInt 4 loads) = (.error f, s2) → s2.topCtx th = some x → f.code < 64 →
      x.ts.pf = false → x.ts.level = 0 → EntryReady s2 th x 1 0 (f.ofParcel (s.waitingParcel th x) 0) r l →
      Answers i s fun t => ∃ y, Entered t th x y 1 (l.getD 0 Cap.null) (l.getD 1 Cap.null) (l.getD 3 Cap.null) x.pcc.w0
        ∧ y.record = r ∧ fld r[0] 5 0 = f.code)

/-! ## The tenant table -/

namespace Sys2Proof.Claims

/-- The tenant table has no command in progress or held, and its page's owner writes to it (R33, R34). -/
def TableIdle (s : State) (who : Agent) : Prop :=
  Owns s who tenPage ∧ s.tenTable.current = none ∧ s.tenTable.held = [] ∧ s.tenTable.result ≠ 1

/-- A command was accepted: RESULT reads BUSY, and the tenant selected has the row `r` (R34). -/
def Accepted (s t : State) (cmd : TenCmd) (r : Tenant) : Prop :=
  t.tenTable = { s.tenTable with current := some { cmd := cmd, ten := s.tenTable.sel, handle := none }, result := 1, reason := 0, busyRef := false }
    ∧ t.tenant s.tenTable.sel.toNat = r ∧ ∀ n, n ≠ s.tenTable.sel.toNat → t.tenant n = s.tenant n

/-- A command was refused with a reason, and nothing else has changed but that its packet has gone on the Undertow lane (R34, R245). -/
def Refused (s t : State) (reason : BitVec 4) : Prop :=
  t = { s with tenTable := { s.tenTable with result := 2, reason := reason }, undertow := t.undertow }

/-- A STOP, START or RESUME is on its way to every group (R34). -/
def Sent (s t : State) (stop : Bool) : Prop :=
  ∀ k, k ∈ s.allLeaders → (t.core k).arrivals = (s.core k).arrivals ++ [{ ten := s.tenTable.sel, stop := stop }]

end Sys2Proof.Claims

open Sys2Proof.Claims

/-- R30, R33 to R36, R45: each command of the tenant table is accepted in the state that R34 gives it, and refused with its REASON in
another; STOP, START and RESUME go to every group, where a stopped tenant's threads park, all but one that is to enter level 2 first
(R154). The allotment is written while a tenant
is BUILDING or STOPPED, and TEN_UNWRITTEN is cleared by its read. When a command has left nothing to wait for is the model's choice
(log entry 82). -/
def Obligations.TenantCommands : Prop :=
  ∀ (s : State) (who : Agent) (v : Word) (code : BitVec 4) (k : Fin 128),
    let row := s.tenant s.tenTable.sel.toNat
    let idle := TableIdle s who
    let real := s.tenTable.sel ≠ 0
    (idle → real → row.st = .free → row.gen ≠ 0xFFFFF#20 →
      Answers (.mint who) s fun t => Accepted s t .mint { row with st := .building, base := 1, last := 0 } ∧ t.cores = s.cores)
    ∧ (idle → real → row.st = .building → Answers (.start who) s fun t => Accepted s t .start { row with st := .running } ∧ Sent s t false)
    ∧ (idle → real → row.st = .running →
      Answers (.stop who) s fun t => Accepted s t .stop { row with st := .stopped, moved := false } ∧ Sent s t true)
    ∧ (idle → real → row.st = .stopped →
      (Answers (.resume who) s fun t => Accepted s t .resume { row with st := .running, moved := false } ∧ Sent s t false)
      ∧ Answers (.retire who) s fun t =>
          Accepted s t .retire { row with st := .retiring, moved := false, gen := if row.gen = 0xFFFFF#20 then row.gen else row.gen + 1 })
    ∧ (idle → (5 < code.toNat ∨ code = 0) → Answers (.tenCmdUnknown who code) s fun t => Refused s t 4)
    ∧ (idle → s.tenTable.sel = 0 → ∀ i, i = Instr.mint who ∨ i = Instr.start who ∨ i = Instr.stop who ∨ i = Instr.resume who
        ∨ i = Instr.retire who → Answers i s fun t => Refused s t 2)
    ∧ (idle → real → row.st ≠ .running → Answers (.stop who) s fun t => Refused s t 1)
    ∧ (idle → real → row.st ≠ .stopped → Answers (.retire who) s fun t => Refused s t 1)
    ∧ (∀ h, s.tenTable.current = some h → s.tenTable.held = [] → s.tenUnfinished h.ten = false →
        (h.cmd = .mint ∨ h.cmd = .stop → Answers .tenCmdComplete s fun t =>
          t = { s with tenTable := { s.tenTable with current := none, result := if h.handle.isSome then s.tenTable.result else 0 } })
        ∧ (h.cmd = .retire → Answers .tenCmdComplete s fun t => (t.tenant h.ten.toNat).st = .free ∧ t.tenTable.current = none))
    ∧ (∀ a r, (s.core k).arrivals = a :: r → TakesInput s k → quiet s → a.stop = true →
        Answers (.tenantCommandArrive k) s fun t => (t.core k).arrivals = r ∧ ∀ sl x, let slot := (s.core k).slot sl
          slot.st = .active ∨ slot.st = .sleeping ∨ slot.st = .waiting → slot.awaitsLevel2 = false → (s.core k).ctx sl slot.top = some x → x.cur = a.ten →
            (t.core k).slot sl = { slot with
              st := .parked, under := slot.st, crossing := none, spent := 0, stale := slot.stale && decide (slot.spent = 0) })
    ∧ (Owns s who tenPage → s.tenTable.result ≠ 1 → real → row.st = .building ∨ row.st = .stopped → ∀ last,
        Answers (.tenPhysWrite who last v) s fun t => t = s.setTenant s.tenTable.sel.toNat { row with
          base := if last then row.base else v, last := if last then v else row.last
          moved := row.moved || decide (row.st = TenantState.stopped) })
    ∧ Answers (.tenUnwrittenRead who) s fun t => t = s.setTenant s.tenTable.sel.toNat { row with unwritten := 0 }

/-! ## The Tidemark and the cove modes -/

namespace Sys2Proof.Claims

/-- A group leader that a rollback would take for the first time: it is not lost or stopped, and its last rollback had another
cause (R211, R219). -/
def MayRoll (s : State) (k : Nat) (cause : BitVec 4) : Prop :=
  s.isLeader k = true ∧ (s.core k).lost = false ∧ ((s.core k).tm.st = .run ∨ (s.core k).tm.st = .commit) ∧ (s.core k).tm.lastCause ≠ cause

/-- A group has begun to roll back (R209, R211). -/
def Rolls (s t : State) (k : Nat) (cause : BitVec 4) : Prop :=
  (t.core k).tm.st = .restore ∧ (t.core k).tm.goal = (s.core k).tm.pos ∧ (t.core k).tm.lastCause = cause
    ∧ (t.core k).tm.rollbacks = satInc (s.core k).tm.rollbacks ∧ (t.core k).tm.pending = none ∧ (t.core k).arch = (s.core k).arch

/-- Headland writes CMODE_CMD of a cove that is neither busy nor gated (R216). -/
def ModeOpen (s : State) (who : Agent) (n : Fin 16) : Prop :=
  quiet s ∧ who.ten = 0 ∧ (s.cove n).busy = false ∧ (s.gate n).st = .on

/-- CMODE shows a refusal, and nothing else has changed but that the write has gone on the Undertow lane (R216, R245). -/
def ModeRefused (s t : State) (n : Fin 16) (reason : BitVec 4) : Prop :=
  t = { s.setCove n { s.cove n with result := 1, reason := reason } with undertow := t.undertow }

/-- The role of a core of a cove. -/
def roleOf (s : State) (n : Fin 16) (i : Fin 8) : Role := (s.cove n).role[i.val]

end Sys2Proof.Claims

open Sys2Proof.Claims

/-- R206, R207, R209, R211, R212: a checkpoint copies the group's state into its spare shadow, and commits where the signatures
agree: the shadow becomes the committed one and the written registers take effect. A rollback stops issue and names its cause; restore
writes the undo records back and then the shadow; replay ends at the goal. The signature of a commit is a free word (log entry 8), and
when a checkpoint that the interval calls for is taken is the model's choice (log entry 93). -/
def Obligations.TidemarkResult : Prop :=
  ∀ (s : State) (k : Fin 128) (n : Fin 16),
    let c := s.core k
    (quiet s → s.coreRuns k = true → c.tm.st = .run → Answers (.checkpoint k) s fun t => OnlyLogged s t k
      ∧ (t.core k).tm.st = .commit ∧ (t.core k).tm.pending = some c.arch ∧ (t.core k).tm.seq = c.tm.seq + 1 ∧ (t.core k).arch = c.arch)
    ∧ (quiet s → c.tm.st = .commit → (s.cove (k / 8)).toSplit = [] → (s.cove (k / 8)).fenced = [] → (s.cove (k / 8)).copies = [] →
      Answers (.checkpointCommit k .agree) s fun t => OnlyCore { s with free := s.free + 1 } t k
        ∧ (t.core k).tm.st = .run ∧ (t.core k).tm.shadow = c.tm.pending ∧ (t.core k).tm.pending = none
        ∧ (t.core k).tm.commits = satInc c.tm.commits ∧ (t.core k).tm.ctrl = c.tm.ctrlNext ∧ (t.core k).tm.logBase = c.tm.logNext
        ∧ (t.core k).tm.priv = c.tm.privNext ∧ ∀ sl, ((t.core k).slot sl).wait = if (c.slot sl).wait = .commit then .none else (c.slot sl).wait)
    ∧ (MayRoll s k 3 → Answers (.rollback k 3) s fun t => Rolls s t k 3 ∧ (∀ a, ¬inItsLog s k a → t.byteAt a = s.byteAt a)
        ∧ (t.cove (k / 8)).glitchCnt = satInc (s.cove (k / 8)).glitchCnt ∧ ∀ j, j ≠ k.val → t.core j = s.core j)
    ∧ ((∀ j, j ∈ s.leaders n → MayRoll s j 3) → Answers (.glitchAlarm (.one n)) s fun t =>
        (∀ a, (∀ j, j ∈ s.leaders n → ¬inItsLog s j a) → t.byteAt a = s.byteAt a)
        ∧ (∀ j, j ∈ s.leaders n → Rolls s t j 3) ∧ ∀ j, j ∉ s.leaders n → t.core j = s.core j)
    ∧ (∀ s1 a, c.tm.st = .restore → s.undoAll k c.tm.log.reverse c.tm.written = (true, s1) → s1.core k = c → s1.coves = s.coves →
        c.tm.shadow = some a → c.tm.extra = [] → (s.cove (k / 8)).copies = [] →
        Answers (.restoreComplete k) s fun t => (t.core k).tm.st = .replay ∧ (t.core k).tm.pos = 0 ∧ (t.core k).tm.goal = c.tm.goal
          ∧ (t.core k).arch.banks = a.banks ∧ (t.core k).arch.wheel = a.wheel ∧ (t.core k).arch.tlb = a.tlb ∧ t.mem = s1.mem
          ∧ ∀ j, j ≠ k.val → t.core j = s1.core j)
    ∧ (c.tm.st = .replay → c.tm.goal ≤ c.tm.pos → c.tm.inputs = [] → s.heldWakes = [] → Answers (.replayCatchUp k) s fun t =>
        (t.core k).tm.st = .run ∧ (t.core k).tm.values = [] ∧ (t.core k).tm.releases = [] ∧ (t.core k).arch.banks = c.arch.banks)

/-- R202, R216 to R219, R221, R222: Headland's mode commands, where they are accepted: a change out of Split with every core that it
takes PARKED or EMPTY, a change to Split, a rotation to a free spare, a restart of a core that passes, and a copy's end. That MODE
shows the new mode at once, and that a FAILED core which passes becomes a spare, are the model's choices (log entries 58 and 61). -/
def Obligations.CoveModes : Prop :=
  ∀ (s : State) (who : Agent) (n : Fin 16) (m : BitVec 2) (i j : Fin 8) (k : Nat) (code : BitVec 3) (pass : BitVec 8),
    let cv := s.cove n
    let isOpen := ModeOpen s who n
    (isOpen → cv.mode = .split → m ≠ 0 → (∀ c, c ∈ (modeGroups (modeOfCode m)).flatMap (·.2) ++ modeSpares (modeOfCode m) →
        s.quiet (8 * n + c.val) = true) →
      Answers (.change who n m) s fun t => (t.cove n).mode = modeOfCode m ∧ (t.cove n).busy = true ∧ (t.cove n).result = 0
        ∧ (t.cove n).copies = cv.copies ++ (modeGroups (modeOfCode m)).map (fun g => CopyJob.mk g.1 g.2 none false)
        ∧ ∀ c, c ∈ modeSpares (modeOfCode m) → roleOf t n c = .spare)
    ∧ (isOpen → cv.mode = .pair ∨ cv.mode = .triple → s.leaders n ≠ [] → Answers (.change who n 0) s fun t =>
        (t.cove n).toSplit = (s.leaders n).map idxOf ∧ (t.cove n).busy = true ∧ (t.cove n).mode = cv.mode)
    ∧ (isOpen → cv.mode = .split → m = 0 → Answers (.change who n m) s fun t => ModeRefused s t n 2)
    ∧ (isOpen → s.memberLeader n i = some k → cv.freeSpare = some j → Answers (.rotate who n (BitVec.ofNat 4 i.val)) s fun t =>
        (t.cove n).copies = cv.copies ++ [CopyJob.mk (idxOf k) [j] (some (i, j)) false] ∧ (t.cove n).busy = true ∧ (t.cove n).result = 0)
    ∧ (isOpen → roleOf s n i = .failed → cv.mode ≠ .split → pass.getLsbD i.val = true →
        Answers (.restart who n (BitVec.ofNat 4 i.val) 0 pass) s fun t => roleOf t n i = .spare ∧ (t.cove n).result = 0
          ∧ ((∀ e, e ∈ cv.away → e.2 = s.power.epoch) → t.cores = s.cores))
    ∧ (isOpen → roleOf s n i = .lost → cv.mode = .split → (s.core (8 * n + i.val)).lost = true →
        Answers (.restart who n (BitVec.ofNat 4 i.val) 0 pass) s fun t => roleOf t n i = .single ∧ (t.core (8 * n + i.val)).lost = false
          ∧ (t.core (8 * n + i.val)).tm.st = .run ∧ ∀ sl, ((s.core (8 * n + i.val)).slot sl).st ≠ .empty →
              ((t.core (8 * n + i.val)).slot sl).st = .parked)
    ∧ (isOpen → code = 0 ∨ 3 < code.toNat → Answers (.cmodeUnknown who n code) s fun t => ModeRefused s t n 7)
    ∧ (∀ l, cv.copies = [CopyJob.mk i l none true] → i ∉ l → cv.trial = [] → cv.toSplit = [] → Answers (.copyEnd n) s fun t =>
        roleOf t n i = .leader ∧ (∀ c, c ∈ l → roleOf t n c = .follower) ∧ (t.cove n).copies = [] ∧ (t.cove n).busy = false
          ∧ (t.core (8 * n + i.val)).tm.st = .run)

/-- R219, R318 to R320: the online self-test: a schedule point, which comes as the tide reaches FRAC, counts its turns and then stops a
group for a slice; the ends of a core test, a slice and a bank test give their result, and a failing bank stays replaced. A core that
passes and finds another EPOCH than it recorded as it left rebuilds itself and raises source 14. The tick of a schedule point and what a
rebuild resets are the model's choices (log entries 71, 150). -/
def Obligations.SelfTest : Prop :=
  ∀ (s : State) (n : Fin 16) (i phys : Fin 8) (b : Fin 16) (pass : Bool),
    let cv := s.cove n
    let every := max (fld cv.stestCtrl 23 16) 1
    let tide := fld cv.stestCtrl 27 24
    let reached := fun (x : Nat) => floorDiv (floorDiv (s.phaseAt tide x) (2 ^ 32) - fld cv.stestPhase 23 0) (2 ^ 24)
    let due := bit cv.stestCtrl 31 = true ∧ (s.tide tide).still = false ∧ cv.busy = false ∧ 0 < s.now ∧ reached (s.now - 1) < reached s.now
    let done := fun (t : State) => (t.cove n).stestResult = (if pass then 1 else 2) ∧ (t.cove n).stestPasses = satInc cv.stestPasses
    (¬due → Answers (.selfTestSchedulePoint n) s fun t => t = s)
    ∧ (due → cv.turnsSince + 1 < every → Answers (.selfTestSchedulePoint n) s fun t => t = s.setCove n { cv with turnsSince := cv.turnsSince + 1 })
    ∧ (due → quiet s → every ≤ cv.turnsSince + 1 → cv.step = .none → cv.bankTest = none → cv.freeSpare = none → s.nextGroup n cv.stestNext = some i →
        bit cv.stestCtrl 30 = false → (s.core (8 * n + i.val)).tm.st = .run ∨ (s.core (8 * n + i.val)).tm.st = .commit → Answers (.selfTestSchedulePoint n) s fun t =>
          (t.cove n).step = .slice i ∧ (t.cove n).turnsSince = 0 ∧ (t.cove n).stestPhys = cv.coreMap[i.val]
            ∧ (t.core (8 * n + i.val)).stopped = true)
    ∧ ((∀ j : Fin 8, (s.core (8 * n + j.val)).tm.st ≠ .stopped) → roleOf s n i = .test → cv.coreMap[i.val] = phys →
        (∀ j : Fin 8, j ≠ i → cv.coreMap[j.val] ≠ phys) → cv.step = .core phys → Answers (.coreTestComplete n phys pass) s fun t =>
          roleOf t n i = (if pass then .spare else .failed) ∧ (t.cove n).step = .none ∧ done t
            ∧ ((∀ e, e ∈ cv.away → e.2 = s.power.epoch) → t.cores = s.cores)
            ∧ ∀ e, pass = true → cv.away = [(phys, e)] → e ≠ s.power.epoch → s.phase ≠ .standby →
                (t.source 14).count = (arrived s (s.source 14)).count ∧ (t.core (8 * n + i.val)).arch.tlb = Tbl.empty
                  ∧ (t.core (8 * n + i.val)).arch.groups = s.feat.set)
    ∧ (cv.step = .slice i → Answers (.sliceComplete n pass) s fun t => (t.cove n).step = .none ∧ done t
        ∧ (t.core (8 * n + i.val)).stopped = false ∧ (t.core (8 * n + i.val)).arch.tlb = Tbl.empty)
    ∧ (cv.bankTest = some b → Answers (.bankTestComplete n pass) s fun t => (t.cove n).bankTest = none ∧ done t
        ∧ (t.cove n).replacedBanks = (if pass then cv.replacedBanks else cv.replacedBanks ++ [b]) ∧ t.cores = s.cores ∧ t.mem = s.mem)

/-! ## The event controller -/

namespace Sys2Proof.Claims

/-- Only the event controller has changed, and of the sources only `i`, which is now `x`; whether it is urgent, since when it is
selectable and what arrived in this cycle follows (R235, R239). The Undertow lane may carry a notice of it (R245). -/
def OnlySource (s t : State) (i : Fin 2048) (x : Source) : Prop :=
  { t with sources := s.sources, evc := s.evc, undertow := s.undertow } = s ∧ (∀ j, j ≠ i.val → t.source j = s.source j)
    ∧ { t.source i with selAt := x.selAt, urgent := x.urgent, waited := x.waited, fresh := x.fresh } = x

end Sys2Proof.Claims

open Sys2Proof.Claims

/-- R226 to R230, R234, R239, R283: what reaches a source: arrivals from what raises it, the coalescing time, EN, PEND, BIND and MASK. Set
bits act at once; cleared ones act six EVC cycles after they reach the controller, and EN_SET withdraws the clears of earlier cycles. -/
def Obligations.SourceWrites : Prop :=
  ∀ (s : State) (i : Fin 2048) (ten : TenantId) (v : Word) (k : Fin 4) (b : Fin 64) (at_ : Nat),
    let s1 := s.advance at_
    let x := s.source i
    let goes := fun (c : Instr) (y : Source) => Answers c s fun t => OnlySource s1 t i y
    quiet s → s.phase ≠ .standby →
      (raisedSource i = true → goes (.eventArrival i at_) (arrived s1 x))
      ∧ (raisedSource i = false → Answers (.eventArrival i at_) s fun t => t = s1)
      ∧ (i.val = 128 + b.val → goes (.wakeBallEdge b at_) (arrived s1 x))
      ∧ (x.coalElapsed s1 = true → goes (.coalesceTimeout i at_) { x with pend := true, coalAt := none })
      ∧ goes (.enSet ten i at_) { x with en := true, enClrAt := x.enClrAt.filter fun t => decide (t / s1.evcTicks = s1.now / s1.evcTicks) }
      ∧ goes (.enClr ten i at_) { x with enClrAt := x.enClrAt ++ [s1.now] }
      ∧ (∀ t0, x.enClrAt = [t0] → x.maskClr = [] → t0 + 6 * s1.evcTicks ≤ s1.now →
          goes (.enClrEffect i at_) { x with en := false, enClrAt := [] })
      ∧ (x.pendClrAt = none → goes (.pendSet ten i at_) { arrived s1 x with pend := true })
      ∧ (Answers (.pendClr ten i) s fun t =>
          OnlySource s t i { x with pend := false, count := 0, sat := false, coalAt := none, pendClrAt := some s.now })
      ∧ (ten = 0 → fld v 27 16 ≠ fld x.bind 27 16 → Answers (.evcBindWrite ten i v) s fun t =>
          OnlySource { s with srcGens := t.srcGens } t i { x with
            pend := false, count := 0, sat := false, coalAt := none, en := false, enClrAt := [], coal := 0x01000000#32, age := 0x64#32
            bind := v &&& 0x0FFF0000#32 }
          ∧ genOf t.srcGens i = (if genOf s.srcGens i = 0xFFFFF#20 then genOf s.srcGens i else genOf s.srcGens i + 1))
      ∧ (ten = 0 → x.maskClr = [] → Answers (.maskWrite ten i k v at_) s fun t => ∃ y, OnlySource s1 t i y
          ∧ { y with mask := x.mask, maskClr := x.maskClr } = x ∧ y.mask = x.mask.set k (x.mask[k] ||| v)
          ∧ ∀ e, e ∈ y.maskClr ↔ ∃ j, j < 32 ∧ bit x.mask[k] j = true ∧ bit v j = false ∧ e = (s1.now, 32 * k.val + j))
      ∧ (ten ≠ 0 → (Answers (.evcBindWrite ten i v) s fun t => t = s) ∧ Answers (.maskWrite ten i k v at_) s fun t => t = s1)

/-- R229, R230, R236: words of ENABLE and PENDING, by the page's owner, act on the 32 sources of the word and on no other; the wake
latches catch edges while clocks are stopped, and are cleared by 1s. -/
def Obligations.EventPageWrites : Prop :=
  ∀ (s : State) (who : Agent) (k : Fin 64) (v : Word) (hi : Bool) (at_ : Nat),
    let s1 := s.advance at_
    let others := fun (t : State) => { t with sources := s.sources, evc := s.evc } = s1
      ∧ ∀ n, (n < 32 * k.val ∨ 32 * k.val + 32 ≤ n) → t.source n = s.source n
    (Owns s who evcPage →
      (Answers (.enablePendingDirectWrite who false k v at_) s fun t => others t ∧ ∀ j, j < 32 →
        if bit v j then (t.source (32 * k.val + j)).en = true
        else (t.source (32 * k.val + j)).enClrAt ≠ [] ∧ (t.source (32 * k.val + j)).en = (s.source (32 * k.val + j)).en)
      ∧ (Answers (.enablePendingDirectWrite who true k v at_) s fun t => others t ∧ ∀ j, j < 32 → bit v j = false →
          (t.source (32 * k.val + j)).pend = false ∧ (t.source (32 * k.val + j)).count = 0)
      ∧ (Answers (.enablePendingAliasWrite who false true k v at_) s fun t => others t ∧ ∀ j, j < 32 →
        if bit v j then (t.source (32 * k.val + j)).en = true else t.source (32 * k.val + j) = s.source (32 * k.val + j))
      ∧ (Answers (.wakeLatchClear who hi v) s fun t => t = { s with evc := { s.evc with
          wakeLatch := s.evc.wakeLatch &&& ~~~(v.setWidth 64 <<< (if hi then 32 else 0)) } }))
    ∧ (s.phase = .standby → s.evc.wakeEn.getLsbD k.val = true → Answers (.wakeLatchCatch k) s fun t =>
        t = { s with evc := { s.evc with wakeLatch := s.evc.wakeLatch ||| (1#64 <<< k.val) } })

/-- R231, R232, R235: selection gives the first selectable source of its order to the first eligible target after LAST; the handler's
claim takes the count, but for what arrives in its own EVC cycle (R239), and makes the source ACTIVE, and its done makes it IDLE; a source
too long selectable becomes urgent. Which targets a wake or a selection finds idle is read from R130 (log entry 15). -/
def Obligations.DeliveryResult : Prop :=
  ∀ (s : State) (i : Fin 2048) (who : Agent) (k : Fin 128) (v : Served) (r : List (Fin 2048)) (tick : Nat),
    let s1 := s.advance tick
    let x := s.source i
    let src := fun (n : Nat) => s.source n
    (s.phase = .run → s1.selectOrder = i :: r → (∀ j, j ∈ r → (src j).selectable = false) → x.selectable = true →
      s1.pickTarget x [] = some k → Answers (.evcSelect tick) s fun t => (t.source i).svc = .delivered ∧ (t.source i).pend = false
        ∧ (t.source i).last = BitVec.ofNat 7 k.val ∧ (t.source i).count = x.count
        ∧ (t.core k).served = some { src := i, dispatched := false, claimed := false, urgent := x.urgent, word := 0 }
        ∧ (∀ j, j ≠ k.val → t.core j = s.core j) ∧ ∀ j, j ≠ i.val → t.source j = s.source j)
    ∧ (x.selectable = true → x.urgent = false → x.waited = none → s1.liveTarget x = true → fld x.age 15 0 ≠ 0 →
        (∀ t0, x.selAt = some t0 → fld x.age 15 0 * 7200 < s1.now - t0) → x.selAt ≠ none → Answers (.urgentEntry i tick) s fun t =>
          (t.source i).urgent = true ∧ t.evc.urgents = s.evc.urgents ++ [i] ∧ t.evc.urgCnt = satInc s.evc.urgCnt
            ∧ { t with sources := s.sources, evc := s.evc } = s1)
    ∧ (s.isEventSlot who k = true → (s.core k).served = some v → v.claimed = false → Answers (.evcClaimRead who k) s fun t =>
        let y := s.source v.src
        let w := flagAt true 31 ||| flagAt v.urgent 30 ||| flagAt y.sat 29 ||| at_ y.count.toNat 16 ||| at_ v.src.val 0
        (t.source v.src).svc = .active ∧ (∀ j, j ≠ v.src.val → t.source j = s.source j)
          ∧ ((∀ f, y.fresh = some f → f.tick / s.evcTicks ≠ s.now / s.evcTicks) →
              (t.core k).served = some { v with claimed := true, word := w } ∧ (t.source v.src).count = 0 ∧ (t.source v.src).sat = false)
          ∧ (∀ f, y.fresh = some f → f.tick / s.evcTicks = s.now / s.evcTicks → f.n < 256 →
              (t.source v.src).count.toNat = min f.n 255 ∧ ∃ u, (t.core k).served = some u ∧ fld u.word 23 16 = f.count.toNat))
    ∧ (Owns s who (eventPage k) → s.isEventSlot who k = true → (s.core k).served = some v → v.claimed = true →
        Answers (.evcDoneWrite who k) s fun t => (t.core k).served = none ∧ (t.source v.src).svc = .idle
          ∧ (t.source v.src).count = (s.source v.src).count ∧ (∀ j, j ≠ v.src.val → t.source j = s.source j)
          ∧ ∀ j, j ≠ k.val → t.core j = s.core j)

/-! ## The Tide Table -/

namespace Sys2Proof.Claims

/-- Nothing has changed but a tide and what follows it (R178, R180, R182, R188, R228): tides SWITCHED to it, targets and ticks of
entries, its waits, its event with its notice on the Undertow lane, the reference-loss detector, and a free value. -/
def OnlyTide (s t : State) (i : Nat) : Prop :=
  { t with tides := s.tides, entries := s.entries, cores := s.cores, sources := s.sources, evc := s.evc, heldEvents := s.heldEvents,
           frames := s.frames, free := s.free, undertow := s.undertow } = s
    ∧ (∀ j, j ≠ i → (s.tide j).st ≠ .switched → t.tide j = s.tide j)
    ∧ (∀ j, j ≠ i → { t.tide j with p := (s.tide j).p, t0 := (s.tide j).t0, w := (s.tide j).w, k := (s.tide j).k, iv := (s.tide j).iv,
                                    altLen := (s.tide j).altLen, segs := (s.tide j).segs } = s.tide j)
    ∧ (∀ k, { t.core k with arch := { (t.core k).arch with slots := (s.core k).arch.slots } } = s.core k)
    ∧ ∀ k sl, { (t.core k).slot sl with tideWait := ((s.core k).slot sl).tideWait } = (s.core k).slot sl

/-- Every wait on a tide has completed (R182). -/
def WaitsOver (s t : State) (i : Nat) : Prop :=
  ∀ k sl w, ((s.core k).slot sl).tideWait = some w → w.tide.val = i → ((t.core k).slot sl).tideWait = some { w with done := true }

/-- The tide's event has been raised where its TEV enables it (R178). -/
def TideRaised (s t : State) (x : Tide) : Prop :=
  let n := fld x.tev 10 0
  bit x.tev 31 = true → s.phase ≠ .standby →
    (t.source n).count = (arrived s (s.source n)).count ∧ (t.source n).pend = (arrived s (s.source n)).pend

/-- The prediction of a tide at a tick in 2^-16 ripple. -/
def predicted (s : State) (i te : Nat) : Int := rdiv (s.phaseAt i te) (2 ^ 16)

/-- A tide goes on from its phase at a tick with no correction. -/
def GoesOn (s : State) (i te : Nat) (y : Tide) : Prop := y.p = predicted s i te ∧ y.t0 = te ∧ y.k = 0 ∧ y.iv = 0

/-- What the tracker leaves of a measurement m at te (R177, R179): a return, the first one, one that a LOCKED tide rejects, and
one that is used. Phases are in 2^-16 ripple, rates in 2^-32 ripple a tick; how an inexact quotient is rounded is open (log entry 6). -/
def Tracked (s : State) (i : Nat) (x : Tide) (m : Int) (te : Nat) (y : Tide) : Prop :=
  let pr := predicted s i te
  let e := m - pr
  let tol : Int := (fld x.tlim 15 0 : Int) * 16 * 2 ^ 16
  let iv := max (te - x.tm) 1
  let dw := rdiv (e * 2 ^ 16) (2 ^ fld x.tgain 3 0 * iv)
  let lim := rdiv ((fld x.tlim 31 16 : Int) * x.w * x.w * iv) (2 ^ 72)
  if x.st = .slack ∨ x.st = .switched ∨ x.st = .held ∨ x.st = .safe ∨ x.ret = true then
    GoesOn s i te y ∧ y.st = .acquiring ∧ y.err = e ∧ y.mp = m ∧ y.tm = te ∧ y.good = 0 ∧ y.bad = 0 ∧ y.rejects = 0
      ∧ (x.st = .held ∨ x.st = .safe → y.w = 0) ∧ (x.st = .slack → x.back = false → x.kind ≠ 0 → y.w = x.w)
  else if x.measured = false then
    y.st = x.st ∧ y.p = m ∧ y.t0 = te ∧ y.w = 0 ∧ y.k = 0 ∧ y.mp = m ∧ y.tm = te ∧ y.err = 0 ∧ y.good = 0 ∧ y.bad = 0
      ∧ y.rejects = 0 ∧ y.measured = true
  else if x.st = .locked ∧ (8 * tol < e ∨ e < -(8 * tol)) then
    y.p = x.p ∧ y.t0 = x.t0 ∧ y.w = x.w ∧ y.k = x.k ∧ y.iv = x.iv ∧ y.mp = x.mp ∧ y.tm = x.tm ∧ y.rejects = x.rejects + 1
      ∧ y.st = (if x.rejects + 1 = 3 then .acquiring else .locked) ∧ (x.rejects + 1 = 3 → y.good = 0)
  else
    y.p = pr ∧ y.t0 = te ∧ y.mp = m ∧ y.tm = te ∧ y.iv = iv ∧ y.err = e ∧ y.rejects = 0
      ∧ y.w = (if x.st = .locked then max (x.w + max (-lim) (min dw lim)) 0 else max (rdiv ((m - x.mp) * 2 ^ 16) iv) 0)
      ∧ y.k = max (rdiv (e * 2 ^ 16) (2 ^ fld x.tgain 7 4 * iv)) (rdiv (-y.w) 2)
      ∧ (if -tol ≤ e ∧ e ≤ tol then y.good = x.good + 1 ∧ y.bad = 0 else y.good = 0 ∧ y.bad = x.bad + 1)
      ∧ y.st = (if x.st = .acquiring ∧ 4 ≤ y.good then .locked else if x.st = .locked ∧ 2 ≤ y.bad then .acquiring else x.st)

/-- SILENCE expected intervals have passed since a tide's last measurement (R178). -/
def Silent (x : Tide) (now : Nat) : Prop :=
  let n := max (fld x.tfall 31 24) 1
  let gone := now - x.seen
  let edges := max (fld x.tsrc 15 0) 1
  match x.kind with
  | 1 | 2 => if x.w ≤ 0 then n * (9 * x.tlen.toNat) ≤ gone * edges * 5 else n * 2 ^ 56 ≤ gone * edges * x.w.toNat
  | 5 => n * 7200 ≤ gone
  | _ => x.intervals ≠ [] ∧ n * x.intervals.sum ≤ gone * x.intervals.length

end Sys2Proof.Claims

open Sys2Proof.Claims

/-- R175 to R180, R194: measurements, an encoder that reverses, slack water, the fall-backs, and writes to TSRC. The model's choices
here are the phase of a count and a reversal, how a later measurement of the same 16 cycles takes the place of an earlier one, the
rounding, the last digit of an angle, and what a TSRC write keeps (log entries 6, 17, 22, 24, 84, 136). -/
def Obligations.TideResult : Prop :=
  ∀ (s : State) (i : Fin 16) (m : Measured) (p : Nat) (ten : TenantId) (v : Word) (tick : Nat),
    let s1 := s.advance tick
    let x := s.tide i
    let goes := fun (c : Instr) (P : State → Tide → Prop) => Answers c s fun t => OnlyTide s1 t i ∧ P t (t.tide i)
    let Measures := fun (i : Fin 16) (x : Tide) (q at_ : Nat) (y : Tide) =>
      let te := max at_ x.t0
      let c := s1.candidate i te
      ((∀ w b, x.base = some (w, b) → w ≠ te / 128) → c = x)
        ∧ ∃ (n m : Int), m = (q : Int) + n * 2 ^ 40 ∧ -2 ^ 40 ≤ 2 * (m - predicted s1 i te)
            ∧ 2 * (m - predicted s1 i te) ≤ 2 ^ 40 ∧ Tracked s1 i c m te y
    quiet s →
      (x.en = false ∨ x.kind = 0 → Answers (.tideMeasurement i m tick) s fun t => t = s1)
      ∧ (x.en = true → x.kind = 4 → x.discardTo ≤ s1.now →
          goes (.tideMeasurement i (.phase p) tick) fun _ y => Measures i x p s1.now y)
      ∧ (x.en = true → x.kind = 3 → x.discardTo ≤ s1.now →
          let a := s.mod (2 * fld x.tsrc 27 24)
          let b := s.mod (2 * fld x.tsrc 27 24 + 1)
          ∀ sin cos, a.value = some sin → b.value = some cos → a.doneAt = b.doneAt → ¬(x.measured = true ∧ x.stamp = a.stampAt) →
            goes (.tideMeasurement i .pair tick) fun _ y => ∃ q, q < 2 ^ 40 ∧ Measures i x q a.stampAt y
              ∧ (sin = 0 → 0 < cos → q = 0) ∧ (cos = 0 → 0 < sin → q = 2 ^ 38) ∧ (sin = 0 → cos < 0 → q = 2 ^ 39))
      ∧ (x.en = true → x.kind = 2 → x.back = false → goes (.encoderReversal i tick) fun t y =>
          y.back = true ∧ y.st = x.st ∧ y.reversal = x.count ∧ y.count = x.count - 1 ∧ GoesOn s1 i s1.now y ∧ TideRaised s1 t x)
      ∧ (x.en = true → x.kind ≠ 0 → x.st = .acquiring ∨ x.st = .locked → Silent x s1.now → bit (s.frame tidePage).errEvent 2 = false →
          goes (.slackWaterEntry i tick) fun t y => y.st = .slack ∧ y.w = x.w ∧ GoesOn s1 i s1.now y ∧ y.slackAt = s1.tidePhase i
            ∧ TideRaised s1 t x ∧ bit (t.frame tidePage).errStatus 2 = true)
      ∧ (x.st = .slack → (fld x.tfall 23 16 : Int) * 2 ^ 56 ≤ s1.tidePhase i - x.slackAt → goes (.fallbackApply i tick) fun t y =>
          let alt := fld x.tfall 13 10
          let held := y.st = .held ∧ y.w = 0 ∧ WaitsOver s t i
          match fld x.tfall 15 14 with
          | 0 => y = x
          | 1 => (if alt = i.val ∨ (s.tide alt).st = .off then held else y.st = .switched
                ∧ ((s.tide alt).st ≠ .switched → y.w = (s.tide alt).seg.w ∧ y.altLen = (s.tide alt).seg.len))
              ∧ GoesOn s1 i s1.now y ∧ TideRaised s1 t x
          | 2 => held ∧ GoesOn s1 i s1.now y ∧ TideRaised s1 t x
          | _ => y.st = .safe ∧ y.w = 0 ∧ y.safeHold = true ∧ WaitsOver s t i ∧ GoesOn s1 i s1.now y ∧ TideRaised s1 t x)
      ∧ (ten = 0 → fld v 30 28 ≤ 5 →
          fld v 27 24 < (if fld v 30 28 = 1 then 4 else if fld v 30 28 = 2 then 8 else if fld v 30 28 = 5 then 6 else 16) →
          goes (.tsrcWrite ten i v tick) fun t y => y.tsrc = v &&& 0xFFF1FFFF#32 ∧ y.back = false
            ∧ (if bit v 31 = false then y.st = .off ∧ y.w = 0 ∧ GoesOn s1 i s1.now y ∧ (x.st ≠ .off → WaitsOver s t i)
              else if fld v 30 28 = 0 then y.st = .locked ∧ y.t0 = s1.now
                ∧ y.p = (if x.en then predicted s1 i s1.now else (fld x.tofs 23 0 : Int) * 2 ^ 16)
              else y.st = .acquiring ∧ (if x.en then GoesOn s1 i s1.now y ∧ y.ret = true ∧ y.measured = x.measured
                else y.w = 0 ∧ y.measured = false)))
      ∧ (ten ≠ 0 ∨ 5 < fld v 30 28 ∨ (fld v 30 28 = 1 ∧ 4 ≤ fld v 27 24) → Answers (.tsrcWrite ten i v tick) s fun t => t = s1)

namespace Sys2Proof.Claims

/-- A target is late (R184): the prediction has reached it, or it lies less than 100 ns, 720 ticks, ahead at the current rate. -/
def Late (s : State) (i : Nat) (target : Word) : Prop :=
  let q := s.tidePhase i
  let r := s.tideRate i
  0 ≤ (s.tideWord i - target).toInt ∨ ((target - phaseWord q).toInt * 2 ^ 32 - q % 2 ^ 32) * r.2 < 720 * r.1

/-- A tide whose entries fire: its prediction moves, and has begun (R180, R185). -/
def Moves (x : Tide) : Prop := x.st ≠ .off ∧ x.st ≠ .held ∧ x.st ≠ .safe ∧ (x.kind = 0 ∨ x.measured = true)

/-- What a firing does to an entry's target (R185): FIRED, then disarm for REPEAT 0, else REPEAT turns on, STEP while COUNT
lasts, and the end. `y` is the entry after it, where the next target is not late. -/
def Fired (x y : Entry) : Prop :=
  let rep := fld x.ctrl 23 16
  let next := x.target + word rep <<< 24 + (if x.count = 0 then 0 else x.step)
  y.fired = satInc x.fired ∧ y.missed = x.missed
    ∧ (if rep = 0 then y.armed = false ∧ y.target = x.target ∧ y.count = x.count
      else y.target = next ∧ y.count = (if x.count = 0 then 0 else x.count - 1)
        ∧ y.armed = (if x.count = 1 ∧ fld x.ctrl 13 12 = 0 then false else x.armed))
    ∧ { y with fired := x.fired, armed := x.armed, target := x.target, count := x.count, staged := x.staged, atOnce := x.atOnce,
               due := x.due, job := x.job, rets := x.rets, refused := x.refused } = x

/-- The target after a firing is not late, or there is none. -/
def NextOnTime (s : State) (x : Entry) : Prop :=
  fld x.ctrl 23 16 = 0 ∨ (x.count = 1 ∧ fld x.ctrl 13 12 = 0)
    ∨ ¬Late s x.tide (x.target + word (fld x.ctrl 23 16) <<< 24 + (if x.count = 0 then 0 else x.step))

/-- R183, R184, R186, R188, R189: writes to PHASE, CTRL, ARG and BIND of an entry. -/
def EntryWrites : Prop :=
  ∀ (s : State) (ten : TenantId) (e : Fin 4096) (v : Word) (tick : Nat),
    let s1 := s.advance tick
    let x := s.entry e
    let now := s1.tideWord x.tide
    let target := if bit x.ctrl 15 then v else now + ((v - now).extractLsb' 0 24).setWidth 32
    let act := fld x.ctrl 27 24
    let sets := fun (c : Instr) (y : Entry) => Answers c s fun t => t = s1.setEntry e y
    quiet s →
      (x.holdsWrites = true → sets (.entryPhaseWrite ten e v tick) { x with later := x.later ++ [(1, v)] })
      ∧ (x.holdsWrites = false → act = 0 → sets (.entryPhaseWrite ten e v tick) { x with phase := v })
      ∧ (x.holdsWrites = false → act ≠ 0 → ¬Late s1 x.tide target →
          sets (.entryPhaseWrite ten e v tick) { x with phase := v, armed := true, target := target, staged := none, atOnce := false })
      ∧ (x.holdsWrites = false → act ≠ 0 → Late s1 x.tide target → bit x.ctrl 14 = true → fld x.ctrl 23 16 = 0 →
          sets (.entryPhaseWrite ten e v tick) { x with
            phase := v, armed := false, target := target, late := true, missed := addMissed x.missed 1, staged := none, atOnce := false })
      ∧ (x.holdsWrites = false → act ≠ 0 → Late s1 x.tide target → bit x.ctrl 14 = true → fld x.ctrl 23 16 ≠ 0 →
          Answers (.entryPhaseWrite ten e v tick) s fun t => ∃ n, n ≤ 256
            ∧ t = s1.setEntry e { x with
                phase := v, armed := true, target := target + word (n * fld x.ctrl 23 16) <<< 24, late := true
                missed := addMissed x.missed n, staged := none, atOnce := false }
            ∧ (n < 256 → ¬Late s1 x.tide (target + word (n * fld x.ctrl 23 16) <<< 24))
            ∧ ∀ k, k < n → Late s1 x.tide (target + word (k * fld x.ctrl 23 16) <<< 24))
      ∧ (act ≠ 0 → Late s1 x.tide target → bit x.ctrl 14 = false → Moves (s.tide x.tide) → x.job = none → act = 1 ∨ act = 2 →
          Answers (.entryPhaseWrite ten e v tick) s fun t => ∃ j, (t.entry e).job = some j ∧ s1.now ≤ j.tick ∧ j.tick ≤ s1.now + 864
            ∧ j.target = target ∧ j.owner = x.owner ∧ j.out.val = fld x.arg 5 0 ∧ (t.entry e).armed = true ∧ (t.entry e).late = true)
      ∧ (act ≠ 0 → Late s1 x.tide target → bit x.ctrl 14 = false → Moves (s.tide x.tide) → x.job = none → x.due = none →
          ¬(act = 1 ∨ act = 2) → NextOnTime s1 { x with target := target } →
          Answers (.entryPhaseWrite ten e v tick) s fun t => (t.entry e).due = some (target, s1.tideWord (fld x.bind 7 4))
            ∧ Fired { x with phase := v, armed := true, target := target, late := true } (t.entry e))
      ∧ (x.holdsWrites = false → fld v 27 24 ≤ 9 → fld v 13 12 ≤ 1 → s.actionBad (fld v 27 24) x.arg = false →
          (x.armed = true → s.actionOwned x.owner (fld v 27 24) x.arg = true) →
          sets (.entryCtrlWrite ten e v tick) (
            let y := { x with ctrl := v &&& 0x0FFFF000#32 }
            if fld v 27 24 = 0 then { y with armed := false, staged := none, atOnce := false }
            else if fld v 27 24 ≤ 2 then y else { y with staged := none }))
      ∧ (9 < fld v 27 24 ∨ 1 < fld v 13 12 ∨ (fld v 27 24 = 1 ∧ fld x.arg 9 8 = 3)
          ∨ ((fld v 27 24 = 1 ∨ fld v 27 24 = 2) ∧ fld x.arg 5 0 % 2 = 1 ∧ bit (s.output (fld x.arg 5 0 - 1)).ocfg 30 = true) →
          Answers (.entryCtrlWrite ten e v tick) s fun t => t = s1)
      ∧ (x.holdsWrites = false → s.actionBad act v = false → (x.armed = true → s.actionOwned x.owner act v = true) →
          sets (.entryArgWrite ten e v tick) { x with arg := v })
      ∧ (x.armed = true → s.actionOwned x.owner act v = false → Answers (.entryArgWrite ten e v tick) s fun t => t = s1)
      ∧ (ten = 0 → (fld v 27 16 ≠ fld x.bind 27 16 ∨ fld v 3 0 ≠ fld x.bind 3 0) → Answers (.entryBindWrite ten e v) s fun t =>
          t = { (s.setEntry e { Entry.reset with
            bind := v &&& 0x0FFF00FF#32, rets := x.rets.filter RetEdge.committed, job := x.job.map fun j => { j with live := false } }) with
            entryGens := t.entryGens }
          ∧ genOf t.entryGens e = (if genOf s.entryGens e = 0xFFFFF#20 then 0xFFFFF#20 else genOf s.entryGens e + 1)
          ∧ ∀ n, n ≠ e.val → genOf t.entryGens n = genOf s.entryGens n)
      ∧ (ten = 0 → fld v 27 16 = fld x.bind 27 16 → fld v 3 0 = fld x.bind 3 0 → Answers (.entryBindWrite ten e v) s fun t =>
          t = s.setEntry e { x with bind := v &&& 0x0FFF00FF#32 })
      ∧ (ten ≠ 0 → Answers (.entryBindWrite ten e v) s fun t => t = s)

/-- R185 to R188, R191: the firing of an entry, the dispatch of at most four firings in a cycle, staging, the commit point, and
the placing of a committed edge. -/
def EntryFiring : Prop :=
  ∀ (s : State) (e : Fin 4096) (j : EdgeJob) (target snap : Word) (tick : Nat),
    let s1 := s.advance tick
    let x := s.entry e
    let act := fld x.ctrl 27 24
    let o := s.output j.out
    let others := fun (t : State) => { t with entries := s.entries } = s1 ∧ ∀ n, n ≠ e.val → t.entry n = s.entry n
    let placed := fun (c : Instr) => Answers c s fun t =>
      { t with entries := s.entries, outputs := s.outputs } = s1 ∧ (∀ n, n ≠ e.val → t.entry n = s.entry n)
        ∧ (∀ n, n ≠ j.out.val → t.output n = s.output n) ∧ (t.entry e).job = none ∧ Fired x (t.entry e)
        ∧ (if o.owner = j.owner then
            let y := t.output j.out
            (t.entry e).refused = x.refused ∧ y.lastEdge = j.target
              ∧ (t.entry e).rets = (match j.pulse with
                | some w => [{ tide := j.tide, target := j.target + word w, out := j.out, level := !(decide (j.lv = 1)), tick := none, committed := false }]
                | none => [])
              ∧ (match o.edgeAt with
                | some (fixed, last) =>
                  if fixed = j.tick then
                    y.oerr = satInc o.oerr ∧ y.edgeAt = o.edgeAt
                      ∧ (e.val < o.edgeEntry → y.level = o.level ∧ y.edgeEntry = o.edgeEntry)
                      ∧ (o.edgeEntry ≤ e.val → j.lv = 0 ∨ j.lv = 1 → y.level = decide (j.lv = 1) ∧ y.edgeEntry = e.val)
                  else (j.lv = 0 ∨ j.lv = 1 → y.level = decide (j.lv = 1)) ∧ (j.lv = 2 → y.level = !o.level)
                    ∧ (if j.tick < last + 8 then y.edgeAt = some (j.tick, last + 8) ∧ y.oerr = satInc o.oerr
                      else y.edgeAt = some (j.tick, j.tick) ∧ y.oerr = o.oerr)
                | none => y.edgeAt = some (j.tick, j.tick) ∧ y.oerr = o.oerr ∧ (j.lv = 0 ∨ j.lv = 1 → y.level = decide (j.lv = 1)))
          else t.output j.out = o ∧ (t.entry e).refused = true ∧ (t.entry e).rets = [])
    (quiet s → x.job = none → x.due = none → x.armed = true → Moves (s.tide x.tide) → act ≠ 1 → act ≠ 2 →
        0 ≤ (s1.tideWord x.tide - x.target).toInt → NextOnTime s1 x → Answers (.entryFire e tick) s fun t =>
          others t ∧ (t.entry e).due = some (x.target, s1.tideWord (fld x.bind 7 4)) ∧ Fired x (t.entry e))
    ∧ (quiet s → x.job = none → (x.armed = false ∨ ¬Moves (s.tide x.tide)) → Answers (.entryFire e tick) s fun t => t = s1)
    ∧ (x.job = some j → j.live = true → j.tick ≤ s1.now → x.rets = [] → x.later = [] → j.lv ≤ 2 → (j.pulse.isSome = true → j.lv ≤ 1) →
        NextOnTime s1 x → (placed (.edgePlace e tick)) ∧ (quiet s → placed (.entryFire e tick)))
    ∧ (quiet s → x.armed = true → (act = 1 ∨ act = 2) → x.job = none → x.rets = [] → Moves (s.tide x.tide) →
        Answers (.entryStage e tick) s fun t => t = s1.setEntry e { x with
          staged := (s1.reachTick x.tide x.target).filter fun n => decide (n ≤ s1.now + 14400) })
    ∧ (∀ n, x.armed = true → (act = 1 ∨ act = 2) → x.job = none → x.rets = [] → Moves (s.tide x.tide) →
        s1.reachTick x.tide x.target = some n → n ≤ s1.now + 720 → Answers (.commitPoint e tick) s fun t => others t
          ∧ ∃ k, (t.entry e).job = some k ∧ k.tick = n ∧ k.target = x.target ∧ k.out.val = fld x.arg 5 0 ∧ k.owner = x.owner
            ∧ k.live = true ∧ k.pulse = (if act = 2 then some (fld x.arg 31 12) else none))
    ∧ (Answers (.entryDispatch tick) s fun t => ∀ n, (t.entry n).due =
        (if ((s.dueList.take 4).map fun d => d.1).contains n then none else (s.entry n).due))
    ∧ (s.dueList = [(e.val, target)] → x.due = some (target, snap) →
        let s2 := s1.setEntry e { x with due := none }
        Answers (.entryDispatch tick) s fun t =>
          (s.actionOwned x.owner act x.arg = false → t = s2.setEntry e { x with due := none, refused := true })
          ∧ (act = 6 → s.actionOwned x.owner act x.arg = true → t = s2.raiseN (fld x.arg 10 0))
          ∧ (act = 8 → s.actionOwned x.owner act x.arg = true → t = s2.setWave (fld x.arg 3 0) (s.wave (fld x.arg 3 0)).trigger)
          ∧ (act = 9 → t = s2.setEntry e { x with due := none, snap := snap }))

/-- R190, R191, R349: writes to OCFG, OWN and FORCE of an output; PAIRED exists on even outputs only, and OWN is Headland's. -/
def OutputWrites : Prop :=
  ∀ (s : State) (ten : TenantId) (n : Fin 64) (v : Word),
    let o := s.output n
    (ten = 0 ∨ ten = BitVec.ofNat 12 (fld o.own 27 16) →
      (Answers (.ocfgWrite ten n v) s fun t =>
        t = s.setOutput n { o with ocfg := v &&& (if n.val % 2 = 0 then 0xCFFF0000#32 else 0x8FFF0000#32) })
      ∧ Answers (.forceWrite ten n v) s fun t => ∃ y, t = s.setOutput n y ∧ y.force = v.setWidth 2
        ∧ { y with force := o.force, turnOn := o.turnOn } = o)
    ∧ (ten ≠ 0 → ten ≠ BitVec.ofNat 12 (fld o.own 27 16) →
      (Answers (.ocfgWrite ten n v) s fun t => t = s) ∧ Answers (.forceWrite ten n v) s fun t => t = s)
    ∧ (ten = 0 → Answers (.ownWrite ten n v) s fun t => t = s.setOutput n { o with own := v &&& 0x0FFF01F3#32, kept := false })
    ∧ (ten ≠ 0 → Answers (.ownWrite ten n v) s fun t => t = s)

end Sys2Proof.Claims

/-- R183 to R192: tide entries, from the write that arms them to the edge that they place, and tidal outputs. The model's choices here
are that LATE stays set, what a firing that waits for dispatch acts with, and that a write to an entry with a committed edge waits
(log entries 72, 73, 74). -/
def Obligations.EntryResult : Prop := Claims.EntryWrites ∧ Claims.EntryFiring ∧ Claims.OutputWrites

/-! ## Modulator inputs and wave engines -/

namespace Sys2Proof.Claims

/-- No window is at its end: each has an input that is enabled, has its clock and has not deposited its samples (R195). -/
def NoWindowEnds (s : State) : Prop :=
  ∀ w, w ∈ s.windows → w.n = 0 ∨ ∃ i, i ∈ w.inputs ∧ (s.mod i).en = true ∧ (s.mod i).clkLost = false ∧ (s.mod i).deposited < w.n

/-- R193 to R195: bits of a stream, the loss and the return of a modulator's clock, and writes to MCFG. A sample is completed by the bit
that fills DECIM; its value is said of all ones and all zeros. -/
def ModulatorResult : Prop :=
  ∀ (s : State) (m : Fin 32) (bits : List Bool) (v : Word) (n got : Nat) (ten : TenantId) (tick : Nat),
    let s1 := s.advance tick
    let x := s.mod m
    let d := fld x.mcfg 15 7
    let feed := bits.take (max (d - x.taken) 1)
    let fed := { x with hist := (feed.reverse ++ x.hist).take (3 * d), taken := x.taken + feed.length }
    let z := fed.complete s1.now
    let w0 := z.word0 m
    let ch := fld x.mbind 8 0
    let c := s.channel ch
    let tide := fld x.mcfg 3 0
    let half := max (fld x.mcfg 23 16) 44 + 1
    let live := x.en = true ∧ x.clkLost = false
    let ready := live ∧ d ≤ x.taken + feed.length ∧ x.settling = 0
    let sample := fun (P : State → Prop) => Answers (.modulatorSample m bits tick) s P
    (x.en = false ∨ x.clkLost = true → sample fun t => t = s1)
    ∧ (live → x.taken + feed.length < d → sample fun t => t = s1.setMod m fed)
    ∧ (live → d ≤ x.taken + feed.length → x.settling ≠ 0 → sample fun t =>
        t = s1.setMod m { z with settling := x.settling - 1, value := none })
    ∧ (ready → (x.window = none ∨ (x.window = some (n, got) ∧ n ≠ 0 ∧ n ≤ got)) → sample fun t => t = s1.setMod m z
        ∧ z.taken = 0 ∧ (16 ≤ d → d ≤ 256 → fed.hist.length = 3 * d →
          ((∀ b, b ∈ fed.hist → b = true) → z.value = some (2 ^ 30))
          ∧ ((∀ b, b ∈ fed.hist → b = false) → z.value = some (-2 ^ 30))))
    ∧ (ready → x.window = some (n, got) → (n = 0 ∨ got < n) → 3 ≤ c.ty → c.ty ≤ 6 → c.takes = true → c.stream = none →
        s.canHold ch 2 = true → sample fun t => ∃ st : Word,
          t = (s1.setMod m { z with last := w0, window := some (n, got + 1) }).setChannel ch { c with
            queue := c.queue ++ [{ words := [w0, st], poisoned := 0, ends := false, sample := some (m, x.epoch), cycle := none }]
            exh := false }
          ∧ ((s.tide tide).st = .off → st = 0x80000000#32)
          ∧ ((s.tide tide).st ≠ .off → bit x.mcfg 30 = false → st = phaseWord (s1.phaseAt tide (s1.now - 12 * (d - 1) * half))))
    ∧ (let y := { z with last := w0, window := some (n, got + 1), mdrop := satInc x.mdrop, deposited := x.deposited + 1 }
       ready → x.window = some (n, got) → (n = 0 ∨ got < n) → (c.ty < 3 ∨ 6 < c.ty) → NoWindowEnds (s1.setMod m y) →
        sample fun t => t = s1.setMod m y)
    ∧ (x.en = true → bit x.mcfg 30 = true → NoWindowEnds (s.setMod m { x with clkLost := true }) →
        Answers (.modClockLost m) s fun t => t = s.setMod m { x with clkLost := true })
    ∧ (x.clkLost = true → Answers (.modClockReturn m) s fun t =>
        t = s.setMod m { x with clkLost := false, settling := 3, taken := 0, value := none })
    ∧ (let y := { x with mcfg := v &&& 0xC0FFFF8F#32 }
       let y := if bit v 31 && !x.en then { y with settling := 3, taken := 0, value := none, doneAt := none } else y
       (ten = 0 ∨ ten = BitVec.ofNat 12 (fld x.mbind 27 16)) → 16 ≤ fld v 15 7 → fld v 15 7 ≤ 256 → NoWindowEnds (s.setMod m y) →
        Answers (.mcfgWrite ten m v) s fun t => t = s.setMod m y)
    ∧ (fld v 15 7 < 16 ∨ 256 < fld v 15 7 ∨ (ten ≠ 0 ∧ ten ≠ BitVec.ofNat 12 (fld x.mbind 27 16)) →
        Answers (.mcfgWrite ten m v) s fun t => t = s)

/-- The level of an engine's pin: what it drives, or what the board does. -/
def pinLevel (w : Wave) (p : Nat) : Bool := if w.dirs.getLsbD p then w.outs.getLsbD p else w.pins.getLsbD p

/-- An engine becomes another, and each of its balls whose level it thereby changes is an arrival at its source, or meets its wake
latch where the clocks are stopped (R225, R307). -/
def Drives (s t : State) (e : Fin 16) (y : Wave) : Prop :=
  let w := s.wave e
  let moved := fun (p : Nat) => (w.dirs.getLsbD p || y.dirs.getLsbD p) && (pinLevel w p != pinLevel y p)
  { t with waves := s.waves, sources := s.sources, evc := s.evc } = s ∧ t.wave e = y ∧ (∀ j, j ≠ e.val → t.wave j = s.wave j)
    ∧ (∀ n, (s.phase = .standby ∨ n < 128 + 4 * e.val ∨ 132 + 4 * e.val ≤ n) → t.source n = s.source n)
    ∧ (∀ p, p < 4 → s.phase ≠ .standby →
        let a := s.source (128 + 4 * e.val + p)
        let b := t.source (128 + 4 * e.val + p)
        if moved p = true then { b with fresh := a.fresh, selAt := a.selAt, waited := a.waited, urgent := a.urgent } = arrived s a else b = a)
    ∧ ∀ k, k < 64 → t.evc.wakeLatch.getLsbD k = (s.evc.wakeLatch.getLsbD k
        || (decide (s.phase = .standby) && s.evc.wakeEn.getLsbD k && decide (k / 4 = e.val) && moved (k % 4)))

/-- The bits of an SHX that have been shifted: out at the first clock edge of a bit, in at the second. -/
def shiftedBits (x : Shx) : Nat := x.bits + (if x.ins.getLsbD 7 then x.back else decide (0 < x.clk)).toNat

/-- R196, R198, R199: HALT, RESUME, RESET and TRIGGER, a write to the program, and a read of RX. -/
def WaveCommands : Prop :=
  ∀ (s : State) (ten : TenantId) (e : Fin 16) (adr : Fin 64) (v : Word),
    let w := s.wave e
    let entry : BitVec 6 := BitVec.ofNat 6 (fld w.wcfg 23 18)
    let sets := fun (c : Instr) (y : Wave) => Answers c s fun t => t = s.setWave e y
    let drives := fun (c : Instr) (y : Wave) => Answers c s fun t => Drives s t e y
    (Answers (.waveRxRead ten e) s fun t => t = s.setWave e { w with rx := w.rx.drop 1 })
    ∧ (ten = 0 ∨ ten = BitVec.ofNat 12 (fld w.wbind 27 16) →
      sets (.halt ten e) (if w.st = .running then { w with
          st := .halted, progWritten := false, bumped := false
          part := match w.shx with
            | some x => BitVec.ofNat 7 (shiftedBits x)
            | none => 0 } else w)
      ∧ (w.st ≠ .halted → sets (.wcmdResume ten e) w)
      ∧ (w.st = .halted → w.progWritten = false → sets (.wcmdResume ten e) { w with st := .running })
      ∧ (w.st = .halted → w.progWritten = true → w.shx = none →
          sets (.wcmdResume ten e) { w with st := .running, pc := entry, disc := false, part := 0, waiting := false })
      ∧ (∀ x, w.st = .halted → w.progWritten = true → w.shx = some x → ∃ outs,
          drives (.wcmdResume ten e) { w with
            st := .running, pc := entry, sr := x.sr, shx := none, disc := true, part := BitVec.ofNat 7 (shiftedBits x)
            waiting := false, outs := outs }
          ∧ ∀ i, i < 4 → outs.getLsbD i = (if i = x.ins.toNat / 1024 % 4 then bit w.wcfg i else w.outs.getLsbD i))
      ∧ drives (.wcmdReset ten e) { w with
          st := .idle, pc := entry, sr := 0, rx := [], dirs := BitVec.ofNat 4 (fld w.wcfg 7 4), outs := BitVec.ofNat 4 (fld w.wcfg 3 0)
          tmo := false, ovr := false, rxovr := false, wref := false, shx := none, waiting := false
          bumped := if w.st = .running then false else w.bumped }
      ∧ sets (.trigger ten e) (if w.st = .idle then { w with st := .running, pc := entry, bumped := false } else { w with ovr := true })
      ∧ sets (.waveProgWrite ten e adr v) (if w.st = .running then { w with wref := true } else { w with
          prog := w.prog.set adr.val (v.setWidth 16), progWritten := true, bumped := true, pgen := if w.bumped then w.pgen else w.pgen + 1 }))
    ∧ (ten ≠ 0 → ten ≠ BitVec.ofNat 12 (fld w.wbind 27 16) →
      ∀ c, c ∈ [Instr.halt ten e, .wcmdResume ten e, .wcmdReset ten e, .trigger ten e, .waveProgWrite ten e adr v] →
        Answers c s fun t => t = s)

/-- R197: an SHX that begins at a RUNNING engine. So many engine clocks either shift all its bits, or leave it at a clock of a bit, which
a HALT may catch (R198). `bits` are the levels of the data pin at the second clock edges. -/
def ShiftProgram : Prop :=
  ∀ (s : State) (e : Fin 16) (clocks : Nat) (bits : List Bool),
    let w := s.wave e
    let ins := w.prog[w.pc.toNat]'w.pc.isLt
    let f := fun (hi lo : Nat) => ins.toNat / 2 ^ lo % 2 ^ (hi + 1 - lo)
    let total := f 5 0 + 1
    let data := f 9 8
    let clk := f 11 10
    let h := max (fld w.wcfg 15 8) 1
    let b := clocks / (2 * h)
    let r := clocks % (2 * h)
    let out := b + (decide (0 < r)).toNat
    let seen := b + (decide (h < r)).toNat
    let only := fun (t : State) => { t with waves := s.waves, sources := s.sources, evc := s.evc } = s
      ∧ (∀ j, j ≠ e.val → t.wave j = s.wave j)
      ∧ ∀ n, (n < 128 + 4 * e.val ∨ 132 + 4 * e.val ≤ n) → t.source n = s.source n
    let shiftedIn := fun (sr : BitVec 64) (k : Nat) =>
      ∀ i, i < 64 → sr.getLsbD i = if i < k then bits.getD (k - 1 - i) false else w.sr.getLsbD (i - k)
    w.st = .running → f 15 12 = 4 → w.shx = none →
      (2 * h * total ≤ clocks → bits.length = total → Answers (.shx e { clocks := clocks, bits := bits }) s fun t => only t ∧ ∃ sr outs,
          t.wave e = { w with pc := w.pc + 1, sr := sr, outs := outs } ∧ outs.getLsbD clk = bit w.wcfg clk
            ∧ (∀ i, i ≠ clk → i ≠ data → outs.getLsbD i = w.outs.getLsbD i)
            ∧ (f 7 7 = 0 → sr = w.sr <<< total ∧ (data ≠ clk → outs.getLsbD data = w.sr.getLsbD (64 - total)))
            ∧ (f 7 7 = 1 → shiftedIn sr total ∧ (data ≠ clk → outs.getLsbD data = w.outs.getLsbD data)))
      ∧ (clocks < 2 * h * total → bits.length = seen → Answers (.shx e { clocks := clocks, bits := bits }) s fun t => only t ∧ ∃ sr outs,
          t.wave e = { w with sr := sr, outs := outs, shx := some { ins := ins, sr := w.sr, bits := b, clk := r, back := decide (h < r) } }
            ∧ (∀ i, i ≠ clk → i ≠ data → outs.getLsbD i = w.outs.getLsbD i)
            ∧ outs.getLsbD clk = (if clocks = 0 then w.outs.getLsbD clk else if 0 < r ∧ r ≤ h then !bit w.wcfg clk else bit w.wcfg clk)
            ∧ (f 7 7 = 0 → sr = w.sr <<< out ∧ (data ≠ clk → 0 < out → outs.getLsbD data = w.sr.getLsbD (64 - out)))
            ∧ (f 7 7 = 1 → shiftedIn sr seen ∧ (data ≠ clk → outs.getLsbD data = w.outs.getLsbD data)))

/-- R176, R197: each instruction of a RUNNING engine but SHX; the opcode is in bits 15:12 of the word at PC. -/
def WaveProgram : Prop :=
  ∀ (s : State) (e : Fin 16) (pins : BitVec 4) (tick : Nat),
    let s1 := s.advance tick
    let w := s.wave e
    let ins := w.prog[w.pc.toNat]'w.pc.isLt
    let f := fun (hi lo : Nat) => ins.toNat / 2 ^ lo % 2 ^ (hi + 1 - lo)
    let next := { w with pc := w.pc + 1 }
    let level := fun (p : Nat) => if w.dirs.getLsbD p then w.outs.getLsbD p else pins.getLsbD p
    let goes := fun (op : Nat) (c : Instr) (y : Wave) => f 15 12 = op → Answers c s fun t => t = s.setWave e y
    let drives := fun (op : Nat) (c : Instr) (y : Wave) => f 15 12 = op → Answers c s fun t => Drives s t e y
    let sel := BitVec.ofNat 4 (f 7 4)
    let val := BitVec.ofNat 4 (f 3 0)
    let target : BitVec 6 := BitVec.ofNat 6 (f 5 0)
    let source := fld w.wbind 10 0
    let user := fun (j : Nat) => (s.tide j).en = true ∧ (s.tide j).kind = 4 ∧ fld (s.tide j).tsrc 27 24 = e.val
    w.st = .running →
      goes 0 (.weHalt e) { w with st := .idle, pc := BitVec.ofNat 6 (fld w.wcfg 23 18), bumped := false }
      ∧ drives 1 (.weSet e) { next with outs := (w.outs &&& ~~~(sel &&& w.dirs)) ||| (val &&& (sel &&& w.dirs)) }
      ∧ drives 2 (.weDir e) { next with dirs := (w.dirs &&& ~~~sel) ||| (val &&& sel) }
      ∧ (let p := f 9 8
         let now := level p
         let before := if w.waiting then pinLevel w p else now
         let held := match f 11 10 with
           | 0 => now = false
           | 1 => now = true
           | 2 => before = false ∧ now = true
           | _ => before = true ∧ now = false
         (held → goes 3 (.waitp e pins) { next with pins := pins, waiting := false })
         ∧ (¬held → goes 3 (.waitp e pins) { w with pins := pins, waiting := true }))
      ∧ (f 15 12 = 3 → w.waiting = true → f 7 0 ≠ 0 → Answers (.waitpTimeout e tick) s fun t =>
          t = (s1.setWave e { w with tmo := true, st := .fault, waiting := false, bumped := false }).raiseN source)
      ∧ goes 5 (.dly e) next
      ∧ goes 6 (.ldc e) { next with cnt := BitVec.ofNat 7 (f 6 0) }
      ∧ goes 7 (.djnz e) { w with cnt := w.cnt - 1, pc := if w.cnt = 1 then w.pc + 1 else target }
      ∧ goes 8 (.jmp e) { w with pc := target }
      ∧ goes 9 (.jpin e pins) { w with pins := pins, pc := if level (f 9 8) = ins.getLsbD 7 then target else w.pc + 1 }
      ∧ (f 15 12 = 10 → Answers (.stamp e tick) s fun t => t = s1.setWave e { next with stampTick := s1.now })
      ∧ (f 15 12 = 11 → quiet s → (∀ j, j < 16 → ¬user j) → Answers (.tide e) s fun t =>
          { t with free := s.free } = s.setWave e next ∧ (f 4 0 ≤ 23 → t.free = s.free))
      ∧ (∀ i : Fin 16, let x := s.tide i
          let n := f 4 0 + 1
          let te := max w.stampTick x.t0
          let c := s.candidate i te
          f 15 12 = 11 → n ≤ 24 → quiet s → user i → x.discardTo ≤ s.now → (∀ j, j < 16 → j ≠ i.val → ¬user j) →
          Answers (.tide e) s fun t => OnlyTide s { t with waves := s.waves } i ∧ t.wave e = next
            ∧ (∀ j, j ≠ e.val → t.wave j = s.wave j) ∧ ((∀ k b, x.base = some (k, b) → k ≠ te / 128) → c = x)
            ∧ ∃ (b : Nat) (k m : Int),
              m = b * 2 ^ (24 - n) * 2 ^ 16 + k * 2 ^ 40 ∧ -2 ^ 40 ≤ 2 * (m - predicted s i te) ∧ 2 * (m - predicted s i te) ≤ 2 ^ 40
              ∧ Tracked s i c m te (t.tide i) ∧ b < 2 ^ n
              ∧ ∀ q, q < n → b.testBit q = (if f 10 10 = 1 then
                  decide (((List.range n).filter fun j => decide (q ≤ j) && w.sr.getLsbD j).length % 2 = 1) else w.sr.getLsbD q))
      ∧ (let word := if f 0 0 = 1 then w.sr.extractLsb' 32 32 else w.sr.extractLsb' 0 32
         goes 12 (.push e) (if w.rx.length < 4 then { next with rx := w.rx ++ [word] } else { next with rxovr := true }))
      ∧ goes 13 (.pull e) { next with sr := w.txHi ++ w.txLo }
      ∧ (f 15 12 = 14 → Answers (.evt e tick) s fun t => t = (s1.setWave e next).raiseN source)
      ∧ goes 15 (.clr e) { next with sr := 0 }

end Sys2Proof.Claims

/-- R193 to R199: modulator inputs, and the commands and the instructions of wave engines. The model's choices here are a HALT inside a
bit, the width of a TIDE that R197 does not define, how a later measurement of the same 16 cycles takes the place of an earlier one, and
that a change of a ball for less than 20 ns counts (log entries 76, 26, 24, 148). -/
def Obligations.SampleAndWaveResult : Prop :=
  Claims.ModulatorResult ∧ Claims.WaveCommands ∧ Claims.ShiftProgram ∧ Claims.WaveProgram

/-! ## The Churn and the Undertow lane -/

namespace Sys2Proof.Claims

/-- The channel's fields are the writer's to write (R251). -/
def OwnsChannel (c : Channel) (ten : TenantId) : Prop := ten = 0 ∨ ten = BitVec.ofNat 12 (fld c.cbind 27 16)

/-- An accepted CH_CMD: its status is DONE (R250). -/
def chDone (s : State) : State := { s with churn := { s.churn with cmdStatus := 0 } }

/-- R244 to R246: at a port's buffers the lowest class goes first, and in it the oldest; class 0 always crosses, and the others where they
took fewer than 2 of the link's last 16 cycles; otherwise they cross only where no data flit waits. Of each class a port holds no more
than its 2 buffers, which waiting packets take as they become free. -/
def UndertowResult : Prop :=
  ∀ (s : State) (port : Fin 131) (a b : List UPacket) (p : UPacket),
    let u := s.undertow
    let only := fun (t : State) => { t with undertow := u, free := s.free } = s ∧ t.undertow.seq = u.seq
    let hist := u.recent.get (fun _ => []) port
    let taken := (hist.filter fun x => x).length
    let noted := fun (t : State) (cycle : Bool) => t.undertow.recent.get (fun _ => []) port = (cycle :: hist).take 16
    let at_ := fun (l : List UPacket) (q : UPacket) => (l.filter fun x => decide (x.port = q.port ∧ x.cls = q.cls)).length
    let stays := fun (t : State) => t.undertow.held = u.held ∧ t.undertow.waiting = u.waiting ∧ t.undertow.crossed = u.crossed ∧ noted t false
    let crosses := fun (t : State) => t.undertow.crossed = (p :: u.crossed).take 16 ∧ noted t (decide (p.cls ≠ 0))
      ∧ ∃ l, t.undertow.held = a ++ b ++ l ∧ (l ++ t.undertow.waiting).Perm u.waiting ∧ l.Sublist u.waiting
        ∧ (∀ q, q ∈ t.undertow.waiting → 2 ≤ at_ t.undertow.held q) ∧ ∀ q, q ∈ l → at_ t.undertow.held q ≤ 2
    quiet s →
      ((∀ q, q ∈ u.held → q.port ≠ port) → Answers (.undertowPacket port) s fun t => only t ∧ stays t)
      ∧ (u.held = a ++ p :: b → p.port = port → (∀ q, q ∈ a → q.port = port → p.cls < q.cls) →
          (∀ q, q ∈ b → q.port = port → p.cls ≤ q.cls) → Answers (.undertowPacket port) s fun t => only t
            ∧ (p.cls = 0 ∨ taken < 2 → crosses t) ∧ (crosses t ∨ stays t))

/-- R249 to R251, R253, R256 to R258: the commands of CH_CMD, the cell pool and the caps, and the fields of a channel. -/
def ChannelWrites : Prop :=
  ∀ (s : State) (who : Agent) (ch : Fin 512) (v : Word) (ten : TenantId) (code : BitVec 4) (second : Bool) (k : Fin 4),
    let c := s.channel ch
    let sets := fun (i : Instr) (y : Channel) => Answers i s fun t => t = s.setChannel ch y
    let same := fun (i : Instr) => Answers i s fun t => t = s
    let enOff := c.cctrl &&& 0x7FFFFFFF#32
    let kept := v &&& 0xCF000001#32
    let halted := fun (y : Channel) => (s.writeBack ch c.done 0x40000000#32).setChannel ch { y with st := .stopped, desc := none }
    let cmd := fun (i : Instr) (y : State) => Answers i s fun t => { t with undertow := s.undertow } = chDone y
      ∧ t.undertow.seq = s.undertow.seq + (decide (who.ten = 0)).toNat
    let flushed := fun (y : Channel) => { y with
      queue := [], out := [], stream := none, taken := [], done := if y.ty = 2 then 0 else y.done, moved := false, exh := false }
    (Owns s who churnPage →
      (c.st = .stale → cmd (.chStop who ch) (s.setChannel ch { c with st := .stopped }))
      ∧ (c.st ≠ .stale → c.desc = none → cmd (.chStop who ch) (s.setChannel ch { c with st := .stopped, cctrl := enOff }))
      ∧ (c.st ≠ .stale → c.desc ≠ none → cmd (.chStop who ch) (halted { c with cctrl := enOff }))
      ∧ (c.st = .stale → cmd (.flush who ch) (s.setChannel ch { Channel.reset with cbind := c.cbind }))
      ∧ (c.st ≠ .stale → c.desc = none → cmd (.flush who ch) (s.setChannel ch (flushed { c with st := .stopped, cctrl := enOff })))
      ∧ (c.st ≠ .stale → c.desc ≠ none → cmd (.flush who ch) (halted (flushed { c with cctrl := enOff })))
      ∧ (code ≠ 1 → code ≠ 2 → Answers (.chCmdUnknown who code ch) s fun t =>
          { t with undertow := s.undertow } = { s with churn := { s.churn with cmdStatus := 2 } }
            ∧ t.undertow.seq = s.undertow.seq + (decide (who.ten = 0)).toNat)
      ∧ (fld v 13 0 ≤ 12288 → s.sharedUsed ≤ 12288 - fld v 13 0 → Answers (.chPoolWrite who v) s fun t =>
          t = { s with churn := { s.churn with plain := BitVec.ofNat 14 (fld v 13 0) } })
      ∧ (12288 < fld v 13 0 → same (.chPoolWrite who v))
      ∧ (Answers (.tcapWrite who v) s fun t => { t with churn := { t.churn with tcap := s.churn.tcap } } = s
          ∧ t.tcapOf s.churn.tcapSel = fld v 13 0 ∧ ∀ j, j ≠ s.churn.tcapSel → t.tcapOf j = s.tcapOf j))
    ∧ (ten ≠ 0 ∨ 6 < fld v 31 28 → same (.cbindWrite ten ch v))
    ∧ (ten = 0 → cbindBad v = false → fld v 31 16 = fld c.cbind 31 16 →
        sets (.cbindWrite ten ch v) { c with cbind := v &&& 0xFFFF0FFF#32 })
    ∧ (quiet s → ten = 0 → cbindBad v = false → fld v 31 16 ≠ fld c.cbind 31 16 → Answers (.cbindWrite ten ch v) s fun t =>
        t = { (s.setChannel ch { Channel.reset with cbind := v &&& 0xFFFF0FFF#32 }) with chGens := t.chGens }
          ∧ genOf t.chGens ch = (if genOf s.chGens ch = 0xFFFFF#20 then 0xFFFFF#20 else genOf s.chGens ch + 1)
          ∧ ∀ j, j ≠ ch.val → genOf t.chGens j = genOf s.chGens j)
    ∧ (OwnsChannel c ten →
      (13 ≤ fld v 27 24 → same (.cctrlWrite ten ch v))
      ∧ (fld v 27 24 < 13 → bit v 31 = true → sets (.cctrlWrite ten ch v) { c with
          cctrl := kept, miss := false, code := if c.st = .fault then 0 else c.code
          st := if bit v 30 && !c.begun && decide (c.st ≠ .stale) then .waitStart else .run })
      ∧ (fld v 27 24 < 13 → bit v 31 = false → c.st = .stale ∨ c.st = .stopped →
          sets (.cctrlWrite ten ch v) { c with cctrl := kept, miss := false })
      ∧ (fld v 27 24 < 13 → bit v 31 = false → c.st ≠ .stale → c.st ≠ .stopped → c.desc = none →
          sets (.cctrlWrite ten ch v) { c with cctrl := kept, miss := false, st := .stopped })
      ∧ (fld v 27 24 < 13 → bit v 31 = false → c.st ≠ .stale → c.st ≠ .stopped → c.desc ≠ none →
          Answers (.cctrlWrite ten ch v) s fun t => t = halted { c with cctrl := kept, miss := false })
      ∧ (let posted := (v.setWidth 12 - c.head).toNat
         (c.st ≠ .stale → c.posted + (v.setWidth 12 - c.tail).toNat ≤ 2 ^ max (fld c.cctrl 27 24) 1 →
            sets (.tailWrite ten ch v) { c with tail := v.setWidth 12 })
         ∧ (c.st = .stale → posted ≤ c.posted → sets (.tailWrite ten ch v) { c with tail := v.setWidth 12 })
         ∧ (¬(c.st = .stale ∧ posted ≤ c.posted) → 2 ^ max (fld c.cctrl 27 24) 1 < c.posted + (v.setWidth 12 - c.tail).toNat →
            same (.tailWrite ten ch v)))
      ∧ (k.val ≠ 2 →
          let w := if k.val = 0 then v &&& 0xFFFFFF00#32 else v
          sets (.cxeWrite ten ch second k v) (if second then { c with cxe1 := c.cxe1.set k w } else { c with cxe0 := c.cxe0.set k w }))
      ∧ (bit v 31 = false → Answers (.cxeWrite ten ch second 2 v) s fun t => ∃ y, t = s.setChannel ch y
          ∧ { y with cxe0 := c.cxe0, cxe1 := c.cxe1 } = c ∧ (if second then y.cxe0 = c.cxe0 else y.cxe1 = c.cxe1)
          ∧ let w := (if second then y.cxe1 else y.cxe0)[2]
            bit w 31 = false ∧ bit w 30 = false ∧ fld w 7 6 = 3 ∧ fld w 23 12 = fld c.cbind 27 16)
      ∧ (bit v 0 = false → same (.startWrite ten ch v))
      ∧ (bit v 0 = true → sets (.startWrite ten ch v) (
          let lost := c.st = .stale ∨ c.startWaiting = true ∨ ((c.st = .run ∨ c.st = .waitStart) ∧ c.posted = 0)
          if lost then { c with miss := true } else { c with startWaiting := true })))
    ∧ (¬OwnsChannel c ten → ∀ i, i ∈ [Instr.cctrlWrite ten ch v, .tailWrite ten ch v, .cxeWrite ten ch second k v, .startWrite ten ch v] →
        same i)

/-- R254, R256, R274: a channel that does not run, or has nothing posted, stays, as does the channel of a position's output until its next
freeze point; a descriptor that cannot be read stops the channel with its fault code; a memory-to-memory descriptor moves its words from A
to B; a moved descriptor completes. -/
def DescriptorResult : Prop :=
  ∀ (s : State) (ch : Fin 512) (d : Desc) (w : Word) (s1 s2 s3 s4 : State) (ca cb : Cap) (l1 : List Word) (w3 w4 w5 : Word)
      (f tick n : Nat),
    let c := s.channel ch
    let a := (c.ring.toNat + 32 * (c.head.toNat % 2 ^ max (fld c.cctrl 27 24) 1))
    let s0 := s.setChannel ch { c with begun := true }
    let process := fun (P : State → Prop) => Answers (.descriptorProcess ch) s P
    (c.st = .stopped ∨ c.st = .fault ∨ c.st = .stale ∨ c.posted = 0 ∨ (c.st = .waitStart ∧ c.startWaiting = false) →
        process fun t => t = s)
    ∧ (c.st = .run → c.desc = none → c.ty = 2 → 0x400 ≤ fld c.cbind 11 0 → fld c.cbind 11 0 < 0x480 →
        ((s.link ((fld c.cbind 11 0 - 0x400) / 32)).pos (fld c.cbind 11 0 % 32)).loaded = true → process fun t => t = s)
    ∧ (c.st = .run → c.posted ≠ 0 → c.desc = none → s.heldTx c = false → s.chTranslate ch a true false = .error f → process fun t =>
        (t.channel ch).st = .fault ∧ (t.channel ch).code = BitVec.ofNat 6 f ∧ (t.channel ch).desc = none ∧ (t.channel ch).head = c.head
          ∧ (t.channel ch).begun = true
          ∧ ∀ j, j ≠ ch.val → t.channel j = s.channel j)
    ∧ (c.st = .run → c.posted ≠ 0 → c.desc = none → c.ty = 1 → c.moved = false → c.done = 0 → s0.chReadCap ch a = (.ok ca, s1) →
        s1.chReads ch true (a + 8) 2 = (l1, none, s2) → s2.chReadCap ch (a + 8) = (.ok cb, s3) →
        s3.chReads ch true (a + 16) 4 = ([0, w3, w4, w5], none, s4) →
        let d0 : Desc := { a := ca, b := cb, len := 0, evt := bit w3 0 }
        s.descFault c d0 = none → process fun t => t.channel ch = { c with begun := true, desc := some d0, moved := true }
          ∧ ∀ j, j ≠ ch.val → t.channel j = s.channel j)
    ∧ (c.st = .run → c.posted ≠ 0 → c.desc = some d → c.ty = 1 → c.moved = false → d.len = c.done + 4 →
        s.chRead ch (d.a.w0.toNat + c.done) false = (.ok w, s1) → s1.chWrite ch (d.b.w0.toNat + c.done) w false = (.ok (), s2) →
        process fun t => t = s2.setChannel ch { c with done := d.len, moved := true })
    ∧ (c.desc = some d → c.moved = true → c.st = .run →
        (s.advance tick).chWrites ch (a + 0x18) [(word c.done, false), (if c.cut then 0xC0000000#32 else 0x80000000#32, false)] = (n, none, s1) →
        let y := { c with
          head := c.head + 1, desc := none, begun := false, done := 0, moved := false, cut := false
          st := if bit c.cctrl 30 then .waitStart else .run }
        Answers (.descriptorComplete ch tick) s fun t => t.channel ch = y ∧ (∀ j, j ≠ ch.val → t.channel j = s.channel j)
          ∧ (d.evt = false → t = s1.setChannel ch y)
          ∧ (d.evt = true → s.phase ≠ .standby → (t.source (1536 + ch.val)).count = (arrived s (s.source (1536 + ch.val))).count))
    ∧ (c.desc = none ∨ c.moved = false ∨ c.st ≠ .run → Answers (.descriptorComplete ch tick) s fun t => t = s.advance tick)

end Sys2Proof.Claims

/-- R244 to R258: the Undertow lane, and the channels of the Churn: their commands, fields and descriptors. The model's choices here are
what FLUSH leaves of a descriptor's progress, LEN, cells withdrawn by count, whether a data flit waits, MISS and CODE, TAIL, that CH_CMD
completes at once, and when a link's channel goes on (log entries 21, 27, 28, 29, 77, 78, 82, 141). -/
def Obligations.ChurnResult : Prop := Claims.UndertowResult ∧ Claims.ChannelWrites ∧ Claims.DescriptorResult

/-! ## Afmus Link -/

namespace Sys2Proof.Claims

/-- An accepted or refused LCMD: RESULT 0, or RESULT 2 with the reason (R279). -/
def Told (x : Link) (reason : Nat) : Link :=
  { x with cmdReason := BitVec.ofNat 4 reason, cmdResult := if reason = 0 then 0 else 2 }

/-- R267, R277 to R279: LCTRL, LPERIOD, the commands of LCMD on a position, and the key of a position. -/
def LinkWrites : Prop :=
  ∀ (s : State) (who : Agent) (l : Fin 4) (p : BitVec 5) (v : Word) (code : BitVec 4),
    let x := s.link l
    let q := x.pos p.toNat
    let goes := fun (c : Instr) (y : Link) => Answers c s fun t => t = s.setLink l y
    let ctrl := v &&& 0xFFFFF0FF#32
    let period := v &&& 0xFFF1FFFF#32
    let cycles := x.link = .up ∨ x.link = .down
    let runs := cycles ∧ x.started = true
    let cmd := fun (c : Instr) (ok : Prop) (y : Position) =>
      (p.toNat = 0 ∨ p.toNat = 31 → goes c (Told x 3))
      ∧ (1 ≤ p.toNat → p.toNat ≤ 30 → (ok → goes c (Told (x.setPos p.toNat y) 0)) ∧ (¬ok → goes c (Told x 1)))
    Owns s who (linkPage l) →
      (8 < fld v 15 12 ∨ (bit v 30 = true ∧ bit (s.frame (linkPage l)).active 0 = false) ∨ (bit v 31 = true ∧ (s.tide (fld v 27 24)).en = false)
          ∨ s.frameFits l ctrl x.lperiodNext [] = false → goes (.lctrlWrite who l v) { x with pref := true })
      ∧ (s.lctrlBad l ctrl = false →
          (bit v 31 = true → ¬runs → bit x.lctrlNext 31 = false → goes (.lctrlWrite who l v) { x with
            lctrlNext := ctrl, pref := false, lctrl := ctrl, lperiod := x.lperiodNext, link := .training, session := x.session + 1
            started := false, silent := 0 })
          ∧ (bit v 31 = true → runs → bit x.lctrlNext 31 = false → goes (.lctrlWrite who l v) { x with
              lctrlNext := ctrl, pref := false, session := x.session + 1, retrain := true })
          ∧ (bit v 31 = true → bit x.lctrlNext 31 = true → goes (.lctrlWrite who l v) { x with
              lctrlNext := ctrl, pref := false, lctrl := if x.link = .up ∨ x.link = .down then x.lctrl else ctrl })
          ∧ (bit v 31 = false → runs → goes (.lctrlWrite who l v) { x with lctrlNext := ctrl, pref := false, retrain := false })
          ∧ (bit v 31 = false → ¬runs → Answers (.lctrlWrite who l v) s fun t => (t.link l).link = .off ∧ (t.link l).lctrl = ctrl
              ∧ ∀ n, 1 ≤ n → n ≤ 30 → ((t.link l).pos n).st = (if (x.pos n).st = .absent then .absent else .left)))
      ∧ (fld v 31 20 = 0 ∨ fld v 16 0 < 1000 ∨ 100000 < fld v 16 0 ∨ s.frameFits l x.lctrlNext period [] = false →
          goes (.lperiodWrite who l v) { x with pref := true })
      ∧ (s.lperiodBad l period = false →
          (cycles → goes (.lperiodWrite who l v) { x with lperiodNext := period, pref := false })
          ∧ (¬cycles → goes (.lperiodWrite who l v) { x with lperiodNext := period, pref := false, lperiod := period }))
      ∧ cmd (.bind who l p) (q.st = .absent ∧ q.bound = false) { q with bound := true, ident := x.bindHi ++ x.bindLo }
      ∧ cmd (.unbind who l p) (q.st = .absent) { q with bound := false, ident := 0 }
      ∧ cmd (.evict who l p) (q.st ≠ .absent) { q with cmd := .evict }
      ∧ cmd (.quarantine who l p) (q.st = .verifying ∨ q.st = .active ∨ q.st = .left) { q with cmd := .quarantine }
      ∧ cmd (.linkRelease who l p) (q.st = .quarantined) { q with cmd := .release }
      ∧ cmd (.keyclr who l p) True { q with key := none }
      ∧ (code.toNat = 0 ∨ 6 < code.toNat → goes (.lcmdUnknown who l code p) (Told x 2))
      ∧ goes (.akeyWrite who l v) (
          let y := { x with akey := x.akey.set 7 v }
          y.setPos x.psel.toNat { x.pos x.psel.toNat with key := some (x.akey.set 7 v) })

/-- What an accepted command, and violations that reached QTH, make of a position at the next cycle start (R276, R279, R282). -/
def AtStart (q r : Position) : Prop :=
  match q.cmd with
  | .none => r.st = (if q.reached = true ∧ q.st ≠ .absent then .quarantined else q.st)
  | .evict => r.st = .absent ∧ r.bound = q.bound ∧ r.key = q.key ∧ r.viol = q.viol ∧ (q.bound = true → r.ident = q.ident)
  | .quarantine => r.st = .quarantined ∧ r.cmd = .none
  | .release => r.st = (if q.reached = true then .quarantined else .verifying) ∧ r.cmd = .none

/-- A position's segment (R262, R269, R272, R274): `q` is the position before the start and `r` after it. -/
def SegmentOf (auth : Bool) (q r : Position) (g : Segment) : Prop :=
  g.flags = 0#4 ++ BitVec.ofBool (decide (r.st = .active)) ++ BitVec.ofBool (decide (r.st = .quarantined)) ++ BitVec.ofBool q.nak
      ++ BitVec.ofBool (decide (r.st = .active) && q.outNew)
  ∧ g.data = (if r.st = .active then q.output else []) ∧ g.len = BitVec.ofNat 16 g.data.length
  ∧ (∀ a, q.ackSeq = some a → g.ack = a) ∧ g.tag.isSome = auth
  ∧ r.nak = false ∧ r.naks = (if q.nak then satInc q.naks else q.naks)

/-- The device part of a frame (R262, R263): its head, its beacon but for PHASE and PERIOD, and its segments, the control segment
first. -/
def PartOf (l : Nat) (x y : Link) (d : DevicePart) : Prop :=
  let auth := bit x.lctrlNext 30
  let own := if x.assigns = [] then d.segs else d.segs.drop 1
  let size := fun (g : Segment) => 6 + g.data.length + (if g.tag.isSome then 8 else 0)
  d.kind = (if y.roll then 2 else 1) ∧ d.linkf = BitVec.ofNat 8 (64 * l + (if auth then 32 else 0)) ∧ d.seq = y.cycle.setWidth 16
    ∧ d.nseg = BitVec.ofNat 8 d.segs.length ∧ d.dlen = BitVec.ofNat 16 (d.segs.map size).sum ∧ d.beacon[2] = x.loop
    ∧ d.jmax = (if y.roll then BitVec.ofNat 8 (fld x.lctrlNext 15 12) else 0)
    ∧ (x.assigns ≠ [] → ∃ g, d.segs.head? = some g ∧ g.pos = 0xFF#8 ∧ g.flags = 0 ∧ g.tag = none
        ∧ g.len = BitVec.ofNat 16 (12 * x.assigns.length)
        ∧ g.data = x.assigns.flatMap fun a => leBytes 8 a.ident.toNat ++ [BitVec.ofNat 8 a.pos, BitVec.ofNat 8 a.result, 0, 0])
    ∧ (own.map fun g => g.pos.toNat) = ((List.range 31).filter fun n => decide (0 < n) && decide ((y.pos n).st ≠ .absent))
    ∧ ∀ g, g ∈ own → SegmentOf auth (x.pos g.pos.toNat) (y.pos g.pos.toNat) g

/-- The prediction of a link's tide reaches a start phase, round(k × 2^24 / DIV) of some turn, at this tick (R265). -/
def AtStartPhase (s : State) (x : Link) : Prop :=
  let div := fld x.lperiodNext 31 20
  let q := fun t => floorDiv (s.phaseAt (fld x.lctrlNext 27 24) t) (2 ^ 32)
  ∃ (turn : Int) (k : Nat), k < div ∧ let g := turn * 2 ^ 24 + ((k * 2 ^ 25 + div) / (2 * div) : Nat)
    q (s.now - 1) < g ∧ g ≤ q s.now

/-- The prediction has not gone back at this tick. -/
def Forward (s : State) (x : Link) : Prop :=
  let q := fun t => floorDiv (s.phaseAt (fld x.lctrlNext 27 24) t) (2 ^ 32)
  0 < s.now ∧ q (s.now - 1) ≤ q s.now

/-- R262, R263, R265, R266, R270, R271, R274, R275, R279: cycles, frames that return or do not, and the states of a link and of its
positions. -/
def LinkCycles : Prop :=
  ∀ (s : State) (l : Fin 4) (pos : Fin 31) (a : Append) (loop k off tick : Nat) (ws : List Word),
    let s1 := s.advance tick
    let x := s.link l
    let q := x.pos pos
    let c := s.channel k
    let cycles := x.link = .up ∨ x.link = .down
    let on := bit x.lctrlNext 31 = true
    let time := fld x.lperiodNext 16 0 * 72
    let due := if s1.tideStarts l then AtStartPhase s1 x ∧ (x.started = false ∨ x.lastStart + 72000 ≤ s1.now)
      else x.started = false ∨ x.lastStart + time ≤ s1.now
    let alone := x.positions.sorted = true ∧ ∀ n, n ≠ pos.val → (x.pos n).st = .absent
    let left := fun (y : Link) => ∀ n, 1 ≤ n → n ≤ 30 → (y.pos n).st = (if (x.pos n).st = .absent then .absent else .left)
    let missed := fun (t : State) => ∀ n, (x.pos n).st = .verifying ∨ (x.pos n).st = .active →
      ((t.link l).pos n).misses = (x.pos n).misses + 1 ∧ ((t.link l).pos n).validRun = 0 ∧ ((t.link l).pos n).nak = true
    let again := fun (t : State) => ∀ n, (x.pos n).st ≠ .absent → ((t.link l).pos n).outNew
      = ((x.pos n).outNew || x.part.segs.any fun g => decide (g.pos.toNat = n) && g.flags.getLsbD 0)
    let frames := fun (c : Instr) (P : State → Link → Prop) => Answers c s fun t => P t (t.link l)
    quiet s →
      (¬cycles → Answers (.cycleStart l tick) s fun t => t = s1)
      ∧ (cycles → s1.tideStarts l = true → Forward s1 x → ¬AtStartPhase s1 x → Answers (.cycleStart l tick) s fun t => t = s1)
      ∧ (cycles → s1.tideStarts l = true → Forward s1 x → AtStartPhase s1 x → x.started = true → s1.now < x.lastStart + 72000 →
          Answers (.cycleStart l tick) s fun t => t = s1.setLink l { x with skip := satInc x.skip })
      ∧ (cycles → s1.tideStarts l = false → x.started = true → s1.now < x.lastStart + time →
          Answers (.cycleStart l tick) s fun t => t = s1)
      ∧ (cycles → (s1.tideStarts l = true → Forward s1 x) → due → ¬on → frames (.cycleStart l tick) fun t y => t = s1.setLink l y ∧ y.link = .off ∧ left y)
      ∧ (cycles → (s1.tideStarts l = true → Forward s1 x) → due → on → x.retrain = true → frames (.cycleStart l tick) fun t y =>
          t = s1.setLink l y ∧ y.link = .training ∧ y.retrain = false ∧ y.session = x.session ∧ left y)
      ∧ (cycles → (s1.tideStarts l = true → Forward s1 x) → due → on → x.retrain = false → frames (.cycleStart l tick) fun t y =>
          { t with free := s.free } = s1.setLink l y ∧ y.lctrl = x.lctrlNext ∧ y.lperiod = x.lperiodNext
            ∧ y.cycle = x.cycle + 1 ∧ y.session = (if x.cycle + 1 = 0 then x.session + 1 else x.session) ∧ y.lastStart = s1.now
            ∧ y.started = true ∧ y.closed = false ∧ y.loop = 0xFFFFFFFF#32 ∧ y.assigns = [] ∧ y.link = x.link ∧ y.frozen = false
            ∧ y.roll = (x.rollNext || decide (max (fld x.lctrlNext 23 16) 1 ≤ x.sinceRoll + 1))
            ∧ (s1.tideStarts l = false → y.deadline = s1.now + time - 14400) ∧ (∀ n, AtStart (x.pos n) (y.pos n))
            ∧ (y.cycle.toNat % 1024 = 0 → ∀ n, (y.pos n).blockViol = 0)
            ∧ PartOf l x y y.part ∧ y.part.beacon[0] = s1.tideWord (fld x.lctrlNext 27 24)
            ∧ y.part.beacon[1] = s1.tidePeriod (fld x.lctrlNext 27 24)
            ∧ fld y.part.beacon[3] 31 28 = fld x.lctrlNext 27 24 ∧ fld y.part.beacon[3] 26 24 = (s.tide (fld x.lctrlNext 27 24)).st.code)
      ∧ (¬cycles ∨ x.frozen = true ∨ (x.started = true ∧ s1.now + 7200 < x.lastStart + (if s1.tideStarts l then 72000 else time)) →
          Answers (.freezePoint { link := l, tick := tick }) s fun t => t = s1)
      ∧ (cycles → x.frozen = false → x.started = false ∨ x.lastStart + (if s1.tideStarts l then 72000 else time) ≤ s1.now + 7200 →
          frames (.freezePoint { link := l, tick := tick }) fun t y => y.frozen = true ∧
            (1 ≤ pos.val → q.st ≠ .absent → x.positions.sorted = true → s.channels.sorted = true →
              (s.channelFor 2 (0x400 + 32 * l.val + pos.val) = none → (y.pos pos).output = [] ∧ (y.pos pos).outNew = false)
              ∧ (s.channelFor 2 (0x400 + 32 * l.val + pos.val) = some k → c.st = .stopped ∨ c.st = .stale →
                  (y.pos pos).output = [] ∧ (y.pos pos).outNew = false)
              ∧ (q.outNew = false → s.txReady (0x400 + 32 * l.val + pos.val) = some (k, ws) →
                  (y.pos pos).outNew = true ∧ (y.pos pos).loaded = true
                    ∧ (y.pos pos).output = bytesOf ws ((c.desc.map fun d => d.len).getD 0)
                    ∧ t.channel k = { c with out := [], taken := [], moved := true, cut := false })
              ∧ (q.outNew = true → s.txReady (0x400 + 32 * l.val + pos.val) = some (k, ws) →
                  (y.pos pos).outNew = true ∧ (y.pos pos).output = q.output ∧ t.channel k = c)))
      ∧ ((¬cycles ∨ x.started = false) → Answers (.frameReturn l loop true [] none tick) s fun t => t = s1)
      ∧ (cycles → x.started = true → x.closed = false → x.badCrc = false → s1.now ≤ x.deadline → x.positions.sorted = true →
          frames (.frameReturn l loop true [] none tick) fun t y => y.link = .up ∧ y.loop = BitVec.ofNat 32 loop ∧ y.closed = true
            ∧ y.silent = 0 ∧ y.rollNext = (x.rollNext || decide (x.link = .down)) ∧ missed t)
      ∧ (cycles → x.started = true → x.closed = false → x.badCrc = false → s1.now ≤ x.deadline → x.roll = false → alone → 1 ≤ pos.val →
          a.pos.toNat = pos.val → a.kind = 1 → a.crcOk = true → a.tagOk = true → a.nrec ≤ 2 → a.records = [] →
          s.channelFor 4 (0x400 + 32 * l.val + pos.val) = none →
          (q.st = .joining ∨ q.st = .left ∨ q.st = .verifying ∨ q.st = .active) →
          frames (.frameReturn l loop true [a] none tick) fun _ y => y.closed = true ∧ (y.pos pos).misses = 0
            ∧ (y.pos pos).validRun = (if q.st = .joining ∨ q.st = .left then 1 else q.validRun + 1)
            ∧ (y.pos pos).st = (if q.st = .joining ∨ q.st = .left then .verifying
                else if q.st = .verifying ∧ 4 ≤ q.validRun + 1 then .active else q.st))
      ∧ (cycles → x.started = true → x.closed = false → x.deadline < s1.now → x.positions.sorted = true →
          frames (.frameReturn l loop true [] none tick) fun t y => y.late = satInc x.late ∧ y.closed = true ∧ y.link = .up ∧ missed t ∧ again t)
      ∧ (cycles → x.started = true → x.closed = false → x.deadline ≤ s1.now → x.positions.sorted = true →
          frames (.frameDeadline l { loop := none, appends := [] } tick) fun t y => y.late = satInc x.late ∧ y.closed = true ∧ y.link = x.link ∧ missed t ∧ again t)
      ∧ (x.closed = true ∨ s1.now < x.deadline → Answers (.frameDeadline l { loop := none, appends := [] } tick) s fun t => t = s1)
      ∧ (q.st = .joining → 3 ≤ q.quiet → q.sends < 3 → frames (.joiningTimeout l pos) fun t y => t = s.setLink l y ∧
          y = { x.setPos pos { q with sends := q.sends + 1, quiet := 0 } with
            assigns := x.assigns ++ [{ ident := q.ident, pos := pos, result := 0 }] })
      ∧ (q.st = .joining → 3 ≤ q.quiet → 3 ≤ q.sends → frames (.joiningTimeout l pos) fun t y => t = s.setLink l y ∧
          (y.pos pos).st = .absent ∧ (y.pos pos).bound = q.bound ∧ (y.pos pos).key = q.key ∧ (q.bound = true → (y.pos pos).ident = q.ident)
            ∧ ∀ n, n ≠ pos.val → y.pos n = x.pos n)
      ∧ (q.st ≠ .joining ∨ q.quiet < 3 → Answers (.joiningTimeout l pos) s fun t => t = s)
      ∧ (q.st = .verifying ∨ q.st = .active → 3 ≤ q.misses → Answers (.positionLeft l pos tick) s fun t =>
          t = (s1.setLink l (x.setPos pos { q with st := .left, validRun := 0 })).raiseN (192 + 8 * l.val + 2))
      ∧ (q.misses < 3 → Answers (.positionLeft l pos tick) s fun t => t = s1)
      ∧ (x.link = .training → Answers (.linkUp l loop) s fun t => t = s.setLink l { x with
          link := .up, loop := BitVec.ofNat 32 loop, loopSeen := loop, rollNext := true, silent := 0, lastStart := s.now })
      ∧ (x.link ≠ .training → Answers (.linkUp l loop) s fun t => t = s)
      ∧ (x.link = .up → 3 ≤ x.silent → Answers (.linkDown l tick) s fun t =>
          t = (s1.setLink l { x with link := .down }).raiseN (192 + 8 * l.val + 5))
      ∧ (x.link ≠ .up → Answers (.linkDown l tick) s fun t => t = s1)
      ∧ (x.link = .off → Answers (.unsolicited l { offset := off, tick := tick }) s fun t => t = s1)
      ∧ (x.link ≠ .off → x.vlog = [] → frames (.unsolicited l { offset := off, tick := tick }) fun _ y => y.vlogCount = x.vlogCount + 1
            ∧ y.vlog = [(at_ (fld x.cycle 15 0) 16 ||| 0x72#32, BitVec.ofNat 32 (off % 2 ^ 24))] ∧ ∀ n, y.pos n = x.pos n)

end Sys2Proof.Claims

/-- R262 to R282: the registers and commands of an Afmus link, its cycles and its positions. The model's choices here are the refusal of a
tide that is not enabled, that LCMD completes at once, what an outside partner sends, how starts are found and counted, and when an output
takes a new descriptor's data (log entries 81, 82, 85, 140, 141). -/
def Obligations.LinkResult : Prop := Claims.LinkWrites ∧ Claims.LinkCycles

/-! ## The standard interfaces -/

namespace Sys2Proof.Claims

/-- An interface runs: the device runs and the interface's gate domain is ON (R302, R305). -/
def On (s : State) (dom : Nat) : Prop := s.phase = .run ∧ (s.gate dom).st = .on

/-- The stamp of a record whose reference point is at a tick (R284): 0x8000_0000 where the interface does not stamp or its tide is OFF,
else the tide's phase at a tick within 28 ticks, 4 ns, of it. -/
def Stamped (s : State) (stamp : Word) (ref : Nat) (st : Word) : Prop :=
  let i := fld stamp 3 0
  if bit stamp 31 = false ∨ (s.tide i).st = .off then st = 0x80000000#32
  else ∃ d, d ≤ 56 ∧ st = phaseWord (s.phaseAt i (ref + d - 28))

/-- A channel of the type at the endpoint can take so many words (R249, R252, R283). -/
def HasRoom (s : State) (ty ep words : Nat) : Prop :=
  ∃ ch, s.channelFor ty ep = some ch ∧ (s.channel ch).takes = true ∧ s.canHold ch words = true

/-- A record has entered the endpoint's channel, and nothing else has changed. `head` has bits 31:8 of its first word. -/
def Enters (s t : State) (ty ep : Nat) (head st : Word) (rest : List Word) (poisoned : Nat) : Prop :=
  { t with channels := s.channels, free := s.free } = s ∧ ∃ ch, s.channelFor ty ep = some ch
    ∧ t.channel ch = { s.channel ch with
        queue := (s.channel ch).queue
          ++ [{ words := (head ||| word (ep % 256)) :: st :: rest, poisoned := poisoned, ends := true, sample := none, cycle := none }]
        exh := false }
    ∧ ∀ j, j ≠ ch → t.channel j = s.channel j

/-- A receive record of R284: LEN, FLAGS and ENDPOINT, the stamp of a reference point, the extension words, and the payload. -/
def Receives (s t : State) (ty ep flags : Nat) (stamp : Word) (ref : Nat) (ext : List Word) (payload : List Byte) : Prop :=
  ∃ st, Stamped s stamp ref st ∧ Enters s t ty ep (at_ payload.length 16 ||| at_ flags 8) st (ext ++ wordsOf payload) 0

/-- Room for such a record. -/
def RoomFor (s : State) (ty ep : Nat) (ext : List Word) (payload : List Byte) : Prop :=
  HasRoom s ty ep (2 + ext.length + (wordsOf payload).length)

/-- A transmit descriptor has left: its cells are free, and it will complete (R283). -/
def takenOut (s : State) (ch : Nat) : State := s.setChannel ch { s.channel ch with out := [], taken := [], moved := true, cut := false }

/-- The destination of a frame: its first six bytes. -/
def destOf (b : List Byte) : BitVec 48 :=
  b.getD 0 0 ++ b.getD 1 0 ++ b.getD 2 0 ++ b.getD 3 0 ++ b.getD 4 0 ++ b.getD 5 0

/-- A 16-bit field of a frame, most significant byte first. -/
def field16 (b : List Byte) (o : Nat) : Nat := (b.getD o 0).toNat * 256 + (b.getD (o + 1) 0).toNat

/-- Exact filter k of a port takes an address (R285). -/
def FilterTakes (e : Eth) (k : Nat) (dest : BitVec 48) : Prop :=
  e.filter (43 + 4 * k) = 1 ∧ dest = (e.filter (41 + 4 * k)).setWidth 16 ++ e.filter (40 + 4 * k)

/-- A one-step Sync message of a frame (R286): `o` is where the PTP message begins. -/
def OneStep (b b' : List Byte) (o ns : Nat) : Prop :=
  b'.length = b.length ∧ ∀ i, i < b.length → (b'.getD i 0).toNat =
    if o + 34 ≤ i ∧ i < o + 40 then ns / 10 ^ 9 / 256 ^ (o + 39 - i) % 256
    else if o + 40 ≤ i ∧ i < o + 44 then ns % 10 ^ 9 / 256 ^ (o + 43 - i) % 256
    else if field16 b (if field16 b 12 = 0x8100 then 16 else 12) = 0x0800 ∧ (i = o - 2 ∨ i = o - 1) then 0
    else (b.getD i 0).toNat

/-- R285, R286, R297: frames, the link, and the PTP clock of an Ethernet port. -/
def EthernetResult : Prop :=
  ∀ (s : State) (p : Fin 6) (f : EthFrame) (who : Agent) (v : Word) (ch j : Nat) (ws : List Word) (tick : Nat),
    let s1 := s.advance tick
    let e := s.eth p
    let ns := e.ptpWhole s1.now
    let good := f.fcsOk = true ∧ 60 ≤ f.payload.length ∧ f.payload.length ≤ 1996
    let pause := field16 f.payload 12 = 0x8808 ∧ field16 f.payload 14 = 1
    let on := On s (20 + p.val) ∧ bit e.mode 31 = true
    let dropped := { e with dropped := satInc e.dropped }
    let frame := fun (P : State → Prop) => Answers (.ethernetFrameReceive p f tick) s P
    let dest := destOf f.payload
    let exact := fun (k : Nat) => k < 16 ∧ FilterTakes e k dest
    let all := dest = BitVec.allOnes 48
    let bin := (Config.ethHash dest).val
    let hashed := dest.getLsbD 40 = true ∧ bit (e.filter (106 + bin / 32)) (bin % 32) = true
    let queue := fun (q : Nat) (idx : Option Nat) =>
      let ext := [word (ns % 10 ^ 9), word (ns / 10 ^ 9)]
      RoomFor s 3 (0x10 * p.val + q) ext f.payload → frame fun t => ∃ n, n < 16 ∧ (∀ k, idx = some k → n = k) ∧
        Receives s1 t 3 (0x10 * p.val + q)
          ((if field16 f.payload 12 = 0x8100 then 1 else 0) + (if ptpOffset f.payload = none then 0 else 2) + 8 * n) e.stamp s1.now ext f.payload
    let ep := fun (k : Nat) => 0x10 * p.val + 8 + k
    quiet s →
      (¬on → frame fun t => t = s1)
      ∧ (on → ¬good → frame fun t => t = (s1.detect (ethPage p) 1).setEth p dropped)
      ∧ (on → good → pause → frame fun t => t = s1.setEth p dropped)
      ∧ (on → good → ¬pause →
          (∀ k, exact k → (∀ n, n < k → ¬exact n) → queue (fld (e.filter (42 + 4 * k)) 2 0) (some k))
          ∧ ((∀ k, ¬exact k) → all → e.filter 104 = 1 → queue (fld (e.filter 105) 2 0) none)
          ∧ ((∀ k, ¬exact k) → ¬all → hashed → queue (fld (e.filter 108) 2 0) none)
          ∧ ((∀ k, ¬exact k) → (all → e.filter 104 ≠ 1) → (¬all → ¬hashed) → frame fun t => t = s1.setEth p dropped))
      ∧ (on → e.up = true → (∀ k, k < 4 → s.txReady (ep k) = none) → Answers (.ethernetFrameTransmit p tick) s fun t =>
          { t with free := s.free } = s1)
      ∧ (on → e.up = true → j < 4 → (∀ k, k < 4 → s.txReady (ep k) = if k = j then some (ch, ws) else none) →
          let frame := bytesOf ws (((s.channel ch).desc.map fun d => d.len).getD 0)
          let sent := fun (y : Eth) (l : List Word) => (takenOut s1 ch).setEth p { y with sent := e.sent ++ [l] }
          let sync := fun (o : Nat) => e.filter 27 = 1 ∧ (frame.getD o 0).toNat % 16 = 0
            ∧ field16 frame (if field16 frame 12 = 0x8100 then 16 else 12) ≠ 0x86DD
          Answers (.ethernetFrameTransmit p tick) s fun t =>
            (ptpOffset frame = none → { t with free := s.free } = sent e ws)
            ∧ ∀ o, ptpOffset frame = some o →
              (¬sync o → { t with free := s.free } = (sent { e with
                txNs := word (ns % 10 ^ 9), txSec := word (ns / 10 ^ 9)
                txTag := flagAt e.txFull 31 ||| at_ (field16 frame (o + 30)) 0, txFull := true } ws).raiseN (224 + 8 * p.val + 2))
              ∧ (sync o → o + 44 ≤ frame.length → ∃ b, OneStep frame b o ns ∧ { t with free := s.free } = sent e (wordsOf b)))
      ∧ (∀ up, e.up = up → Answers (.ethernetLinkChange p up tick) s fun t => t = s1)
      ∧ (e.up = false → Answers (.ethernetLinkChange p true tick) s fun t =>
          t = (s1.setEth p { e with up := true }).raiseN (224 + 8 * p.val))
      ∧ (e.up = true → Answers (.ethernetLinkChange p false tick) s fun t => (t.eth p).up = false
          ∧ (j < 4 → s.channels.sorted = true → s.channelFor 2 (ep j) = some ch → (s.channel ch).desc ≠ none → (s.channel ch).moved = false →
              t.channel ch = { s.channel ch with out := [], taken := [], moved := true, cut := true }))
      ∧ ((s.frame (ethPage p)).owner = who.ten → Answers (.ptpStepWrite who p v) s fun t => t = s.setEth p { e with
          ptpNs := (((e.ptpTime s.now : Int) + v.toInt * 2 ^ 28) % (2 ^ 48 * 10 ^ 9 * 2 ^ 28)).toNat, ptpAt := ptpClock s.now })
      ∧ (Answers (.ptpNsRead who p) s fun t => t = s.setEth p { e with capNs := e.ptpTime s.now / 2 ^ 28 })
      ∧ (Answers (.txtsRead who p 0) s fun t => t = s.setEth p { e with txNs := 0 })
      ∧ (Answers (.txtsRead who p 1) s fun t => t = s.setEth p { e with txSec := 0 })
      ∧ (Answers (.txtsRead who p 2) s fun t => t = s.setEth p { e with txTag := 0, txFull := false })
      ∧ (Answers (.ptpTargetTime p tick) s fun t => t = s1.raiseN (224 + 8 * p.val + 3))

/-- R287: frames and states of a CAN controller; one in bus monitoring or restricted operation sends nothing, and bus-off is left by
recovery alone. -/
def CanResult : Prop :=
  ∀ (s : State) (c : Fin 4) (f : CanFrame) (ch : Nat) (ws : List Word) (st : CanState) (tick : Nat),
    let s1 := s.advance tick
    let x := s.can c
    let on := On s (26 + c.val) ∧ x.st ≠ .busOff
    let set := fun (n : Nat) => x.setup.get (fun _ => 0) n
    let silent := set 28 = 1 ∨ set 29 = 1
    let taken := ∃ k, k < 32 ∧ Config.canMatch (set (110 + 2 * k)) (set (111 + 2 * k)) f.ide f.ident = true
    let high := s.txReady (0x081 + 4 * c.val)
    let normal := s.txReady (0x082 + 4 * c.val)
    quiet s →
      (¬on → Answers (.canFrameReceive c f tick) s fun t => t = s1)
      ∧ (on → f.crcOk = false → Answers (.canFrameReceive c f tick) s fun t =>
          t = (s1.detect (canPage c) 1).setCan c { x with errors := satInc x.errors })
      ∧ (on → f.crcOk = true → ¬taken → Answers (.canFrameReceive c f tick) s fun t => t = s1)
      ∧ (on → f.crcOk = true → taken → RoomFor s 3 (0x080 + 4 * c.val) [f.ident.setWidth 32] f.data →
          Answers (.canFrameReceive c f tick) s fun t => Receives s1 t 3 (0x080 + 4 * c.val)
            (f.fdf.toNat + 2 * f.brs.toNat + 4 * f.esi.toNat + 8 * f.ide.toNat + 16 * f.rtr.toNat) x.stamp s1.now [f.ident.setWidth 32] f.data)
      ∧ (¬on ∨ silent ∨ (high = none ∧ normal = none) → Answers (.canFrameTransmit c tick) s fun t => t = s1)
      ∧ (on → ¬silent → high = some (ch, ws) ∨ (high = none ∧ normal = some (ch, ws)) → Answers (.canFrameTransmit c tick) s fun t =>
          t = (takenOut s1 ch).setCan c { x with sent := x.sent ++ [ws] })
      ∧ (x.st = st ∨ x.st = .busOff → Answers (.canErrorStateChange c st tick) s fun t => t = s1)
      ∧ (x.st ≠ st → x.st ≠ .busOff → Answers (.canErrorStateChange c st tick) s fun t =>
          t = (s1.setCan c { x with st := st }).raiseN (272 + 4 * c.val))
      ∧ (x.st = .busOff → x.autorec = true → Answers (.busOffRecovery c tick) s fun t =>
          t = (s1.setCan c { x with st := .errorActive }).raiseN (272 + 4 * c.val))
      ∧ (x.st ≠ .busOff ∨ x.autorec = false → Answers (.busOffRecovery c tick) s fun t => t = s1)

/-- R288: a character that a UART hears joins its record; an idle gap, a break or the descriptor's LEN ends the record; what it hears
while DE is asserted is discarded under ECHO_SUP; and a transmit descriptor's characters go out between the lead and the lag of DE. -/
def UartResult : Prop :=
  ∀ (s : State) (u : Fin 8) (c last : UartChar) (brk : Bool) (ch n : Nat) (ws : List Word) (tick : Nat),
    let s1 := s.advance tick
    let y := s.uart u
    let on := On s (30 + u.val)
    let ticks := fun (k : Nat) => k * 450000000 / y.baud.toNat
    let char := ticks (16 * (1 + (if y.seven then 7 else 8) + (if y.parity = 0 then 0 else 1) + (if y.twoStop then 2 else 1)))
    let quietFor := fun (a : UartChar) (t : Nat) => a.at_ + (1 + y.idle.toNat) * char ≤ t
    let later := y.spans.filter fun e => decide (s1.now < e.2)
    let own := y.echoSup = true ∧ ∃ e, e ∈ y.spans ∧ e.1 ≤ c.at_ ∧ c.at_ < e.2
    let bad := c.parityBad && decide (y.parity ≠ 0)
    let kept := { c with data := if y.seven then c.data &&& 0x7F else c.data, parityBad := bad }
    let s2 := if bad then s1.detect (uartPage u) 1 else if c.framingBad then s1.raiseN (288 + 2 * u.val) else s1
    let flags := fun (l : List UartChar) (end_ : Bool) =>
      (l.any fun a => a.parityBad).toNat + 2 * (l.any fun a => a.framingBad).toNat + 4 * end_.toNat
    let room := fun (l : List UartChar) => HasRoom s 3 (0x0A0 + 2 * u.val) (2 + (wordsOf (l.map fun a => a.data)).length)
    let record := fun (a t : State) (l : List UartChar) (end_ : Bool) (st : Word) =>
      Enters a t 3 (0x0A0 + 2 * u.val) (at_ l.length 16 ||| at_ (flags l end_) 8) st (wordsOf (l.map fun a => a.data)) 0
    let wrong := fun (l : List UartChar) (p : UartChar → Bool) => (List.range l.length).filter fun n => (l.map p).getD n false
    let hears := fun (l : List UartChar) (b : Bool) (P : State → Prop) =>
      Answers (.uartRecordEnd u (l.map fun a => (a.data, a.at_)) (wrong l fun a => a.parityBad) (wrong l fun a => a.framingBad) b tick) s P
    let broken := fun (a : State) => if brk then a.raiseN (289 + 2 * u.val) else a
    let full := fun (k : Nat) => s.uartRoom u = some n ∧ n ≤ k
    quiet s →
      (¬on → hears [c] brk fun t => t = s1)
      ∧ (on → own → y.heard = [] → hears [c] brk fun t => t = broken (s1.setUart u { y with spans := later }))
      ∧ (on → ¬own → y.heard = [] ∨ (y.heard.getLast? = some last ∧ ¬quietFor last c.at_) → ¬quietFor c s1.now →
          (∀ k, s.uartRoom u = some k → y.heard.length + 1 < k) → hears [c] false fun t => ∃ st,
            { t with free := s.free } = s2.setUart u { y with heard := y.heard ++ [kept], mark := st, spans := later }
            ∧ (y.heard ≠ [] → st = y.mark) ∧ (y.heard = [] → Stamped s2 y.stamp c.at_ st))
      ∧ (on → ¬own → y.heard.getLast? = some last → ¬quietFor last c.at_ → full (y.heard.length + 1) → room (y.heard ++ [kept]) →
          hears [c] false fun t =>
            record (s2.setUart u { y with heard := [], spans := later }) t (y.heard ++ [kept]) false y.mark)
      ∧ (on → y.heard.getLast? = some last → (brk = true ∨ quietFor last s1.now) → room y.heard → hears [] brk fun t => ∃ r,
          record (s1.setUart u { y with heard := [], spans := later }) r y.heard brk y.mark ∧ t = broken r)
      ∧ (on → y.heard = [] ∨ (y.heard.getLast? = some last ∧ ¬quietFor last s1.now) → hears [] false fun t =>
          t = s1.setUart u { y with spans := later })
      ∧ (on → s.txReady (0x0A1 + 2 * u.val) = none → Answers (.uartTransmit u tick) s fun t => t = s1)
      ∧ (on → s.txReady (0x0A1 + 2 * u.val) = some (ch, ws) →
          let begin_ := if later = [] then s1.now + ticks y.lead.toNat else max s1.now y.txEnd
          let stop := begin_ + ((s.channel ch).desc.map fun d => d.len).getD 0 * char
          Answers (.uartTransmit u tick) s fun t => t = (takenOut s1 ch).setUart u { y with
            sent := y.sent ++ [ws], txEnd := stop, spans := y.spans ++ [(s1.now, stop + ticks y.lag.toNat)] })

/-- R289, R290: memory, I/O and configuration requests from PCIe, by the base registers; messages; and the link. -/
def PcieResult : Prop :=
  ∀ (s : State) (adr : Nat) (io : BitVec 32) (reg : Fin 1024) (data : List Byte) (ep : Bool) (check : PcieCheck) (target : PcieTarget)
      (msi : Word) (tick : Nat),
    let s1 := s.advance tick
    let p := s.pcie
    let on := On s 38 ∧ p.up = true
    let base := if p.root then fld p.memBase 15 4 * 2 ^ 20 else p.bar0.toNat
    let inWindow := base ≤ adr ∧ adr < base + 2 ^ 23
    let w := (adr - base) / 2 ^ 20
    let off := (adr - base) % 2 ^ 20
    let inTable := p.root = false ∧ p.bar2.toNat ≤ adr ∧ adr < p.bar2.toNat + 1024
    let v := (wordsOf data).getD 0 0
    let with_ := fun (a : State) (q : Pcie) => { a with pcie := q }
    let refused := { p with unsupported := satInc p.unsupported, sent := p.sent ++ [.unsupported], aer := p.aer ||| 0x00100000#32 }
    let answered := fun (x : Word) => { p with sent := p.sent ++ [.completion x] }
    let writes := fun (a : PcieTarget) (P : State → Prop) => Answers (.pcieInboundWrite a data ep .good tick) s P
    let reads := fun (a : PcieTarget) (P : State → Prop) => Answers (.pcieInboundRead a tick) s P
    quiet s →
      (¬on → (Answers (.pcieInboundWrite target data ep check tick) s fun t => t = s1) ∧ reads target fun t => t = s1)
      ∧ (on → check ≠ .good → Answers (.pcieInboundWrite target data ep check tick) s fun t =>
          let r := s1.detect pciePage 1
          t = with_ r { p with aer := if check = .ecrc then p.aer ||| 0x00080000#32 else p.aer })
      ∧ (on → inWindow → HasRoom s 5 (0x100 + w) (3 + (wordsOf data).length) → writes (.mem adr) fun t => ∃ st, Stamped s1 p.stamp s1.now st
          ∧ Enters s1 (with_ t p) 5 (0x100 + w) (at_ data.length 16 ||| flagAt ep 8) st (word off :: wordsOf data)
              (if ep then (wordsOf data).length else 0)
          ∧ t.pcie = { p with aer := if ep then p.aer ||| 0x00001000#32 else p.aer })
      ∧ (on → ¬inWindow → inTable → (writes (.mem adr) fun t => ∃ q, t = with_ s1 q ∧ { q with msix := p.msix } = p
            ∧ q.msix.get (fun k => if k % 4 = 3 then 1 else 0) ((adr - p.bar2.toNat) / 4) = v)
          ∧ reads (.mem adr) fun t => t = with_ s1 (answered (p.msix.get (fun k => if k % 4 = 3 then 1 else 0) ((adr - p.bar2.toNat) / 4))))
      ∧ (on → ¬inWindow → ¬inTable → writes (.mem adr) fun t => t = with_ s1 refused)
      ∧ (on → inWindow ∨ ¬inTable → reads (.mem adr) fun t => t = with_ s1 refused)
      ∧ (on → (writes (.io io) fun t => t = with_ s1 refused) ∧ reads (.io io) fun t => t = with_ s1 refused)
      ∧ (on → p.root = true → (writes (.config reg) fun t => t = with_ s1 refused) ∧ reads (.config reg) fun t => t = with_ s1 refused)
      ∧ (on → p.root = false → writes (.config reg) fun t => t = with_ s1 (match reg.val with
          | 4 => { p with bar0 := p.bar0.extractLsb' 32 32 ++ (v &&& 0xFF800000#32) }
          | 5 => { p with bar0 := v ++ p.bar0.setWidth 32 }
          | 6 => { p with bar2 := v &&& 0xFFFFF000#32 }
          | 8 => { p with memBase := v }
          | _ => p))
      ∧ (on → p.root = false → reads (.config reg) fun t => ∃ x, { t with free := s.free } = with_ s1 (answered x)
          ∧ (reg.val = 4 → x = p.bar0.setWidth 32 ||| 0xC#32) ∧ (reg.val = 5 → x = p.bar0.extractLsb' 32 32)
          ∧ (reg.val = 6 → x = p.bar2) ∧ (reg.val = 8 → x = p.memBase))
      ∧ (¬on ∨ p.root = false → Answers (.pcieMsiReceive msi tick) s fun t => t = s1)
      ∧ (on → p.root = true → fld msi 31 6 ≠ 0 → Answers (.pcieMsiReceive msi tick) s fun t =>
          t = (with_ s1 { p with badMsi := satInc p.badMsi }).raiseN 305)
      ∧ (on → p.root = true → fld msi 31 6 = 0 → Answers (.pcieMsiReceive msi tick) s fun t =>
          t = s1.raiseN (if fld msi 5 0 < 32 then 312 + fld msi 5 0 else 354 + (fld msi 5 0 - 32)))
      ∧ (On s 38 → p.up = false → Answers (.pcieLinkUp tick) s fun t => t = (with_ s1 { p with up := true }).raiseN 304)
      ∧ (p.up = true → Answers (.pcieLinkUp tick) s fun t => t = s1)

/-- R292, R293: flash commands and I²C transfers. -/
def OutsideResult : Prop :=
  ∀ (s : State) (strobe : Bool) (bytes : List Byte) (i : Fin 4) (ch : Nat) (ws : List Word) (how : I2cEnd) (lost : Fin 3)
      (once : Fin 2) (start tick : Nat),
    let s1 := s.advance tick
    let w0 := ws.getD 0 0
    let reads := fld w0 31 24
    let ref := min start s1.now
    let span : Span := { start := start, stop := tick }
    let run : I2cRun := { lost := lost, last := how }
    let hold : I2cHold := { lost := once, span := span }
    let flash := fun (P : State → Prop) => Answers (.xspiCommand bytes strobe { start := start, stop := tick }) s P
    let flashed := fun (r : State) =>
      let r1 := (takenOut r ch).raiseN 344
      { r1 with xspi := { r1.xspi with sent := r1.xspi.sent ++ [ws] } }
    let i2cOut := fun (r : State) => (takenOut r ch).setI2c i { s.i2c i with sent := (s.i2c i).sent ++ [ws] }
    let data := bytes.take reads
    let err := match how with
      | .done => 0
      | .nak => 1
      | .pecMismatch => if bit w0 12 then 16 else 0
    let failed := fun (e : Nat) (l : Nat) =>
      let a := if e = 0 then s1 else s1.detect (i2cPage i) 1
      if l = 0 then a else a.raiseN (346 + 2 * i.val)
    let leaves := fun (c : Instr) (a : State) (flags : Nat) (d : List Byte) => Answers c s fun t => ∃ r,
      Receives a r 5 (0x130 + 2 * i.val) flags (s.i2c i).stamp ref [w0] d ∧ t = i2cOut r
    quiet s →
      (s.txReady 0x121 = none ∨ ¬On s 39 → flash fun t => t = s1)
      ∧ (On s 39 → s.txReady 0x121 = some (ch, ws) → bit w0 1 = false → flash fun t => t = flashed s1)
      ∧ (On s 39 → s.txReady 0x121 = some (ch, ws) → bit w0 1 = true → strobe = true →
          RoomFor s 5 0x120 [] (bytes.take (fld (ws.getD 2 0) 15 0)) → flash fun t => ∃ r,
            Receives s1 r 5 0x120 0 s.xspi.stamp ref [] (bytes.take (fld (ws.getD 2 0) 15 0)) ∧ t = flashed r)
      ∧ (On s 39 → s.txReady 0x121 = some (ch, ws) → bit w0 1 = true → strobe = false → flash fun t =>
          t = flashed (s1.detect xspiPage 1))
      ∧ (s.txReady (0x131 + 2 * i.val) = none ∨ ¬On s (40 + i.val) →
          (Answers (.i2cTransfer i bytes run span) s fun t => t = s1)
          ∧ Answers (.i2cClockTimeout i hold) s fun t => t = s1)
      ∧ (On s (40 + i.val) → s.txReady (0x131 + 2 * i.val) = some (ch, ws) →
          (lost = 0 → err = 0 → reads = 0 → Answers (.i2cTransfer i bytes run span) s fun t => t = i2cOut s1)
          ∧ (lost ≠ 2 → ¬(lost = 0 ∧ err = 0 ∧ reads = 0) → RoomFor s 5 (0x130 + 2 * i.val) [w0] data →
              leaves (.i2cTransfer i bytes run span) (failed err lost) (err + 2 * lost.val) data)
          ∧ (lost = 2 → RoomFor s 5 (0x130 + 2 * i.val) [w0] [] →
              leaves (.i2cTransfer i bytes run span) (failed 0 1) 6 [])
          ∧ (RoomFor s 5 (0x130 + 2 * i.val) [w0] [] →
              leaves (.i2cClockTimeout i hold) (failed 8 once) (8 + 2 * once.val) []))
      ∧ (On s (40 + i.val) → Answers (.smbalert i tick) s fun t => t = s1.raiseN (347 + 2 * i.val))
      ∧ (¬On s (40 + i.val) → Answers (.smbalert i tick) s fun t => t = s1)

/-- R294, R295: the end of a memory controller's training, and boundary scans. -/
def ScanResult : Prop :=
  ∀ (s : State) (c : Fin 2) (ok : Bool) (tdi : List Bool),
    let j := s.jtag
    let fits := fun (k : Fin 2) => Config.memoryFit k
    let r : Training := if fits 0 = 0 ∧ fits 1 = 0 then .absent else if fits 0 ≠ fits 1 then .refused else if ok then .ready else .failed
    let scans := fun (i : Instr) (P : State → Prop) => Answers i s fun t => { t with jtag := j, free := s.free } = s ∧ P t
    let bypasses := fun (i : Instr) (ir : JtagIr) (drives : Bool) => scans i fun t =>
      t.jtag = { j with ir := ir, out := (false :: tdi).take tdi.length, drives := drives }
    let boundary := fun (i : Instr) (ir : JtagIr) (drives : Bool) => scans i fun t => ∃ out : List Bool, out.length = tdi.length
      ∧ t.jtag = { j with ir := ir, out := out, preload := tdi, drives := drives }
    (s.phase ≠ .off → Answers (.memoryTrainingComplete c ok) s fun t => { t with memCtl := s.memCtl } = s
        ∧ t.memc c = { s.memc c with training := some r, started := true } ∧ ∀ k, k ≠ c.val → t.memc k = s.memc k)
    ∧ (s.phase = .off → Answers (.memoryTrainingComplete c ok) s fun t => t = s)
    ∧ bypasses (.bypass tdi) .bypass false
    ∧ (scans (.idcode tdi) fun t => t.jtag = { j with ir := .idcode, out := (idcodeBits ++ tdi).take tdi.length, drives := false })
    ∧ (∀ k, k < 32 → idcodeBits[k]? = some ((0x1B712ACB : BitVec 32).getLsbD k))
    ∧ boundary (.samplePreload tdi) .samplePreload false
    ∧ (s.phase = .reset → boundary (.extest tdi) .extest true ∧ bypasses (.clamp tdi) .clamp true ∧ bypasses (.highz tdi) .highz true)
    ∧ (s.phase ≠ .reset → bypasses (.extest tdi) .extest false ∧ bypasses (.clamp tdi) .clamp false ∧ bypasses (.highz tdi) .highz false)

end Sys2Proof.Claims

/-- R283 to R288, R297: Ethernet, CAN FD and UART. The model's choices here are the tick of a stamp within its 4 ns, the count of a
frame's FCS, the order of a port's transmit queues, when TXTS is free, what an outside device sends, when DE is asserted between runs,
and the hash and the forms of the filters (log entries 30, 31, 32, 33, 85, 86, 145). -/
def Obligations.NetworkResult : Prop := Claims.EthernetResult ∧ Claims.CanResult ∧ Claims.UartResult

/-- R284, R289 to R295: PCIe from outside, flash commands, I²C, memory training and the boundary scan. The model's choices here are the tick
of a stamp within its 4 ns, the order of the boundary register, which transfers leave a record, what an outside device sends, what
memory is fitted, and the layout of the configuration space and of AER (log entries 30, 34, 83, 85, 119, 144). -/
def Obligations.PeripheralResult : Prop := Claims.PcieResult ∧ Claims.OutsideResult ∧ Claims.ScanResult

/-! ## Profiles, gates, epochs and standby -/

namespace Sys2Proof.Claims

/-- The writer is tenant 0, and no injection waits (R300, R332). -/
def Head (s : State) (who : Agent) : Prop := quiet s ∧ who.ten = 0

/-- Any accepted write to the power page but the second of SYS_RESET takes back the first (R300). -/
def noKey (s : State) : State := { s with power := { s.power with resetKey := false } }

/-- R300, R301, R310: changes of the profile. -/
def ProfileResult : Prop :=
  ∀ (s : State) (who : Agent) (v : Word),
    let p := s.power
    let code := fld v 1 0
    let named := fun (q : Profile) => code = (match q with | .neap => 0 | .mean => 1 | .spring => 2)
    let put := fun (P : Power → Prop) => Answers (.profileWrite who v) s fun t =>
      { t with power := p } = s ∧ t.power.resetKey = false ∧ P { t.power with resetKey := p.resetKey }
    (Head s who →
      (p.busy = true → put fun q => q = p)
      ∧ (p.busy = false → code = 3 ∨ (p.critical = true ∧ code ≠ 0) → put fun q => q = { p with result := 1 })
      ∧ (p.busy = false → code ≠ 3 → (p.critical = true → code = 0) → named p.current →
          put fun q => q = { p with result := 0, target := v.setWidth 2 })
      ∧ (∀ q, p.busy = false → code ≠ 3 → (p.critical = true → code = 0) → named q → q ≠ p.current →
          put fun r => r = { p with busy := true, result := 0, target := v.setWidth 2, changeTo := q, switched := false }))
    ∧ (quiet s → who.ten ≠ 0 → Answers (.profileWrite who v) s fun t => t = (noKey s).detect 0x002 0)
    ∧ (p.busy = true → p.switched = false → s.anyRolling = false → Answers .profileSwitch s fun t =>
        t.power = { p with current := p.changeTo, switched := true } ∧ { t with power := p } = s.commitAll)
    ∧ (p.busy = false ∨ p.switched = true ∨ s.anyRolling = true → Answers .profileSwitch s fun t => t = s)
    ∧ (p.busy = true → p.switched = true → Answers .profileChangeComplete s fun t =>
        t = { s with power := { p with busy := false, switched := false, result := 0 } })
    ∧ (p.busy = false ∨ p.switched = false → Answers .profileChangeComplete s fun t => t = s)
    ∧ (Answers .thermalForcedNeap s fun t => t.power.critical = true ∧ t.power.target = 0
        ∧ { t with power := p } = { s.detect 0x002 9 with power := p }
        ∧ (p.current = .neap ∧ p.busy = false → t.power.busy = false)
        ∧ (p.current ≠ .neap ∨ p.busy = true → t.power.busy = true ∧ t.power.changeTo = .neap))
    ∧ (Answers .thermalAlarmClear s fun t => t = { s with power := { p with critical := false } })

/-- A gate command has been refused with a reason (R303). -/
def GdRefused (s t : State) (reason : Nat) : Prop :=
  t = { s with power := { s.power with resetKey := false, gdResult := 2, gdReason := BitVec.ofNat 4 reason } }

/-- A gate command has been accepted: GD_STATUS, and what the domain's GD_STATE holds. -/
def GdTaken (s t : State) (d : Nat) (busy : Bool) (g : Gate) : Prop :=
  t.power = { s.power with resetKey := false, gdResult := if busy then 1 else 0, gdReason := 0, gdDom := s.power.gdSel }
    ∧ t.gate d = g ∧ ∀ e, e ≠ d → t.gate e = s.gate e

/-- R302, R303, R305, R309: the commands of GD_CMD and the completion of a gating. -/
def GateCommands : Prop :=
  ∀ (s : State) (who : Agent) (code : BitVec 4) (dom : Fin 45),
    let d := s.power.gdSel.toNat
    let g := s.gate d
    let six := [Instr.ungate who, .clkgate who, .pwrgate who, .gdHold who, .unhold who, .gdReset who]
    let free := s.power.gdResult ≠ 1 ∧ d < 45 ∧ g.st ≠ .reset
    let refuses := fun (c : Instr) (r : Nat) => Answers c s fun t => GdRefused s t r
    let takes := fun (c : Instr) (busy : Bool) (y : Gate) => Answers c s fun t => GdTaken s t d busy y
    let out := if g.st = .on then some s.power.epoch else g.epoch
    let gates := fun (c : Instr) (dest : GateState) =>
      (free → d ≠ 0 → g.st = dest → takes c false { g with gateBy := .headland })
      ∧ (free → d ≠ 0 → g.st ≠ dest → Answers c s fun t =>
          GdTaken s t d true { g with st := .going, next := dest, gateBy := .headland, epoch := out }
          ∧ (g.st = .on → d < 16 → ∀ i, i < 8 → (t.core (8 * d + i)).gated = true)
          ∧ (dest = .pwr → d < 16 → (t.cove d).cache.cells = []))
    (Head s who →
      (s.power.gdResult = 1 → 45 ≤ d ∨ g.st ≠ .reset → ∀ c, c ∈ six → refuses c 5)
      ∧ (s.power.gdResult ≠ 1 → 45 ≤ d → ∀ c, c ∈ six → refuses c 1)
      ∧ (d < 45 → g.st = .reset → ∀ c, c ∈ six → refuses c 2)
      ∧ (code.toNat = 0 ∨ 6 < code.toNat → refuses (.gdCmdUnknown who code) (if s.power.gdResult = 1 then 5 else 6))
      ∧ (free → d = 0 → refuses (.clkgate who) 4 ∧ refuses (.pwrgate who) 4)
      ∧ (free → 26 ≤ d → d ≠ 38 → refuses (.pwrgate who) 1)
      ∧ gates (.clkgate who) .clk
      ∧ (d < 26 ∨ d = 38 → gates (.pwrgate who) .pwr)
      ∧ (free → g.st = .on → takes (.ungate who) false { g with req := 0, deferred := false, reqTen := 0, status := .none, reqShown := 0 })
      ∧ (free → g.st ≠ .on → takes (.ungate who) true { g with
          req := 0, deferred := false, reqTen := 0, status := .none, reqShown := 0, st := .going, next := .on, gateBy := .none })
      ∧ (free → g.hold = 0xFFF#12 → refuses (.gdHold who) 3)
      ∧ (free → g.hold ≠ 0xFFF#12 → g.gateBy ≠ .harbour → takes (.gdHold who) false { g with hold := g.hold + 1 })
      ∧ (free → g.hold ≠ 0xFFF#12 → g.gateBy = .harbour → Answers (.gdHold who) s fun t => GdTaken s t d true { g with
          hold := g.hold + 1, st := .going, next := .on, gateBy := .none, deferred := true, status := .deferred }
          ∧ (s.phase ≠ .standby → (t.source 12).count = (arrived s (s.source 12)).count))
      ∧ (free → (g.deferred = false ∨ 1 < g.hold.toNat) → takes (.unhold who) false { g with hold := if g.hold = 0 then 0 else g.hold - 1 })
      ∧ (free → g.deferred = true → g.hold.toNat ≤ 1 → takes (.unhold who) true { g with
          hold := 0, st := .going, next := if g.req = 2 then .pwr else .clk, gateBy := .harbour, deferred := false, status := .applied, epoch := out })
      ∧ (free → d < 16 ∨ d = 44 → refuses (.gdReset who) 1)
      ∧ (free → 16 ≤ d → d ≠ 44 → takes (.gdReset who) true { g with
          st := .reset, next := .on, gateBy := .none, req := 0, deferred := false, reqTen := 0 }))
    ∧ (quiet s → who.ten ≠ 0 → ∀ c, c ∈ .gdCmdUnknown who code :: six → Answers c s fun t => t = (noKey s).detect 0x002 0)
    ∧ (let h := s.gate dom
       let done := if s.power.gdResult = 1 ∧ s.power.gdDom.toNat = dom.val then { s.power with gdResult := 0 } else s.power
       let completes := fun (P : State → Prop) => Answers (.gatingComplete dom) s fun t =>
         t.power = done ∧ (∀ e, e ≠ dom.val → t.gate e = s.gate e) ∧ P t
       (h.st = .going → h.next ≠ .on → completes fun t => t.gate dom = { h with st := h.next })
       ∧ (h.st = .going → h.next = .on → h.epoch = none ∨ h.epoch = some s.power.epoch → quiet s → completes fun t =>
          t.gate dom = { h with st := .on, epoch := none } ∧ (dom.val < 16 → ∀ i, i < 8 → (t.core (8 * dom.val + i)).gated = false))
       ∧ (h.st = .reset → 16 ≤ dom.val → dom.val < 44 → completes fun t =>
          t.gate dom = { h with st := .on, next := .on, epoch := none, status := .none, reqShown := 0 }
          ∧ (30 ≤ dom.val → dom.val < 38 → t.uart (dom.val - 30) = Uart.reset)
          ∧ (20 ≤ dom.val → dom.val < 26 → t.eth (dom.val - 20) = Eth.reset)
          ∧ (t.frame (gatePage dom)).owner = (s.frame (gatePage dom)).owner)
       ∧ (h.st ≠ .going → h.st ≠ .reset → Answers (.gatingComplete dom) s fun t => t = s))

/-- R304, R318: BLK_GATE by a page's owner, the configuration epoch, and a unit that rebuilds itself. -/
def HarbourGates : Prop :=
  ∀ (s : State) (who : Agent) (dom : Fin 45) (v : Word) (ch tick : Nat),
    let s1 := s.advance tick
    let g := s.gate dom
    let r := fld v 1 0
    let owner := (s.frame (gatePage dom)).owner = who.ten
    let able := dom.val ≠ 0 ∧ (r = 1 ∨ (r = 2 ∧ (dom.val < 26 ∨ dom.val = 38)))
    let writes := fun (P : State → Prop) => Answers (.blkGateWrite who dom v tick) s P
    let raised := fun (t : State) => s.phase ≠ .standby → (t.source 12).count = (arrived s (s.source 12)).count
    let asked := { g with req := BitVec.ofNat 2 r, reqTen := who.ten, reqShown := BitVec.ofNat 2 r }
    let clear := { g with req := 0, deferred := false, reqTen := 0, status := .none, reqShown := 0 }
    (¬owner → writes fun t => t = s1)
    ∧ (quiet s → owner → r ≠ 0 → ¬able ∨ g.st = .reset ∨ g.gateBy = .headland → writes fun t =>
        t = (s1.setGate dom { g with status := .refused, reqShown := BitVec.ofNat 2 r }).raiseN 12)
    ∧ (quiet s → owner → able → g.st ≠ .reset → g.gateBy ≠ .headland → g.hold ≠ 0 → writes fun t =>
        t = (s1.setGate dom { asked with deferred := true, status := .deferred }).raiseN 12)
    ∧ (quiet s → owner → able → g.st ≠ .reset → g.gateBy ≠ .headland → g.hold = 0 → writes fun t =>
        t.gate dom = { asked with
          deferred := false, status := .applied, st := .going, next := if r = 2 then .pwr else .clk, gateBy := .harbour
          epoch := if g.st = .on then some s.power.epoch else g.epoch }
        ∧ (∀ e, e ≠ dom.val → t.gate e = s.gate e) ∧ (16 ≤ dom.val → raised t))
    ∧ (quiet s → owner → r = 0 → g.deferred = true → writes fun t => t = s1.setGate dom clear)
    ∧ (quiet s → owner → r = 0 → g.deferred = false → g.gateBy = .harbour → writes fun t =>
        t = s1.setGate dom { clear with st := .going, next := .on, gateBy := .none })
    ∧ (quiet s → owner → r = 0 → g.deferred = false → g.gateBy ≠ .harbour → writes fun t =>
        t = s1.setGate dom { g with status := .none, reqShown := 0 })
    ∧ (Head s who → Answers (.epochCmd who v) s fun t => t = { s with power := { s.power with
        resetKey := false, epoch := if bit v 0 then s.power.epoch + 1 else s.power.epoch } })
    ∧ (∀ e, quiet s → g.st = .going → g.next = .on → g.epoch = some e → e ≠ s.power.epoch → Answers (.epochRebuild dom tick) s fun t =>
        t.gate dom = { g with st := .on, epoch := none } ∧ (∀ e, e ≠ dom.val → t.gate e = s.gate e)
          ∧ (16 ≤ dom.val → s.phase ≠ .standby → (t.source 14).count = (arrived s (s.source 14)).count)
          ∧ (16 ≤ dom.val → s.channels.sorted = true → 2 ≤ (s.channel ch).ty → (s.channel ch).ty ≤ 5 →
              (domainEndpoints dom).contains (s.channel ch).endpoint = true → t.channel ch = (s.channel ch).toStale)
          ∧ (dom.val < 16 → ∀ k, k ∈ s.leaders dom → (t.core k).arch.tlb = Tbl.empty ∧ (t.core k).gated = false))
    ∧ (g.st ≠ .going ∨ g.next ≠ .on ∨ g.epoch = none ∨ g.epoch = some s.power.epoch → Answers (.epochRebuild dom tick) s fun t => t = s1)

/-- R306: the entry to standby and its refusals, and the restart. -/
def StandbyResult : Prop :=
  ∀ (s : State) (who : Agent) (src : Fin 2048) (tick : Nat),
    let s1 := s.advance tick
    let p := s.power
    let working := p.busy = true ∨ ∃ n, n < 16 ∧ ((s.cove n).busy = true ∨ (s.cove n).copies ≠ [] ∨ (s.cove n).step ≠ .none
      ∨ (s.cove n).bankTest ≠ none)
    let latched := s.evc.wakeLatch &&& s.evc.wakeEn ≠ 0
    let refused := fun (r : Nat) => Answers (.enter who) s fun t => t = { s with power := { p with resetKey := false, stbyReason := BitVec.ofNat 8 r } }
    (Head s who → s.phase = .run →
      (working → refused 1)
      ∧ (¬working → s.board.pfwLow = true → refused 2)
      ∧ (¬working → s.board.pfwLow = false → latched → refused 3)
      ∧ (¬working → s.board.pfwLow = false → ¬latched → s.anyRolling = true → Answers (.enter who) s fun t =>
          t = { s with power := { p with resetKey := false, entering := true } })
      ∧ (¬working → s.board.pfwLow = false → ¬latched → s.anyRolling = false → Answers (.enter who) s fun t => t.phase = .standby
          ∧ t.power = { p with resetKey := false, monitorsOff := true, entering := false } ∧ (∀ n, (t.eth n).up = true → 6 ≤ n) ∧ t.pcie.up = false
          ∧ (∀ l, l < 4 → (t.link l).link ≠ .up) ∧ t.tides = s.tides ∧ t.entries = s.entries ∧ t.aon = s.aon))
    ∧ (s.phase ≠ .standby → Answers (.standbyRestart tick) s fun t => t = s1)
    ∧ (s.phase = .standby → s.heldEvents = [] → s.heldWakes = [] → ¬latched → Answers (.standbyRestart tick) s fun t => t = s1)
    ∧ (s.phase = .standby → s.heldEvents = [src] → s.heldWakes = [] → s.evc.wakeLatch = 0 → Answers (.standbyRestart tick) s fun t =>
        t.phase = .run ∧ t.heldEvents = [] ∧ t.power = { p with monitorsOff := false, stbyIn := true, restarts := satInc16 p.restarts }
          ∧ (t.source src).count = (arrived s1 (s.source src)).count ∧ ∀ j, j ≠ src.val → t.source j = s.source j)

end Sys2Proof.Claims

/-- R300 to R306, R309, R310, R318: profiles, gate domains, the configuration epoch, and standby. The model's choices here are that a
group that rolls back catches up before standby, what a gated cove commits and loses, and what a rebuild resets (log entries 69, 70,
71). -/
def Obligations.PowerResult : Prop := Claims.ProfileResult ∧ Claims.GateCommands ∧ Claims.HarbourGates ∧ Claims.StandbyResult

/-! ## Reset, persistence and boot -/

namespace Sys2Proof.Claims

/-- The state after a reset (R308, R311, R312, R349, R361): the Cave, the OTP, the generations, a sealed image and the link keys stay, and so do the
always-on domain and the wake latches where VDD_AON was not lost; memory outside the Cave is Unwritten; every other register has its reset
value; time and what waits go on. -/
def AfterReset (s t : State) (cause : Nat) (phase : Phase) (lost : Bool := false) : Prop :=
  let r := State.reset
  let aon := if lost then { Aon.reset with cntAt := s.now, lost := true } else s.aon
  t = { r with
      mem := t.mem, tags := t.tags, ecc := t.ecc, tenants := t.tenants, chGens := s.chGens, entryGens := s.entryGens, srcGens := s.srcGens
      outputs := t.outputs, links := t.links, jtag := { s.jtag with hykStatus := 0, hykCode := 0, hykData := 0, hykWait := none }
      evc := { r.evc with wakeLatch := if lost then 0 else s.evc.wakeLatch }
      power := { r.power with ebbEpoch := s.power.ebbEpoch }, aon := { aon with cause := BitVec.ofNat 4 cause, resumed := false, wdEn := false }, otp := s.otp, board := t.board, image := s.image.filter (·.sealed)
      undurable := s.undurable, now := s.now, free := s.free, pending := s.pending, phase := phase }
  ∧ (∀ pa, t.tagAt (4 * pa) = if region (4 * pa) = .cave then s.tagAt (4 * pa) else tagDefault pa)
  ∧ (∀ pa, region pa = .cave → t.byteAt pa = s.byteAt pa)
  ∧ (∀ n, t.tenant n = { Tenant.reset n with gen := (s.tenant n).gen })
  ∧ (∀ l, (t.link l).session = (s.link l).session ∧ (t.link l).link = .off ∧ ∀ p, ((t.link l).pos p).key = ((s.link l).pos p).key)
  ∧ ∀ n, t.output n = (if cause ≠ 1 ∧ n < 64
      then { Output.reset with kept := true, keptSafe := (s.output n).safeLevel, keptPaired := s.pairedSafe (n / 2 * 2) } else Output.reset)

/-- R300, R308, R311, R312, R349: the causes of reset, and the loss of the supplies. -/
def ResetCauses : Prop :=
  ∀ (s : State) (who : Agent) (v : Word) (lost : Bool),
    let key := s.power.resetKey
    let expired := s.aon.wdEn = true ∧ s.aon.wdMs.toNat * 7200000 * 5000 ≤ (s.now - s.aon.wdAt) * 5001
    let saves := s.phase = .saving ∨ s.phase = .saved ∨ s.phase = .off
    (Answers (.powerOnReset lost) s fun t => AfterReset s t 1 .reset lost
        ∧ t.board = { pfwLow := false, crystalLost := false, coasting := false, tidePllLost := false, io33Low := false, supplyBack := false })
    ∧ (s.phase ≠ .off → Answers .poreset s fun t => AfterReset s t 2 .reset ∧ t.board = s.board)
    ∧ (s.phase = .off → Answers .poreset s fun t => t = s)
    ∧ (expired → ¬saves → Answers .watchdogExpiry s fun t => AfterReset s t 3 .boot)
    ∧ (¬expired ∨ saves → Answers .watchdogExpiry s fun t => t = s)
    ∧ (Head s who →
        (fld v 15 0 = 0xA55A → key = true → Answers (.sysReset who v) s fun t => AfterReset s t 4 .boot)
        ∧ (fld v 15 0 = 0xA55A → key = false → Answers (.sysReset who v) s fun t => t = { s with power := { s.power with resetKey := true } })
        ∧ (fld v 15 0 ≠ 0xA55A → Answers (.sysReset who v) s fun t => t = noKey s))
    ∧ (quiet s → who.ten ≠ 0 → Answers (.sysReset who v) s fun t => t = s.detect 0x002 0)
    ∧ (Answers .powerOff s fun t => t.phase = .off ∧ t.otp = s.otp ∧ t.image = s.image.filter (·.sealed) ∧ t.undurable = [] ∧ t.chGens = s.chGens
        ∧ t.entryGens = s.entryGens ∧ t.srcGens = s.srcGens
        ∧ (s.undurable = [] → ∀ pa, region pa = .cave → t.byteAt pa = s.byteAt pa ∧ t.tagAt pa = s.tagAt pa))
    ∧ (Answers .vddIo33Fall s fun t => { t with outputs := s.outputs } = { s with board := { s.board with io33Low := true } }
        ∧ ∀ n, t.drive n = none ∧ t.output n = { s.output n with keptSafe := false, keptPaired := false })

/-- R310, R312 to R317, R321: the armed set, the save and its seal, the return of the supply, the return from an image, and the
commands of the OTP. -/
def EbbResult : Prop :=
  ∀ (s : State) (who : Agent) (n : BitVec 8) (k : Bool) (i : Image) (pfw : Option Nat) (tick later : Nat),
    let s1 := s.advance tick
    let low : State := if pfw = none then s1 else { s1 with board := { s1.board with pfwLow := true } }
    let long := ∀ m, pfw = some m → 100 ≤ m
    let p := s.power
    let o := s.otp
    let both := fun (r : Training) => (s.memc 0).training = some r ∧ (s.memc 1).training = some r
    let ready := both .ready ∨ both .absent
    let put := fun (c : Instr) (q : Power) => Answers c s fun t => t = { s with power := { q with resetKey := false } }
    let fuse := fun (c : Instr) (q : Otp) => Answers c s fun t => t = { noKey s with otp := q }
    let granules := fun (l : List PList) => (l.map fun e => e.granules).sum
    (Head s who →
      (∀ r, s.armBar = some r → put (.arm who) { p with ebbReason := BitVec.ofNat 4 r })
      ∧ (s.armBar = none → put (.arm who) { p with
          armed := true, granules := BitVec.ofNat 15 (granules s.readPList), armedP := s.readPList, armedC := s.readCList })
      ∧ (p.plist.toNat < 0x700000 → s.armBar = some 1)
      ∧ (16384 < granules s.readPList → s.armBar ≠ none)
      ∧ put (.disarm who) { p with armed := false }
      ∧ fuse (.otpRollback who n) { o with rollback := max o.rollback (min n.toNat 64) }
      ∧ fuse (.otpRevoke who k) { o with revoke := o.revoke ||| (if k then 2 else 1) }
      ∧ fuse (.otpBootcfg who n) { o with bootcfg := o.bootcfg ||| n })
    ∧ (quiet s → who.ten ≠ 0 → ∀ c, c ∈ [Instr.arm who, .disarm who, .otpRollback who n, .otpRevoke who k, .otpBootcfg who n] →
        Answers c s fun t => t = (noKey s).detect 0x002 0)
    ∧ (¬long ∨ s.phase = .off ∨ s.phase = .saving ∨ s.phase = .saved ∨ s.phase = .reset → Answers (.ebbTrigger { pfwLow := pfw, tick := tick }) s fun t => t = low)
    ∧ (long → s.phase = .boot ∨ s.phase = .bootWait → Answers (.ebbTrigger { pfwLow := pfw, tick := tick }) s fun t => t = { low with phase := .saving })
    ∧ (long → s.phase = .run → quiet s → Answers (.ebbTrigger { pfwLow := pfw, tick := tick }) s fun t => t.phase = .saving ∧ t.otp = o ∧ t.inj.open_ = false ∧ (∀ g e, bit ((t.frame g).inj.get (fun _ => 0) e) 31 = false)
        ∧ (p.armed = false → t.image = s.image ∧ t.power.ebbEpoch = p.ebbEpoch)
        ∧ (p.armed = true → t.power.ebbEpoch = p.ebbEpoch + 1 ∧ ∃ j, t.image = some j ∧ j.epoch = p.ebbEpoch + 1 ∧ j.sealed = false
            ∧ j.consumed = false ∧ j.waves = s.waves ∧ j.entries = s.entries ∧ j.armedP = p.armedP ∧ j.armedC = p.armedC))
    ∧ (s.board.crystalLost = true → exec (.crystalLossTimeout tick) s = exec (.ebbTrigger { pfwLow := none, tick := tick }) s)
    ∧ (s.board.crystalLost = false → Answers (.crystalLossTimeout tick) s fun t => t = s1)
    ∧ (s.phase ≠ .saving → Answers .ebbSeal s fun t => t = s)
    ∧ (s.phase = .saving → s.board.supplyBack = false → s.image = some i → i.epoch = p.ebbEpoch → i.sealed = false →
        Answers .ebbSeal s fun t => t = { s with phase := .saved, image := some { i with sealed := true, sources := s.sources }, undurable := [] })
    ∧ (s.phase = .saving → s.board.supplyBack = true → s.image = none → Answers .ebbSeal s fun t => AfterReset s t 5 .boot)
    ∧ (s.phase = .saved → Answers .supplyReturn s fun t => AfterReset s t 5 .boot ∧ t.board = { s.board with pfwLow := false, io33Low := false })
    ∧ (s.phase = .saving → Answers .supplyReturn s fun t =>
        t = { s with board := { s.board with pfwLow := false, io33Low := false, supplyBack := true } })
    ∧ (s.phase ≠ .saved → s.phase ≠ .saving → Answers .supplyReturn s fun t =>
        t = { s with board := { s.board with pfwLow := false, io33Low := false } })
    ∧ (s.image = none → Answers (.ebbReturn tick later) s fun t => t = s1.advance later)
    ∧ (s.phase = .reset ∨ s.phase = .boot ∨ s.phase = .bootWait → s.image = some i → i.sealed = true → i.consumed = false →
        i.epoch = p.ebbEpoch → ready → Answers (.ebbReturn tick later) s fun t =>
          if Config.trailerMatches i.epoch.toNat = false then t = s1.advance later
          else t.phase = .run ∧ t.image = some { i with consumed := true } ∧ t.power.epoch = p.epoch + 1 ∧ t.power.armed = true
            ∧ t.waves = i.waves ∧ t.outputs = i.outputs ∧ t.xspi = i.xspi ∧ t.pcie.up = false ∧ t.otp = o ∧ t.windows = []
            ∧ t.aon.resumed = true ∧ t.aon.returns = satInc16 s.aon.returns ∧ (s.aon.lost = true → t.aon.outLo = 0xFFFFFFFF#32)
            ∧ (s.aon.lost = false → ∃ e, (s1.now - s.aon.cntAt) * 32768 * 4999 / (5000 * 7200000000) ≤ e
                ∧ e ≤ (s1.now - s.aon.cntAt) * 32768 * 5001 / (5000 * 7200000000) + 1
                ∧ let m := (s.aon.cnt + BitVec.ofNat 48 e - i.haltCnt).toNat
                  t.aon.outLo = BitVec.ofNat 32 m ∧ t.aon.outHi = BitVec.ofNat 32 (m / 2 ^ 32)))
    ∧ (s.phase = .run ∨ ¬ready → Answers (.ebbReturn tick later) s fun t => t = s1.advance later)

/-- R321 to R325, R361: the boot ROM tries the allowed sources, and starts Headland from an image that passes every check. -/
def BootResult : Prop :=
  ∀ (s : State) (images : List BootImage),
    let allowed := fun (j : Nat) => s.otp.bootcfg.getLsbD j = true
    let good := fun (b : BootImage) => b.present = true ∧ b.code.length ≤ 262144 ∧ 4 * b.data.length ≤ 0x1C0000
      ∧ b.keyHash = (if b.key = 0 then s.otp.keyhash0 else s.otp.keyhash1) ∧ s.otp.revoke.getLsbD b.key.val = false ∧ b.sigOk = true
      ∧ s.otp.rollback ≤ b.version
      ∧ (s.otp.bootcfg.getLsbD 3 = true → b.enc = true) ∧ (b.enc = true → b.gcmOk = true)
    let held := s.phase = .reset ∧ s.board.pfwLow = true
    let starts := ¬held ∧ (s.phase = .reset ∨ s.phase = .boot)
    (starts → s.image = none → (∀ j b, j < 3 → allowed j → images[j]? = some b → ¬good b) → Answers (.bootRomRun images) s fun t =>
        { t with aon := s.aon, memCtl := s.memCtl } = { s with phase := .bootWait, bootAt := s.now } ∧ (∃ w, t.aon = { s.aon with boot := w })
          ∧ ∀ k, k < 2 → t.memc k = { s.memc k with started := true })
    ∧ (starts → s.image = none → quiet s → s.core 0 = Core.reset 0 → images.length = 3 → (∃ j, j < 3 ∧ allowed j) → (∀ b, b ∈ images → good b) →
        Answers (.bootRomRun images) s fun t => t.phase = .run ∧ ∃ b x, b ∈ images
          ∧ (∀ a, a < b.code.length → b.code[a]? = some (t.parcelAt a))
          ∧ (∀ a, b.code.length ≤ a → a < 2 ^ 22 → t.parcelAt a = 0)
          ∧ ((t.core 0).slot 1).st = .active ∧ (t.core 0).ctx 1 0 = some x ∧ x.pcc.w0 = BitVec.ofNat 32 b.entry ∧ x.pcc.tag = true
          ∧ x.ts.m = true ∧ x.home = 0 ∧ x.cur = 0 ∧ x.d = Vector.replicate 16 0 ∧ x.c[2].tag = true
          ∧ (decodeBounds x.c[2]).base = 0x1F3000 ∧ (decodeBounds x.c[2]).top = 0x1F3058 ∧ t.otp = s.otp)
    ∧ (held → Answers (.bootRomRun images) s fun t => t = { s with phase := .saving })
    ∧ (¬held → ¬starts → Answers (.bootRomRun images) s fun t => t = s)
    ∧ (s.phase = .bootWait → s.bootAt + 7200000000 ≤ s.now → Answers .bootRetry s fun t => t = { s with phase := .boot })
    ∧ (s.phase ≠ .bootWait ∨ s.now < s.bootAt + 7200000000 → Answers .bootRetry s fun t => t = s)

end Sys2Proof.Claims

/-- R308, R310 to R317, R321 to R325, R349, R361: resets, Ebb save and return, the OTP, and the boot ROM. The model's choices here are
what the counter reads within ±200 ppm, which undurable words a loss of power keeps, Headland's first context, what the image holds and
what is at reset after a return, what a reset keeps, the watchdog's start, the bounds of a boot image, and when the boot ROM waits (log
entries 35, 36, 37, 66, 67, 95, 108, 146, 147, 149, 150, 152). -/
def Obligations.BootResult : Prop := Claims.ResetCauses ∧ Claims.EbbResult ∧ Claims.BootResult

/-! ## Monitors, the always-on domain, register pages, the scrubber and Hykiow -/

namespace Sys2Proof.Claims

/-- R310, R311: the monitors of the power page, and the watchdog, the counter and the alarms of the always-on domain. The model's
choices: the count of the always-on counter, and half a timeout, are bounded by the oscillator's ±200 ppm and no more (log entries 35,
146). -/
def MonitorResult : Prop :=
  ∀ (s : State) (who : Agent) (sram : Bool) (n : Fin 16) (scope : CoveScope) (k : Fin 2) (tick : Nat),
    let s1 := s.advance tick
    let a := s.aon
    let b := s.board
    let inTheirLogs := fun (a : Nat) => ∃ j, j ∈ s.leaders n ∧ inItsLog s j a
    let inScope := fun (m : Nat) => match scope with
      | .one c => m = c.val
      | .all => m < 16
    let elapsed := s.now - a.cntAt
    let half := a.wdEn = true ∧ a.wdMs.toNat * 7200000 * 5000 ≤ 2 * (s1.now - a.wdAt) * 5001
    let least := (s1.now - a.cntAt) * 32768 * 4999 / (5000 * 7200000000)
    let most := (s1.now - a.cntAt) * 32768 * 5001 / (5000 * 7200000000) + 1
    let ahead := ((if k = 0 then a.alarm0 else a.alarm1) - (a.cnt + BitVec.ofNat 48 least).extractLsb' 0 32).toNat
    let c := a.cnt + BitVec.ofNat 48 least + BitVec.ofNat 48 ahead
    let rings := a.alctrl.getLsbD k.val = true ∧ ahead ≤ most - least ∧ a.rang[k] ≠ some c
    (Answers (.supplyWarning tick) s fun t => t = s1.detect 0x002 1)
    ∧ ((∀ j, j ∈ s.leaders n → MayRoll s j 3) → Answers (.supplyGlitch sram n tick) s fun t =>
        (t.frame 0x002).errStatus = (s.frame 0x002).errStatus ||| bitMask (if sram then 3 else 2)
        ∧ (∀ p, ¬inTheirLogs p → t.byteAt p = s.byteAt p) ∧ (∀ j, j ∈ s.leaders n → Rolls s t j 3) ∧ ∀ j, j ∉ s.leaders n → t.core j = s.core j)
    ∧ (s.power.monitorsOff = true → Answers (.clockMonitorAlarm scope tick) s fun t => t = s1)
    ∧ (s.power.monitorsOff = false → (∀ m j, inScope m → j ∈ s.leaders m → MayRoll s j 3) → Answers (.clockMonitorAlarm scope tick) s fun t =>
        (t.frame 0x002).errStatus = (s.frame 0x002).errStatus ||| bitMask (match scope with | .one _ => 4 | .all => 5)
        ∧ ∀ m j, inScope m → j ∈ s.leaders m → Rolls s t j 3)
    ∧ (Answers (.tidePllLoss tick) s fun t => { t with board := b } = s1.detect 0x002 6 ∧ t.board = { b with tidePllLost := true }
        ∧ ∀ i, t.drivesSafe i = true)
    ∧ (b.tidePllLost = false → Answers (.tidePllRelock tick) s fun t => t = s1)
    ∧ (b.tidePllLost = true → quiet s → Answers (.tidePllRelock tick) s fun t => t.board = { b with tidePllLost := false }
        ∧ ∀ i, i < 16 → (t.tide i).st = (if (s.tide i).en = true ∧ (s.tide i).kind ≠ 0 then .slack else (s.tide i).st))
    ∧ (Answers (.crystalLoss tick) s fun t => { t with board := b } = s1.detect 0x002 7 ∧ t.board = { b with crystalLost := true, coasting := true })
    ∧ (Answers .crystalReturn s fun t => t = { s with board := { b with crystalLost := false, coasting := false } })
    ∧ (Answers (.thermalWarning tick) s fun t => t = s1.detect 0x002 8)
    ∧ (Head s who → Answers (.aonKick who) s fun t => t = { s with aon := { a with wdAt := s.now, wdHalf := false } })
    ∧ (quiet s → who.ten ≠ 0 → Answers (.aonKick who) s fun t => t = s.detect 0x003 0)
    ∧ (half → a.wdHalf = false → Answers (.watchdogHalf tick) s fun t =>
        t = ({ s1 with aon := { a with wdHalf := true } } : State).detect 0x003 1)
    ∧ (¬half ∨ a.wdHalf = true → Answers (.watchdogHalf tick) s fun t => t = s1)
    ∧ (rings → Answers (.aonAlarm k tick) s fun t =>
        t = ({ s1 with aon := { a with cnt := c, cntAt := s1.now, rang := a.rang.set k.val (some c) } } : State).raiseN (10 + k.val))
    ∧ (¬rings → Answers (.aonAlarm k tick) s fun t => t = s1)
    ∧ (Answers (.aonCntLoRead who) s fun t => ∃ d : Nat, elapsed * 32768 * 4999 / (5000 * 7200000000) ≤ d
        ∧ d ≤ elapsed * 32768 * 5001 / (5000 * 7200000000) + 1
        ∧ let c := a.cnt + BitVec.ofNat 48 d
          { t with free := s.free } = { s with aon := { a with cnt := c, cntAt := s.now, capture := c.extractLsb' 32 16 } })

/-- R84, R331, R336, R338 to R340, R344: features, ownership, the detector block, and the injection window. FLOCK of the device-wide
page travels on the Undertow lane (R245). When the window may close is the model's choice (log entry 153). -/
def FrameResult : Prop :=
  ∀ (s : State) (who : Agent) (page : BitVec 12) (d : Fin 32) (v : Word) (k : Fin 128) (tick : Nat),
    let s1 := s.advance tick
    let pg := page.toNat
    let f := s.frame pg
    let sets := fun (c : Instr) (g : Frame) => Answers c s fun t => t = s.setFrame pg g
    let same := fun (c : Instr) => Answers c s fun t => t = s
    let header := [Instr.featAcceptWrite who page v, .flock who page, .pageOwnWrite who page v]
    let block := [Instr.errStatusClear who page v, .injHitClear who page v, .errEventSet who page v, .errEventClr who page v]
    let c := s.core k
    let word := (s.frame pg).inj.get (fun _ => 0) d.val
    let past := (s.inj.endAt - s.inj.openAt - 219727) * 5000 ≤ (s1.now - s.inj.openAt) * 5001
    (pageAssigned pg = false → ∀ c, c ∈ header ++ block → same c)
    ∧ (quiet s → pageAssigned pg = true → who.ten ≠ 0 → (∀ c, c ∈ header → Answers c s fun t => t = s.detect pg 0) ∧ ∀ c, c ∈ block → same c)
    ∧ (Head s who → pageAssigned pg = true →
        (f.flock = false → sets (.featAcceptWrite who page v) { f with accept := v &&& featOffer pg })
        ∧ (f.flock = true → (Answers (.featAcceptWrite who page v) s fun t => t = s.detect pg 0)
            ∧ Answers (.flock who page) s fun t => { t with undertow := s.undertow } = s ∧ (pg ≠ 0 → t = s))
        ∧ (f.flock = false → pg ≠ 0 → (pg < 0x020 ∨ 0x024 ≤ pg ∨ bit f.accept 0 = true) →
            sets (.flock who page) { f with flock := true, active := f.accept })
        ∧ (f.flock = false → pg = 0 → Answers (.flock who page) s fun t => (t.frame 0) = { f with flock := true }
            ∧ t.feat = { set := f.accept.setWidth 4, owing := s.allLeaders } ∧ t.power = { s.power with epoch := s.power.epoch + 1 }
            ∧ t.cores = s.cores ∧ t.undertow.seq = s.undertow.seq + 1 + s.allLeaders.length)
        ∧ (f.flock = false → 0x020 ≤ pg → pg < 0x024 → bit f.accept 0 = false → Answers (.flock who page) s fun t =>
            t.frame pg = { f with flock := true, active := f.accept } ∧ t.cores = s.cores
              ∧ t.link (pg - 0x020) = { s.link (pg - 0x020) with
                  lctrl := (s.link (pg - 0x020)).lctrl &&& ~~~0x40000000#32, lctrlNext := (s.link (pg - 0x020)).lctrlNext &&& ~~~0x40000000#32 })
        ∧ (f.lock = true → same (.pageOwnWrite who page v))
        ∧ (f.lock = false → BitVec.ofNat 12 (fld v 11 0) = f.owner ∨ pageDomain pg = none →
            sets (.pageOwnWrite who page v) { f with owner := BitVec.ofNat 12 (fld v 11 0), lock := bit v 31 })
        ∧ (∀ g, f.lock = false → BitVec.ofNat 12 (fld v 11 0) ≠ f.owner → pageDomain pg = some g →
            Answers (.pageOwnWrite who page v) s fun t => (t.frame pg).owner = BitVec.ofNat 12 (fld v 11 0) ∧ (t.frame pg).lock = bit v 31
              ∧ (t.gate g).req = 0 ∧ (t.gate g).deferred = false ∧ ((s.gate g).gateBy = .harbour → (t.gate g).st = .going ∧ (t.gate g).next = .on))
        ∧ sets (.errStatusClear who page v) { f with errStatus := f.errStatus &&& ~~~v }
        ∧ sets (.injHitClear who page v) { f with injHit := f.injHit &&& ~~~v }
        ∧ sets (.errEventSet who page v) { f with errEvent := f.errEvent ||| v }
        ∧ sets (.errEventClr who page v) { f with errEvent := f.errEvent &&& ~~~v })
    ∧ (let applies := Answers (.featureSetApply k) s fun t =>
          (t.core k).arch.groups = s.feat.set ∧ (∀ g, (t.core k).tm.shadow = some g ∨ (t.core k).tm.pending = some g → g.groups = s.feat.set)
            ∧ t.feat = { s.feat with owing := s.feat.owing.filter fun j => decide (j ≠ k.val) }
            ∧ ((∀ j, j ∈ s.feat.owing → j = k.val) → (t.frame 0).active = (s.frame 0).accept)
       (k.val ∈ s.feat.owing → s.coreRuns k = false → c.tm.st ≠ .restore → c.tm.st ≠ .replay → c.tm.st ≠ .copy → applies)
       ∧ (quiet s → k.val ∈ s.feat.owing → s.coreRuns k = true →
          c.tm.st = .run ∨ (s.cove (k.val / 8)).copies = [] ∧ (s.cove (k.val / 8)).fenced = [] → applies))
    ∧ (k.val ∉ s.feat.owing ∨ c.tm.st = .restore ∨ c.tm.st = .replay ∨ c.tm.st = .copy → same (.featureSetApply k))
    ∧ (Owns s who 0x004 →
        (s.inj.first = none → v = 0x1D0C#32 → Answers (.injUnlock who v tick) s fun t =>
          t = { s1 with inj := { s.inj with first := some (who, s1.now) } })
        ∧ (∀ t0, s.inj.first = some (who, t0) → v = 0xE2F3#32 → s1.now - t0 ≤ 7200 → Answers (.injUnlock who v tick) s fun t =>
            t = { s1 with inj := { s.inj with
              open_ := true, first := none, openAt := s1.now, endAt := s1.now + min (max (fld s.inj.window 15 0) 1) 60000 * 7200000 } })
        ∧ (s.inj.first = none → v ≠ 0x1D0C#32 → Answers (.injUnlock who v tick) s fun t => t = s1.detect 0x004 0)
        ∧ Answers (.injLock who) s fun t => t.inj.open_ = false ∧ t.inj.waiting = [] ∧ ∀ p e, bit ((t.frame p).inj.get (fun _ => 0) e) 31 = false)
    ∧ (s.inj.open_ = true → past → Answers (.injectionWindowExpiry tick) s fun t =>
        t.inj.open_ = false ∧ t.inj.waiting = [] ∧ ∀ p e, bit ((t.frame p).inj.get (fun _ => 0) e) 31 = false)
    ∧ (s.inj.open_ = false ∨ ¬past → Answers (.injectionWindowExpiry tick) s fun t => t = s1)
    ∧ (detCount pg ≤ d.val → same (.injCtrlWrite who page d v))
    ∧ (Head s who → d.val < detCount pg →
        (s.inj.open_ = false → Answers (.injCtrlWrite who page d v) s fun t => t = s.detect pg 0)
        ∧ (s.inj.open_ = true → Answers (.injCtrlWrite who page d v) s fun t => { t with inj := s.inj } = s.setFrame pg { f with
            inj := f.inj.put d.val v } ∧ t.inj.waiting = s.inj.waiting))
    ∧ (s.inj.open_ = false ∨ bit word 31 = false ∨ fld word 19 16 = 0 → Answers (.injectionFire page d tick) s fun t => t = s1)
    ∧ (s.inj.open_ = true → bit word 31 = true → bit word 30 = false → fld word 19 16 ≠ 0 → fld word 19 16 ≤ kindsOf pg d.val →
        s.pageInService pg = true → pg ≠ 0x002 → pg ≠ 0x003 → Answers (.injectionFire page d tick) s fun t =>
          t.inj.waiting = s.inj.waiting ++ [{ page := pg, d := d.val, word := word }]
            ∧ { t with inj := s.inj } = s1.setFrame pg { f with inj := f.inj.put d.val (word &&& 0x7FFFFFFF#32) })
    ∧ (bit word 30 = true → s1.now < s.inj.next.get (fun _ => 0) (32 * pg + d.val) → Answers (.injectionFire page d tick) s fun t => t = s1)

/-- The register pages' other registers, by the examples that the statement lists: a register holds what its owner wrote to its
fields; a counter reads as 0 after a read; an offset without a register, and a page that is not the writer's, keep nothing. -/
def RegisterResult : Prop :=
  ∀ (s : State) (who : Agent) (v : Word) (p : Fin 6) (n : Fin 16) (l : Fin 4) (off : BitVec 12) (d : Fin 32) (page : BitVec 12),
    let w := fun (page off : Nat) (P : State → Prop) => Answers (.registerWrite who (BitVec.ofNat 12 page) (BitVec.ofNat 12 off) v) s P
    let r := fun (page off : Nat) (P : State → Prop) => Answers (.counterRcRead who (BitVec.ofNat 12 page) (BitVec.ofNat 12 off)) s P
    let e := s.evc
    let k := 8 * n.val
    let c := s.core k
    let lead := s.pageCore k = some k
    (Head s who →
      w 0x003 0x048 (fun t => t = { s with aon := { s.aon with alarm0 := v, rang := s.aon.rang.set 0 none } })
      ∧ w 0x003 0x050 (fun t => t = { s with aon := { s.aon with alctrl := v.setWidth 2 } })
      ∧ w 0x003 0x054 (fun t =>
          let starts := bit v 31 = true ∧ s.aon.wdEn = false
          t = { s with aon := { s.aon with
            wdEn := s.aon.wdEn || bit v 31, wdMs := v.setWidth 16
            wdAt := if starts then s.now else s.aon.wdAt, wdHalf := if starts then false else s.aon.wdHalf } })
      ∧ w 0x002 0x048 (fun t => t = { s with power := { s.power with resetKey := false, gdSel := v.setWidth 6 } })
      ∧ w 0x002 0x068 (fun t => t = { s with power := { s.power with resetKey := false, plist := v &&& 0xFFFFF8#32 } })
      ∧ w (0x028 + p.val) 0x040 (fun t => t = s.setEth p { s.eth p with stamp := v &&& stampMask })
      ∧ (lead → w (corePage k) 0x180 (fun t => t = s.setCore k { c with tm := { c.tm with ctrlNext := v &&& 0x03FF0007#32 } }))
      ∧ (lead → w (corePage k) 0x100 (fun t => t = s.setCore k { c with mpuBase := c.mpuBase.set 0 v }))
      ∧ w (covePage n + 1) 0x060 (fun t => t = s.setCove n { s.cove n with stestCtrl := v &&& 0xCFFF0000#32 }))
    ∧ (Owns s who 0x001 → w 0x001 0x040 (fun t => t = { s with tenTable := { s.tenTable with sel := v.setWidth 12 } }))
    ∧ (Owns s who 0x010 → w 0x010 0x040 (fun t => t = { s with evc := { e with sel := v.setWidth 11 } }))
    ∧ (Owns s who 0x010 → w 0x010 0x300 (fun t => t = { s with evc := { e with
        wakeEn := (e.wakeEn &&& 0xFFFFFFFF00000000#64) ||| v.setWidth 64 } }))
    ∧ (Owns s who 0x008 → w 0x008 0x0C8 (fun t => t = { s with churn := { s.churn with tcapSel := v.setWidth 12 } }))
    ∧ (Owns s who (covePage n) → w (covePage n) 0x040 (fun t => t = s.setCove n { s.cove n with scrubCtrl := v &&& 0xFFFF0001#32 }))
    ∧ (Owns s who (0x020 + l.val) → 1 ≤ fld v 4 0 → fld v 4 0 ≤ 30 →
        w (0x020 + l.val) 0x060 (fun t => t = s.setLink l { s.link l with psel := v.setWidth 5 }))
    ∧ (quiet s → (s.frame (covePage n)).owner ≠ who.ten → w (covePage n) 0x040 (fun t => t = s.detect (covePage n) 0))
    ∧ w 0x006 0x040 (fun t => t = s)
    ∧ w 0x009 0x040 (fun t => t = s)
    ∧ r (covePage n) 0x050 (fun t => t = s.setCove n { s.cove n with eccData := 0 })
    ∧ r (covePage n) 0x070 (fun t => t = s.setCove n { s.cove n with codeData := 0 })
    ∧ r 0x010 0x080 (fun t => t = { s with evc := { e with urgCnt := 0 } })
    ∧ r (0x020 + l.val) 0x054 (fun t => t = s.setLink l { s.link l with late := 0 })
    ∧ (lead → r (corePage k) 0x190 (fun t => t = s.setCore k { c with tm := { c.tm with commits := 0 } }))
    ∧ r (covePage n + 1) 0x054 (fun t => t = s.setCove n { s.cove n with glitchCnt := 0 })
    ∧ (off.toNat < 0x040 → page ≠ 0x004 → Answers (.counterRcRead who page off) s fun t => t = s)
    ∧ (d.val < detCount page.toNat → page ≠ 0x004 → Answers (.counterRcRead who page (BitVec.ofNat 12 (0xD00 + 8 * d.val))) s fun t =>
        t = s.setFrame page.toNat { s.frame page.toNat with counts := (s.frame page.toNat).counts.put d.val 0 })

/-- R48, R52, R53, R291, R295, R296, R335: the scrubber's step and its repairs, the PCIe link's loss, HYK_EN, and scans of Hykiow. The
model's choices: the order in which a memory controller's patrol goes through its beats (log entry 123), and that a scan which finds
the command before it busy begins none (log entry 49). -/
def ScrubAndScan : Prop :=
  ∀ (s : State) (n : Fin 16) (ch : Fin 2) (idx : Nat) (rest : List Repair) (who : Agent) (v : Word) (adr : BitVec 40) (w : Word)
    (tg : Tag) (s2 : State) (tick : Nat) (pa0 : Nat) (st0 : Option Word),
    let cv := s.cove n
    let runs := (s.gate n).st = .on ∧ s.phase ≠ .off ∧ s.phase ≠ .standby
    let pa := 0xE000000000 + 0x200000 * n.val + 4 * idx
    let place := adr.toNat / 4 * 4
    let mc := s.memc ch
    let beats := fitGiB (Config.memoryFit ch) * 2 ^ 27 / 16 * 15
    let patrols := bit mc.scrubCtrl 0 = true ∧ s.extUp = true ∧ s.phase ≠ .off ∧ s.phase ≠ .standby ∧ beats ≠ 0
    let through := beats + beats / 16 ≤ mc.scrubPos + 1
    let hyk := s.hykEn = true ∧ s.otp.bootcfg.getLsbD 4 = false
    let j := s.jtag
    let shifted := fun (op a d : Nat) => (false :: (List.range 76).map fun i => (op * 2 ^ 74 + a * 2 ^ 32 + d).testBit i).take 76
    let asBypass := fun (t : State) (op a d : Nat) => t = { s with jtag := { j with ir := .hykiow, out := shifted op a d, drives := false } }
    let scanned : State := { s with jtag := { j with ir := .hykiow, out := j.hykOut, drives := false } }
    let idle := j.hykWait = none
    let held := fun (a : Nat) => s.heldBack notACore a = true
    (bit cv.scrubCtrl 0 = false ∨ ¬runs → Answers (.scrubStep (.cove n)) s fun t => t = s)
    ∧ (bit cv.scrubCtrl 0 = true → runs → (∀ b, b < 16 → (s.eccAt (sramWord n (wordOfBank b cv.scrubPos.toNat))) = Ecc.clean) →
        s.codeEccAt (n.val * 2 ^ 18 + cv.codePos.toNat) = Ecc.clean → Answers (.scrubStep (.cove n)) s fun t =>
          t = s.setCove n { cv with scrubPos := cv.scrubPos + 1, codePos := cv.codePos + 1
                                    scrubPasses := if cv.scrubPos + 1 = 0 then satInc cv.scrubPasses else cv.scrubPasses })
    ∧ (¬patrols → Answers (.scrubStep (.memory ch)) s fun t => t = s)
    ∧ (patrols → (if mc.scrubPos < beats then s.eccAt (beatAddr ch mc.scrubPos) = Ecc.clean
          else s.carveAt (beatAddr ch (16 * (mc.scrubPos - beats))) = Ecc.clean) → Answers (.scrubStep (.memory ch)) s fun t =>
        t = { s with memCtl := s.memCtl.put ch { mc with
          scrubPos := if through then 0 else mc.scrubPos + 1, scrubPasses := if through then satInc mc.scrubPasses else mc.scrubPasses } })
    ∧ (cv.repairs = [] ∨ ¬runs → Answers (.repairQueueRewrite n) s fun t => t = s)
    ∧ (idx < 0x80000 → cv.repairs = .word idx :: rest → runs → (s.eccAt pa).cls pa = 1 ∨ (s.eccAt pa).cls pa = 2 →
        Answers (.repairQueueRewrite n) s fun t => { t with ecc := s.ecc } = s.setCove n { cv with repairs := rest } ∧ t.eccAt pa = Ecc.clean
          ∧ ∀ q, q / 4 ≠ pa / 4 → t.eccAt q = s.eccAt q)
    ∧ (s.pcie.up = false → Answers (.pcieLinkDown tick) s fun t => t = s.advance tick)
    ∧ (s.pcie.up = true → (∀ (k : Fin 128) (sl : Fin 8) o, ((s.core k).slot sl).wait ≠ .outside true o) →
        Answers (.pcieLinkDown tick) s fun t => t.mem = s.mem
          ∧ (let lost := (s.cores.cells.map fun e => (e.2.posted.filter fun p => decide (p.kind = .outside)).length).sum
             ∃ d, t.pcie = { s.pcie with up := false, discarded := d } ∧ d.toNat = min (s.pcie.discarded.toNat + lost) 0xFFFFFFFF) ∧ t.now = (s.advance tick).now
          ∧ (s.phase ≠ .standby → (t.source 304).count = (arrived s (s.source 304)).count)
          ∧ ∀ k, t.core k = { s.core k with posted := (s.core k).posted.filter fun p => decide (p.kind ≠ .outside) })
    ∧ (Head s who → Answers (.hykEnWrite who v) s fun t =>
        t = if s.otp.bootcfg.getLsbD 4 then s else { s with hykEn := bit v 0 })
    ∧ (quiet s → who.ten ≠ 0 → Answers (.hykEnWrite who v) s fun t => t = s.detect 0x005 0)
    ∧ (¬hyk → (Answers .hykiowStatus s fun t => asBypass t 3 0 0) ∧ (Answers (.hykiowReadWord none) s fun t => asBypass t 0 0 0)
        ∧ (Answers (.hykiowReadWord (some adr)) s fun t => asBypass t 1 adr.toNat 0)
        ∧ Answers (.hykiowWriteWord adr v) s fun t => asBypass t 2 adr.toNat v.toNat)
    ∧ (hyk → idle → (Answers .hykiowStatus s fun t => t = scanned) ∧ Answers (.hykiowReadWord none) s fun t => t = scanned)
    ∧ (hyk → j.hykWait = some (pa0, st0) → held pa0 → ∀ c, c ∈ [.hykiowStatus, .hykiowReadWord none, .hykiowReadWord (some adr), .hykiowWriteWord adr v] →
        Answers c s fun t => t = scanned)
    ∧ (hyk → j.hykWait = some (pa0, none) → ¬held pa0 → (s.core Config.hykCore).mpu hykIssuer pa0 true false = none →
        ({ s with jtag := { j with hykWait := none } } : State).targetLoad hykIssuer (hykPlace pa0) 4 = (.ok (w, tg), s2) →
        Answers .hykiowStatus s fun t =>
          let r := { s2.jtag with hykStatus := 0, hykCode := 0, hykData := w }
          t = { s2 with jtag := { r with ir := .hykiow, out := r.hykOut, drives := false } })
    ∧ (hyk → idle → held place → (s.core Config.hykCore).mpu hykIssuer place true false = none → Answers (.hykiowReadWord (some adr)) s fun t =>
        t = { s with jtag := { scanned.jtag with hykStatus := 1, hykCode := 0, hykData := 0, hykWait := some (place, none) } })
    ∧ (hyk → idle → (s.core Config.hykCore).mpu hykIssuer place true false ≠ none → Answers (.hykiowReadWord (some adr)) s fun t =>
        t = { s with jtag := { scanned.jtag with hykStatus := 2, hykCode := 0x0E#6, hykData := 0 } })
    ∧ (hyk → idle → (s.core Config.hykCore).mpu hykIssuer place true false = none → ¬held place →
        scanned.targetLoad hykIssuer (hykPlace place) 4 = (.ok (w, tg), s2) → Answers (.hykiowReadWord (some adr)) s fun t =>
          t = { s2 with jtag := { s2.jtag with hykStatus := 0, hykCode := 0, hykData := w } })
    ∧ (hyk → idle → Sound s → (s.core Config.hykCore).mpu hykIssuer place false true = none → ¬held place → s.storeRefused place true false = false →
        s.foreignPrivate none place = false → s.taggedTarget place = true → Answers (.hykiowWriteWord adr v) s fun t =>
          t.wordAt place = v ∧ t.tagAt place = .written ∧ t.jtag = { scanned.jtag with hykStatus := 0, hykCode := 0, hykData := 0 })

end Sys2Proof.Claims

/-- R310, R311: the monitors and the always-on domain. -/
def Obligations.MonitorResult : Prop := Claims.MonitorResult

/-- R6, R48, R52, R53, R84, R291, R295, R296, R327 to R340, R344: register pages, features, injections, the scrubber, and Hykiow. -/
def Obligations.PageResult : Prop := Claims.FrameResult ∧ Claims.RegisterResult ∧ Claims.ScrubAndScan

/-! ## The whole machine -/

/-- A step takes the command at the front of the queue and runs it with the queue's rest; on an empty queue the block idles (the
model's choice, log entry 12). -/
def Obligations.StepRunsFront : Prop :=
  (∀ (c : Instr) (r : List Instr) (s : State), step { s with pending := c :: r } = exec c { s with pending := r })
    ∧ ∀ s : State, s.pending = [] → step s = .next s

/-- R158: which entry of a core's TLB translates an access that has not been given its address yet (R165). -/
def Obligations.TlbLookup : Prop :=
  ∀ (s : State) (i : Issuer) (q : Query) (va : Nat),
    capCheck q.cap q.kind q.val = .ok () → formAddress q.am q.reg q.cap q.disp q.size = .ok va →
    s.inj.waiting = [] → (s.core i.core).arch.tlb.sorted = true → (∀ g, g ∈ ((s.core i.core).slot i.slot).given → g.1 ≠ BitVec.ofNat 32 va) →
    let e := fun j => (s.core i.core).tlbEntry j
    let size := fun j => fld (e j).w2 29 24
    let hit := fun j => bit (e j).w2 31 = true ∧ va / 2 ^ size j = (e j).w0.toNat / 2 ^ size j
      ∧ (bit (e j).w2 30 = true ∨ fld (e j).w2 23 12 = i.cur.toNat)
    (∀ j, 8 ≤ size j ∧ size j ≤ 32 ∧ (e j).w1.toNat % 2 ^ (size j - 8) = 0) →
    ((∀ j, ¬hit j) → ∃ f t, s.locate i q = (.error f, t) ∧ f.code = 0x08)
    ∧ ∀ j, hit j → (∀ m, m < j → ¬hit m) → (e j).words.permit q.kind.load q.kind.store = .ok () →
        let pa := (e j).w1.toNat * 256 + va % 2 ^ size j
        (s.core i.core).mpu i pa q.kind.load q.kind.store = none → (q.short = true → ∀ n, region pa ≠ .page n) →
        ∃ p t, s.locate i q = (.ok p, t) ∧ p.va = va ∧ p.pa = pa

/-- R33, R42, R84, R114, R155, R173, R175, R183, R193, R203, R209, R216, R226, R227, R251, R278, R286, R290, R300 to R302, R311, R333:
what reset leaves. That nothing waits in the queue of commands is the model's own. -/
def Obligations.AtReset : Prop :=
  Sound State.reset ∧ State.reset.pending = [] ∧ (∀ a, State.reset.tagAt a = .unwritten)
    ∧ (∀ k, let c := State.reset.core k
        (∀ sl : Fin 8, (c.slot sl).st = .empty) ∧ c.arch.wheel = 0x22222222#32 ∧ c.arch.groups = 0xF#4 ∧ c.posted = []
        ∧ (∀ j, bit (c.tlbEntry j).w2 31 = false) ∧ (∀ n : Fin 8, c.tlbWin[n] = 0)
        ∧ (∀ n : Fin 16, c.mpuBase[n] = 0 ∧ c.mpuAttr[n] = 0)
        ∧ c.tm.st = .run ∧ c.tm.ctrl = 0x00140000#32 ∧ c.tm.logBase = BitVec.ofNat 32 (0x70 + k % 8) ∧ c.tm.priv = 1)
    ∧ (State.reset.cove 0).mode = .triple ∧ (∀ n, n ≠ 0 → (State.reset.cove n).mode = .split)
    ∧ (∀ n, (State.reset.cove n).scrubCtrl = 0x00100001#32)
    ∧ (State.reset.tenant 0).st = .running ∧ (State.reset.tenant 0).base = 0 ∧ (State.reset.tenant 0).last = 0xFFFFFFFF#32
    ∧ (∀ t, t ≠ 0 → (State.reset.tenant t).st = .free ∧ (State.reset.tenant t).base = 1 ∧ (State.reset.tenant t).last = 0)
    ∧ State.reset.now = 0
    ∧ (∀ i, let t := State.reset.tide i
        t.st = .off ∧ t.tsrc = 0 ∧ t.tlen = 0x04C4B400#32 ∧ t.tlim = 0x01000100#32 ∧ t.tgain = 0x28#32 ∧ t.tfall = 0x04080000#32)
    ∧ (∀ i, (State.reset.entry i).armed = false ∧ (State.reset.entry i).ctrl = 0)
    ∧ (∀ i, (State.reset.output i).ocfg = 0) ∧ (∀ i, (State.reset.mod i).mcfg = 0x002C0800#32)
    ∧ (∀ i, (State.reset.wave i).st = .idle)
    ∧ (∀ i, let e := State.reset.source i
        e.en = false ∧ e.pend = false ∧ e.svc = .idle ∧ e.coal = 0x01000000#32 ∧ e.age = 0x64#32)
    ∧ (∀ i, (State.reset.channel i).st = .stopped)
    ∧ (∀ l, let k := State.reset.link l
        k.lctrl = 0x00101008#32 ∧ k.lperiod = 0x00102710#32 ∧ k.loop = 0xFFFFFFFF#32 ∧ k.psel = 1)
    ∧ (∀ i, (State.reset.eth i).ptpInc = 0x40000000#32) ∧ State.reset.pcie.cplto = 0x2710#32
    ∧ State.reset.power.current = .mean ∧ State.reset.power.armed = false ∧ (∀ d, (State.reset.gate d).st = .on)
    ∧ State.reset.aon.cause = 1 ∧ State.reset.hykEn = false
    ∧ ∀ p, pageAssigned p = true → (State.reset.frame p).owner = 0 ∧ (State.reset.frame p).lock = decide (p < 0x024)
        ∧ (State.reset.frame p).errEvent = 0xFFFFFFFF#32

/-- The memory of the device, its tags, the code stores and their check bits stay canonical, whatever command is at the front of the
queue: no step lists an address twice, out of order, or with what an unlisted one reads as; so equal contents are equal data. -/
def Obligations.SoundKept : Prop :=
  ∀ s t : State, Sound s → step s = .next t → Sound t
end

