-- ==== Sys2Proof/Laws/Tbl.lean ====
section
/-! SUPPORT. Sparse tables: a put is read back where it was made and nowhere else, and keeps the table's form. -/

namespace Sys2Proof.Laws

open Sys2Proof.Machine

variable {α : Type}

/-- A value put at a key is found there. -/
theorem cellsFind_cellsPut_self (l : List (Nat × α)) (k : Nat) (v : α) : cellsFind (cellsPut l k v) k = some v := by
  induction l with
  | nil => simp [cellsPut, cellsFind]
  | cons e r ih =>
    obtain ⟨j, w⟩ := e
    by_cases h1 : k < j
    · simp [cellsPut, h1, cellsFind]
    · by_cases h2 : k = j
      · simp [cellsPut, h2, cellsFind]
      · simp [cellsPut, h1, h2, cellsFind, Ne.symm h2, ih]

/-- A put leaves every other key. -/
theorem cellsFind_cellsPut_ne (l : List (Nat × α)) {j k : Nat} (v : α) (h : j ≠ k) :
    cellsFind (cellsPut l k v) j = cellsFind l j := by
  induction l with
  | nil => simp [cellsPut, cellsFind, Ne.symm h]
  | cons e r ih =>
    obtain ⟨i, w⟩ := e
    by_cases h1 : k < i
    · simp [cellsPut, h1, cellsFind, Ne.symm h]
    · by_cases h2 : k = i
      · subst h2; simp [cellsPut, cellsFind, Ne.symm h]
      · simp [cellsPut, h1, h2, cellsFind, ih]

/-- A table reads back what was put at a key. -/
@[simp] theorem get_put_self (dflt : Nat → α) (t : Tbl α) (k : Nat) (v : α) : (t.put k v).get dflt k = v := by
  simp [Tbl.get, Tbl.put, cellsFind_cellsPut_self]

/-- A put leaves what every other key reads as. -/
theorem get_put_ne (dflt : Nat → α) (t : Tbl α) {j k : Nat} (v : α) (h : j ≠ k) :
    (t.put k v).get dflt j = t.get dflt j := by
  simp [Tbl.get, Tbl.put, cellsFind_cellsPut_ne _ _ h]

/-- The later of two puts at a key stays. -/
theorem cellsPut_cellsPut (l : List (Nat × α)) (k : Nat) (v w : α) : cellsPut (cellsPut l k v) k w = cellsPut l k w := by
  induction l with
  | nil => simp [cellsPut]
  | cons e r ih =>
    obtain ⟨j, u⟩ := e
    by_cases h1 : k < j
    · simp [cellsPut, h1]
    · by_cases h2 : k = j
      · simp [cellsPut, h2]
      · simp [cellsPut, h1, h2, ih]

/-- The later of two puts at a key stays. -/
@[simp] theorem put_put (t : Tbl α) (k : Nat) (v w : α) : (t.put k v).put k w = t.put k w := by
  simp [Tbl.put, cellsPut_cellsPut]

/-- What a key reads as after a put. -/
theorem get_put (dflt : Nat → α) (t : Tbl α) (j k : Nat) (v : α) :
    (t.put k v).get dflt j = if j = k then v else t.get dflt j := by
  by_cases h : j = k
  · subst h; simp
  · simp [get_put_ne dflt t v h, h]

/-- A table with nothing listed reads as its defaults. -/
@[simp] theorem get_empty (dflt : Nat → α) (k : Nat) : (Tbl.empty : Tbl α).get dflt k = dflt k := rfl

/-- The keys of a list that rises from a bound lie above it. -/
theorem cellsFind_of_sorted : ∀ (l : List (Nat × α)) (b k : Nat), cellsSorted (some b) l = true → k ≤ b →
    cellsFind l k = none
  | [], _, _, _, _ => rfl
  | (j, w) :: r, b, k, h, hk => by
    simp only [cellsSorted, Bool.and_eq_true, decide_eq_true_eq] at h
    simp only [cellsFind, show j ≠ k by omega, if_false]
    exact cellsFind_of_sorted r j k h.2 (by omega)

/-- A rising list rises from every lower bound. -/
theorem cellsSorted_mono : ∀ (l : List (Nat × α)) (a b : Nat), a ≤ b → cellsSorted (some b) l = true →
    cellsSorted (some a) l = true
  | [], _, _, _, _ => rfl
  | (j, w) :: r, a, b, hab, h => by
    simp only [cellsSorted, Bool.and_eq_true, decide_eq_true_eq] at h ⊢
    exact ⟨by omega, h.2⟩

/-- A put keeps the order above a bound below its key. -/
theorem cellsSorted_put_some : ∀ (l : List (Nat × α)) (b k : Nat) (v : α), cellsSorted (some b) l = true → b < k →
    cellsSorted (some b) (cellsPut l k v) = true
  | [], b, k, v, _, hb => by simp [cellsPut, cellsSorted, hb]
  | (j, w) :: r, b, k, v, h, hb => by
    simp only [cellsSorted, Bool.and_eq_true, decide_eq_true_eq] at h
    by_cases h1 : k < j
    · simp [cellsPut, h1, cellsSorted, hb, h.2]
    · by_cases h2 : k = j
      · subst h2; simp [cellsPut, cellsSorted, hb, h.2]
      · simp only [cellsPut, h1, h2, if_false, cellsSorted, h.1, decide_true, Bool.true_and]
        exact cellsSorted_put_some r j k v h.2 (by omega)

/-- A put keeps the order. -/
theorem cellsSorted_put (l : List (Nat × α)) (k : Nat) (v : α) (h : cellsSorted none l = true) :
    cellsSorted none (cellsPut l k v) = true := by
  cases l with
  | nil => rfl
  | cons e r =>
    obtain ⟨j, w⟩ := e
    simp only [cellsSorted] at h
    by_cases h1 : k < j
    · simp [cellsPut, h1, cellsSorted, h]
    · by_cases h2 : k = j
      · subst h2; simpa [cellsPut, cellsSorted] using h
      · simp only [cellsPut, h1, h2, if_false, cellsSorted]
        exact cellsSorted_put_some r j k v h (by omega)

/-- Taking a key out keeps the order above a bound. -/
theorem cellsSorted_erase_some : ∀ (l : List (Nat × α)) (b k : Nat), cellsSorted (some b) l = true →
    cellsSorted (some b) (cellsErase l k) = true
  | [], _, _, _ => rfl
  | (j, w) :: r, b, k, h => by
    simp only [cellsSorted, Bool.and_eq_true, decide_eq_true_eq] at h
    by_cases h1 : j = k
    · simp only [cellsErase, h1, if_true]
      exact cellsSorted_mono r b j (by omega) h.2
    · simp only [cellsErase, h1, if_false, cellsSorted, h.1, decide_true, Bool.true_and]
      exact cellsSorted_erase_some r j k h.2

/-- A list that rises from a bound rises. -/
theorem cellsSorted_of_some : ∀ (l : List (Nat × α)) (b : Nat), cellsSorted (some b) l = true → cellsSorted none l = true
  | [], _, _ => rfl
  | (j, w) :: r, b, h => by
    simp only [cellsSorted, Bool.and_eq_true, decide_eq_true_eq] at h
    simpa [cellsSorted] using h.2

/-- Taking a key out keeps the order. -/
theorem cellsSorted_erase (l : List (Nat × α)) (k : Nat) (h : cellsSorted none l = true) :
    cellsSorted none (cellsErase l k) = true := by
  cases l with
  | nil => rfl
  | cons e r =>
    obtain ⟨j, w⟩ := e
    simp only [cellsSorted] at h
    by_cases h1 : j = k
    · simp only [cellsErase, h1, if_true]
      exact cellsSorted_of_some r j h
    · simp only [cellsErase, h1, if_false, cellsSorted]
      exact cellsSorted_erase_some r j k h

/-- A key that has been taken out of a rising list is not found. -/
theorem cellsFind_erase_self : ∀ (l : List (Nat × α)) (k : Nat), cellsSorted none l = true → cellsFind (cellsErase l k) k = none
  | [], _, _ => rfl
  | (j, w) :: r, k, h => by
    simp only [cellsSorted] at h
    by_cases h1 : j = k
    · subst h1
      simp only [cellsErase, if_true]
      exact cellsFind_of_sorted r j j h (le_refl _)
    · simp only [cellsErase, h1, if_false, cellsFind]
      exact cellsFind_erase_self r k (cellsSorted_of_some r j h)

/-- Taking a key out leaves every other key. -/
theorem cellsFind_erase_ne : ∀ (l : List (Nat × α)) {j k : Nat}, j ≠ k → cellsFind (cellsErase l k) j = cellsFind l j
  | [], _, _, _ => rfl
  | (i, w) :: r, j, k, h => by
    by_cases h1 : i = k
    · subst h1; simp [cellsErase, cellsFind, Ne.symm h]
    · by_cases h2 : i = j
      · subst h2; simp [cellsErase, cellsFind, h]
      · simp [cellsErase, h1, cellsFind, h2, cellsFind_erase_ne r h]

/-- Every entry of a put is the new one or an old one. -/
theorem mem_cellsPut : ∀ (l : List (Nat × α)) (k : Nat) (v : α) (e : Nat × α), e ∈ cellsPut l k v → e = (k, v) ∨ e ∈ l
  | [], k, v, e, h => by simp [cellsPut] at h; exact .inl h
  | (j, w) :: r, k, v, e, h => by
    by_cases h1 : k < j
    · simp only [cellsPut, h1, if_true, List.mem_cons] at h ⊢; exact h
    · by_cases h2 : k = j
      · simp only [cellsPut, h2, lt_irrefl, if_false, if_true, List.mem_cons] at h ⊢
        rcases h with h | h
        · exact .inl (by simp [h])
        · exact .inr (.inr h)
      · simp only [cellsPut, h1, h2, if_false, List.mem_cons] at h
        rcases h with h | h
        · exact .inr (by simp [h])
        · rcases mem_cellsPut r k v e h with h | h
          · exact .inl h
          · exact .inr (by simp [h])

/-- Every entry that stays was there. -/
theorem mem_cellsErase : ∀ (l : List (Nat × α)) (k : Nat) (e : Nat × α), e ∈ cellsErase l k → e ∈ l
  | [], _, _, h => h
  | (j, w) :: r, k, e, h => by
    by_cases h1 : j = k
    · simp [cellsErase, h1] at h; simp [h]
    · simp only [cellsErase, h1, if_false, List.mem_cons] at h
      rcases h with h | h
      · simp [h]
      · simp [mem_cellsErase r k e h]

/-- A canonical table filtered by key stays canonical. -/
theorem cellsSorted_filter : ∀ (l : List (Nat × α)) (p : Nat × α → Bool), cellsSorted none l = true →
    cellsSorted none (l.filter p) = true
  | [], _, _ => rfl
  | (j, w) :: r, p, h => by
    simp only [cellsSorted] at h
    have key : ∀ (m : List (Nat × α)) (b : Nat), cellsSorted (some b) m = true → cellsSorted (some b) (m.filter p) = true := by
      intro m
      induction m with
      | nil => intro b _; rfl
      | cons e q ih =>
        intro b hb
        obtain ⟨i, x⟩ := e
        simp only [cellsSorted, Bool.and_eq_true, decide_eq_true_eq] at hb
        by_cases hp : p (i, x) = true
        · simp [List.filter, hp, cellsSorted, hb.1, ih i hb.2]
        · simp only [List.filter, hp]
          exact cellsSorted_mono _ b i (by omega) (ih i hb.2)
    by_cases hp : p (j, w) = true
    · simp [List.filter, hp, cellsSorted, key r j h]
    · simp only [List.filter, hp]
      exact cellsSorted_of_some _ j (key r j h)

variable [DecidableEq α]

/-- A canonical write keeps the canonical form. -/
theorem canonical_set (dflt : Nat → α) (t : Tbl α) (k : Nat) (v : α) (h : t.canonical dflt = true) :
    (t.set dflt k v).canonical dflt = true := by
  simp only [Tbl.canonical, Tbl.sorted, Bool.and_eq_true, List.all_eq_true, decide_eq_true_eq] at h ⊢
  by_cases hv : v = dflt k
  · simp only [Tbl.set, hv, if_true]
    exact ⟨cellsSorted_erase _ _ h.1, fun e he => h.2 e (mem_cellsErase _ _ _ he)⟩
  · simp only [Tbl.set, hv, if_false]
    refine ⟨cellsSorted_put _ _ _ h.1, fun e he => ?_⟩
    rcases mem_cellsPut _ _ _ _ he with he | he
    · subst he; exact hv
    · exact h.2 e he

/-- A canonical write leaves what every other key reads as. -/
theorem get_set_ne (dflt : Nat → α) (t : Tbl α) {j k : Nat} (v : α) (h : j ≠ k) :
    (t.set dflt k v).get dflt j = t.get dflt j := by
  by_cases hv : v = dflt k
  · simp [Tbl.set, hv, Tbl.get, cellsFind_erase_ne _ h]
  · simp [Tbl.set, hv, Tbl.get, cellsFind_cellsPut_ne _ _ h]

/-- A canonical write is read back where it was made. -/
theorem get_set_self (dflt : Nat → α) (t : Tbl α) (k : Nat) (v : α) (h : t.sorted = true) :
    (t.set dflt k v).get dflt k = v := by
  by_cases hv : v = dflt k
  · simp [Tbl.set, hv, Tbl.get, cellsFind_erase_self _ _ h]
  · simp [Tbl.set, hv, Tbl.get, cellsFind_cellsPut_self]

end Sys2Proof.Laws
end

