-- ==== Sys2Proof/Laws/State.lean ====
section
/-! SUPPORT. Each update of the state by its fields: what it leaves, field by field, and what it sets. -/

namespace Sys2Proof.Laws

open Sys2Proof.Machine

/-! ## `setCore` -/

@[simp] theorem setCore_mem (s : State) (k : Nat) (c : Core) : (s.setCore k c).mem = s.mem := rfl
@[simp] theorem setCore_tags (s : State) (k : Nat) (c : Core) : (s.setCore k c).tags = s.tags := rfl
@[simp] theorem setCore_ecc (s : State) (k : Nat) (c : Core) : (s.setCore k c).ecc = s.ecc := rfl
@[simp] theorem setCore_code (s : State) (k : Nat) (c : Core) : (s.setCore k c).code = s.code := rfl
@[simp] theorem setCore_codeEcc (s : State) (k : Nat) (c : Core) : (s.setCore k c).codeEcc = s.codeEcc := rfl
@[simp] theorem setCore_coves (s : State) (k : Nat) (c : Core) : (s.setCore k c).coves = s.coves := rfl
@[simp] theorem setCore_tenants (s : State) (k : Nat) (c : Core) : (s.setCore k c).tenants = s.tenants := rfl
@[simp] theorem setCore_tenTable (s : State) (k : Nat) (c : Core) : (s.setCore k c).tenTable = s.tenTable := rfl
@[simp] theorem setCore_chGens (s : State) (k : Nat) (c : Core) : (s.setCore k c).chGens = s.chGens := rfl
@[simp] theorem setCore_entryGens (s : State) (k : Nat) (c : Core) : (s.setCore k c).entryGens = s.entryGens := rfl
@[simp] theorem setCore_srcGens (s : State) (k : Nat) (c : Core) : (s.setCore k c).srcGens = s.srcGens := rfl
@[simp] theorem setCore_tides (s : State) (k : Nat) (c : Core) : (s.setCore k c).tides = s.tides := rfl
@[simp] theorem setCore_entries (s : State) (k : Nat) (c : Core) : (s.setCore k c).entries = s.entries := rfl
@[simp] theorem setCore_outputs (s : State) (k : Nat) (c : Core) : (s.setCore k c).outputs = s.outputs := rfl
@[simp] theorem setCore_mods (s : State) (k : Nat) (c : Core) : (s.setCore k c).mods = s.mods := rfl
@[simp] theorem setCore_windows (s : State) (k : Nat) (c : Core) : (s.setCore k c).windows = s.windows := rfl
@[simp] theorem setCore_waves (s : State) (k : Nat) (c : Core) : (s.setCore k c).waves = s.waves := rfl
@[simp] theorem setCore_sources (s : State) (k : Nat) (c : Core) : (s.setCore k c).sources = s.sources := rfl
@[simp] theorem setCore_evc (s : State) (k : Nat) (c : Core) : (s.setCore k c).evc = s.evc := rfl
@[simp] theorem setCore_churn (s : State) (k : Nat) (c : Core) : (s.setCore k c).churn = s.churn := rfl
@[simp] theorem setCore_channels (s : State) (k : Nat) (c : Core) : (s.setCore k c).channels = s.channels := rfl
@[simp] theorem setCore_undertow (s : State) (k : Nat) (c : Core) : (s.setCore k c).undertow = s.undertow := rfl
@[simp] theorem setCore_tlbis (s : State) (k : Nat) (c : Core) : (s.setCore k c).tlbis = s.tlbis := rfl
@[simp] theorem setCore_links (s : State) (k : Nat) (c : Core) : (s.setCore k c).links = s.links := rfl
@[simp] theorem setCore_eths (s : State) (k : Nat) (c : Core) : (s.setCore k c).eths = s.eths := rfl
@[simp] theorem setCore_cans (s : State) (k : Nat) (c : Core) : (s.setCore k c).cans = s.cans := rfl
@[simp] theorem setCore_uarts (s : State) (k : Nat) (c : Core) : (s.setCore k c).uarts = s.uarts := rfl
@[simp] theorem setCore_pcie (s : State) (k : Nat) (c : Core) : (s.setCore k c).pcie = s.pcie := rfl
@[simp] theorem setCore_xspi (s : State) (k : Nat) (c : Core) : (s.setCore k c).xspi = s.xspi := rfl
@[simp] theorem setCore_i2cs (s : State) (k : Nat) (c : Core) : (s.setCore k c).i2cs = s.i2cs := rfl
@[simp] theorem setCore_memCtl (s : State) (k : Nat) (c : Core) : (s.setCore k c).memCtl = s.memCtl := rfl
@[simp] theorem setCore_jtag (s : State) (k : Nat) (c : Core) : (s.setCore k c).jtag = s.jtag := rfl
@[simp] theorem setCore_power (s : State) (k : Nat) (c : Core) : (s.setCore k c).power = s.power := rfl
@[simp] theorem setCore_gates (s : State) (k : Nat) (c : Core) : (s.setCore k c).gates = s.gates := rfl
@[simp] theorem setCore_aon (s : State) (k : Nat) (c : Core) : (s.setCore k c).aon = s.aon := rfl
@[simp] theorem setCore_otp (s : State) (k : Nat) (c : Core) : (s.setCore k c).otp = s.otp := rfl
@[simp] theorem setCore_board (s : State) (k : Nat) (c : Core) : (s.setCore k c).board = s.board := rfl
@[simp] theorem setCore_phase (s : State) (k : Nat) (c : Core) : (s.setCore k c).phase = s.phase := rfl
@[simp] theorem setCore_bootAt (s : State) (k : Nat) (c : Core) : (s.setCore k c).bootAt = s.bootAt := rfl
@[simp] theorem setCore_image (s : State) (k : Nat) (c : Core) : (s.setCore k c).image = s.image := rfl
@[simp] theorem setCore_undurable (s : State) (k : Nat) (c : Core) : (s.setCore k c).undurable = s.undurable := rfl
@[simp] theorem setCore_heldEvents (s : State) (k : Nat) (c : Core) : (s.setCore k c).heldEvents = s.heldEvents := rfl
@[simp] theorem setCore_heldWakes (s : State) (k : Nat) (c : Core) : (s.setCore k c).heldWakes = s.heldWakes := rfl
@[simp] theorem setCore_frames (s : State) (k : Nat) (c : Core) : (s.setCore k c).frames = s.frames := rfl
@[simp] theorem setCore_inj (s : State) (k : Nat) (c : Core) : (s.setCore k c).inj = s.inj := rfl
@[simp] theorem setCore_feat (s : State) (k : Nat) (c : Core) : (s.setCore k c).feat = s.feat := rfl
@[simp] theorem setCore_hykEn (s : State) (k : Nat) (c : Core) : (s.setCore k c).hykEn = s.hykEn := rfl
@[simp] theorem setCore_now (s : State) (k : Nat) (c : Core) : (s.setCore k c).now = s.now := rfl
@[simp] theorem setCore_free (s : State) (k : Nat) (c : Core) : (s.setCore k c).free = s.free := rfl
@[simp] theorem setCore_pending (s : State) (k : Nat) (c : Core) : (s.setCore k c).pending = s.pending := rfl

/-! ## `setCove` -/

@[simp] theorem setCove_mem (s : State) (n : Nat) (c : Cove) : (s.setCove n c).mem = s.mem := rfl
@[simp] theorem setCove_tags (s : State) (n : Nat) (c : Cove) : (s.setCove n c).tags = s.tags := rfl
@[simp] theorem setCove_ecc (s : State) (n : Nat) (c : Cove) : (s.setCove n c).ecc = s.ecc := rfl
@[simp] theorem setCove_code (s : State) (n : Nat) (c : Cove) : (s.setCove n c).code = s.code := rfl
@[simp] theorem setCove_codeEcc (s : State) (n : Nat) (c : Cove) : (s.setCove n c).codeEcc = s.codeEcc := rfl
@[simp] theorem setCove_cores (s : State) (n : Nat) (c : Cove) : (s.setCove n c).cores = s.cores := rfl
@[simp] theorem setCove_tenants (s : State) (n : Nat) (c : Cove) : (s.setCove n c).tenants = s.tenants := rfl
@[simp] theorem setCove_tenTable (s : State) (n : Nat) (c : Cove) : (s.setCove n c).tenTable = s.tenTable := rfl
@[simp] theorem setCove_chGens (s : State) (n : Nat) (c : Cove) : (s.setCove n c).chGens = s.chGens := rfl
@[simp] theorem setCove_entryGens (s : State) (n : Nat) (c : Cove) : (s.setCove n c).entryGens = s.entryGens := rfl
@[simp] theorem setCove_srcGens (s : State) (n : Nat) (c : Cove) : (s.setCove n c).srcGens = s.srcGens := rfl
@[simp] theorem setCove_tides (s : State) (n : Nat) (c : Cove) : (s.setCove n c).tides = s.tides := rfl
@[simp] theorem setCove_entries (s : State) (n : Nat) (c : Cove) : (s.setCove n c).entries = s.entries := rfl
@[simp] theorem setCove_outputs (s : State) (n : Nat) (c : Cove) : (s.setCove n c).outputs = s.outputs := rfl
@[simp] theorem setCove_mods (s : State) (n : Nat) (c : Cove) : (s.setCove n c).mods = s.mods := rfl
@[simp] theorem setCove_windows (s : State) (n : Nat) (c : Cove) : (s.setCove n c).windows = s.windows := rfl
@[simp] theorem setCove_waves (s : State) (n : Nat) (c : Cove) : (s.setCove n c).waves = s.waves := rfl
@[simp] theorem setCove_sources (s : State) (n : Nat) (c : Cove) : (s.setCove n c).sources = s.sources := rfl
@[simp] theorem setCove_evc (s : State) (n : Nat) (c : Cove) : (s.setCove n c).evc = s.evc := rfl
@[simp] theorem setCove_churn (s : State) (n : Nat) (c : Cove) : (s.setCove n c).churn = s.churn := rfl
@[simp] theorem setCove_channels (s : State) (n : Nat) (c : Cove) : (s.setCove n c).channels = s.channels := rfl
@[simp] theorem setCove_undertow (s : State) (n : Nat) (c : Cove) : (s.setCove n c).undertow = s.undertow := rfl
@[simp] theorem setCove_tlbis (s : State) (n : Nat) (c : Cove) : (s.setCove n c).tlbis = s.tlbis := rfl
@[simp] theorem setCove_links (s : State) (n : Nat) (c : Cove) : (s.setCove n c).links = s.links := rfl
@[simp] theorem setCove_eths (s : State) (n : Nat) (c : Cove) : (s.setCove n c).eths = s.eths := rfl
@[simp] theorem setCove_cans (s : State) (n : Nat) (c : Cove) : (s.setCove n c).cans = s.cans := rfl
@[simp] theorem setCove_uarts (s : State) (n : Nat) (c : Cove) : (s.setCove n c).uarts = s.uarts := rfl
@[simp] theorem setCove_pcie (s : State) (n : Nat) (c : Cove) : (s.setCove n c).pcie = s.pcie := rfl
@[simp] theorem setCove_xspi (s : State) (n : Nat) (c : Cove) : (s.setCove n c).xspi = s.xspi := rfl
@[simp] theorem setCove_i2cs (s : State) (n : Nat) (c : Cove) : (s.setCove n c).i2cs = s.i2cs := rfl
@[simp] theorem setCove_memCtl (s : State) (n : Nat) (c : Cove) : (s.setCove n c).memCtl = s.memCtl := rfl
@[simp] theorem setCove_jtag (s : State) (n : Nat) (c : Cove) : (s.setCove n c).jtag = s.jtag := rfl
@[simp] theorem setCove_power (s : State) (n : Nat) (c : Cove) : (s.setCove n c).power = s.power := rfl
@[simp] theorem setCove_gates (s : State) (n : Nat) (c : Cove) : (s.setCove n c).gates = s.gates := rfl
@[simp] theorem setCove_aon (s : State) (n : Nat) (c : Cove) : (s.setCove n c).aon = s.aon := rfl
@[simp] theorem setCove_otp (s : State) (n : Nat) (c : Cove) : (s.setCove n c).otp = s.otp := rfl
@[simp] theorem setCove_board (s : State) (n : Nat) (c : Cove) : (s.setCove n c).board = s.board := rfl
@[simp] theorem setCove_phase (s : State) (n : Nat) (c : Cove) : (s.setCove n c).phase = s.phase := rfl
@[simp] theorem setCove_bootAt (s : State) (n : Nat) (c : Cove) : (s.setCove n c).bootAt = s.bootAt := rfl
@[simp] theorem setCove_image (s : State) (n : Nat) (c : Cove) : (s.setCove n c).image = s.image := rfl
@[simp] theorem setCove_undurable (s : State) (n : Nat) (c : Cove) : (s.setCove n c).undurable = s.undurable := rfl
@[simp] theorem setCove_heldEvents (s : State) (n : Nat) (c : Cove) : (s.setCove n c).heldEvents = s.heldEvents := rfl
@[simp] theorem setCove_heldWakes (s : State) (n : Nat) (c : Cove) : (s.setCove n c).heldWakes = s.heldWakes := rfl
@[simp] theorem setCove_frames (s : State) (n : Nat) (c : Cove) : (s.setCove n c).frames = s.frames := rfl
@[simp] theorem setCove_inj (s : State) (n : Nat) (c : Cove) : (s.setCove n c).inj = s.inj := rfl
@[simp] theorem setCove_feat (s : State) (n : Nat) (c : Cove) : (s.setCove n c).feat = s.feat := rfl
@[simp] theorem setCove_hykEn (s : State) (n : Nat) (c : Cove) : (s.setCove n c).hykEn = s.hykEn := rfl
@[simp] theorem setCove_now (s : State) (n : Nat) (c : Cove) : (s.setCove n c).now = s.now := rfl
@[simp] theorem setCove_free (s : State) (n : Nat) (c : Cove) : (s.setCove n c).free = s.free := rfl
@[simp] theorem setCove_pending (s : State) (n : Nat) (c : Cove) : (s.setCove n c).pending = s.pending := rfl

/-! ## `setTenant` -/

@[simp] theorem setTenant_mem (s : State) (t : Nat) (v : Tenant) : (s.setTenant t v).mem = s.mem := rfl
@[simp] theorem setTenant_tags (s : State) (t : Nat) (v : Tenant) : (s.setTenant t v).tags = s.tags := rfl
@[simp] theorem setTenant_ecc (s : State) (t : Nat) (v : Tenant) : (s.setTenant t v).ecc = s.ecc := rfl
@[simp] theorem setTenant_code (s : State) (t : Nat) (v : Tenant) : (s.setTenant t v).code = s.code := rfl
@[simp] theorem setTenant_codeEcc (s : State) (t : Nat) (v : Tenant) : (s.setTenant t v).codeEcc = s.codeEcc := rfl
@[simp] theorem setTenant_cores (s : State) (t : Nat) (v : Tenant) : (s.setTenant t v).cores = s.cores := rfl
@[simp] theorem setTenant_coves (s : State) (t : Nat) (v : Tenant) : (s.setTenant t v).coves = s.coves := rfl
@[simp] theorem setTenant_tenTable (s : State) (t : Nat) (v : Tenant) : (s.setTenant t v).tenTable = s.tenTable := rfl
@[simp] theorem setTenant_chGens (s : State) (t : Nat) (v : Tenant) : (s.setTenant t v).chGens = s.chGens := rfl
@[simp] theorem setTenant_entryGens (s : State) (t : Nat) (v : Tenant) : (s.setTenant t v).entryGens = s.entryGens := rfl
@[simp] theorem setTenant_srcGens (s : State) (t : Nat) (v : Tenant) : (s.setTenant t v).srcGens = s.srcGens := rfl
@[simp] theorem setTenant_tides (s : State) (t : Nat) (v : Tenant) : (s.setTenant t v).tides = s.tides := rfl
@[simp] theorem setTenant_entries (s : State) (t : Nat) (v : Tenant) : (s.setTenant t v).entries = s.entries := rfl
@[simp] theorem setTenant_outputs (s : State) (t : Nat) (v : Tenant) : (s.setTenant t v).outputs = s.outputs := rfl
@[simp] theorem setTenant_mods (s : State) (t : Nat) (v : Tenant) : (s.setTenant t v).mods = s.mods := rfl
@[simp] theorem setTenant_windows (s : State) (t : Nat) (v : Tenant) : (s.setTenant t v).windows = s.windows := rfl
@[simp] theorem setTenant_waves (s : State) (t : Nat) (v : Tenant) : (s.setTenant t v).waves = s.waves := rfl
@[simp] theorem setTenant_sources (s : State) (t : Nat) (v : Tenant) : (s.setTenant t v).sources = s.sources := rfl
@[simp] theorem setTenant_evc (s : State) (t : Nat) (v : Tenant) : (s.setTenant t v).evc = s.evc := rfl
@[simp] theorem setTenant_churn (s : State) (t : Nat) (v : Tenant) : (s.setTenant t v).churn = s.churn := rfl
@[simp] theorem setTenant_channels (s : State) (t : Nat) (v : Tenant) : (s.setTenant t v).channels = s.channels := rfl
@[simp] theorem setTenant_undertow (s : State) (t : Nat) (v : Tenant) : (s.setTenant t v).undertow = s.undertow := rfl
@[simp] theorem setTenant_tlbis (s : State) (t : Nat) (v : Tenant) : (s.setTenant t v).tlbis = s.tlbis := rfl
@[simp] theorem setTenant_links (s : State) (t : Nat) (v : Tenant) : (s.setTenant t v).links = s.links := rfl
@[simp] theorem setTenant_eths (s : State) (t : Nat) (v : Tenant) : (s.setTenant t v).eths = s.eths := rfl
@[simp] theorem setTenant_cans (s : State) (t : Nat) (v : Tenant) : (s.setTenant t v).cans = s.cans := rfl
@[simp] theorem setTenant_uarts (s : State) (t : Nat) (v : Tenant) : (s.setTenant t v).uarts = s.uarts := rfl
@[simp] theorem setTenant_pcie (s : State) (t : Nat) (v : Tenant) : (s.setTenant t v).pcie = s.pcie := rfl
@[simp] theorem setTenant_xspi (s : State) (t : Nat) (v : Tenant) : (s.setTenant t v).xspi = s.xspi := rfl
@[simp] theorem setTenant_i2cs (s : State) (t : Nat) (v : Tenant) : (s.setTenant t v).i2cs = s.i2cs := rfl
@[simp] theorem setTenant_memCtl (s : State) (t : Nat) (v : Tenant) : (s.setTenant t v).memCtl = s.memCtl := rfl
@[simp] theorem setTenant_jtag (s : State) (t : Nat) (v : Tenant) : (s.setTenant t v).jtag = s.jtag := rfl
@[simp] theorem setTenant_power (s : State) (t : Nat) (v : Tenant) : (s.setTenant t v).power = s.power := rfl
@[simp] theorem setTenant_gates (s : State) (t : Nat) (v : Tenant) : (s.setTenant t v).gates = s.gates := rfl
@[simp] theorem setTenant_aon (s : State) (t : Nat) (v : Tenant) : (s.setTenant t v).aon = s.aon := rfl
@[simp] theorem setTenant_otp (s : State) (t : Nat) (v : Tenant) : (s.setTenant t v).otp = s.otp := rfl
@[simp] theorem setTenant_board (s : State) (t : Nat) (v : Tenant) : (s.setTenant t v).board = s.board := rfl
@[simp] theorem setTenant_phase (s : State) (t : Nat) (v : Tenant) : (s.setTenant t v).phase = s.phase := rfl
@[simp] theorem setTenant_bootAt (s : State) (t : Nat) (v : Tenant) : (s.setTenant t v).bootAt = s.bootAt := rfl
@[simp] theorem setTenant_image (s : State) (t : Nat) (v : Tenant) : (s.setTenant t v).image = s.image := rfl
@[simp] theorem setTenant_undurable (s : State) (t : Nat) (v : Tenant) : (s.setTenant t v).undurable = s.undurable := rfl
@[simp] theorem setTenant_heldEvents (s : State) (t : Nat) (v : Tenant) : (s.setTenant t v).heldEvents = s.heldEvents := rfl
@[simp] theorem setTenant_heldWakes (s : State) (t : Nat) (v : Tenant) : (s.setTenant t v).heldWakes = s.heldWakes := rfl
@[simp] theorem setTenant_frames (s : State) (t : Nat) (v : Tenant) : (s.setTenant t v).frames = s.frames := rfl
@[simp] theorem setTenant_inj (s : State) (t : Nat) (v : Tenant) : (s.setTenant t v).inj = s.inj := rfl
@[simp] theorem setTenant_feat (s : State) (t : Nat) (v : Tenant) : (s.setTenant t v).feat = s.feat := rfl
@[simp] theorem setTenant_hykEn (s : State) (t : Nat) (v : Tenant) : (s.setTenant t v).hykEn = s.hykEn := rfl
@[simp] theorem setTenant_now (s : State) (t : Nat) (v : Tenant) : (s.setTenant t v).now = s.now := rfl
@[simp] theorem setTenant_free (s : State) (t : Nat) (v : Tenant) : (s.setTenant t v).free = s.free := rfl
@[simp] theorem setTenant_pending (s : State) (t : Nat) (v : Tenant) : (s.setTenant t v).pending = s.pending := rfl

/-! ## `setTide` -/

@[simp] theorem setTide_mem (s : State) (i : Nat) (v : Tide) : (s.setTide i v).mem = s.mem := rfl
@[simp] theorem setTide_tags (s : State) (i : Nat) (v : Tide) : (s.setTide i v).tags = s.tags := rfl
@[simp] theorem setTide_ecc (s : State) (i : Nat) (v : Tide) : (s.setTide i v).ecc = s.ecc := rfl
@[simp] theorem setTide_code (s : State) (i : Nat) (v : Tide) : (s.setTide i v).code = s.code := rfl
@[simp] theorem setTide_codeEcc (s : State) (i : Nat) (v : Tide) : (s.setTide i v).codeEcc = s.codeEcc := rfl
@[simp] theorem setTide_cores (s : State) (i : Nat) (v : Tide) : (s.setTide i v).cores = s.cores := rfl
@[simp] theorem setTide_coves (s : State) (i : Nat) (v : Tide) : (s.setTide i v).coves = s.coves := rfl
@[simp] theorem setTide_tenants (s : State) (i : Nat) (v : Tide) : (s.setTide i v).tenants = s.tenants := rfl
@[simp] theorem setTide_tenTable (s : State) (i : Nat) (v : Tide) : (s.setTide i v).tenTable = s.tenTable := rfl
@[simp] theorem setTide_chGens (s : State) (i : Nat) (v : Tide) : (s.setTide i v).chGens = s.chGens := rfl
@[simp] theorem setTide_entryGens (s : State) (i : Nat) (v : Tide) : (s.setTide i v).entryGens = s.entryGens := rfl
@[simp] theorem setTide_srcGens (s : State) (i : Nat) (v : Tide) : (s.setTide i v).srcGens = s.srcGens := rfl
@[simp] theorem setTide_entries (s : State) (i : Nat) (v : Tide) : (s.setTide i v).entries = s.entries := rfl
@[simp] theorem setTide_outputs (s : State) (i : Nat) (v : Tide) : (s.setTide i v).outputs = s.outputs := rfl
@[simp] theorem setTide_mods (s : State) (i : Nat) (v : Tide) : (s.setTide i v).mods = s.mods := rfl
@[simp] theorem setTide_windows (s : State) (i : Nat) (v : Tide) : (s.setTide i v).windows = s.windows := rfl
@[simp] theorem setTide_waves (s : State) (i : Nat) (v : Tide) : (s.setTide i v).waves = s.waves := rfl
@[simp] theorem setTide_sources (s : State) (i : Nat) (v : Tide) : (s.setTide i v).sources = s.sources := rfl
@[simp] theorem setTide_evc (s : State) (i : Nat) (v : Tide) : (s.setTide i v).evc = s.evc := rfl
@[simp] theorem setTide_churn (s : State) (i : Nat) (v : Tide) : (s.setTide i v).churn = s.churn := rfl
@[simp] theorem setTide_channels (s : State) (i : Nat) (v : Tide) : (s.setTide i v).channels = s.channels := rfl
@[simp] theorem setTide_undertow (s : State) (i : Nat) (v : Tide) : (s.setTide i v).undertow = s.undertow := rfl
@[simp] theorem setTide_tlbis (s : State) (i : Nat) (v : Tide) : (s.setTide i v).tlbis = s.tlbis := rfl
@[simp] theorem setTide_links (s : State) (i : Nat) (v : Tide) : (s.setTide i v).links = s.links := rfl
@[simp] theorem setTide_eths (s : State) (i : Nat) (v : Tide) : (s.setTide i v).eths = s.eths := rfl
@[simp] theorem setTide_cans (s : State) (i : Nat) (v : Tide) : (s.setTide i v).cans = s.cans := rfl
@[simp] theorem setTide_uarts (s : State) (i : Nat) (v : Tide) : (s.setTide i v).uarts = s.uarts := rfl
@[simp] theorem setTide_pcie (s : State) (i : Nat) (v : Tide) : (s.setTide i v).pcie = s.pcie := rfl
@[simp] theorem setTide_xspi (s : State) (i : Nat) (v : Tide) : (s.setTide i v).xspi = s.xspi := rfl
@[simp] theorem setTide_i2cs (s : State) (i : Nat) (v : Tide) : (s.setTide i v).i2cs = s.i2cs := rfl
@[simp] theorem setTide_memCtl (s : State) (i : Nat) (v : Tide) : (s.setTide i v).memCtl = s.memCtl := rfl
@[simp] theorem setTide_jtag (s : State) (i : Nat) (v : Tide) : (s.setTide i v).jtag = s.jtag := rfl
@[simp] theorem setTide_power (s : State) (i : Nat) (v : Tide) : (s.setTide i v).power = s.power := rfl
@[simp] theorem setTide_gates (s : State) (i : Nat) (v : Tide) : (s.setTide i v).gates = s.gates := rfl
@[simp] theorem setTide_aon (s : State) (i : Nat) (v : Tide) : (s.setTide i v).aon = s.aon := rfl
@[simp] theorem setTide_otp (s : State) (i : Nat) (v : Tide) : (s.setTide i v).otp = s.otp := rfl
@[simp] theorem setTide_board (s : State) (i : Nat) (v : Tide) : (s.setTide i v).board = s.board := rfl
@[simp] theorem setTide_phase (s : State) (i : Nat) (v : Tide) : (s.setTide i v).phase = s.phase := rfl
@[simp] theorem setTide_bootAt (s : State) (i : Nat) (v : Tide) : (s.setTide i v).bootAt = s.bootAt := rfl
@[simp] theorem setTide_image (s : State) (i : Nat) (v : Tide) : (s.setTide i v).image = s.image := rfl
@[simp] theorem setTide_undurable (s : State) (i : Nat) (v : Tide) : (s.setTide i v).undurable = s.undurable := rfl
@[simp] theorem setTide_heldEvents (s : State) (i : Nat) (v : Tide) : (s.setTide i v).heldEvents = s.heldEvents := rfl
@[simp] theorem setTide_heldWakes (s : State) (i : Nat) (v : Tide) : (s.setTide i v).heldWakes = s.heldWakes := rfl
@[simp] theorem setTide_frames (s : State) (i : Nat) (v : Tide) : (s.setTide i v).frames = s.frames := rfl
@[simp] theorem setTide_inj (s : State) (i : Nat) (v : Tide) : (s.setTide i v).inj = s.inj := rfl
@[simp] theorem setTide_feat (s : State) (i : Nat) (v : Tide) : (s.setTide i v).feat = s.feat := rfl
@[simp] theorem setTide_hykEn (s : State) (i : Nat) (v : Tide) : (s.setTide i v).hykEn = s.hykEn := rfl
@[simp] theorem setTide_now (s : State) (i : Nat) (v : Tide) : (s.setTide i v).now = s.now := rfl
@[simp] theorem setTide_free (s : State) (i : Nat) (v : Tide) : (s.setTide i v).free = s.free := rfl
@[simp] theorem setTide_pending (s : State) (i : Nat) (v : Tide) : (s.setTide i v).pending = s.pending := rfl

/-! ## `setEntry` -/

@[simp] theorem setEntry_mem (s : State) (i : Nat) (v : Entry) : (s.setEntry i v).mem = s.mem := rfl
@[simp] theorem setEntry_tags (s : State) (i : Nat) (v : Entry) : (s.setEntry i v).tags = s.tags := rfl
@[simp] theorem setEntry_ecc (s : State) (i : Nat) (v : Entry) : (s.setEntry i v).ecc = s.ecc := rfl
@[simp] theorem setEntry_code (s : State) (i : Nat) (v : Entry) : (s.setEntry i v).code = s.code := rfl
@[simp] theorem setEntry_codeEcc (s : State) (i : Nat) (v : Entry) : (s.setEntry i v).codeEcc = s.codeEcc := rfl
@[simp] theorem setEntry_cores (s : State) (i : Nat) (v : Entry) : (s.setEntry i v).cores = s.cores := rfl
@[simp] theorem setEntry_coves (s : State) (i : Nat) (v : Entry) : (s.setEntry i v).coves = s.coves := rfl
@[simp] theorem setEntry_tenants (s : State) (i : Nat) (v : Entry) : (s.setEntry i v).tenants = s.tenants := rfl
@[simp] theorem setEntry_tenTable (s : State) (i : Nat) (v : Entry) : (s.setEntry i v).tenTable = s.tenTable := rfl
@[simp] theorem setEntry_chGens (s : State) (i : Nat) (v : Entry) : (s.setEntry i v).chGens = s.chGens := rfl
@[simp] theorem setEntry_entryGens (s : State) (i : Nat) (v : Entry) : (s.setEntry i v).entryGens = s.entryGens := rfl
@[simp] theorem setEntry_srcGens (s : State) (i : Nat) (v : Entry) : (s.setEntry i v).srcGens = s.srcGens := rfl
@[simp] theorem setEntry_tides (s : State) (i : Nat) (v : Entry) : (s.setEntry i v).tides = s.tides := rfl
@[simp] theorem setEntry_outputs (s : State) (i : Nat) (v : Entry) : (s.setEntry i v).outputs = s.outputs := rfl
@[simp] theorem setEntry_mods (s : State) (i : Nat) (v : Entry) : (s.setEntry i v).mods = s.mods := rfl
@[simp] theorem setEntry_windows (s : State) (i : Nat) (v : Entry) : (s.setEntry i v).windows = s.windows := rfl
@[simp] theorem setEntry_waves (s : State) (i : Nat) (v : Entry) : (s.setEntry i v).waves = s.waves := rfl
@[simp] theorem setEntry_sources (s : State) (i : Nat) (v : Entry) : (s.setEntry i v).sources = s.sources := rfl
@[simp] theorem setEntry_evc (s : State) (i : Nat) (v : Entry) : (s.setEntry i v).evc = s.evc := rfl
@[simp] theorem setEntry_churn (s : State) (i : Nat) (v : Entry) : (s.setEntry i v).churn = s.churn := rfl
@[simp] theorem setEntry_channels (s : State) (i : Nat) (v : Entry) : (s.setEntry i v).channels = s.channels := rfl
@[simp] theorem setEntry_undertow (s : State) (i : Nat) (v : Entry) : (s.setEntry i v).undertow = s.undertow := rfl
@[simp] theorem setEntry_tlbis (s : State) (i : Nat) (v : Entry) : (s.setEntry i v).tlbis = s.tlbis := rfl
@[simp] theorem setEntry_links (s : State) (i : Nat) (v : Entry) : (s.setEntry i v).links = s.links := rfl
@[simp] theorem setEntry_eths (s : State) (i : Nat) (v : Entry) : (s.setEntry i v).eths = s.eths := rfl
@[simp] theorem setEntry_cans (s : State) (i : Nat) (v : Entry) : (s.setEntry i v).cans = s.cans := rfl
@[simp] theorem setEntry_uarts (s : State) (i : Nat) (v : Entry) : (s.setEntry i v).uarts = s.uarts := rfl
@[simp] theorem setEntry_pcie (s : State) (i : Nat) (v : Entry) : (s.setEntry i v).pcie = s.pcie := rfl
@[simp] theorem setEntry_xspi (s : State) (i : Nat) (v : Entry) : (s.setEntry i v).xspi = s.xspi := rfl
@[simp] theorem setEntry_i2cs (s : State) (i : Nat) (v : Entry) : (s.setEntry i v).i2cs = s.i2cs := rfl
@[simp] theorem setEntry_memCtl (s : State) (i : Nat) (v : Entry) : (s.setEntry i v).memCtl = s.memCtl := rfl
@[simp] theorem setEntry_jtag (s : State) (i : Nat) (v : Entry) : (s.setEntry i v).jtag = s.jtag := rfl
@[simp] theorem setEntry_power (s : State) (i : Nat) (v : Entry) : (s.setEntry i v).power = s.power := rfl
@[simp] theorem setEntry_gates (s : State) (i : Nat) (v : Entry) : (s.setEntry i v).gates = s.gates := rfl
@[simp] theorem setEntry_aon (s : State) (i : Nat) (v : Entry) : (s.setEntry i v).aon = s.aon := rfl
@[simp] theorem setEntry_otp (s : State) (i : Nat) (v : Entry) : (s.setEntry i v).otp = s.otp := rfl
@[simp] theorem setEntry_board (s : State) (i : Nat) (v : Entry) : (s.setEntry i v).board = s.board := rfl
@[simp] theorem setEntry_phase (s : State) (i : Nat) (v : Entry) : (s.setEntry i v).phase = s.phase := rfl
@[simp] theorem setEntry_bootAt (s : State) (i : Nat) (v : Entry) : (s.setEntry i v).bootAt = s.bootAt := rfl
@[simp] theorem setEntry_image (s : State) (i : Nat) (v : Entry) : (s.setEntry i v).image = s.image := rfl
@[simp] theorem setEntry_undurable (s : State) (i : Nat) (v : Entry) : (s.setEntry i v).undurable = s.undurable := rfl
@[simp] theorem setEntry_heldEvents (s : State) (i : Nat) (v : Entry) : (s.setEntry i v).heldEvents = s.heldEvents := rfl
@[simp] theorem setEntry_heldWakes (s : State) (i : Nat) (v : Entry) : (s.setEntry i v).heldWakes = s.heldWakes := rfl
@[simp] theorem setEntry_frames (s : State) (i : Nat) (v : Entry) : (s.setEntry i v).frames = s.frames := rfl
@[simp] theorem setEntry_inj (s : State) (i : Nat) (v : Entry) : (s.setEntry i v).inj = s.inj := rfl
@[simp] theorem setEntry_feat (s : State) (i : Nat) (v : Entry) : (s.setEntry i v).feat = s.feat := rfl
@[simp] theorem setEntry_hykEn (s : State) (i : Nat) (v : Entry) : (s.setEntry i v).hykEn = s.hykEn := rfl
@[simp] theorem setEntry_now (s : State) (i : Nat) (v : Entry) : (s.setEntry i v).now = s.now := rfl
@[simp] theorem setEntry_free (s : State) (i : Nat) (v : Entry) : (s.setEntry i v).free = s.free := rfl
@[simp] theorem setEntry_pending (s : State) (i : Nat) (v : Entry) : (s.setEntry i v).pending = s.pending := rfl

/-! ## `setOutput` -/

@[simp] theorem setOutput_mem (s : State) (i : Nat) (v : Output) : (s.setOutput i v).mem = s.mem := rfl
@[simp] theorem setOutput_tags (s : State) (i : Nat) (v : Output) : (s.setOutput i v).tags = s.tags := rfl
@[simp] theorem setOutput_ecc (s : State) (i : Nat) (v : Output) : (s.setOutput i v).ecc = s.ecc := rfl
@[simp] theorem setOutput_code (s : State) (i : Nat) (v : Output) : (s.setOutput i v).code = s.code := rfl
@[simp] theorem setOutput_codeEcc (s : State) (i : Nat) (v : Output) : (s.setOutput i v).codeEcc = s.codeEcc := rfl
@[simp] theorem setOutput_cores (s : State) (i : Nat) (v : Output) : (s.setOutput i v).cores = s.cores := rfl
@[simp] theorem setOutput_coves (s : State) (i : Nat) (v : Output) : (s.setOutput i v).coves = s.coves := rfl
@[simp] theorem setOutput_tenants (s : State) (i : Nat) (v : Output) : (s.setOutput i v).tenants = s.tenants := rfl
@[simp] theorem setOutput_tenTable (s : State) (i : Nat) (v : Output) : (s.setOutput i v).tenTable = s.tenTable := rfl
@[simp] theorem setOutput_chGens (s : State) (i : Nat) (v : Output) : (s.setOutput i v).chGens = s.chGens := rfl
@[simp] theorem setOutput_entryGens (s : State) (i : Nat) (v : Output) : (s.setOutput i v).entryGens = s.entryGens := rfl
@[simp] theorem setOutput_srcGens (s : State) (i : Nat) (v : Output) : (s.setOutput i v).srcGens = s.srcGens := rfl
@[simp] theorem setOutput_tides (s : State) (i : Nat) (v : Output) : (s.setOutput i v).tides = s.tides := rfl
@[simp] theorem setOutput_entries (s : State) (i : Nat) (v : Output) : (s.setOutput i v).entries = s.entries := rfl
@[simp] theorem setOutput_mods (s : State) (i : Nat) (v : Output) : (s.setOutput i v).mods = s.mods := rfl
@[simp] theorem setOutput_windows (s : State) (i : Nat) (v : Output) : (s.setOutput i v).windows = s.windows := rfl
@[simp] theorem setOutput_waves (s : State) (i : Nat) (v : Output) : (s.setOutput i v).waves = s.waves := rfl
@[simp] theorem setOutput_sources (s : State) (i : Nat) (v : Output) : (s.setOutput i v).sources = s.sources := rfl
@[simp] theorem setOutput_evc (s : State) (i : Nat) (v : Output) : (s.setOutput i v).evc = s.evc := rfl
@[simp] theorem setOutput_churn (s : State) (i : Nat) (v : Output) : (s.setOutput i v).churn = s.churn := rfl
@[simp] theorem setOutput_channels (s : State) (i : Nat) (v : Output) : (s.setOutput i v).channels = s.channels := rfl
@[simp] theorem setOutput_undertow (s : State) (i : Nat) (v : Output) : (s.setOutput i v).undertow = s.undertow := rfl
@[simp] theorem setOutput_tlbis (s : State) (i : Nat) (v : Output) : (s.setOutput i v).tlbis = s.tlbis := rfl
@[simp] theorem setOutput_links (s : State) (i : Nat) (v : Output) : (s.setOutput i v).links = s.links := rfl
@[simp] theorem setOutput_eths (s : State) (i : Nat) (v : Output) : (s.setOutput i v).eths = s.eths := rfl
@[simp] theorem setOutput_cans (s : State) (i : Nat) (v : Output) : (s.setOutput i v).cans = s.cans := rfl
@[simp] theorem setOutput_uarts (s : State) (i : Nat) (v : Output) : (s.setOutput i v).uarts = s.uarts := rfl
@[simp] theorem setOutput_pcie (s : State) (i : Nat) (v : Output) : (s.setOutput i v).pcie = s.pcie := rfl
@[simp] theorem setOutput_xspi (s : State) (i : Nat) (v : Output) : (s.setOutput i v).xspi = s.xspi := rfl
@[simp] theorem setOutput_i2cs (s : State) (i : Nat) (v : Output) : (s.setOutput i v).i2cs = s.i2cs := rfl
@[simp] theorem setOutput_memCtl (s : State) (i : Nat) (v : Output) : (s.setOutput i v).memCtl = s.memCtl := rfl
@[simp] theorem setOutput_jtag (s : State) (i : Nat) (v : Output) : (s.setOutput i v).jtag = s.jtag := rfl
@[simp] theorem setOutput_power (s : State) (i : Nat) (v : Output) : (s.setOutput i v).power = s.power := rfl
@[simp] theorem setOutput_gates (s : State) (i : Nat) (v : Output) : (s.setOutput i v).gates = s.gates := rfl
@[simp] theorem setOutput_aon (s : State) (i : Nat) (v : Output) : (s.setOutput i v).aon = s.aon := rfl
@[simp] theorem setOutput_otp (s : State) (i : Nat) (v : Output) : (s.setOutput i v).otp = s.otp := rfl
@[simp] theorem setOutput_board (s : State) (i : Nat) (v : Output) : (s.setOutput i v).board = s.board := rfl
@[simp] theorem setOutput_phase (s : State) (i : Nat) (v : Output) : (s.setOutput i v).phase = s.phase := rfl
@[simp] theorem setOutput_bootAt (s : State) (i : Nat) (v : Output) : (s.setOutput i v).bootAt = s.bootAt := rfl
@[simp] theorem setOutput_image (s : State) (i : Nat) (v : Output) : (s.setOutput i v).image = s.image := rfl
@[simp] theorem setOutput_undurable (s : State) (i : Nat) (v : Output) : (s.setOutput i v).undurable = s.undurable := rfl
@[simp] theorem setOutput_heldEvents (s : State) (i : Nat) (v : Output) : (s.setOutput i v).heldEvents = s.heldEvents := rfl
@[simp] theorem setOutput_heldWakes (s : State) (i : Nat) (v : Output) : (s.setOutput i v).heldWakes = s.heldWakes := rfl
@[simp] theorem setOutput_frames (s : State) (i : Nat) (v : Output) : (s.setOutput i v).frames = s.frames := rfl
@[simp] theorem setOutput_inj (s : State) (i : Nat) (v : Output) : (s.setOutput i v).inj = s.inj := rfl
@[simp] theorem setOutput_feat (s : State) (i : Nat) (v : Output) : (s.setOutput i v).feat = s.feat := rfl
@[simp] theorem setOutput_hykEn (s : State) (i : Nat) (v : Output) : (s.setOutput i v).hykEn = s.hykEn := rfl
@[simp] theorem setOutput_now (s : State) (i : Nat) (v : Output) : (s.setOutput i v).now = s.now := rfl
@[simp] theorem setOutput_free (s : State) (i : Nat) (v : Output) : (s.setOutput i v).free = s.free := rfl
@[simp] theorem setOutput_pending (s : State) (i : Nat) (v : Output) : (s.setOutput i v).pending = s.pending := rfl

/-! ## `setMod` -/

@[simp] theorem setMod_mem (s : State) (i : Nat) (v : ModInput) : (s.setMod i v).mem = s.mem := rfl
@[simp] theorem setMod_tags (s : State) (i : Nat) (v : ModInput) : (s.setMod i v).tags = s.tags := rfl
@[simp] theorem setMod_ecc (s : State) (i : Nat) (v : ModInput) : (s.setMod i v).ecc = s.ecc := rfl
@[simp] theorem setMod_code (s : State) (i : Nat) (v : ModInput) : (s.setMod i v).code = s.code := rfl
@[simp] theorem setMod_codeEcc (s : State) (i : Nat) (v : ModInput) : (s.setMod i v).codeEcc = s.codeEcc := rfl
@[simp] theorem setMod_cores (s : State) (i : Nat) (v : ModInput) : (s.setMod i v).cores = s.cores := rfl
@[simp] theorem setMod_coves (s : State) (i : Nat) (v : ModInput) : (s.setMod i v).coves = s.coves := rfl
@[simp] theorem setMod_tenants (s : State) (i : Nat) (v : ModInput) : (s.setMod i v).tenants = s.tenants := rfl
@[simp] theorem setMod_tenTable (s : State) (i : Nat) (v : ModInput) : (s.setMod i v).tenTable = s.tenTable := rfl
@[simp] theorem setMod_chGens (s : State) (i : Nat) (v : ModInput) : (s.setMod i v).chGens = s.chGens := rfl
@[simp] theorem setMod_entryGens (s : State) (i : Nat) (v : ModInput) : (s.setMod i v).entryGens = s.entryGens := rfl
@[simp] theorem setMod_srcGens (s : State) (i : Nat) (v : ModInput) : (s.setMod i v).srcGens = s.srcGens := rfl
@[simp] theorem setMod_tides (s : State) (i : Nat) (v : ModInput) : (s.setMod i v).tides = s.tides := rfl
@[simp] theorem setMod_entries (s : State) (i : Nat) (v : ModInput) : (s.setMod i v).entries = s.entries := rfl
@[simp] theorem setMod_outputs (s : State) (i : Nat) (v : ModInput) : (s.setMod i v).outputs = s.outputs := rfl
@[simp] theorem setMod_windows (s : State) (i : Nat) (v : ModInput) : (s.setMod i v).windows = s.windows := rfl
@[simp] theorem setMod_waves (s : State) (i : Nat) (v : ModInput) : (s.setMod i v).waves = s.waves := rfl
@[simp] theorem setMod_sources (s : State) (i : Nat) (v : ModInput) : (s.setMod i v).sources = s.sources := rfl
@[simp] theorem setMod_evc (s : State) (i : Nat) (v : ModInput) : (s.setMod i v).evc = s.evc := rfl
@[simp] theorem setMod_churn (s : State) (i : Nat) (v : ModInput) : (s.setMod i v).churn = s.churn := rfl
@[simp] theorem setMod_channels (s : State) (i : Nat) (v : ModInput) : (s.setMod i v).channels = s.channels := rfl
@[simp] theorem setMod_undertow (s : State) (i : Nat) (v : ModInput) : (s.setMod i v).undertow = s.undertow := rfl
@[simp] theorem setMod_tlbis (s : State) (i : Nat) (v : ModInput) : (s.setMod i v).tlbis = s.tlbis := rfl
@[simp] theorem setMod_links (s : State) (i : Nat) (v : ModInput) : (s.setMod i v).links = s.links := rfl
@[simp] theorem setMod_eths (s : State) (i : Nat) (v : ModInput) : (s.setMod i v).eths = s.eths := rfl
@[simp] theorem setMod_cans (s : State) (i : Nat) (v : ModInput) : (s.setMod i v).cans = s.cans := rfl
@[simp] theorem setMod_uarts (s : State) (i : Nat) (v : ModInput) : (s.setMod i v).uarts = s.uarts := rfl
@[simp] theorem setMod_pcie (s : State) (i : Nat) (v : ModInput) : (s.setMod i v).pcie = s.pcie := rfl
@[simp] theorem setMod_xspi (s : State) (i : Nat) (v : ModInput) : (s.setMod i v).xspi = s.xspi := rfl
@[simp] theorem setMod_i2cs (s : State) (i : Nat) (v : ModInput) : (s.setMod i v).i2cs = s.i2cs := rfl
@[simp] theorem setMod_memCtl (s : State) (i : Nat) (v : ModInput) : (s.setMod i v).memCtl = s.memCtl := rfl
@[simp] theorem setMod_jtag (s : State) (i : Nat) (v : ModInput) : (s.setMod i v).jtag = s.jtag := rfl
@[simp] theorem setMod_power (s : State) (i : Nat) (v : ModInput) : (s.setMod i v).power = s.power := rfl
@[simp] theorem setMod_gates (s : State) (i : Nat) (v : ModInput) : (s.setMod i v).gates = s.gates := rfl
@[simp] theorem setMod_aon (s : State) (i : Nat) (v : ModInput) : (s.setMod i v).aon = s.aon := rfl
@[simp] theorem setMod_otp (s : State) (i : Nat) (v : ModInput) : (s.setMod i v).otp = s.otp := rfl
@[simp] theorem setMod_board (s : State) (i : Nat) (v : ModInput) : (s.setMod i v).board = s.board := rfl
@[simp] theorem setMod_phase (s : State) (i : Nat) (v : ModInput) : (s.setMod i v).phase = s.phase := rfl
@[simp] theorem setMod_bootAt (s : State) (i : Nat) (v : ModInput) : (s.setMod i v).bootAt = s.bootAt := rfl
@[simp] theorem setMod_image (s : State) (i : Nat) (v : ModInput) : (s.setMod i v).image = s.image := rfl
@[simp] theorem setMod_undurable (s : State) (i : Nat) (v : ModInput) : (s.setMod i v).undurable = s.undurable := rfl
@[simp] theorem setMod_heldEvents (s : State) (i : Nat) (v : ModInput) : (s.setMod i v).heldEvents = s.heldEvents := rfl
@[simp] theorem setMod_heldWakes (s : State) (i : Nat) (v : ModInput) : (s.setMod i v).heldWakes = s.heldWakes := rfl
@[simp] theorem setMod_frames (s : State) (i : Nat) (v : ModInput) : (s.setMod i v).frames = s.frames := rfl
@[simp] theorem setMod_inj (s : State) (i : Nat) (v : ModInput) : (s.setMod i v).inj = s.inj := rfl
@[simp] theorem setMod_feat (s : State) (i : Nat) (v : ModInput) : (s.setMod i v).feat = s.feat := rfl
@[simp] theorem setMod_hykEn (s : State) (i : Nat) (v : ModInput) : (s.setMod i v).hykEn = s.hykEn := rfl
@[simp] theorem setMod_now (s : State) (i : Nat) (v : ModInput) : (s.setMod i v).now = s.now := rfl
@[simp] theorem setMod_free (s : State) (i : Nat) (v : ModInput) : (s.setMod i v).free = s.free := rfl
@[simp] theorem setMod_pending (s : State) (i : Nat) (v : ModInput) : (s.setMod i v).pending = s.pending := rfl

/-! ## `setWave` -/

@[simp] theorem setWave_mem (s : State) (i : Nat) (v : Wave) : (s.setWave i v).mem = s.mem := rfl
@[simp] theorem setWave_tags (s : State) (i : Nat) (v : Wave) : (s.setWave i v).tags = s.tags := rfl
@[simp] theorem setWave_ecc (s : State) (i : Nat) (v : Wave) : (s.setWave i v).ecc = s.ecc := rfl
@[simp] theorem setWave_code (s : State) (i : Nat) (v : Wave) : (s.setWave i v).code = s.code := rfl
@[simp] theorem setWave_codeEcc (s : State) (i : Nat) (v : Wave) : (s.setWave i v).codeEcc = s.codeEcc := rfl
@[simp] theorem setWave_cores (s : State) (i : Nat) (v : Wave) : (s.setWave i v).cores = s.cores := rfl
@[simp] theorem setWave_coves (s : State) (i : Nat) (v : Wave) : (s.setWave i v).coves = s.coves := rfl
@[simp] theorem setWave_tenants (s : State) (i : Nat) (v : Wave) : (s.setWave i v).tenants = s.tenants := rfl
@[simp] theorem setWave_tenTable (s : State) (i : Nat) (v : Wave) : (s.setWave i v).tenTable = s.tenTable := rfl
@[simp] theorem setWave_chGens (s : State) (i : Nat) (v : Wave) : (s.setWave i v).chGens = s.chGens := rfl
@[simp] theorem setWave_entryGens (s : State) (i : Nat) (v : Wave) : (s.setWave i v).entryGens = s.entryGens := rfl
@[simp] theorem setWave_srcGens (s : State) (i : Nat) (v : Wave) : (s.setWave i v).srcGens = s.srcGens := rfl
@[simp] theorem setWave_tides (s : State) (i : Nat) (v : Wave) : (s.setWave i v).tides = s.tides := rfl
@[simp] theorem setWave_entries (s : State) (i : Nat) (v : Wave) : (s.setWave i v).entries = s.entries := rfl
@[simp] theorem setWave_outputs (s : State) (i : Nat) (v : Wave) : (s.setWave i v).outputs = s.outputs := rfl
@[simp] theorem setWave_mods (s : State) (i : Nat) (v : Wave) : (s.setWave i v).mods = s.mods := rfl
@[simp] theorem setWave_windows (s : State) (i : Nat) (v : Wave) : (s.setWave i v).windows = s.windows := rfl
@[simp] theorem setWave_sources (s : State) (i : Nat) (v : Wave) : (s.setWave i v).sources = s.sources := rfl
@[simp] theorem setWave_evc (s : State) (i : Nat) (v : Wave) : (s.setWave i v).evc = s.evc := rfl
@[simp] theorem setWave_churn (s : State) (i : Nat) (v : Wave) : (s.setWave i v).churn = s.churn := rfl
@[simp] theorem setWave_channels (s : State) (i : Nat) (v : Wave) : (s.setWave i v).channels = s.channels := rfl
@[simp] theorem setWave_undertow (s : State) (i : Nat) (v : Wave) : (s.setWave i v).undertow = s.undertow := rfl
@[simp] theorem setWave_tlbis (s : State) (i : Nat) (v : Wave) : (s.setWave i v).tlbis = s.tlbis := rfl
@[simp] theorem setWave_links (s : State) (i : Nat) (v : Wave) : (s.setWave i v).links = s.links := rfl
@[simp] theorem setWave_eths (s : State) (i : Nat) (v : Wave) : (s.setWave i v).eths = s.eths := rfl
@[simp] theorem setWave_cans (s : State) (i : Nat) (v : Wave) : (s.setWave i v).cans = s.cans := rfl
@[simp] theorem setWave_uarts (s : State) (i : Nat) (v : Wave) : (s.setWave i v).uarts = s.uarts := rfl
@[simp] theorem setWave_pcie (s : State) (i : Nat) (v : Wave) : (s.setWave i v).pcie = s.pcie := rfl
@[simp] theorem setWave_xspi (s : State) (i : Nat) (v : Wave) : (s.setWave i v).xspi = s.xspi := rfl
@[simp] theorem setWave_i2cs (s : State) (i : Nat) (v : Wave) : (s.setWave i v).i2cs = s.i2cs := rfl
@[simp] theorem setWave_memCtl (s : State) (i : Nat) (v : Wave) : (s.setWave i v).memCtl = s.memCtl := rfl
@[simp] theorem setWave_jtag (s : State) (i : Nat) (v : Wave) : (s.setWave i v).jtag = s.jtag := rfl
@[simp] theorem setWave_power (s : State) (i : Nat) (v : Wave) : (s.setWave i v).power = s.power := rfl
@[simp] theorem setWave_gates (s : State) (i : Nat) (v : Wave) : (s.setWave i v).gates = s.gates := rfl
@[simp] theorem setWave_aon (s : State) (i : Nat) (v : Wave) : (s.setWave i v).aon = s.aon := rfl
@[simp] theorem setWave_otp (s : State) (i : Nat) (v : Wave) : (s.setWave i v).otp = s.otp := rfl
@[simp] theorem setWave_board (s : State) (i : Nat) (v : Wave) : (s.setWave i v).board = s.board := rfl
@[simp] theorem setWave_phase (s : State) (i : Nat) (v : Wave) : (s.setWave i v).phase = s.phase := rfl
@[simp] theorem setWave_bootAt (s : State) (i : Nat) (v : Wave) : (s.setWave i v).bootAt = s.bootAt := rfl
@[simp] theorem setWave_image (s : State) (i : Nat) (v : Wave) : (s.setWave i v).image = s.image := rfl
@[simp] theorem setWave_undurable (s : State) (i : Nat) (v : Wave) : (s.setWave i v).undurable = s.undurable := rfl
@[simp] theorem setWave_heldEvents (s : State) (i : Nat) (v : Wave) : (s.setWave i v).heldEvents = s.heldEvents := rfl
@[simp] theorem setWave_heldWakes (s : State) (i : Nat) (v : Wave) : (s.setWave i v).heldWakes = s.heldWakes := rfl
@[simp] theorem setWave_frames (s : State) (i : Nat) (v : Wave) : (s.setWave i v).frames = s.frames := rfl
@[simp] theorem setWave_inj (s : State) (i : Nat) (v : Wave) : (s.setWave i v).inj = s.inj := rfl
@[simp] theorem setWave_feat (s : State) (i : Nat) (v : Wave) : (s.setWave i v).feat = s.feat := rfl
@[simp] theorem setWave_hykEn (s : State) (i : Nat) (v : Wave) : (s.setWave i v).hykEn = s.hykEn := rfl
@[simp] theorem setWave_now (s : State) (i : Nat) (v : Wave) : (s.setWave i v).now = s.now := rfl
@[simp] theorem setWave_free (s : State) (i : Nat) (v : Wave) : (s.setWave i v).free = s.free := rfl
@[simp] theorem setWave_pending (s : State) (i : Nat) (v : Wave) : (s.setWave i v).pending = s.pending := rfl

/-! ## `setChannel` -/

@[simp] theorem setChannel_mem (s : State) (i : Nat) (v : Channel) : (s.setChannel i v).mem = s.mem := rfl
@[simp] theorem setChannel_tags (s : State) (i : Nat) (v : Channel) : (s.setChannel i v).tags = s.tags := rfl
@[simp] theorem setChannel_ecc (s : State) (i : Nat) (v : Channel) : (s.setChannel i v).ecc = s.ecc := rfl
@[simp] theorem setChannel_code (s : State) (i : Nat) (v : Channel) : (s.setChannel i v).code = s.code := rfl
@[simp] theorem setChannel_codeEcc (s : State) (i : Nat) (v : Channel) : (s.setChannel i v).codeEcc = s.codeEcc := rfl
@[simp] theorem setChannel_cores (s : State) (i : Nat) (v : Channel) : (s.setChannel i v).cores = s.cores := rfl
@[simp] theorem setChannel_coves (s : State) (i : Nat) (v : Channel) : (s.setChannel i v).coves = s.coves := rfl
@[simp] theorem setChannel_tenants (s : State) (i : Nat) (v : Channel) : (s.setChannel i v).tenants = s.tenants := rfl
@[simp] theorem setChannel_tenTable (s : State) (i : Nat) (v : Channel) : (s.setChannel i v).tenTable = s.tenTable := rfl
@[simp] theorem setChannel_chGens (s : State) (i : Nat) (v : Channel) : (s.setChannel i v).chGens = s.chGens := rfl
@[simp] theorem setChannel_entryGens (s : State) (i : Nat) (v : Channel) : (s.setChannel i v).entryGens = s.entryGens := rfl
@[simp] theorem setChannel_srcGens (s : State) (i : Nat) (v : Channel) : (s.setChannel i v).srcGens = s.srcGens := rfl
@[simp] theorem setChannel_tides (s : State) (i : Nat) (v : Channel) : (s.setChannel i v).tides = s.tides := rfl
@[simp] theorem setChannel_entries (s : State) (i : Nat) (v : Channel) : (s.setChannel i v).entries = s.entries := rfl
@[simp] theorem setChannel_outputs (s : State) (i : Nat) (v : Channel) : (s.setChannel i v).outputs = s.outputs := rfl
@[simp] theorem setChannel_mods (s : State) (i : Nat) (v : Channel) : (s.setChannel i v).mods = s.mods := rfl
@[simp] theorem setChannel_windows (s : State) (i : Nat) (v : Channel) : (s.setChannel i v).windows = s.windows := rfl
@[simp] theorem setChannel_waves (s : State) (i : Nat) (v : Channel) : (s.setChannel i v).waves = s.waves := rfl
@[simp] theorem setChannel_sources (s : State) (i : Nat) (v : Channel) : (s.setChannel i v).sources = s.sources := rfl
@[simp] theorem setChannel_evc (s : State) (i : Nat) (v : Channel) : (s.setChannel i v).evc = s.evc := rfl
@[simp] theorem setChannel_churn (s : State) (i : Nat) (v : Channel) : (s.setChannel i v).churn = s.churn := rfl
@[simp] theorem setChannel_undertow (s : State) (i : Nat) (v : Channel) : (s.setChannel i v).undertow = s.undertow := rfl
@[simp] theorem setChannel_tlbis (s : State) (i : Nat) (v : Channel) : (s.setChannel i v).tlbis = s.tlbis := rfl
@[simp] theorem setChannel_links (s : State) (i : Nat) (v : Channel) : (s.setChannel i v).links = s.links := rfl
@[simp] theorem setChannel_eths (s : State) (i : Nat) (v : Channel) : (s.setChannel i v).eths = s.eths := rfl
@[simp] theorem setChannel_cans (s : State) (i : Nat) (v : Channel) : (s.setChannel i v).cans = s.cans := rfl
@[simp] theorem setChannel_uarts (s : State) (i : Nat) (v : Channel) : (s.setChannel i v).uarts = s.uarts := rfl
@[simp] theorem setChannel_pcie (s : State) (i : Nat) (v : Channel) : (s.setChannel i v).pcie = s.pcie := rfl
@[simp] theorem setChannel_xspi (s : State) (i : Nat) (v : Channel) : (s.setChannel i v).xspi = s.xspi := rfl
@[simp] theorem setChannel_i2cs (s : State) (i : Nat) (v : Channel) : (s.setChannel i v).i2cs = s.i2cs := rfl
@[simp] theorem setChannel_memCtl (s : State) (i : Nat) (v : Channel) : (s.setChannel i v).memCtl = s.memCtl := rfl
@[simp] theorem setChannel_jtag (s : State) (i : Nat) (v : Channel) : (s.setChannel i v).jtag = s.jtag := rfl
@[simp] theorem setChannel_power (s : State) (i : Nat) (v : Channel) : (s.setChannel i v).power = s.power := rfl
@[simp] theorem setChannel_gates (s : State) (i : Nat) (v : Channel) : (s.setChannel i v).gates = s.gates := rfl
@[simp] theorem setChannel_aon (s : State) (i : Nat) (v : Channel) : (s.setChannel i v).aon = s.aon := rfl
@[simp] theorem setChannel_otp (s : State) (i : Nat) (v : Channel) : (s.setChannel i v).otp = s.otp := rfl
@[simp] theorem setChannel_board (s : State) (i : Nat) (v : Channel) : (s.setChannel i v).board = s.board := rfl
@[simp] theorem setChannel_phase (s : State) (i : Nat) (v : Channel) : (s.setChannel i v).phase = s.phase := rfl
@[simp] theorem setChannel_bootAt (s : State) (i : Nat) (v : Channel) : (s.setChannel i v).bootAt = s.bootAt := rfl
@[simp] theorem setChannel_image (s : State) (i : Nat) (v : Channel) : (s.setChannel i v).image = s.image := rfl
@[simp] theorem setChannel_undurable (s : State) (i : Nat) (v : Channel) : (s.setChannel i v).undurable = s.undurable := rfl
@[simp] theorem setChannel_heldEvents (s : State) (i : Nat) (v : Channel) : (s.setChannel i v).heldEvents = s.heldEvents := rfl
@[simp] theorem setChannel_heldWakes (s : State) (i : Nat) (v : Channel) : (s.setChannel i v).heldWakes = s.heldWakes := rfl
@[simp] theorem setChannel_frames (s : State) (i : Nat) (v : Channel) : (s.setChannel i v).frames = s.frames := rfl
@[simp] theorem setChannel_inj (s : State) (i : Nat) (v : Channel) : (s.setChannel i v).inj = s.inj := rfl
@[simp] theorem setChannel_feat (s : State) (i : Nat) (v : Channel) : (s.setChannel i v).feat = s.feat := rfl
@[simp] theorem setChannel_hykEn (s : State) (i : Nat) (v : Channel) : (s.setChannel i v).hykEn = s.hykEn := rfl
@[simp] theorem setChannel_now (s : State) (i : Nat) (v : Channel) : (s.setChannel i v).now = s.now := rfl
@[simp] theorem setChannel_free (s : State) (i : Nat) (v : Channel) : (s.setChannel i v).free = s.free := rfl
@[simp] theorem setChannel_pending (s : State) (i : Nat) (v : Channel) : (s.setChannel i v).pending = s.pending := rfl

/-! ## `setLink` -/

@[simp] theorem setLink_mem (s : State) (l : Nat) (v : Link) : (s.setLink l v).mem = s.mem := rfl
@[simp] theorem setLink_tags (s : State) (l : Nat) (v : Link) : (s.setLink l v).tags = s.tags := rfl
@[simp] theorem setLink_ecc (s : State) (l : Nat) (v : Link) : (s.setLink l v).ecc = s.ecc := rfl
@[simp] theorem setLink_code (s : State) (l : Nat) (v : Link) : (s.setLink l v).code = s.code := rfl
@[simp] theorem setLink_codeEcc (s : State) (l : Nat) (v : Link) : (s.setLink l v).codeEcc = s.codeEcc := rfl
@[simp] theorem setLink_cores (s : State) (l : Nat) (v : Link) : (s.setLink l v).cores = s.cores := rfl
@[simp] theorem setLink_coves (s : State) (l : Nat) (v : Link) : (s.setLink l v).coves = s.coves := rfl
@[simp] theorem setLink_tenants (s : State) (l : Nat) (v : Link) : (s.setLink l v).tenants = s.tenants := rfl
@[simp] theorem setLink_tenTable (s : State) (l : Nat) (v : Link) : (s.setLink l v).tenTable = s.tenTable := rfl
@[simp] theorem setLink_chGens (s : State) (l : Nat) (v : Link) : (s.setLink l v).chGens = s.chGens := rfl
@[simp] theorem setLink_entryGens (s : State) (l : Nat) (v : Link) : (s.setLink l v).entryGens = s.entryGens := rfl
@[simp] theorem setLink_srcGens (s : State) (l : Nat) (v : Link) : (s.setLink l v).srcGens = s.srcGens := rfl
@[simp] theorem setLink_tides (s : State) (l : Nat) (v : Link) : (s.setLink l v).tides = s.tides := rfl
@[simp] theorem setLink_entries (s : State) (l : Nat) (v : Link) : (s.setLink l v).entries = s.entries := rfl
@[simp] theorem setLink_outputs (s : State) (l : Nat) (v : Link) : (s.setLink l v).outputs = s.outputs := rfl
@[simp] theorem setLink_mods (s : State) (l : Nat) (v : Link) : (s.setLink l v).mods = s.mods := rfl
@[simp] theorem setLink_windows (s : State) (l : Nat) (v : Link) : (s.setLink l v).windows = s.windows := rfl
@[simp] theorem setLink_waves (s : State) (l : Nat) (v : Link) : (s.setLink l v).waves = s.waves := rfl
@[simp] theorem setLink_sources (s : State) (l : Nat) (v : Link) : (s.setLink l v).sources = s.sources := rfl
@[simp] theorem setLink_evc (s : State) (l : Nat) (v : Link) : (s.setLink l v).evc = s.evc := rfl
@[simp] theorem setLink_churn (s : State) (l : Nat) (v : Link) : (s.setLink l v).churn = s.churn := rfl
@[simp] theorem setLink_channels (s : State) (l : Nat) (v : Link) : (s.setLink l v).channels = s.channels := rfl
@[simp] theorem setLink_undertow (s : State) (l : Nat) (v : Link) : (s.setLink l v).undertow = s.undertow := rfl
@[simp] theorem setLink_tlbis (s : State) (l : Nat) (v : Link) : (s.setLink l v).tlbis = s.tlbis := rfl
@[simp] theorem setLink_eths (s : State) (l : Nat) (v : Link) : (s.setLink l v).eths = s.eths := rfl
@[simp] theorem setLink_cans (s : State) (l : Nat) (v : Link) : (s.setLink l v).cans = s.cans := rfl
@[simp] theorem setLink_uarts (s : State) (l : Nat) (v : Link) : (s.setLink l v).uarts = s.uarts := rfl
@[simp] theorem setLink_pcie (s : State) (l : Nat) (v : Link) : (s.setLink l v).pcie = s.pcie := rfl
@[simp] theorem setLink_xspi (s : State) (l : Nat) (v : Link) : (s.setLink l v).xspi = s.xspi := rfl
@[simp] theorem setLink_i2cs (s : State) (l : Nat) (v : Link) : (s.setLink l v).i2cs = s.i2cs := rfl
@[simp] theorem setLink_memCtl (s : State) (l : Nat) (v : Link) : (s.setLink l v).memCtl = s.memCtl := rfl
@[simp] theorem setLink_jtag (s : State) (l : Nat) (v : Link) : (s.setLink l v).jtag = s.jtag := rfl
@[simp] theorem setLink_power (s : State) (l : Nat) (v : Link) : (s.setLink l v).power = s.power := rfl
@[simp] theorem setLink_gates (s : State) (l : Nat) (v : Link) : (s.setLink l v).gates = s.gates := rfl
@[simp] theorem setLink_aon (s : State) (l : Nat) (v : Link) : (s.setLink l v).aon = s.aon := rfl
@[simp] theorem setLink_otp (s : State) (l : Nat) (v : Link) : (s.setLink l v).otp = s.otp := rfl
@[simp] theorem setLink_board (s : State) (l : Nat) (v : Link) : (s.setLink l v).board = s.board := rfl
@[simp] theorem setLink_phase (s : State) (l : Nat) (v : Link) : (s.setLink l v).phase = s.phase := rfl
@[simp] theorem setLink_bootAt (s : State) (l : Nat) (v : Link) : (s.setLink l v).bootAt = s.bootAt := rfl
@[simp] theorem setLink_image (s : State) (l : Nat) (v : Link) : (s.setLink l v).image = s.image := rfl
@[simp] theorem setLink_undurable (s : State) (l : Nat) (v : Link) : (s.setLink l v).undurable = s.undurable := rfl
@[simp] theorem setLink_heldEvents (s : State) (l : Nat) (v : Link) : (s.setLink l v).heldEvents = s.heldEvents := rfl
@[simp] theorem setLink_heldWakes (s : State) (l : Nat) (v : Link) : (s.setLink l v).heldWakes = s.heldWakes := rfl
@[simp] theorem setLink_frames (s : State) (l : Nat) (v : Link) : (s.setLink l v).frames = s.frames := rfl
@[simp] theorem setLink_inj (s : State) (l : Nat) (v : Link) : (s.setLink l v).inj = s.inj := rfl
@[simp] theorem setLink_feat (s : State) (l : Nat) (v : Link) : (s.setLink l v).feat = s.feat := rfl
@[simp] theorem setLink_hykEn (s : State) (l : Nat) (v : Link) : (s.setLink l v).hykEn = s.hykEn := rfl
@[simp] theorem setLink_now (s : State) (l : Nat) (v : Link) : (s.setLink l v).now = s.now := rfl
@[simp] theorem setLink_free (s : State) (l : Nat) (v : Link) : (s.setLink l v).free = s.free := rfl
@[simp] theorem setLink_pending (s : State) (l : Nat) (v : Link) : (s.setLink l v).pending = s.pending := rfl

/-! ## `setEth` -/

@[simp] theorem setEth_mem (s : State) (i : Nat) (v : Eth) : (s.setEth i v).mem = s.mem := rfl
@[simp] theorem setEth_tags (s : State) (i : Nat) (v : Eth) : (s.setEth i v).tags = s.tags := rfl
@[simp] theorem setEth_ecc (s : State) (i : Nat) (v : Eth) : (s.setEth i v).ecc = s.ecc := rfl
@[simp] theorem setEth_code (s : State) (i : Nat) (v : Eth) : (s.setEth i v).code = s.code := rfl
@[simp] theorem setEth_codeEcc (s : State) (i : Nat) (v : Eth) : (s.setEth i v).codeEcc = s.codeEcc := rfl
@[simp] theorem setEth_cores (s : State) (i : Nat) (v : Eth) : (s.setEth i v).cores = s.cores := rfl
@[simp] theorem setEth_coves (s : State) (i : Nat) (v : Eth) : (s.setEth i v).coves = s.coves := rfl
@[simp] theorem setEth_tenants (s : State) (i : Nat) (v : Eth) : (s.setEth i v).tenants = s.tenants := rfl
@[simp] theorem setEth_tenTable (s : State) (i : Nat) (v : Eth) : (s.setEth i v).tenTable = s.tenTable := rfl
@[simp] theorem setEth_chGens (s : State) (i : Nat) (v : Eth) : (s.setEth i v).chGens = s.chGens := rfl
@[simp] theorem setEth_entryGens (s : State) (i : Nat) (v : Eth) : (s.setEth i v).entryGens = s.entryGens := rfl
@[simp] theorem setEth_srcGens (s : State) (i : Nat) (v : Eth) : (s.setEth i v).srcGens = s.srcGens := rfl
@[simp] theorem setEth_tides (s : State) (i : Nat) (v : Eth) : (s.setEth i v).tides = s.tides := rfl
@[simp] theorem setEth_entries (s : State) (i : Nat) (v : Eth) : (s.setEth i v).entries = s.entries := rfl
@[simp] theorem setEth_outputs (s : State) (i : Nat) (v : Eth) : (s.setEth i v).outputs = s.outputs := rfl
@[simp] theorem setEth_mods (s : State) (i : Nat) (v : Eth) : (s.setEth i v).mods = s.mods := rfl
@[simp] theorem setEth_windows (s : State) (i : Nat) (v : Eth) : (s.setEth i v).windows = s.windows := rfl
@[simp] theorem setEth_waves (s : State) (i : Nat) (v : Eth) : (s.setEth i v).waves = s.waves := rfl
@[simp] theorem setEth_sources (s : State) (i : Nat) (v : Eth) : (s.setEth i v).sources = s.sources := rfl
@[simp] theorem setEth_evc (s : State) (i : Nat) (v : Eth) : (s.setEth i v).evc = s.evc := rfl
@[simp] theorem setEth_churn (s : State) (i : Nat) (v : Eth) : (s.setEth i v).churn = s.churn := rfl
@[simp] theorem setEth_channels (s : State) (i : Nat) (v : Eth) : (s.setEth i v).channels = s.channels := rfl
@[simp] theorem setEth_undertow (s : State) (i : Nat) (v : Eth) : (s.setEth i v).undertow = s.undertow := rfl
@[simp] theorem setEth_tlbis (s : State) (i : Nat) (v : Eth) : (s.setEth i v).tlbis = s.tlbis := rfl
@[simp] theorem setEth_links (s : State) (i : Nat) (v : Eth) : (s.setEth i v).links = s.links := rfl
@[simp] theorem setEth_cans (s : State) (i : Nat) (v : Eth) : (s.setEth i v).cans = s.cans := rfl
@[simp] theorem setEth_uarts (s : State) (i : Nat) (v : Eth) : (s.setEth i v).uarts = s.uarts := rfl
@[simp] theorem setEth_pcie (s : State) (i : Nat) (v : Eth) : (s.setEth i v).pcie = s.pcie := rfl
@[simp] theorem setEth_xspi (s : State) (i : Nat) (v : Eth) : (s.setEth i v).xspi = s.xspi := rfl
@[simp] theorem setEth_i2cs (s : State) (i : Nat) (v : Eth) : (s.setEth i v).i2cs = s.i2cs := rfl
@[simp] theorem setEth_memCtl (s : State) (i : Nat) (v : Eth) : (s.setEth i v).memCtl = s.memCtl := rfl
@[simp] theorem setEth_jtag (s : State) (i : Nat) (v : Eth) : (s.setEth i v).jtag = s.jtag := rfl
@[simp] theorem setEth_power (s : State) (i : Nat) (v : Eth) : (s.setEth i v).power = s.power := rfl
@[simp] theorem setEth_gates (s : State) (i : Nat) (v : Eth) : (s.setEth i v).gates = s.gates := rfl
@[simp] theorem setEth_aon (s : State) (i : Nat) (v : Eth) : (s.setEth i v).aon = s.aon := rfl
@[simp] theorem setEth_otp (s : State) (i : Nat) (v : Eth) : (s.setEth i v).otp = s.otp := rfl
@[simp] theorem setEth_board (s : State) (i : Nat) (v : Eth) : (s.setEth i v).board = s.board := rfl
@[simp] theorem setEth_phase (s : State) (i : Nat) (v : Eth) : (s.setEth i v).phase = s.phase := rfl
@[simp] theorem setEth_bootAt (s : State) (i : Nat) (v : Eth) : (s.setEth i v).bootAt = s.bootAt := rfl
@[simp] theorem setEth_image (s : State) (i : Nat) (v : Eth) : (s.setEth i v).image = s.image := rfl
@[simp] theorem setEth_undurable (s : State) (i : Nat) (v : Eth) : (s.setEth i v).undurable = s.undurable := rfl
@[simp] theorem setEth_heldEvents (s : State) (i : Nat) (v : Eth) : (s.setEth i v).heldEvents = s.heldEvents := rfl
@[simp] theorem setEth_heldWakes (s : State) (i : Nat) (v : Eth) : (s.setEth i v).heldWakes = s.heldWakes := rfl
@[simp] theorem setEth_frames (s : State) (i : Nat) (v : Eth) : (s.setEth i v).frames = s.frames := rfl
@[simp] theorem setEth_inj (s : State) (i : Nat) (v : Eth) : (s.setEth i v).inj = s.inj := rfl
@[simp] theorem setEth_feat (s : State) (i : Nat) (v : Eth) : (s.setEth i v).feat = s.feat := rfl
@[simp] theorem setEth_hykEn (s : State) (i : Nat) (v : Eth) : (s.setEth i v).hykEn = s.hykEn := rfl
@[simp] theorem setEth_now (s : State) (i : Nat) (v : Eth) : (s.setEth i v).now = s.now := rfl
@[simp] theorem setEth_free (s : State) (i : Nat) (v : Eth) : (s.setEth i v).free = s.free := rfl
@[simp] theorem setEth_pending (s : State) (i : Nat) (v : Eth) : (s.setEth i v).pending = s.pending := rfl

/-! ## `setCan` -/

@[simp] theorem setCan_mem (s : State) (i : Nat) (v : Can) : (s.setCan i v).mem = s.mem := rfl
@[simp] theorem setCan_tags (s : State) (i : Nat) (v : Can) : (s.setCan i v).tags = s.tags := rfl
@[simp] theorem setCan_ecc (s : State) (i : Nat) (v : Can) : (s.setCan i v).ecc = s.ecc := rfl
@[simp] theorem setCan_code (s : State) (i : Nat) (v : Can) : (s.setCan i v).code = s.code := rfl
@[simp] theorem setCan_codeEcc (s : State) (i : Nat) (v : Can) : (s.setCan i v).codeEcc = s.codeEcc := rfl
@[simp] theorem setCan_cores (s : State) (i : Nat) (v : Can) : (s.setCan i v).cores = s.cores := rfl
@[simp] theorem setCan_coves (s : State) (i : Nat) (v : Can) : (s.setCan i v).coves = s.coves := rfl
@[simp] theorem setCan_tenants (s : State) (i : Nat) (v : Can) : (s.setCan i v).tenants = s.tenants := rfl
@[simp] theorem setCan_tenTable (s : State) (i : Nat) (v : Can) : (s.setCan i v).tenTable = s.tenTable := rfl
@[simp] theorem setCan_chGens (s : State) (i : Nat) (v : Can) : (s.setCan i v).chGens = s.chGens := rfl
@[simp] theorem setCan_entryGens (s : State) (i : Nat) (v : Can) : (s.setCan i v).entryGens = s.entryGens := rfl
@[simp] theorem setCan_srcGens (s : State) (i : Nat) (v : Can) : (s.setCan i v).srcGens = s.srcGens := rfl
@[simp] theorem setCan_tides (s : State) (i : Nat) (v : Can) : (s.setCan i v).tides = s.tides := rfl
@[simp] theorem setCan_entries (s : State) (i : Nat) (v : Can) : (s.setCan i v).entries = s.entries := rfl
@[simp] theorem setCan_outputs (s : State) (i : Nat) (v : Can) : (s.setCan i v).outputs = s.outputs := rfl
@[simp] theorem setCan_mods (s : State) (i : Nat) (v : Can) : (s.setCan i v).mods = s.mods := rfl
@[simp] theorem setCan_windows (s : State) (i : Nat) (v : Can) : (s.setCan i v).windows = s.windows := rfl
@[simp] theorem setCan_waves (s : State) (i : Nat) (v : Can) : (s.setCan i v).waves = s.waves := rfl
@[simp] theorem setCan_sources (s : State) (i : Nat) (v : Can) : (s.setCan i v).sources = s.sources := rfl
@[simp] theorem setCan_evc (s : State) (i : Nat) (v : Can) : (s.setCan i v).evc = s.evc := rfl
@[simp] theorem setCan_churn (s : State) (i : Nat) (v : Can) : (s.setCan i v).churn = s.churn := rfl
@[simp] theorem setCan_channels (s : State) (i : Nat) (v : Can) : (s.setCan i v).channels = s.channels := rfl
@[simp] theorem setCan_undertow (s : State) (i : Nat) (v : Can) : (s.setCan i v).undertow = s.undertow := rfl
@[simp] theorem setCan_tlbis (s : State) (i : Nat) (v : Can) : (s.setCan i v).tlbis = s.tlbis := rfl
@[simp] theorem setCan_links (s : State) (i : Nat) (v : Can) : (s.setCan i v).links = s.links := rfl
@[simp] theorem setCan_eths (s : State) (i : Nat) (v : Can) : (s.setCan i v).eths = s.eths := rfl
@[simp] theorem setCan_uarts (s : State) (i : Nat) (v : Can) : (s.setCan i v).uarts = s.uarts := rfl
@[simp] theorem setCan_pcie (s : State) (i : Nat) (v : Can) : (s.setCan i v).pcie = s.pcie := rfl
@[simp] theorem setCan_xspi (s : State) (i : Nat) (v : Can) : (s.setCan i v).xspi = s.xspi := rfl
@[simp] theorem setCan_i2cs (s : State) (i : Nat) (v : Can) : (s.setCan i v).i2cs = s.i2cs := rfl
@[simp] theorem setCan_memCtl (s : State) (i : Nat) (v : Can) : (s.setCan i v).memCtl = s.memCtl := rfl
@[simp] theorem setCan_jtag (s : State) (i : Nat) (v : Can) : (s.setCan i v).jtag = s.jtag := rfl
@[simp] theorem setCan_power (s : State) (i : Nat) (v : Can) : (s.setCan i v).power = s.power := rfl
@[simp] theorem setCan_gates (s : State) (i : Nat) (v : Can) : (s.setCan i v).gates = s.gates := rfl
@[simp] theorem setCan_aon (s : State) (i : Nat) (v : Can) : (s.setCan i v).aon = s.aon := rfl
@[simp] theorem setCan_otp (s : State) (i : Nat) (v : Can) : (s.setCan i v).otp = s.otp := rfl
@[simp] theorem setCan_board (s : State) (i : Nat) (v : Can) : (s.setCan i v).board = s.board := rfl
@[simp] theorem setCan_phase (s : State) (i : Nat) (v : Can) : (s.setCan i v).phase = s.phase := rfl
@[simp] theorem setCan_bootAt (s : State) (i : Nat) (v : Can) : (s.setCan i v).bootAt = s.bootAt := rfl
@[simp] theorem setCan_image (s : State) (i : Nat) (v : Can) : (s.setCan i v).image = s.image := rfl
@[simp] theorem setCan_undurable (s : State) (i : Nat) (v : Can) : (s.setCan i v).undurable = s.undurable := rfl
@[simp] theorem setCan_heldEvents (s : State) (i : Nat) (v : Can) : (s.setCan i v).heldEvents = s.heldEvents := rfl
@[simp] theorem setCan_heldWakes (s : State) (i : Nat) (v : Can) : (s.setCan i v).heldWakes = s.heldWakes := rfl
@[simp] theorem setCan_frames (s : State) (i : Nat) (v : Can) : (s.setCan i v).frames = s.frames := rfl
@[simp] theorem setCan_inj (s : State) (i : Nat) (v : Can) : (s.setCan i v).inj = s.inj := rfl
@[simp] theorem setCan_feat (s : State) (i : Nat) (v : Can) : (s.setCan i v).feat = s.feat := rfl
@[simp] theorem setCan_hykEn (s : State) (i : Nat) (v : Can) : (s.setCan i v).hykEn = s.hykEn := rfl
@[simp] theorem setCan_now (s : State) (i : Nat) (v : Can) : (s.setCan i v).now = s.now := rfl
@[simp] theorem setCan_free (s : State) (i : Nat) (v : Can) : (s.setCan i v).free = s.free := rfl
@[simp] theorem setCan_pending (s : State) (i : Nat) (v : Can) : (s.setCan i v).pending = s.pending := rfl

/-! ## `setUart` -/

@[simp] theorem setUart_mem (s : State) (i : Nat) (v : Uart) : (s.setUart i v).mem = s.mem := rfl
@[simp] theorem setUart_tags (s : State) (i : Nat) (v : Uart) : (s.setUart i v).tags = s.tags := rfl
@[simp] theorem setUart_ecc (s : State) (i : Nat) (v : Uart) : (s.setUart i v).ecc = s.ecc := rfl
@[simp] theorem setUart_code (s : State) (i : Nat) (v : Uart) : (s.setUart i v).code = s.code := rfl
@[simp] theorem setUart_codeEcc (s : State) (i : Nat) (v : Uart) : (s.setUart i v).codeEcc = s.codeEcc := rfl
@[simp] theorem setUart_cores (s : State) (i : Nat) (v : Uart) : (s.setUart i v).cores = s.cores := rfl
@[simp] theorem setUart_coves (s : State) (i : Nat) (v : Uart) : (s.setUart i v).coves = s.coves := rfl
@[simp] theorem setUart_tenants (s : State) (i : Nat) (v : Uart) : (s.setUart i v).tenants = s.tenants := rfl
@[simp] theorem setUart_tenTable (s : State) (i : Nat) (v : Uart) : (s.setUart i v).tenTable = s.tenTable := rfl
@[simp] theorem setUart_chGens (s : State) (i : Nat) (v : Uart) : (s.setUart i v).chGens = s.chGens := rfl
@[simp] theorem setUart_entryGens (s : State) (i : Nat) (v : Uart) : (s.setUart i v).entryGens = s.entryGens := rfl
@[simp] theorem setUart_srcGens (s : State) (i : Nat) (v : Uart) : (s.setUart i v).srcGens = s.srcGens := rfl
@[simp] theorem setUart_tides (s : State) (i : Nat) (v : Uart) : (s.setUart i v).tides = s.tides := rfl
@[simp] theorem setUart_entries (s : State) (i : Nat) (v : Uart) : (s.setUart i v).entries = s.entries := rfl
@[simp] theorem setUart_outputs (s : State) (i : Nat) (v : Uart) : (s.setUart i v).outputs = s.outputs := rfl
@[simp] theorem setUart_mods (s : State) (i : Nat) (v : Uart) : (s.setUart i v).mods = s.mods := rfl
@[simp] theorem setUart_windows (s : State) (i : Nat) (v : Uart) : (s.setUart i v).windows = s.windows := rfl
@[simp] theorem setUart_waves (s : State) (i : Nat) (v : Uart) : (s.setUart i v).waves = s.waves := rfl
@[simp] theorem setUart_sources (s : State) (i : Nat) (v : Uart) : (s.setUart i v).sources = s.sources := rfl
@[simp] theorem setUart_evc (s : State) (i : Nat) (v : Uart) : (s.setUart i v).evc = s.evc := rfl
@[simp] theorem setUart_churn (s : State) (i : Nat) (v : Uart) : (s.setUart i v).churn = s.churn := rfl
@[simp] theorem setUart_channels (s : State) (i : Nat) (v : Uart) : (s.setUart i v).channels = s.channels := rfl
@[simp] theorem setUart_undertow (s : State) (i : Nat) (v : Uart) : (s.setUart i v).undertow = s.undertow := rfl
@[simp] theorem setUart_tlbis (s : State) (i : Nat) (v : Uart) : (s.setUart i v).tlbis = s.tlbis := rfl
@[simp] theorem setUart_links (s : State) (i : Nat) (v : Uart) : (s.setUart i v).links = s.links := rfl
@[simp] theorem setUart_eths (s : State) (i : Nat) (v : Uart) : (s.setUart i v).eths = s.eths := rfl
@[simp] theorem setUart_cans (s : State) (i : Nat) (v : Uart) : (s.setUart i v).cans = s.cans := rfl
@[simp] theorem setUart_pcie (s : State) (i : Nat) (v : Uart) : (s.setUart i v).pcie = s.pcie := rfl
@[simp] theorem setUart_xspi (s : State) (i : Nat) (v : Uart) : (s.setUart i v).xspi = s.xspi := rfl
@[simp] theorem setUart_i2cs (s : State) (i : Nat) (v : Uart) : (s.setUart i v).i2cs = s.i2cs := rfl
@[simp] theorem setUart_memCtl (s : State) (i : Nat) (v : Uart) : (s.setUart i v).memCtl = s.memCtl := rfl
@[simp] theorem setUart_jtag (s : State) (i : Nat) (v : Uart) : (s.setUart i v).jtag = s.jtag := rfl
@[simp] theorem setUart_power (s : State) (i : Nat) (v : Uart) : (s.setUart i v).power = s.power := rfl
@[simp] theorem setUart_gates (s : State) (i : Nat) (v : Uart) : (s.setUart i v).gates = s.gates := rfl
@[simp] theorem setUart_aon (s : State) (i : Nat) (v : Uart) : (s.setUart i v).aon = s.aon := rfl
@[simp] theorem setUart_otp (s : State) (i : Nat) (v : Uart) : (s.setUart i v).otp = s.otp := rfl
@[simp] theorem setUart_board (s : State) (i : Nat) (v : Uart) : (s.setUart i v).board = s.board := rfl
@[simp] theorem setUart_phase (s : State) (i : Nat) (v : Uart) : (s.setUart i v).phase = s.phase := rfl
@[simp] theorem setUart_bootAt (s : State) (i : Nat) (v : Uart) : (s.setUart i v).bootAt = s.bootAt := rfl
@[simp] theorem setUart_image (s : State) (i : Nat) (v : Uart) : (s.setUart i v).image = s.image := rfl
@[simp] theorem setUart_undurable (s : State) (i : Nat) (v : Uart) : (s.setUart i v).undurable = s.undurable := rfl
@[simp] theorem setUart_heldEvents (s : State) (i : Nat) (v : Uart) : (s.setUart i v).heldEvents = s.heldEvents := rfl
@[simp] theorem setUart_heldWakes (s : State) (i : Nat) (v : Uart) : (s.setUart i v).heldWakes = s.heldWakes := rfl
@[simp] theorem setUart_frames (s : State) (i : Nat) (v : Uart) : (s.setUart i v).frames = s.frames := rfl
@[simp] theorem setUart_inj (s : State) (i : Nat) (v : Uart) : (s.setUart i v).inj = s.inj := rfl
@[simp] theorem setUart_feat (s : State) (i : Nat) (v : Uart) : (s.setUart i v).feat = s.feat := rfl
@[simp] theorem setUart_hykEn (s : State) (i : Nat) (v : Uart) : (s.setUart i v).hykEn = s.hykEn := rfl
@[simp] theorem setUart_now (s : State) (i : Nat) (v : Uart) : (s.setUart i v).now = s.now := rfl
@[simp] theorem setUart_free (s : State) (i : Nat) (v : Uart) : (s.setUart i v).free = s.free := rfl
@[simp] theorem setUart_pending (s : State) (i : Nat) (v : Uart) : (s.setUart i v).pending = s.pending := rfl

/-! ## `setI2c` -/

@[simp] theorem setI2c_mem (s : State) (i : Nat) (v : I2c) : (s.setI2c i v).mem = s.mem := rfl
@[simp] theorem setI2c_tags (s : State) (i : Nat) (v : I2c) : (s.setI2c i v).tags = s.tags := rfl
@[simp] theorem setI2c_ecc (s : State) (i : Nat) (v : I2c) : (s.setI2c i v).ecc = s.ecc := rfl
@[simp] theorem setI2c_code (s : State) (i : Nat) (v : I2c) : (s.setI2c i v).code = s.code := rfl
@[simp] theorem setI2c_codeEcc (s : State) (i : Nat) (v : I2c) : (s.setI2c i v).codeEcc = s.codeEcc := rfl
@[simp] theorem setI2c_cores (s : State) (i : Nat) (v : I2c) : (s.setI2c i v).cores = s.cores := rfl
@[simp] theorem setI2c_coves (s : State) (i : Nat) (v : I2c) : (s.setI2c i v).coves = s.coves := rfl
@[simp] theorem setI2c_tenants (s : State) (i : Nat) (v : I2c) : (s.setI2c i v).tenants = s.tenants := rfl
@[simp] theorem setI2c_tenTable (s : State) (i : Nat) (v : I2c) : (s.setI2c i v).tenTable = s.tenTable := rfl
@[simp] theorem setI2c_chGens (s : State) (i : Nat) (v : I2c) : (s.setI2c i v).chGens = s.chGens := rfl
@[simp] theorem setI2c_entryGens (s : State) (i : Nat) (v : I2c) : (s.setI2c i v).entryGens = s.entryGens := rfl
@[simp] theorem setI2c_srcGens (s : State) (i : Nat) (v : I2c) : (s.setI2c i v).srcGens = s.srcGens := rfl
@[simp] theorem setI2c_tides (s : State) (i : Nat) (v : I2c) : (s.setI2c i v).tides = s.tides := rfl
@[simp] theorem setI2c_entries (s : State) (i : Nat) (v : I2c) : (s.setI2c i v).entries = s.entries := rfl
@[simp] theorem setI2c_outputs (s : State) (i : Nat) (v : I2c) : (s.setI2c i v).outputs = s.outputs := rfl
@[simp] theorem setI2c_mods (s : State) (i : Nat) (v : I2c) : (s.setI2c i v).mods = s.mods := rfl
@[simp] theorem setI2c_windows (s : State) (i : Nat) (v : I2c) : (s.setI2c i v).windows = s.windows := rfl
@[simp] theorem setI2c_waves (s : State) (i : Nat) (v : I2c) : (s.setI2c i v).waves = s.waves := rfl
@[simp] theorem setI2c_sources (s : State) (i : Nat) (v : I2c) : (s.setI2c i v).sources = s.sources := rfl
@[simp] theorem setI2c_evc (s : State) (i : Nat) (v : I2c) : (s.setI2c i v).evc = s.evc := rfl
@[simp] theorem setI2c_churn (s : State) (i : Nat) (v : I2c) : (s.setI2c i v).churn = s.churn := rfl
@[simp] theorem setI2c_channels (s : State) (i : Nat) (v : I2c) : (s.setI2c i v).channels = s.channels := rfl
@[simp] theorem setI2c_undertow (s : State) (i : Nat) (v : I2c) : (s.setI2c i v).undertow = s.undertow := rfl
@[simp] theorem setI2c_tlbis (s : State) (i : Nat) (v : I2c) : (s.setI2c i v).tlbis = s.tlbis := rfl
@[simp] theorem setI2c_links (s : State) (i : Nat) (v : I2c) : (s.setI2c i v).links = s.links := rfl
@[simp] theorem setI2c_eths (s : State) (i : Nat) (v : I2c) : (s.setI2c i v).eths = s.eths := rfl
@[simp] theorem setI2c_cans (s : State) (i : Nat) (v : I2c) : (s.setI2c i v).cans = s.cans := rfl
@[simp] theorem setI2c_uarts (s : State) (i : Nat) (v : I2c) : (s.setI2c i v).uarts = s.uarts := rfl
@[simp] theorem setI2c_pcie (s : State) (i : Nat) (v : I2c) : (s.setI2c i v).pcie = s.pcie := rfl
@[simp] theorem setI2c_xspi (s : State) (i : Nat) (v : I2c) : (s.setI2c i v).xspi = s.xspi := rfl
@[simp] theorem setI2c_memCtl (s : State) (i : Nat) (v : I2c) : (s.setI2c i v).memCtl = s.memCtl := rfl
@[simp] theorem setI2c_jtag (s : State) (i : Nat) (v : I2c) : (s.setI2c i v).jtag = s.jtag := rfl
@[simp] theorem setI2c_power (s : State) (i : Nat) (v : I2c) : (s.setI2c i v).power = s.power := rfl
@[simp] theorem setI2c_gates (s : State) (i : Nat) (v : I2c) : (s.setI2c i v).gates = s.gates := rfl
@[simp] theorem setI2c_aon (s : State) (i : Nat) (v : I2c) : (s.setI2c i v).aon = s.aon := rfl
@[simp] theorem setI2c_otp (s : State) (i : Nat) (v : I2c) : (s.setI2c i v).otp = s.otp := rfl
@[simp] theorem setI2c_board (s : State) (i : Nat) (v : I2c) : (s.setI2c i v).board = s.board := rfl
@[simp] theorem setI2c_phase (s : State) (i : Nat) (v : I2c) : (s.setI2c i v).phase = s.phase := rfl
@[simp] theorem setI2c_bootAt (s : State) (i : Nat) (v : I2c) : (s.setI2c i v).bootAt = s.bootAt := rfl
@[simp] theorem setI2c_image (s : State) (i : Nat) (v : I2c) : (s.setI2c i v).image = s.image := rfl
@[simp] theorem setI2c_undurable (s : State) (i : Nat) (v : I2c) : (s.setI2c i v).undurable = s.undurable := rfl
@[simp] theorem setI2c_heldEvents (s : State) (i : Nat) (v : I2c) : (s.setI2c i v).heldEvents = s.heldEvents := rfl
@[simp] theorem setI2c_heldWakes (s : State) (i : Nat) (v : I2c) : (s.setI2c i v).heldWakes = s.heldWakes := rfl
@[simp] theorem setI2c_frames (s : State) (i : Nat) (v : I2c) : (s.setI2c i v).frames = s.frames := rfl
@[simp] theorem setI2c_inj (s : State) (i : Nat) (v : I2c) : (s.setI2c i v).inj = s.inj := rfl
@[simp] theorem setI2c_feat (s : State) (i : Nat) (v : I2c) : (s.setI2c i v).feat = s.feat := rfl
@[simp] theorem setI2c_hykEn (s : State) (i : Nat) (v : I2c) : (s.setI2c i v).hykEn = s.hykEn := rfl
@[simp] theorem setI2c_now (s : State) (i : Nat) (v : I2c) : (s.setI2c i v).now = s.now := rfl
@[simp] theorem setI2c_free (s : State) (i : Nat) (v : I2c) : (s.setI2c i v).free = s.free := rfl
@[simp] theorem setI2c_pending (s : State) (i : Nat) (v : I2c) : (s.setI2c i v).pending = s.pending := rfl

/-! ## `setGate` -/

@[simp] theorem setGate_mem (s : State) (d : Nat) (v : Gate) : (s.setGate d v).mem = s.mem := rfl
@[simp] theorem setGate_tags (s : State) (d : Nat) (v : Gate) : (s.setGate d v).tags = s.tags := rfl
@[simp] theorem setGate_ecc (s : State) (d : Nat) (v : Gate) : (s.setGate d v).ecc = s.ecc := rfl
@[simp] theorem setGate_code (s : State) (d : Nat) (v : Gate) : (s.setGate d v).code = s.code := rfl
@[simp] theorem setGate_codeEcc (s : State) (d : Nat) (v : Gate) : (s.setGate d v).codeEcc = s.codeEcc := rfl
@[simp] theorem setGate_cores (s : State) (d : Nat) (v : Gate) : (s.setGate d v).cores = s.cores := rfl
@[simp] theorem setGate_coves (s : State) (d : Nat) (v : Gate) : (s.setGate d v).coves = s.coves := rfl
@[simp] theorem setGate_tenants (s : State) (d : Nat) (v : Gate) : (s.setGate d v).tenants = s.tenants := rfl
@[simp] theorem setGate_tenTable (s : State) (d : Nat) (v : Gate) : (s.setGate d v).tenTable = s.tenTable := rfl
@[simp] theorem setGate_chGens (s : State) (d : Nat) (v : Gate) : (s.setGate d v).chGens = s.chGens := rfl
@[simp] theorem setGate_entryGens (s : State) (d : Nat) (v : Gate) : (s.setGate d v).entryGens = s.entryGens := rfl
@[simp] theorem setGate_srcGens (s : State) (d : Nat) (v : Gate) : (s.setGate d v).srcGens = s.srcGens := rfl
@[simp] theorem setGate_tides (s : State) (d : Nat) (v : Gate) : (s.setGate d v).tides = s.tides := rfl
@[simp] theorem setGate_entries (s : State) (d : Nat) (v : Gate) : (s.setGate d v).entries = s.entries := rfl
@[simp] theorem setGate_outputs (s : State) (d : Nat) (v : Gate) : (s.setGate d v).outputs = s.outputs := rfl
@[simp] theorem setGate_mods (s : State) (d : Nat) (v : Gate) : (s.setGate d v).mods = s.mods := rfl
@[simp] theorem setGate_windows (s : State) (d : Nat) (v : Gate) : (s.setGate d v).windows = s.windows := rfl
@[simp] theorem setGate_waves (s : State) (d : Nat) (v : Gate) : (s.setGate d v).waves = s.waves := rfl
@[simp] theorem setGate_sources (s : State) (d : Nat) (v : Gate) : (s.setGate d v).sources = s.sources := rfl
@[simp] theorem setGate_evc (s : State) (d : Nat) (v : Gate) : (s.setGate d v).evc = s.evc := rfl
@[simp] theorem setGate_churn (s : State) (d : Nat) (v : Gate) : (s.setGate d v).churn = s.churn := rfl
@[simp] theorem setGate_channels (s : State) (d : Nat) (v : Gate) : (s.setGate d v).channels = s.channels := rfl
@[simp] theorem setGate_undertow (s : State) (d : Nat) (v : Gate) : (s.setGate d v).undertow = s.undertow := rfl
@[simp] theorem setGate_tlbis (s : State) (d : Nat) (v : Gate) : (s.setGate d v).tlbis = s.tlbis := rfl
@[simp] theorem setGate_links (s : State) (d : Nat) (v : Gate) : (s.setGate d v).links = s.links := rfl
@[simp] theorem setGate_eths (s : State) (d : Nat) (v : Gate) : (s.setGate d v).eths = s.eths := rfl
@[simp] theorem setGate_cans (s : State) (d : Nat) (v : Gate) : (s.setGate d v).cans = s.cans := rfl
@[simp] theorem setGate_uarts (s : State) (d : Nat) (v : Gate) : (s.setGate d v).uarts = s.uarts := rfl
@[simp] theorem setGate_pcie (s : State) (d : Nat) (v : Gate) : (s.setGate d v).pcie = s.pcie := rfl
@[simp] theorem setGate_xspi (s : State) (d : Nat) (v : Gate) : (s.setGate d v).xspi = s.xspi := rfl
@[simp] theorem setGate_i2cs (s : State) (d : Nat) (v : Gate) : (s.setGate d v).i2cs = s.i2cs := rfl
@[simp] theorem setGate_memCtl (s : State) (d : Nat) (v : Gate) : (s.setGate d v).memCtl = s.memCtl := rfl
@[simp] theorem setGate_jtag (s : State) (d : Nat) (v : Gate) : (s.setGate d v).jtag = s.jtag := rfl
@[simp] theorem setGate_power (s : State) (d : Nat) (v : Gate) : (s.setGate d v).power = s.power := rfl
@[simp] theorem setGate_aon (s : State) (d : Nat) (v : Gate) : (s.setGate d v).aon = s.aon := rfl
@[simp] theorem setGate_otp (s : State) (d : Nat) (v : Gate) : (s.setGate d v).otp = s.otp := rfl
@[simp] theorem setGate_board (s : State) (d : Nat) (v : Gate) : (s.setGate d v).board = s.board := rfl
@[simp] theorem setGate_phase (s : State) (d : Nat) (v : Gate) : (s.setGate d v).phase = s.phase := rfl
@[simp] theorem setGate_bootAt (s : State) (d : Nat) (v : Gate) : (s.setGate d v).bootAt = s.bootAt := rfl
@[simp] theorem setGate_image (s : State) (d : Nat) (v : Gate) : (s.setGate d v).image = s.image := rfl
@[simp] theorem setGate_undurable (s : State) (d : Nat) (v : Gate) : (s.setGate d v).undurable = s.undurable := rfl
@[simp] theorem setGate_heldEvents (s : State) (d : Nat) (v : Gate) : (s.setGate d v).heldEvents = s.heldEvents := rfl
@[simp] theorem setGate_heldWakes (s : State) (d : Nat) (v : Gate) : (s.setGate d v).heldWakes = s.heldWakes := rfl
@[simp] theorem setGate_frames (s : State) (d : Nat) (v : Gate) : (s.setGate d v).frames = s.frames := rfl
@[simp] theorem setGate_inj (s : State) (d : Nat) (v : Gate) : (s.setGate d v).inj = s.inj := rfl
@[simp] theorem setGate_feat (s : State) (d : Nat) (v : Gate) : (s.setGate d v).feat = s.feat := rfl
@[simp] theorem setGate_hykEn (s : State) (d : Nat) (v : Gate) : (s.setGate d v).hykEn = s.hykEn := rfl
@[simp] theorem setGate_now (s : State) (d : Nat) (v : Gate) : (s.setGate d v).now = s.now := rfl
@[simp] theorem setGate_free (s : State) (d : Nat) (v : Gate) : (s.setGate d v).free = s.free := rfl
@[simp] theorem setGate_pending (s : State) (d : Nat) (v : Gate) : (s.setGate d v).pending = s.pending := rfl

/-! ## `setFrame` -/

@[simp] theorem setFrame_mem (s : State) (p : Nat) (v : Frame) : (s.setFrame p v).mem = s.mem := rfl
@[simp] theorem setFrame_tags (s : State) (p : Nat) (v : Frame) : (s.setFrame p v).tags = s.tags := rfl
@[simp] theorem setFrame_ecc (s : State) (p : Nat) (v : Frame) : (s.setFrame p v).ecc = s.ecc := rfl
@[simp] theorem setFrame_code (s : State) (p : Nat) (v : Frame) : (s.setFrame p v).code = s.code := rfl
@[simp] theorem setFrame_codeEcc (s : State) (p : Nat) (v : Frame) : (s.setFrame p v).codeEcc = s.codeEcc := rfl
@[simp] theorem setFrame_cores (s : State) (p : Nat) (v : Frame) : (s.setFrame p v).cores = s.cores := rfl
@[simp] theorem setFrame_coves (s : State) (p : Nat) (v : Frame) : (s.setFrame p v).coves = s.coves := rfl
@[simp] theorem setFrame_tenants (s : State) (p : Nat) (v : Frame) : (s.setFrame p v).tenants = s.tenants := rfl
@[simp] theorem setFrame_tenTable (s : State) (p : Nat) (v : Frame) : (s.setFrame p v).tenTable = s.tenTable := rfl
@[simp] theorem setFrame_chGens (s : State) (p : Nat) (v : Frame) : (s.setFrame p v).chGens = s.chGens := rfl
@[simp] theorem setFrame_entryGens (s : State) (p : Nat) (v : Frame) : (s.setFrame p v).entryGens = s.entryGens := rfl
@[simp] theorem setFrame_srcGens (s : State) (p : Nat) (v : Frame) : (s.setFrame p v).srcGens = s.srcGens := rfl
@[simp] theorem setFrame_tides (s : State) (p : Nat) (v : Frame) : (s.setFrame p v).tides = s.tides := rfl
@[simp] theorem setFrame_entries (s : State) (p : Nat) (v : Frame) : (s.setFrame p v).entries = s.entries := rfl
@[simp] theorem setFrame_outputs (s : State) (p : Nat) (v : Frame) : (s.setFrame p v).outputs = s.outputs := rfl
@[simp] theorem setFrame_mods (s : State) (p : Nat) (v : Frame) : (s.setFrame p v).mods = s.mods := rfl
@[simp] theorem setFrame_windows (s : State) (p : Nat) (v : Frame) : (s.setFrame p v).windows = s.windows := rfl
@[simp] theorem setFrame_waves (s : State) (p : Nat) (v : Frame) : (s.setFrame p v).waves = s.waves := rfl
@[simp] theorem setFrame_sources (s : State) (p : Nat) (v : Frame) : (s.setFrame p v).sources = s.sources := rfl
@[simp] theorem setFrame_evc (s : State) (p : Nat) (v : Frame) : (s.setFrame p v).evc = s.evc := rfl
@[simp] theorem setFrame_churn (s : State) (p : Nat) (v : Frame) : (s.setFrame p v).churn = s.churn := rfl
@[simp] theorem setFrame_channels (s : State) (p : Nat) (v : Frame) : (s.setFrame p v).channels = s.channels := rfl
@[simp] theorem setFrame_undertow (s : State) (p : Nat) (v : Frame) : (s.setFrame p v).undertow = s.undertow := rfl
@[simp] theorem setFrame_tlbis (s : State) (p : Nat) (v : Frame) : (s.setFrame p v).tlbis = s.tlbis := rfl
@[simp] theorem setFrame_links (s : State) (p : Nat) (v : Frame) : (s.setFrame p v).links = s.links := rfl
@[simp] theorem setFrame_eths (s : State) (p : Nat) (v : Frame) : (s.setFrame p v).eths = s.eths := rfl
@[simp] theorem setFrame_cans (s : State) (p : Nat) (v : Frame) : (s.setFrame p v).cans = s.cans := rfl
@[simp] theorem setFrame_uarts (s : State) (p : Nat) (v : Frame) : (s.setFrame p v).uarts = s.uarts := rfl
@[simp] theorem setFrame_pcie (s : State) (p : Nat) (v : Frame) : (s.setFrame p v).pcie = s.pcie := rfl
@[simp] theorem setFrame_xspi (s : State) (p : Nat) (v : Frame) : (s.setFrame p v).xspi = s.xspi := rfl
@[simp] theorem setFrame_i2cs (s : State) (p : Nat) (v : Frame) : (s.setFrame p v).i2cs = s.i2cs := rfl
@[simp] theorem setFrame_memCtl (s : State) (p : Nat) (v : Frame) : (s.setFrame p v).memCtl = s.memCtl := rfl
@[simp] theorem setFrame_jtag (s : State) (p : Nat) (v : Frame) : (s.setFrame p v).jtag = s.jtag := rfl
@[simp] theorem setFrame_power (s : State) (p : Nat) (v : Frame) : (s.setFrame p v).power = s.power := rfl
@[simp] theorem setFrame_gates (s : State) (p : Nat) (v : Frame) : (s.setFrame p v).gates = s.gates := rfl
@[simp] theorem setFrame_aon (s : State) (p : Nat) (v : Frame) : (s.setFrame p v).aon = s.aon := rfl
@[simp] theorem setFrame_otp (s : State) (p : Nat) (v : Frame) : (s.setFrame p v).otp = s.otp := rfl
@[simp] theorem setFrame_board (s : State) (p : Nat) (v : Frame) : (s.setFrame p v).board = s.board := rfl
@[simp] theorem setFrame_phase (s : State) (p : Nat) (v : Frame) : (s.setFrame p v).phase = s.phase := rfl
@[simp] theorem setFrame_bootAt (s : State) (p : Nat) (v : Frame) : (s.setFrame p v).bootAt = s.bootAt := rfl
@[simp] theorem setFrame_image (s : State) (p : Nat) (v : Frame) : (s.setFrame p v).image = s.image := rfl
@[simp] theorem setFrame_undurable (s : State) (p : Nat) (v : Frame) : (s.setFrame p v).undurable = s.undurable := rfl
@[simp] theorem setFrame_heldEvents (s : State) (p : Nat) (v : Frame) : (s.setFrame p v).heldEvents = s.heldEvents := rfl
@[simp] theorem setFrame_heldWakes (s : State) (p : Nat) (v : Frame) : (s.setFrame p v).heldWakes = s.heldWakes := rfl
@[simp] theorem setFrame_inj (s : State) (p : Nat) (v : Frame) : (s.setFrame p v).inj = s.inj := rfl
@[simp] theorem setFrame_feat (s : State) (p : Nat) (v : Frame) : (s.setFrame p v).feat = s.feat := rfl
@[simp] theorem setFrame_hykEn (s : State) (p : Nat) (v : Frame) : (s.setFrame p v).hykEn = s.hykEn := rfl
@[simp] theorem setFrame_now (s : State) (p : Nat) (v : Frame) : (s.setFrame p v).now = s.now := rfl
@[simp] theorem setFrame_free (s : State) (p : Nat) (v : Frame) : (s.setFrame p v).free = s.free := rfl
@[simp] theorem setFrame_pending (s : State) (p : Nat) (v : Frame) : (s.setFrame p v).pending = s.pending := rfl

/-! ## `putByte` -/

@[simp] theorem putByte_tags (s : State) (pa : Nat) (v : Byte) : (s.putByte pa v).tags = s.tags := rfl
@[simp] theorem putByte_ecc (s : State) (pa : Nat) (v : Byte) : (s.putByte pa v).ecc = s.ecc := rfl
@[simp] theorem putByte_code (s : State) (pa : Nat) (v : Byte) : (s.putByte pa v).code = s.code := rfl
@[simp] theorem putByte_codeEcc (s : State) (pa : Nat) (v : Byte) : (s.putByte pa v).codeEcc = s.codeEcc := rfl
@[simp] theorem putByte_cores (s : State) (pa : Nat) (v : Byte) : (s.putByte pa v).cores = s.cores := rfl
@[simp] theorem putByte_coves (s : State) (pa : Nat) (v : Byte) : (s.putByte pa v).coves = s.coves := rfl
@[simp] theorem putByte_tenants (s : State) (pa : Nat) (v : Byte) : (s.putByte pa v).tenants = s.tenants := rfl
@[simp] theorem putByte_tenTable (s : State) (pa : Nat) (v : Byte) : (s.putByte pa v).tenTable = s.tenTable := rfl
@[simp] theorem putByte_chGens (s : State) (pa : Nat) (v : Byte) : (s.putByte pa v).chGens = s.chGens := rfl
@[simp] theorem putByte_entryGens (s : State) (pa : Nat) (v : Byte) : (s.putByte pa v).entryGens = s.entryGens := rfl
@[simp] theorem putByte_srcGens (s : State) (pa : Nat) (v : Byte) : (s.putByte pa v).srcGens = s.srcGens := rfl
@[simp] theorem putByte_tides (s : State) (pa : Nat) (v : Byte) : (s.putByte pa v).tides = s.tides := rfl
@[simp] theorem putByte_entries (s : State) (pa : Nat) (v : Byte) : (s.putByte pa v).entries = s.entries := rfl
@[simp] theorem putByte_outputs (s : State) (pa : Nat) (v : Byte) : (s.putByte pa v).outputs = s.outputs := rfl
@[simp] theorem putByte_mods (s : State) (pa : Nat) (v : Byte) : (s.putByte pa v).mods = s.mods := rfl
@[simp] theorem putByte_windows (s : State) (pa : Nat) (v : Byte) : (s.putByte pa v).windows = s.windows := rfl
@[simp] theorem putByte_waves (s : State) (pa : Nat) (v : Byte) : (s.putByte pa v).waves = s.waves := rfl
@[simp] theorem putByte_sources (s : State) (pa : Nat) (v : Byte) : (s.putByte pa v).sources = s.sources := rfl
@[simp] theorem putByte_evc (s : State) (pa : Nat) (v : Byte) : (s.putByte pa v).evc = s.evc := rfl
@[simp] theorem putByte_churn (s : State) (pa : Nat) (v : Byte) : (s.putByte pa v).churn = s.churn := rfl
@[simp] theorem putByte_channels (s : State) (pa : Nat) (v : Byte) : (s.putByte pa v).channels = s.channels := rfl
@[simp] theorem putByte_undertow (s : State) (pa : Nat) (v : Byte) : (s.putByte pa v).undertow = s.undertow := rfl
@[simp] theorem putByte_tlbis (s : State) (pa : Nat) (v : Byte) : (s.putByte pa v).tlbis = s.tlbis := rfl
@[simp] theorem putByte_links (s : State) (pa : Nat) (v : Byte) : (s.putByte pa v).links = s.links := rfl
@[simp] theorem putByte_eths (s : State) (pa : Nat) (v : Byte) : (s.putByte pa v).eths = s.eths := rfl
@[simp] theorem putByte_cans (s : State) (pa : Nat) (v : Byte) : (s.putByte pa v).cans = s.cans := rfl
@[simp] theorem putByte_uarts (s : State) (pa : Nat) (v : Byte) : (s.putByte pa v).uarts = s.uarts := rfl
@[simp] theorem putByte_pcie (s : State) (pa : Nat) (v : Byte) : (s.putByte pa v).pcie = s.pcie := rfl
@[simp] theorem putByte_xspi (s : State) (pa : Nat) (v : Byte) : (s.putByte pa v).xspi = s.xspi := rfl
@[simp] theorem putByte_i2cs (s : State) (pa : Nat) (v : Byte) : (s.putByte pa v).i2cs = s.i2cs := rfl
@[simp] theorem putByte_memCtl (s : State) (pa : Nat) (v : Byte) : (s.putByte pa v).memCtl = s.memCtl := rfl
@[simp] theorem putByte_jtag (s : State) (pa : Nat) (v : Byte) : (s.putByte pa v).jtag = s.jtag := rfl
@[simp] theorem putByte_power (s : State) (pa : Nat) (v : Byte) : (s.putByte pa v).power = s.power := rfl
@[simp] theorem putByte_gates (s : State) (pa : Nat) (v : Byte) : (s.putByte pa v).gates = s.gates := rfl
@[simp] theorem putByte_aon (s : State) (pa : Nat) (v : Byte) : (s.putByte pa v).aon = s.aon := rfl
@[simp] theorem putByte_otp (s : State) (pa : Nat) (v : Byte) : (s.putByte pa v).otp = s.otp := rfl
@[simp] theorem putByte_board (s : State) (pa : Nat) (v : Byte) : (s.putByte pa v).board = s.board := rfl
@[simp] theorem putByte_phase (s : State) (pa : Nat) (v : Byte) : (s.putByte pa v).phase = s.phase := rfl
@[simp] theorem putByte_bootAt (s : State) (pa : Nat) (v : Byte) : (s.putByte pa v).bootAt = s.bootAt := rfl
@[simp] theorem putByte_image (s : State) (pa : Nat) (v : Byte) : (s.putByte pa v).image = s.image := rfl
@[simp] theorem putByte_undurable (s : State) (pa : Nat) (v : Byte) : (s.putByte pa v).undurable = s.undurable := rfl
@[simp] theorem putByte_heldEvents (s : State) (pa : Nat) (v : Byte) : (s.putByte pa v).heldEvents = s.heldEvents := rfl
@[simp] theorem putByte_heldWakes (s : State) (pa : Nat) (v : Byte) : (s.putByte pa v).heldWakes = s.heldWakes := rfl
@[simp] theorem putByte_frames (s : State) (pa : Nat) (v : Byte) : (s.putByte pa v).frames = s.frames := rfl
@[simp] theorem putByte_inj (s : State) (pa : Nat) (v : Byte) : (s.putByte pa v).inj = s.inj := rfl
@[simp] theorem putByte_feat (s : State) (pa : Nat) (v : Byte) : (s.putByte pa v).feat = s.feat := rfl
@[simp] theorem putByte_hykEn (s : State) (pa : Nat) (v : Byte) : (s.putByte pa v).hykEn = s.hykEn := rfl
@[simp] theorem putByte_now (s : State) (pa : Nat) (v : Byte) : (s.putByte pa v).now = s.now := rfl
@[simp] theorem putByte_free (s : State) (pa : Nat) (v : Byte) : (s.putByte pa v).free = s.free := rfl
@[simp] theorem putByte_pending (s : State) (pa : Nat) (v : Byte) : (s.putByte pa v).pending = s.pending := rfl

/-! ## `putTag` -/

@[simp] theorem putTag_mem (s : State) (pa : Nat) (t : Tag) : (s.putTag pa t).mem = s.mem := rfl
@[simp] theorem putTag_ecc (s : State) (pa : Nat) (t : Tag) : (s.putTag pa t).ecc = s.ecc := rfl
@[simp] theorem putTag_code (s : State) (pa : Nat) (t : Tag) : (s.putTag pa t).code = s.code := rfl
@[simp] theorem putTag_codeEcc (s : State) (pa : Nat) (t : Tag) : (s.putTag pa t).codeEcc = s.codeEcc := rfl
@[simp] theorem putTag_cores (s : State) (pa : Nat) (t : Tag) : (s.putTag pa t).cores = s.cores := rfl
@[simp] theorem putTag_coves (s : State) (pa : Nat) (t : Tag) : (s.putTag pa t).coves = s.coves := rfl
@[simp] theorem putTag_tenants (s : State) (pa : Nat) (t : Tag) : (s.putTag pa t).tenants = s.tenants := rfl
@[simp] theorem putTag_tenTable (s : State) (pa : Nat) (t : Tag) : (s.putTag pa t).tenTable = s.tenTable := rfl
@[simp] theorem putTag_chGens (s : State) (pa : Nat) (t : Tag) : (s.putTag pa t).chGens = s.chGens := rfl
@[simp] theorem putTag_entryGens (s : State) (pa : Nat) (t : Tag) : (s.putTag pa t).entryGens = s.entryGens := rfl
@[simp] theorem putTag_srcGens (s : State) (pa : Nat) (t : Tag) : (s.putTag pa t).srcGens = s.srcGens := rfl
@[simp] theorem putTag_tides (s : State) (pa : Nat) (t : Tag) : (s.putTag pa t).tides = s.tides := rfl
@[simp] theorem putTag_entries (s : State) (pa : Nat) (t : Tag) : (s.putTag pa t).entries = s.entries := rfl
@[simp] theorem putTag_outputs (s : State) (pa : Nat) (t : Tag) : (s.putTag pa t).outputs = s.outputs := rfl
@[simp] theorem putTag_mods (s : State) (pa : Nat) (t : Tag) : (s.putTag pa t).mods = s.mods := rfl
@[simp] theorem putTag_windows (s : State) (pa : Nat) (t : Tag) : (s.putTag pa t).windows = s.windows := rfl
@[simp] theorem putTag_waves (s : State) (pa : Nat) (t : Tag) : (s.putTag pa t).waves = s.waves := rfl
@[simp] theorem putTag_sources (s : State) (pa : Nat) (t : Tag) : (s.putTag pa t).sources = s.sources := rfl
@[simp] theorem putTag_evc (s : State) (pa : Nat) (t : Tag) : (s.putTag pa t).evc = s.evc := rfl
@[simp] theorem putTag_churn (s : State) (pa : Nat) (t : Tag) : (s.putTag pa t).churn = s.churn := rfl
@[simp] theorem putTag_channels (s : State) (pa : Nat) (t : Tag) : (s.putTag pa t).channels = s.channels := rfl
@[simp] theorem putTag_undertow (s : State) (pa : Nat) (t : Tag) : (s.putTag pa t).undertow = s.undertow := rfl
@[simp] theorem putTag_tlbis (s : State) (pa : Nat) (t : Tag) : (s.putTag pa t).tlbis = s.tlbis := rfl
@[simp] theorem putTag_links (s : State) (pa : Nat) (t : Tag) : (s.putTag pa t).links = s.links := rfl
@[simp] theorem putTag_eths (s : State) (pa : Nat) (t : Tag) : (s.putTag pa t).eths = s.eths := rfl
@[simp] theorem putTag_cans (s : State) (pa : Nat) (t : Tag) : (s.putTag pa t).cans = s.cans := rfl
@[simp] theorem putTag_uarts (s : State) (pa : Nat) (t : Tag) : (s.putTag pa t).uarts = s.uarts := rfl
@[simp] theorem putTag_pcie (s : State) (pa : Nat) (t : Tag) : (s.putTag pa t).pcie = s.pcie := rfl
@[simp] theorem putTag_xspi (s : State) (pa : Nat) (t : Tag) : (s.putTag pa t).xspi = s.xspi := rfl
@[simp] theorem putTag_i2cs (s : State) (pa : Nat) (t : Tag) : (s.putTag pa t).i2cs = s.i2cs := rfl
@[simp] theorem putTag_memCtl (s : State) (pa : Nat) (t : Tag) : (s.putTag pa t).memCtl = s.memCtl := rfl
@[simp] theorem putTag_jtag (s : State) (pa : Nat) (t : Tag) : (s.putTag pa t).jtag = s.jtag := rfl
@[simp] theorem putTag_power (s : State) (pa : Nat) (t : Tag) : (s.putTag pa t).power = s.power := rfl
@[simp] theorem putTag_gates (s : State) (pa : Nat) (t : Tag) : (s.putTag pa t).gates = s.gates := rfl
@[simp] theorem putTag_aon (s : State) (pa : Nat) (t : Tag) : (s.putTag pa t).aon = s.aon := rfl
@[simp] theorem putTag_otp (s : State) (pa : Nat) (t : Tag) : (s.putTag pa t).otp = s.otp := rfl
@[simp] theorem putTag_board (s : State) (pa : Nat) (t : Tag) : (s.putTag pa t).board = s.board := rfl
@[simp] theorem putTag_phase (s : State) (pa : Nat) (t : Tag) : (s.putTag pa t).phase = s.phase := rfl
@[simp] theorem putTag_bootAt (s : State) (pa : Nat) (t : Tag) : (s.putTag pa t).bootAt = s.bootAt := rfl
@[simp] theorem putTag_image (s : State) (pa : Nat) (t : Tag) : (s.putTag pa t).image = s.image := rfl
@[simp] theorem putTag_undurable (s : State) (pa : Nat) (t : Tag) : (s.putTag pa t).undurable = s.undurable := rfl
@[simp] theorem putTag_heldEvents (s : State) (pa : Nat) (t : Tag) : (s.putTag pa t).heldEvents = s.heldEvents := rfl
@[simp] theorem putTag_heldWakes (s : State) (pa : Nat) (t : Tag) : (s.putTag pa t).heldWakes = s.heldWakes := rfl
@[simp] theorem putTag_frames (s : State) (pa : Nat) (t : Tag) : (s.putTag pa t).frames = s.frames := rfl
@[simp] theorem putTag_inj (s : State) (pa : Nat) (t : Tag) : (s.putTag pa t).inj = s.inj := rfl
@[simp] theorem putTag_feat (s : State) (pa : Nat) (t : Tag) : (s.putTag pa t).feat = s.feat := rfl
@[simp] theorem putTag_hykEn (s : State) (pa : Nat) (t : Tag) : (s.putTag pa t).hykEn = s.hykEn := rfl
@[simp] theorem putTag_now (s : State) (pa : Nat) (t : Tag) : (s.putTag pa t).now = s.now := rfl
@[simp] theorem putTag_free (s : State) (pa : Nat) (t : Tag) : (s.putTag pa t).free = s.free := rfl
@[simp] theorem putTag_pending (s : State) (pa : Nat) (t : Tag) : (s.putTag pa t).pending = s.pending := rfl

/-! ## `putEcc` -/

@[simp] theorem putEcc_mem (s : State) (pa : Nat) (e : Ecc) : (s.putEcc pa e).mem = s.mem := rfl
@[simp] theorem putEcc_tags (s : State) (pa : Nat) (e : Ecc) : (s.putEcc pa e).tags = s.tags := rfl
@[simp] theorem putEcc_code (s : State) (pa : Nat) (e : Ecc) : (s.putEcc pa e).code = s.code := rfl
@[simp] theorem putEcc_codeEcc (s : State) (pa : Nat) (e : Ecc) : (s.putEcc pa e).codeEcc = s.codeEcc := rfl
@[simp] theorem putEcc_cores (s : State) (pa : Nat) (e : Ecc) : (s.putEcc pa e).cores = s.cores := rfl
@[simp] theorem putEcc_coves (s : State) (pa : Nat) (e : Ecc) : (s.putEcc pa e).coves = s.coves := rfl
@[simp] theorem putEcc_tenants (s : State) (pa : Nat) (e : Ecc) : (s.putEcc pa e).tenants = s.tenants := rfl
@[simp] theorem putEcc_tenTable (s : State) (pa : Nat) (e : Ecc) : (s.putEcc pa e).tenTable = s.tenTable := rfl
@[simp] theorem putEcc_chGens (s : State) (pa : Nat) (e : Ecc) : (s.putEcc pa e).chGens = s.chGens := rfl
@[simp] theorem putEcc_entryGens (s : State) (pa : Nat) (e : Ecc) : (s.putEcc pa e).entryGens = s.entryGens := rfl
@[simp] theorem putEcc_srcGens (s : State) (pa : Nat) (e : Ecc) : (s.putEcc pa e).srcGens = s.srcGens := rfl
@[simp] theorem putEcc_tides (s : State) (pa : Nat) (e : Ecc) : (s.putEcc pa e).tides = s.tides := rfl
@[simp] theorem putEcc_entries (s : State) (pa : Nat) (e : Ecc) : (s.putEcc pa e).entries = s.entries := rfl
@[simp] theorem putEcc_outputs (s : State) (pa : Nat) (e : Ecc) : (s.putEcc pa e).outputs = s.outputs := rfl
@[simp] theorem putEcc_mods (s : State) (pa : Nat) (e : Ecc) : (s.putEcc pa e).mods = s.mods := rfl
@[simp] theorem putEcc_windows (s : State) (pa : Nat) (e : Ecc) : (s.putEcc pa e).windows = s.windows := rfl
@[simp] theorem putEcc_waves (s : State) (pa : Nat) (e : Ecc) : (s.putEcc pa e).waves = s.waves := rfl
@[simp] theorem putEcc_sources (s : State) (pa : Nat) (e : Ecc) : (s.putEcc pa e).sources = s.sources := rfl
@[simp] theorem putEcc_evc (s : State) (pa : Nat) (e : Ecc) : (s.putEcc pa e).evc = s.evc := rfl
@[simp] theorem putEcc_churn (s : State) (pa : Nat) (e : Ecc) : (s.putEcc pa e).churn = s.churn := rfl
@[simp] theorem putEcc_channels (s : State) (pa : Nat) (e : Ecc) : (s.putEcc pa e).channels = s.channels := rfl
@[simp] theorem putEcc_undertow (s : State) (pa : Nat) (e : Ecc) : (s.putEcc pa e).undertow = s.undertow := rfl
@[simp] theorem putEcc_tlbis (s : State) (pa : Nat) (e : Ecc) : (s.putEcc pa e).tlbis = s.tlbis := rfl
@[simp] theorem putEcc_links (s : State) (pa : Nat) (e : Ecc) : (s.putEcc pa e).links = s.links := rfl
@[simp] theorem putEcc_eths (s : State) (pa : Nat) (e : Ecc) : (s.putEcc pa e).eths = s.eths := rfl
@[simp] theorem putEcc_cans (s : State) (pa : Nat) (e : Ecc) : (s.putEcc pa e).cans = s.cans := rfl
@[simp] theorem putEcc_uarts (s : State) (pa : Nat) (e : Ecc) : (s.putEcc pa e).uarts = s.uarts := rfl
@[simp] theorem putEcc_pcie (s : State) (pa : Nat) (e : Ecc) : (s.putEcc pa e).pcie = s.pcie := rfl
@[simp] theorem putEcc_xspi (s : State) (pa : Nat) (e : Ecc) : (s.putEcc pa e).xspi = s.xspi := rfl
@[simp] theorem putEcc_i2cs (s : State) (pa : Nat) (e : Ecc) : (s.putEcc pa e).i2cs = s.i2cs := rfl
@[simp] theorem putEcc_memCtl (s : State) (pa : Nat) (e : Ecc) : (s.putEcc pa e).memCtl = s.memCtl := rfl
@[simp] theorem putEcc_jtag (s : State) (pa : Nat) (e : Ecc) : (s.putEcc pa e).jtag = s.jtag := rfl
@[simp] theorem putEcc_power (s : State) (pa : Nat) (e : Ecc) : (s.putEcc pa e).power = s.power := rfl
@[simp] theorem putEcc_gates (s : State) (pa : Nat) (e : Ecc) : (s.putEcc pa e).gates = s.gates := rfl
@[simp] theorem putEcc_aon (s : State) (pa : Nat) (e : Ecc) : (s.putEcc pa e).aon = s.aon := rfl
@[simp] theorem putEcc_otp (s : State) (pa : Nat) (e : Ecc) : (s.putEcc pa e).otp = s.otp := rfl
@[simp] theorem putEcc_board (s : State) (pa : Nat) (e : Ecc) : (s.putEcc pa e).board = s.board := rfl
@[simp] theorem putEcc_phase (s : State) (pa : Nat) (e : Ecc) : (s.putEcc pa e).phase = s.phase := rfl
@[simp] theorem putEcc_bootAt (s : State) (pa : Nat) (e : Ecc) : (s.putEcc pa e).bootAt = s.bootAt := rfl
@[simp] theorem putEcc_image (s : State) (pa : Nat) (e : Ecc) : (s.putEcc pa e).image = s.image := rfl
@[simp] theorem putEcc_undurable (s : State) (pa : Nat) (e : Ecc) : (s.putEcc pa e).undurable = s.undurable := rfl
@[simp] theorem putEcc_heldEvents (s : State) (pa : Nat) (e : Ecc) : (s.putEcc pa e).heldEvents = s.heldEvents := rfl
@[simp] theorem putEcc_heldWakes (s : State) (pa : Nat) (e : Ecc) : (s.putEcc pa e).heldWakes = s.heldWakes := rfl
@[simp] theorem putEcc_frames (s : State) (pa : Nat) (e : Ecc) : (s.putEcc pa e).frames = s.frames := rfl
@[simp] theorem putEcc_inj (s : State) (pa : Nat) (e : Ecc) : (s.putEcc pa e).inj = s.inj := rfl
@[simp] theorem putEcc_feat (s : State) (pa : Nat) (e : Ecc) : (s.putEcc pa e).feat = s.feat := rfl
@[simp] theorem putEcc_hykEn (s : State) (pa : Nat) (e : Ecc) : (s.putEcc pa e).hykEn = s.hykEn := rfl
@[simp] theorem putEcc_now (s : State) (pa : Nat) (e : Ecc) : (s.putEcc pa e).now = s.now := rfl
@[simp] theorem putEcc_free (s : State) (pa : Nat) (e : Ecc) : (s.putEcc pa e).free = s.free := rfl
@[simp] theorem putEcc_pending (s : State) (pa : Nat) (e : Ecc) : (s.putEcc pa e).pending = s.pending := rfl

/-! ## `advance` -/

@[simp] theorem advance_mem (s : State) (t : Nat) : (s.advance t).mem = s.mem := rfl
@[simp] theorem advance_tags (s : State) (t : Nat) : (s.advance t).tags = s.tags := rfl
@[simp] theorem advance_ecc (s : State) (t : Nat) : (s.advance t).ecc = s.ecc := rfl
@[simp] theorem advance_code (s : State) (t : Nat) : (s.advance t).code = s.code := rfl
@[simp] theorem advance_codeEcc (s : State) (t : Nat) : (s.advance t).codeEcc = s.codeEcc := rfl
@[simp] theorem advance_cores (s : State) (t : Nat) : (s.advance t).cores = s.cores := rfl
@[simp] theorem advance_coves (s : State) (t : Nat) : (s.advance t).coves = s.coves := rfl
@[simp] theorem advance_tenants (s : State) (t : Nat) : (s.advance t).tenants = s.tenants := rfl
@[simp] theorem advance_tenTable (s : State) (t : Nat) : (s.advance t).tenTable = s.tenTable := rfl
@[simp] theorem advance_chGens (s : State) (t : Nat) : (s.advance t).chGens = s.chGens := rfl
@[simp] theorem advance_entryGens (s : State) (t : Nat) : (s.advance t).entryGens = s.entryGens := rfl
@[simp] theorem advance_srcGens (s : State) (t : Nat) : (s.advance t).srcGens = s.srcGens := rfl
@[simp] theorem advance_tides (s : State) (t : Nat) : (s.advance t).tides = s.tides := rfl
@[simp] theorem advance_entries (s : State) (t : Nat) : (s.advance t).entries = s.entries := rfl
@[simp] theorem advance_outputs (s : State) (t : Nat) : (s.advance t).outputs = s.outputs := rfl
@[simp] theorem advance_mods (s : State) (t : Nat) : (s.advance t).mods = s.mods := rfl
@[simp] theorem advance_windows (s : State) (t : Nat) : (s.advance t).windows = s.windows := rfl
@[simp] theorem advance_waves (s : State) (t : Nat) : (s.advance t).waves = s.waves := rfl
@[simp] theorem advance_sources (s : State) (t : Nat) : (s.advance t).sources = s.sources := rfl
@[simp] theorem advance_evc (s : State) (t : Nat) : (s.advance t).evc = s.evc := rfl
@[simp] theorem advance_churn (s : State) (t : Nat) : (s.advance t).churn = s.churn := rfl
@[simp] theorem advance_channels (s : State) (t : Nat) : (s.advance t).channels = s.channels := rfl
@[simp] theorem advance_undertow (s : State) (t : Nat) : (s.advance t).undertow = s.undertow := rfl
@[simp] theorem advance_tlbis (s : State) (t : Nat) : (s.advance t).tlbis = s.tlbis := rfl
@[simp] theorem advance_links (s : State) (t : Nat) : (s.advance t).links = s.links := rfl
@[simp] theorem advance_eths (s : State) (t : Nat) : (s.advance t).eths = s.eths := rfl
@[simp] theorem advance_cans (s : State) (t : Nat) : (s.advance t).cans = s.cans := rfl
@[simp] theorem advance_uarts (s : State) (t : Nat) : (s.advance t).uarts = s.uarts := rfl
@[simp] theorem advance_pcie (s : State) (t : Nat) : (s.advance t).pcie = s.pcie := rfl
@[simp] theorem advance_xspi (s : State) (t : Nat) : (s.advance t).xspi = s.xspi := rfl
@[simp] theorem advance_i2cs (s : State) (t : Nat) : (s.advance t).i2cs = s.i2cs := rfl
@[simp] theorem advance_memCtl (s : State) (t : Nat) : (s.advance t).memCtl = s.memCtl := rfl
@[simp] theorem advance_jtag (s : State) (t : Nat) : (s.advance t).jtag = s.jtag := rfl
@[simp] theorem advance_power (s : State) (t : Nat) : (s.advance t).power = s.power := rfl
@[simp] theorem advance_gates (s : State) (t : Nat) : (s.advance t).gates = s.gates := rfl
@[simp] theorem advance_aon (s : State) (t : Nat) : (s.advance t).aon = s.aon := rfl
@[simp] theorem advance_otp (s : State) (t : Nat) : (s.advance t).otp = s.otp := rfl
@[simp] theorem advance_board (s : State) (t : Nat) : (s.advance t).board = s.board := rfl
@[simp] theorem advance_phase (s : State) (t : Nat) : (s.advance t).phase = s.phase := rfl
@[simp] theorem advance_bootAt (s : State) (t : Nat) : (s.advance t).bootAt = s.bootAt := rfl
@[simp] theorem advance_image (s : State) (t : Nat) : (s.advance t).image = s.image := rfl
@[simp] theorem advance_undurable (s : State) (t : Nat) : (s.advance t).undurable = s.undurable := rfl
@[simp] theorem advance_heldEvents (s : State) (t : Nat) : (s.advance t).heldEvents = s.heldEvents := rfl
@[simp] theorem advance_heldWakes (s : State) (t : Nat) : (s.advance t).heldWakes = s.heldWakes := rfl
@[simp] theorem advance_frames (s : State) (t : Nat) : (s.advance t).frames = s.frames := rfl
@[simp] theorem advance_inj (s : State) (t : Nat) : (s.advance t).inj = s.inj := rfl
@[simp] theorem advance_feat (s : State) (t : Nat) : (s.advance t).feat = s.feat := rfl
@[simp] theorem advance_hykEn (s : State) (t : Nat) : (s.advance t).hykEn = s.hykEn := rfl
@[simp] theorem advance_free (s : State) (t : Nat) : (s.advance t).free = s.free := rfl
@[simp] theorem advance_pending (s : State) (t : Nat) : (s.advance t).pending = s.pending := rfl

/-! ## `modCore` -/

@[simp] theorem modCore_mem (s : State) (k : Nat) (f : Core → Core) : (s.modCore k f).mem = s.mem := rfl
@[simp] theorem modCore_tags (s : State) (k : Nat) (f : Core → Core) : (s.modCore k f).tags = s.tags := rfl
@[simp] theorem modCore_ecc (s : State) (k : Nat) (f : Core → Core) : (s.modCore k f).ecc = s.ecc := rfl
@[simp] theorem modCore_code (s : State) (k : Nat) (f : Core → Core) : (s.modCore k f).code = s.code := rfl
@[simp] theorem modCore_codeEcc (s : State) (k : Nat) (f : Core → Core) : (s.modCore k f).codeEcc = s.codeEcc := rfl
@[simp] theorem modCore_coves (s : State) (k : Nat) (f : Core → Core) : (s.modCore k f).coves = s.coves := rfl
@[simp] theorem modCore_tenants (s : State) (k : Nat) (f : Core → Core) : (s.modCore k f).tenants = s.tenants := rfl
@[simp] theorem modCore_tenTable (s : State) (k : Nat) (f : Core → Core) : (s.modCore k f).tenTable = s.tenTable := rfl
@[simp] theorem modCore_chGens (s : State) (k : Nat) (f : Core → Core) : (s.modCore k f).chGens = s.chGens := rfl
@[simp] theorem modCore_entryGens (s : State) (k : Nat) (f : Core → Core) : (s.modCore k f).entryGens = s.entryGens := rfl
@[simp] theorem modCore_srcGens (s : State) (k : Nat) (f : Core → Core) : (s.modCore k f).srcGens = s.srcGens := rfl
@[simp] theorem modCore_tides (s : State) (k : Nat) (f : Core → Core) : (s.modCore k f).tides = s.tides := rfl
@[simp] theorem modCore_entries (s : State) (k : Nat) (f : Core → Core) : (s.modCore k f).entries = s.entries := rfl
@[simp] theorem modCore_outputs (s : State) (k : Nat) (f : Core → Core) : (s.modCore k f).outputs = s.outputs := rfl
@[simp] theorem modCore_mods (s : State) (k : Nat) (f : Core → Core) : (s.modCore k f).mods = s.mods := rfl
@[simp] theorem modCore_windows (s : State) (k : Nat) (f : Core → Core) : (s.modCore k f).windows = s.windows := rfl
@[simp] theorem modCore_waves (s : State) (k : Nat) (f : Core → Core) : (s.modCore k f).waves = s.waves := rfl
@[simp] theorem modCore_sources (s : State) (k : Nat) (f : Core → Core) : (s.modCore k f).sources = s.sources := rfl
@[simp] theorem modCore_evc (s : State) (k : Nat) (f : Core → Core) : (s.modCore k f).evc = s.evc := rfl
@[simp] theorem modCore_churn (s : State) (k : Nat) (f : Core → Core) : (s.modCore k f).churn = s.churn := rfl
@[simp] theorem modCore_channels (s : State) (k : Nat) (f : Core → Core) : (s.modCore k f).channels = s.channels := rfl
@[simp] theorem modCore_undertow (s : State) (k : Nat) (f : Core → Core) : (s.modCore k f).undertow = s.undertow := rfl
@[simp] theorem modCore_tlbis (s : State) (k : Nat) (f : Core → Core) : (s.modCore k f).tlbis = s.tlbis := rfl
@[simp] theorem modCore_links (s : State) (k : Nat) (f : Core → Core) : (s.modCore k f).links = s.links := rfl
@[simp] theorem modCore_eths (s : State) (k : Nat) (f : Core → Core) : (s.modCore k f).eths = s.eths := rfl
@[simp] theorem modCore_cans (s : State) (k : Nat) (f : Core → Core) : (s.modCore k f).cans = s.cans := rfl
@[simp] theorem modCore_uarts (s : State) (k : Nat) (f : Core → Core) : (s.modCore k f).uarts = s.uarts := rfl
@[simp] theorem modCore_pcie (s : State) (k : Nat) (f : Core → Core) : (s.modCore k f).pcie = s.pcie := rfl
@[simp] theorem modCore_xspi (s : State) (k : Nat) (f : Core → Core) : (s.modCore k f).xspi = s.xspi := rfl
@[simp] theorem modCore_i2cs (s : State) (k : Nat) (f : Core → Core) : (s.modCore k f).i2cs = s.i2cs := rfl
@[simp] theorem modCore_memCtl (s : State) (k : Nat) (f : Core → Core) : (s.modCore k f).memCtl = s.memCtl := rfl
@[simp] theorem modCore_jtag (s : State) (k : Nat) (f : Core → Core) : (s.modCore k f).jtag = s.jtag := rfl
@[simp] theorem modCore_power (s : State) (k : Nat) (f : Core → Core) : (s.modCore k f).power = s.power := rfl
@[simp] theorem modCore_gates (s : State) (k : Nat) (f : Core → Core) : (s.modCore k f).gates = s.gates := rfl
@[simp] theorem modCore_aon (s : State) (k : Nat) (f : Core → Core) : (s.modCore k f).aon = s.aon := rfl
@[simp] theorem modCore_otp (s : State) (k : Nat) (f : Core → Core) : (s.modCore k f).otp = s.otp := rfl
@[simp] theorem modCore_board (s : State) (k : Nat) (f : Core → Core) : (s.modCore k f).board = s.board := rfl
@[simp] theorem modCore_phase (s : State) (k : Nat) (f : Core → Core) : (s.modCore k f).phase = s.phase := rfl
@[simp] theorem modCore_bootAt (s : State) (k : Nat) (f : Core → Core) : (s.modCore k f).bootAt = s.bootAt := rfl
@[simp] theorem modCore_image (s : State) (k : Nat) (f : Core → Core) : (s.modCore k f).image = s.image := rfl
@[simp] theorem modCore_undurable (s : State) (k : Nat) (f : Core → Core) : (s.modCore k f).undurable = s.undurable := rfl
@[simp] theorem modCore_heldEvents (s : State) (k : Nat) (f : Core → Core) : (s.modCore k f).heldEvents = s.heldEvents := rfl
@[simp] theorem modCore_heldWakes (s : State) (k : Nat) (f : Core → Core) : (s.modCore k f).heldWakes = s.heldWakes := rfl
@[simp] theorem modCore_frames (s : State) (k : Nat) (f : Core → Core) : (s.modCore k f).frames = s.frames := rfl
@[simp] theorem modCore_inj (s : State) (k : Nat) (f : Core → Core) : (s.modCore k f).inj = s.inj := rfl
@[simp] theorem modCore_feat (s : State) (k : Nat) (f : Core → Core) : (s.modCore k f).feat = s.feat := rfl
@[simp] theorem modCore_hykEn (s : State) (k : Nat) (f : Core → Core) : (s.modCore k f).hykEn = s.hykEn := rfl
@[simp] theorem modCore_now (s : State) (k : Nat) (f : Core → Core) : (s.modCore k f).now = s.now := rfl
@[simp] theorem modCore_free (s : State) (k : Nat) (f : Core → Core) : (s.modCore k f).free = s.free := rfl
@[simp] theorem modCore_pending (s : State) (k : Nat) (f : Core → Core) : (s.modCore k f).pending = s.pending := rfl

/-! ## `modSlot` -/

@[simp] theorem modSlot_mem (s : State) (k : Nat) (sl : Fin 8) (f : Slot → Slot) : (s.modSlot k sl f).mem = s.mem := rfl
@[simp] theorem modSlot_tags (s : State) (k : Nat) (sl : Fin 8) (f : Slot → Slot) : (s.modSlot k sl f).tags = s.tags := rfl
@[simp] theorem modSlot_ecc (s : State) (k : Nat) (sl : Fin 8) (f : Slot → Slot) : (s.modSlot k sl f).ecc = s.ecc := rfl
@[simp] theorem modSlot_code (s : State) (k : Nat) (sl : Fin 8) (f : Slot → Slot) : (s.modSlot k sl f).code = s.code := rfl
@[simp] theorem modSlot_codeEcc (s : State) (k : Nat) (sl : Fin 8) (f : Slot → Slot) : (s.modSlot k sl f).codeEcc = s.codeEcc := rfl
@[simp] theorem modSlot_coves (s : State) (k : Nat) (sl : Fin 8) (f : Slot → Slot) : (s.modSlot k sl f).coves = s.coves := rfl
@[simp] theorem modSlot_tenants (s : State) (k : Nat) (sl : Fin 8) (f : Slot → Slot) : (s.modSlot k sl f).tenants = s.tenants := rfl
@[simp] theorem modSlot_tenTable (s : State) (k : Nat) (sl : Fin 8) (f : Slot → Slot) : (s.modSlot k sl f).tenTable = s.tenTable := rfl
@[simp] theorem modSlot_chGens (s : State) (k : Nat) (sl : Fin 8) (f : Slot → Slot) : (s.modSlot k sl f).chGens = s.chGens := rfl
@[simp] theorem modSlot_entryGens (s : State) (k : Nat) (sl : Fin 8) (f : Slot → Slot) : (s.modSlot k sl f).entryGens = s.entryGens := rfl
@[simp] theorem modSlot_srcGens (s : State) (k : Nat) (sl : Fin 8) (f : Slot → Slot) : (s.modSlot k sl f).srcGens = s.srcGens := rfl
@[simp] theorem modSlot_tides (s : State) (k : Nat) (sl : Fin 8) (f : Slot → Slot) : (s.modSlot k sl f).tides = s.tides := rfl
@[simp] theorem modSlot_entries (s : State) (k : Nat) (sl : Fin 8) (f : Slot → Slot) : (s.modSlot k sl f).entries = s.entries := rfl
@[simp] theorem modSlot_outputs (s : State) (k : Nat) (sl : Fin 8) (f : Slot → Slot) : (s.modSlot k sl f).outputs = s.outputs := rfl
@[simp] theorem modSlot_mods (s : State) (k : Nat) (sl : Fin 8) (f : Slot → Slot) : (s.modSlot k sl f).mods = s.mods := rfl
@[simp] theorem modSlot_windows (s : State) (k : Nat) (sl : Fin 8) (f : Slot → Slot) : (s.modSlot k sl f).windows = s.windows := rfl
@[simp] theorem modSlot_waves (s : State) (k : Nat) (sl : Fin 8) (f : Slot → Slot) : (s.modSlot k sl f).waves = s.waves := rfl
@[simp] theorem modSlot_sources (s : State) (k : Nat) (sl : Fin 8) (f : Slot → Slot) : (s.modSlot k sl f).sources = s.sources := rfl
@[simp] theorem modSlot_evc (s : State) (k : Nat) (sl : Fin 8) (f : Slot → Slot) : (s.modSlot k sl f).evc = s.evc := rfl
@[simp] theorem modSlot_churn (s : State) (k : Nat) (sl : Fin 8) (f : Slot → Slot) : (s.modSlot k sl f).churn = s.churn := rfl
@[simp] theorem modSlot_channels (s : State) (k : Nat) (sl : Fin 8) (f : Slot → Slot) : (s.modSlot k sl f).channels = s.channels := rfl
@[simp] theorem modSlot_undertow (s : State) (k : Nat) (sl : Fin 8) (f : Slot → Slot) : (s.modSlot k sl f).undertow = s.undertow := rfl
@[simp] theorem modSlot_tlbis (s : State) (k : Nat) (sl : Fin 8) (f : Slot → Slot) : (s.modSlot k sl f).tlbis = s.tlbis := rfl
@[simp] theorem modSlot_links (s : State) (k : Nat) (sl : Fin 8) (f : Slot → Slot) : (s.modSlot k sl f).links = s.links := rfl
@[simp] theorem modSlot_eths (s : State) (k : Nat) (sl : Fin 8) (f : Slot → Slot) : (s.modSlot k sl f).eths = s.eths := rfl
@[simp] theorem modSlot_cans (s : State) (k : Nat) (sl : Fin 8) (f : Slot → Slot) : (s.modSlot k sl f).cans = s.cans := rfl
@[simp] theorem modSlot_uarts (s : State) (k : Nat) (sl : Fin 8) (f : Slot → Slot) : (s.modSlot k sl f).uarts = s.uarts := rfl
@[simp] theorem modSlot_pcie (s : State) (k : Nat) (sl : Fin 8) (f : Slot → Slot) : (s.modSlot k sl f).pcie = s.pcie := rfl
@[simp] theorem modSlot_xspi (s : State) (k : Nat) (sl : Fin 8) (f : Slot → Slot) : (s.modSlot k sl f).xspi = s.xspi := rfl
@[simp] theorem modSlot_i2cs (s : State) (k : Nat) (sl : Fin 8) (f : Slot → Slot) : (s.modSlot k sl f).i2cs = s.i2cs := rfl
@[simp] theorem modSlot_memCtl (s : State) (k : Nat) (sl : Fin 8) (f : Slot → Slot) : (s.modSlot k sl f).memCtl = s.memCtl := rfl
@[simp] theorem modSlot_jtag (s : State) (k : Nat) (sl : Fin 8) (f : Slot → Slot) : (s.modSlot k sl f).jtag = s.jtag := rfl
@[simp] theorem modSlot_power (s : State) (k : Nat) (sl : Fin 8) (f : Slot → Slot) : (s.modSlot k sl f).power = s.power := rfl
@[simp] theorem modSlot_gates (s : State) (k : Nat) (sl : Fin 8) (f : Slot → Slot) : (s.modSlot k sl f).gates = s.gates := rfl
@[simp] theorem modSlot_aon (s : State) (k : Nat) (sl : Fin 8) (f : Slot → Slot) : (s.modSlot k sl f).aon = s.aon := rfl
@[simp] theorem modSlot_otp (s : State) (k : Nat) (sl : Fin 8) (f : Slot → Slot) : (s.modSlot k sl f).otp = s.otp := rfl
@[simp] theorem modSlot_board (s : State) (k : Nat) (sl : Fin 8) (f : Slot → Slot) : (s.modSlot k sl f).board = s.board := rfl
@[simp] theorem modSlot_phase (s : State) (k : Nat) (sl : Fin 8) (f : Slot → Slot) : (s.modSlot k sl f).phase = s.phase := rfl
@[simp] theorem modSlot_bootAt (s : State) (k : Nat) (sl : Fin 8) (f : Slot → Slot) : (s.modSlot k sl f).bootAt = s.bootAt := rfl
@[simp] theorem modSlot_image (s : State) (k : Nat) (sl : Fin 8) (f : Slot → Slot) : (s.modSlot k sl f).image = s.image := rfl
@[simp] theorem modSlot_undurable (s : State) (k : Nat) (sl : Fin 8) (f : Slot → Slot) : (s.modSlot k sl f).undurable = s.undurable := rfl
@[simp] theorem modSlot_heldEvents (s : State) (k : Nat) (sl : Fin 8) (f : Slot → Slot) : (s.modSlot k sl f).heldEvents = s.heldEvents := rfl
@[simp] theorem modSlot_heldWakes (s : State) (k : Nat) (sl : Fin 8) (f : Slot → Slot) : (s.modSlot k sl f).heldWakes = s.heldWakes := rfl
@[simp] theorem modSlot_frames (s : State) (k : Nat) (sl : Fin 8) (f : Slot → Slot) : (s.modSlot k sl f).frames = s.frames := rfl
@[simp] theorem modSlot_inj (s : State) (k : Nat) (sl : Fin 8) (f : Slot → Slot) : (s.modSlot k sl f).inj = s.inj := rfl
@[simp] theorem modSlot_feat (s : State) (k : Nat) (sl : Fin 8) (f : Slot → Slot) : (s.modSlot k sl f).feat = s.feat := rfl
@[simp] theorem modSlot_hykEn (s : State) (k : Nat) (sl : Fin 8) (f : Slot → Slot) : (s.modSlot k sl f).hykEn = s.hykEn := rfl
@[simp] theorem modSlot_now (s : State) (k : Nat) (sl : Fin 8) (f : Slot → Slot) : (s.modSlot k sl f).now = s.now := rfl
@[simp] theorem modSlot_free (s : State) (k : Nat) (sl : Fin 8) (f : Slot → Slot) : (s.modSlot k sl f).free = s.free := rfl
@[simp] theorem modSlot_pending (s : State) (k : Nat) (sl : Fin 8) (f : Slot → Slot) : (s.modSlot k sl f).pending = s.pending := rfl

/-! ## `modCove` -/

@[simp] theorem modCove_mem (s : State) (n : Nat) (f : Cove → Cove) : (s.modCove n f).mem = s.mem := rfl
@[simp] theorem modCove_tags (s : State) (n : Nat) (f : Cove → Cove) : (s.modCove n f).tags = s.tags := rfl
@[simp] theorem modCove_ecc (s : State) (n : Nat) (f : Cove → Cove) : (s.modCove n f).ecc = s.ecc := rfl
@[simp] theorem modCove_code (s : State) (n : Nat) (f : Cove → Cove) : (s.modCove n f).code = s.code := rfl
@[simp] theorem modCove_codeEcc (s : State) (n : Nat) (f : Cove → Cove) : (s.modCove n f).codeEcc = s.codeEcc := rfl
@[simp] theorem modCove_cores (s : State) (n : Nat) (f : Cove → Cove) : (s.modCove n f).cores = s.cores := rfl
@[simp] theorem modCove_tenants (s : State) (n : Nat) (f : Cove → Cove) : (s.modCove n f).tenants = s.tenants := rfl
@[simp] theorem modCove_tenTable (s : State) (n : Nat) (f : Cove → Cove) : (s.modCove n f).tenTable = s.tenTable := rfl
@[simp] theorem modCove_chGens (s : State) (n : Nat) (f : Cove → Cove) : (s.modCove n f).chGens = s.chGens := rfl
@[simp] theorem modCove_entryGens (s : State) (n : Nat) (f : Cove → Cove) : (s.modCove n f).entryGens = s.entryGens := rfl
@[simp] theorem modCove_srcGens (s : State) (n : Nat) (f : Cove → Cove) : (s.modCove n f).srcGens = s.srcGens := rfl
@[simp] theorem modCove_tides (s : State) (n : Nat) (f : Cove → Cove) : (s.modCove n f).tides = s.tides := rfl
@[simp] theorem modCove_entries (s : State) (n : Nat) (f : Cove → Cove) : (s.modCove n f).entries = s.entries := rfl
@[simp] theorem modCove_outputs (s : State) (n : Nat) (f : Cove → Cove) : (s.modCove n f).outputs = s.outputs := rfl
@[simp] theorem modCove_mods (s : State) (n : Nat) (f : Cove → Cove) : (s.modCove n f).mods = s.mods := rfl
@[simp] theorem modCove_windows (s : State) (n : Nat) (f : Cove → Cove) : (s.modCove n f).windows = s.windows := rfl
@[simp] theorem modCove_waves (s : State) (n : Nat) (f : Cove → Cove) : (s.modCove n f).waves = s.waves := rfl
@[simp] theorem modCove_sources (s : State) (n : Nat) (f : Cove → Cove) : (s.modCove n f).sources = s.sources := rfl
@[simp] theorem modCove_evc (s : State) (n : Nat) (f : Cove → Cove) : (s.modCove n f).evc = s.evc := rfl
@[simp] theorem modCove_churn (s : State) (n : Nat) (f : Cove → Cove) : (s.modCove n f).churn = s.churn := rfl
@[simp] theorem modCove_channels (s : State) (n : Nat) (f : Cove → Cove) : (s.modCove n f).channels = s.channels := rfl
@[simp] theorem modCove_undertow (s : State) (n : Nat) (f : Cove → Cove) : (s.modCove n f).undertow = s.undertow := rfl
@[simp] theorem modCove_tlbis (s : State) (n : Nat) (f : Cove → Cove) : (s.modCove n f).tlbis = s.tlbis := rfl
@[simp] theorem modCove_links (s : State) (n : Nat) (f : Cove → Cove) : (s.modCove n f).links = s.links := rfl
@[simp] theorem modCove_eths (s : State) (n : Nat) (f : Cove → Cove) : (s.modCove n f).eths = s.eths := rfl
@[simp] theorem modCove_cans (s : State) (n : Nat) (f : Cove → Cove) : (s.modCove n f).cans = s.cans := rfl
@[simp] theorem modCove_uarts (s : State) (n : Nat) (f : Cove → Cove) : (s.modCove n f).uarts = s.uarts := rfl
@[simp] theorem modCove_pcie (s : State) (n : Nat) (f : Cove → Cove) : (s.modCove n f).pcie = s.pcie := rfl
@[simp] theorem modCove_xspi (s : State) (n : Nat) (f : Cove → Cove) : (s.modCove n f).xspi = s.xspi := rfl
@[simp] theorem modCove_i2cs (s : State) (n : Nat) (f : Cove → Cove) : (s.modCove n f).i2cs = s.i2cs := rfl
@[simp] theorem modCove_memCtl (s : State) (n : Nat) (f : Cove → Cove) : (s.modCove n f).memCtl = s.memCtl := rfl
@[simp] theorem modCove_jtag (s : State) (n : Nat) (f : Cove → Cove) : (s.modCove n f).jtag = s.jtag := rfl
@[simp] theorem modCove_power (s : State) (n : Nat) (f : Cove → Cove) : (s.modCove n f).power = s.power := rfl
@[simp] theorem modCove_gates (s : State) (n : Nat) (f : Cove → Cove) : (s.modCove n f).gates = s.gates := rfl
@[simp] theorem modCove_aon (s : State) (n : Nat) (f : Cove → Cove) : (s.modCove n f).aon = s.aon := rfl
@[simp] theorem modCove_otp (s : State) (n : Nat) (f : Cove → Cove) : (s.modCove n f).otp = s.otp := rfl
@[simp] theorem modCove_board (s : State) (n : Nat) (f : Cove → Cove) : (s.modCove n f).board = s.board := rfl
@[simp] theorem modCove_phase (s : State) (n : Nat) (f : Cove → Cove) : (s.modCove n f).phase = s.phase := rfl
@[simp] theorem modCove_bootAt (s : State) (n : Nat) (f : Cove → Cove) : (s.modCove n f).bootAt = s.bootAt := rfl
@[simp] theorem modCove_image (s : State) (n : Nat) (f : Cove → Cove) : (s.modCove n f).image = s.image := rfl
@[simp] theorem modCove_undurable (s : State) (n : Nat) (f : Cove → Cove) : (s.modCove n f).undurable = s.undurable := rfl
@[simp] theorem modCove_heldEvents (s : State) (n : Nat) (f : Cove → Cove) : (s.modCove n f).heldEvents = s.heldEvents := rfl
@[simp] theorem modCove_heldWakes (s : State) (n : Nat) (f : Cove → Cove) : (s.modCove n f).heldWakes = s.heldWakes := rfl
@[simp] theorem modCove_frames (s : State) (n : Nat) (f : Cove → Cove) : (s.modCove n f).frames = s.frames := rfl
@[simp] theorem modCove_inj (s : State) (n : Nat) (f : Cove → Cove) : (s.modCove n f).inj = s.inj := rfl
@[simp] theorem modCove_feat (s : State) (n : Nat) (f : Cove → Cove) : (s.modCove n f).feat = s.feat := rfl
@[simp] theorem modCove_hykEn (s : State) (n : Nat) (f : Cove → Cove) : (s.modCove n f).hykEn = s.hykEn := rfl
@[simp] theorem modCove_now (s : State) (n : Nat) (f : Cove → Cove) : (s.modCove n f).now = s.now := rfl
@[simp] theorem modCove_free (s : State) (n : Nat) (f : Cove → Cove) : (s.modCove n f).free = s.free := rfl
@[simp] theorem modCove_pending (s : State) (n : Nat) (f : Cove → Cove) : (s.modCove n f).pending = s.pending := rfl

/-! ## `setTop` -/

@[simp] theorem setTop_mem (s : State) (th : ThreadId) (x : Ctx) : (s.setTop th x).mem = s.mem := rfl
@[simp] theorem setTop_tags (s : State) (th : ThreadId) (x : Ctx) : (s.setTop th x).tags = s.tags := rfl
@[simp] theorem setTop_ecc (s : State) (th : ThreadId) (x : Ctx) : (s.setTop th x).ecc = s.ecc := rfl
@[simp] theorem setTop_code (s : State) (th : ThreadId) (x : Ctx) : (s.setTop th x).code = s.code := rfl
@[simp] theorem setTop_codeEcc (s : State) (th : ThreadId) (x : Ctx) : (s.setTop th x).codeEcc = s.codeEcc := rfl
@[simp] theorem setTop_coves (s : State) (th : ThreadId) (x : Ctx) : (s.setTop th x).coves = s.coves := rfl
@[simp] theorem setTop_tenants (s : State) (th : ThreadId) (x : Ctx) : (s.setTop th x).tenants = s.tenants := rfl
@[simp] theorem setTop_tenTable (s : State) (th : ThreadId) (x : Ctx) : (s.setTop th x).tenTable = s.tenTable := rfl
@[simp] theorem setTop_chGens (s : State) (th : ThreadId) (x : Ctx) : (s.setTop th x).chGens = s.chGens := rfl
@[simp] theorem setTop_entryGens (s : State) (th : ThreadId) (x : Ctx) : (s.setTop th x).entryGens = s.entryGens := rfl
@[simp] theorem setTop_srcGens (s : State) (th : ThreadId) (x : Ctx) : (s.setTop th x).srcGens = s.srcGens := rfl
@[simp] theorem setTop_tides (s : State) (th : ThreadId) (x : Ctx) : (s.setTop th x).tides = s.tides := rfl
@[simp] theorem setTop_entries (s : State) (th : ThreadId) (x : Ctx) : (s.setTop th x).entries = s.entries := rfl
@[simp] theorem setTop_outputs (s : State) (th : ThreadId) (x : Ctx) : (s.setTop th x).outputs = s.outputs := rfl
@[simp] theorem setTop_mods (s : State) (th : ThreadId) (x : Ctx) : (s.setTop th x).mods = s.mods := rfl
@[simp] theorem setTop_windows (s : State) (th : ThreadId) (x : Ctx) : (s.setTop th x).windows = s.windows := rfl
@[simp] theorem setTop_waves (s : State) (th : ThreadId) (x : Ctx) : (s.setTop th x).waves = s.waves := rfl
@[simp] theorem setTop_sources (s : State) (th : ThreadId) (x : Ctx) : (s.setTop th x).sources = s.sources := rfl
@[simp] theorem setTop_evc (s : State) (th : ThreadId) (x : Ctx) : (s.setTop th x).evc = s.evc := rfl
@[simp] theorem setTop_churn (s : State) (th : ThreadId) (x : Ctx) : (s.setTop th x).churn = s.churn := rfl
@[simp] theorem setTop_channels (s : State) (th : ThreadId) (x : Ctx) : (s.setTop th x).channels = s.channels := rfl
@[simp] theorem setTop_undertow (s : State) (th : ThreadId) (x : Ctx) : (s.setTop th x).undertow = s.undertow := rfl
@[simp] theorem setTop_tlbis (s : State) (th : ThreadId) (x : Ctx) : (s.setTop th x).tlbis = s.tlbis := rfl
@[simp] theorem setTop_links (s : State) (th : ThreadId) (x : Ctx) : (s.setTop th x).links = s.links := rfl
@[simp] theorem setTop_eths (s : State) (th : ThreadId) (x : Ctx) : (s.setTop th x).eths = s.eths := rfl
@[simp] theorem setTop_cans (s : State) (th : ThreadId) (x : Ctx) : (s.setTop th x).cans = s.cans := rfl
@[simp] theorem setTop_uarts (s : State) (th : ThreadId) (x : Ctx) : (s.setTop th x).uarts = s.uarts := rfl
@[simp] theorem setTop_pcie (s : State) (th : ThreadId) (x : Ctx) : (s.setTop th x).pcie = s.pcie := rfl
@[simp] theorem setTop_xspi (s : State) (th : ThreadId) (x : Ctx) : (s.setTop th x).xspi = s.xspi := rfl
@[simp] theorem setTop_i2cs (s : State) (th : ThreadId) (x : Ctx) : (s.setTop th x).i2cs = s.i2cs := rfl
@[simp] theorem setTop_memCtl (s : State) (th : ThreadId) (x : Ctx) : (s.setTop th x).memCtl = s.memCtl := rfl
@[simp] theorem setTop_jtag (s : State) (th : ThreadId) (x : Ctx) : (s.setTop th x).jtag = s.jtag := rfl
@[simp] theorem setTop_power (s : State) (th : ThreadId) (x : Ctx) : (s.setTop th x).power = s.power := rfl
@[simp] theorem setTop_gates (s : State) (th : ThreadId) (x : Ctx) : (s.setTop th x).gates = s.gates := rfl
@[simp] theorem setTop_aon (s : State) (th : ThreadId) (x : Ctx) : (s.setTop th x).aon = s.aon := rfl
@[simp] theorem setTop_otp (s : State) (th : ThreadId) (x : Ctx) : (s.setTop th x).otp = s.otp := rfl
@[simp] theorem setTop_board (s : State) (th : ThreadId) (x : Ctx) : (s.setTop th x).board = s.board := rfl
@[simp] theorem setTop_phase (s : State) (th : ThreadId) (x : Ctx) : (s.setTop th x).phase = s.phase := rfl
@[simp] theorem setTop_bootAt (s : State) (th : ThreadId) (x : Ctx) : (s.setTop th x).bootAt = s.bootAt := rfl
@[simp] theorem setTop_image (s : State) (th : ThreadId) (x : Ctx) : (s.setTop th x).image = s.image := rfl
@[simp] theorem setTop_undurable (s : State) (th : ThreadId) (x : Ctx) : (s.setTop th x).undurable = s.undurable := rfl
@[simp] theorem setTop_heldEvents (s : State) (th : ThreadId) (x : Ctx) : (s.setTop th x).heldEvents = s.heldEvents := rfl
@[simp] theorem setTop_heldWakes (s : State) (th : ThreadId) (x : Ctx) : (s.setTop th x).heldWakes = s.heldWakes := rfl
@[simp] theorem setTop_frames (s : State) (th : ThreadId) (x : Ctx) : (s.setTop th x).frames = s.frames := rfl
@[simp] theorem setTop_inj (s : State) (th : ThreadId) (x : Ctx) : (s.setTop th x).inj = s.inj := rfl
@[simp] theorem setTop_feat (s : State) (th : ThreadId) (x : Ctx) : (s.setTop th x).feat = s.feat := rfl
@[simp] theorem setTop_hykEn (s : State) (th : ThreadId) (x : Ctx) : (s.setTop th x).hykEn = s.hykEn := rfl
@[simp] theorem setTop_now (s : State) (th : ThreadId) (x : Ctx) : (s.setTop th x).now = s.now := rfl
@[simp] theorem setTop_free (s : State) (th : ThreadId) (x : Ctx) : (s.setTop th x).free = s.free := rfl
@[simp] theorem setTop_pending (s : State) (th : ThreadId) (x : Ctx) : (s.setTop th x).pending = s.pending := rfl

/-! ## What was put is read back -/

@[simp] theorem core_setCore_self (s : State) (k : Nat) (c : Core) : (s.setCore k c).core k = c := by
  simp [State.core, State.setCore]
theorem core_setCore (s : State) (j k : Nat) (c : Core) : (s.setCore k c).core j = if j = k then c else s.core j := by
  simp [State.core, State.setCore, get_put]
@[simp] theorem cove_setCove_self (s : State) (n : Nat) (c : Cove) : (s.setCove n c).cove n = c := by
  simp [State.cove, State.setCove]
theorem cove_setCove (s : State) (j n : Nat) (c : Cove) : (s.setCove n c).cove j = if j = n then c else s.cove j := by
  simp [State.cove, State.setCove, get_put]
@[simp] theorem tenant_setTenant_self (s : State) (t : Nat) (v : Tenant) : (s.setTenant t v).tenant t = v := by
  simp [State.tenant, State.setTenant]
theorem tenant_setTenant (s : State) (j t : Nat) (v : Tenant) : (s.setTenant t v).tenant j = if j = t then v else s.tenant j := by
  simp [State.tenant, State.setTenant, get_put]
@[simp] theorem tide_setTide_self (s : State) (i : Nat) (v : Tide) : (s.setTide i v).tide i = v := by
  simp [State.tide, State.setTide]
theorem tide_setTide (s : State) (j i : Nat) (v : Tide) : (s.setTide i v).tide j = if j = i then v else s.tide j := by
  simp [State.tide, State.setTide, get_put]
@[simp] theorem entry_setEntry_self (s : State) (i : Nat) (v : Entry) : (s.setEntry i v).entry i = v := by
  simp [State.entry, State.setEntry]
theorem entry_setEntry (s : State) (j i : Nat) (v : Entry) : (s.setEntry i v).entry j = if j = i then v else s.entry j := by
  simp [State.entry, State.setEntry, get_put]
@[simp] theorem output_setOutput_self (s : State) (i : Nat) (v : Output) : (s.setOutput i v).output i = v := by
  simp [State.output, State.setOutput]
theorem output_setOutput (s : State) (j i : Nat) (v : Output) : (s.setOutput i v).output j = if j = i then v else s.output j := by
  simp [State.output, State.setOutput, get_put]
@[simp] theorem mod_setMod_self (s : State) (i : Nat) (v : ModInput) : (s.setMod i v).mod i = v := by
  simp [State.mod, State.setMod]
theorem mod_setMod (s : State) (j i : Nat) (v : ModInput) : (s.setMod i v).mod j = if j = i then v else s.mod j := by
  simp [State.mod, State.setMod, get_put]
@[simp] theorem wave_setWave_self (s : State) (i : Nat) (v : Wave) : (s.setWave i v).wave i = v := by
  simp [State.wave, State.setWave]
theorem wave_setWave (s : State) (j i : Nat) (v : Wave) : (s.setWave i v).wave j = if j = i then v else s.wave j := by
  simp [State.wave, State.setWave, get_put]
@[simp] theorem channel_setChannel_self (s : State) (i : Nat) (v : Channel) : (s.setChannel i v).channel i = v := by
  simp [State.channel, State.setChannel]
theorem channel_setChannel (s : State) (j i : Nat) (v : Channel) : (s.setChannel i v).channel j = if j = i then v else s.channel j := by
  simp [State.channel, State.setChannel, get_put]
@[simp] theorem link_setLink_self (s : State) (l : Nat) (v : Link) : (s.setLink l v).link l = v := by
  simp [State.link, State.setLink]
theorem link_setLink (s : State) (j l : Nat) (v : Link) : (s.setLink l v).link j = if j = l then v else s.link j := by
  simp [State.link, State.setLink, get_put]
@[simp] theorem eth_setEth_self (s : State) (i : Nat) (v : Eth) : (s.setEth i v).eth i = v := by
  simp [State.eth, State.setEth]
theorem eth_setEth (s : State) (j i : Nat) (v : Eth) : (s.setEth i v).eth j = if j = i then v else s.eth j := by
  simp [State.eth, State.setEth, get_put]
@[simp] theorem can_setCan_self (s : State) (i : Nat) (v : Can) : (s.setCan i v).can i = v := by
  simp [State.can, State.setCan]
theorem can_setCan (s : State) (j i : Nat) (v : Can) : (s.setCan i v).can j = if j = i then v else s.can j := by
  simp [State.can, State.setCan, get_put]
@[simp] theorem uart_setUart_self (s : State) (i : Nat) (v : Uart) : (s.setUart i v).uart i = v := by
  simp [State.uart, State.setUart]
theorem uart_setUart (s : State) (j i : Nat) (v : Uart) : (s.setUart i v).uart j = if j = i then v else s.uart j := by
  simp [State.uart, State.setUart, get_put]
@[simp] theorem i2c_setI2c_self (s : State) (i : Nat) (v : I2c) : (s.setI2c i v).i2c i = v := by
  simp [State.i2c, State.setI2c]
theorem i2c_setI2c (s : State) (j i : Nat) (v : I2c) : (s.setI2c i v).i2c j = if j = i then v else s.i2c j := by
  simp [State.i2c, State.setI2c, get_put]
@[simp] theorem gate_setGate_self (s : State) (d : Nat) (v : Gate) : (s.setGate d v).gate d = v := by
  simp [State.gate, State.setGate]
theorem gate_setGate (s : State) (j d : Nat) (v : Gate) : (s.setGate d v).gate j = if j = d then v else s.gate j := by
  simp [State.gate, State.setGate, get_put]
@[simp] theorem frame_setFrame_self (s : State) (p : Nat) (v : Frame) : (s.setFrame p v).frame p = v := by
  simp [State.frame, State.setFrame]
theorem frame_setFrame (s : State) (j p : Nat) (v : Frame) : (s.setFrame p v).frame j = if j = p then v else s.frame j := by
  simp [State.frame, State.setFrame, get_put]
@[simp] theorem advance_now (s : State) (t : Nat) : (s.advance t).now = max s.now t := rfl
@[simp] theorem core_modCore_self (s : State) (k : Nat) (f : Core → Core) : (s.modCore k f).core k = f (s.core k) := by
  simp [State.modCore]
theorem core_modCore (s : State) (j k : Nat) (f : Core → Core) :
    (s.modCore k f).core j = if j = k then f (s.core k) else s.core j := by
  simp [State.modCore, core_setCore]
@[simp] theorem cove_modCove_self (s : State) (n : Nat) (f : Cove → Cove) : (s.modCove n f).cove n = f (s.cove n) := by
  simp [State.modCove]
theorem cove_modCove (s : State) (j n : Nat) (f : Cove → Cove) :
    (s.modCove n f).cove j = if j = n then f (s.cove n) else s.cove j := by
  simp [State.modCove, cove_setCove]

/-- The later of two changes of a core is made on the earlier one. -/
@[simp] theorem modCore_modCore (s : State) (k : Nat) (f g : Core → Core) :
    (s.modCore k f).modCore k g = s.modCore k fun c => g (f c) := by
  simp [State.modCore, State.setCore, State.core]

/-! ## A core by its fields -/

@[simp] theorem core_setSlot_tm (c : Core) (sl : Fin 8) (x : Slot) : (c.setSlot sl x).tm = c.tm := rfl
@[simp] theorem core_setSlot_cyc (c : Core) (sl : Fin 8) (x : Slot) : (c.setSlot sl x).cyc = c.cyc := rfl
@[simp] theorem core_setSlot_vbuf (c : Core) (sl : Fin 8) (x : Slot) : (c.setSlot sl x).vbuf = c.vbuf := rfl
@[simp] theorem core_setSlot_vvalid (c : Core) (sl : Fin 8) (x : Slot) : (c.setSlot sl x).vvalid = c.vvalid := rfl
@[simp] theorem core_setSlot_bankResult (c : Core) (sl : Fin 8) (x : Slot) : (c.setSlot sl x).bankResult = c.bankResult := rfl
@[simp] theorem core_setSlot_bankLevel (c : Core) (sl : Fin 8) (x : Slot) : (c.setSlot sl x).bankLevel = c.bankLevel := rfl
@[simp] theorem core_setSlot_bankSlot (c : Core) (sl : Fin 8) (x : Slot) : (c.setSlot sl x).bankSlot = c.bankSlot := rfl
@[simp] theorem core_setSlot_spillCnt (c : Core) (sl : Fin 8) (x : Slot) : (c.setSlot sl x).spillCnt = c.spillCnt := rfl
@[simp] theorem core_setSlot_fillCnt (c : Core) (sl : Fin 8) (x : Slot) : (c.setSlot sl x).fillCnt = c.fillCnt := rfl
@[simp] theorem core_setSlot_stolenCnt (c : Core) (sl : Fin 8) (x : Slot) : (c.setSlot sl x).stolenCnt = c.stolenCnt := rfl
@[simp] theorem core_setSlot_freeCnt (c : Core) (sl : Fin 8) (x : Slot) : (c.setSlot sl x).freeCnt = c.freeCnt := rfl
@[simp] theorem core_setSlot_posted (c : Core) (sl : Fin 8) (x : Slot) : (c.setSlot sl x).posted = c.posted := rfl
@[simp] theorem core_setSlot_tlbWin (c : Core) (sl : Fin 8) (x : Slot) : (c.setSlot sl x).tlbWin = c.tlbWin := rfl
@[simp] theorem core_setSlot_mpuBase (c : Core) (sl : Fin 8) (x : Slot) : (c.setSlot sl x).mpuBase = c.mpuBase := rfl
@[simp] theorem core_setSlot_mpuAttr (c : Core) (sl : Fin 8) (x : Slot) : (c.setSlot sl x).mpuAttr = c.mpuAttr := rfl
@[simp] theorem core_setSlot_lost (c : Core) (sl : Fin 8) (x : Slot) : (c.setSlot sl x).lost = c.lost := rfl
@[simp] theorem core_setSlot_stopped (c : Core) (sl : Fin 8) (x : Slot) : (c.setSlot sl x).stopped = c.stopped := rfl
@[simp] theorem core_setSlot_served (c : Core) (sl : Fin 8) (x : Slot) : (c.setSlot sl x).served = c.served := rfl
@[simp] theorem core_setSlot_firstIssue (c : Core) (sl : Fin 8) (x : Slot) : (c.setSlot sl x).firstIssue = c.firstIssue := rfl
@[simp] theorem core_setSlot_arrivals (c : Core) (sl : Fin 8) (x : Slot) : (c.setSlot sl x).arrivals = c.arrivals := rfl
@[simp] theorem core_setSlot_gated (c : Core) (sl : Fin 8) (x : Slot) : (c.setSlot sl x).gated = c.gated := rfl
@[simp] theorem core_putBank_tm (c : Core) (i : Nat) (v : Option Bank) : (c.putBank i v).tm = c.tm := rfl
@[simp] theorem core_putBank_cyc (c : Core) (i : Nat) (v : Option Bank) : (c.putBank i v).cyc = c.cyc := rfl
@[simp] theorem core_putBank_vbuf (c : Core) (i : Nat) (v : Option Bank) : (c.putBank i v).vbuf = c.vbuf := rfl
@[simp] theorem core_putBank_vvalid (c : Core) (i : Nat) (v : Option Bank) : (c.putBank i v).vvalid = c.vvalid := rfl
@[simp] theorem core_putBank_bankResult (c : Core) (i : Nat) (v : Option Bank) : (c.putBank i v).bankResult = c.bankResult := rfl
@[simp] theorem core_putBank_bankLevel (c : Core) (i : Nat) (v : Option Bank) : (c.putBank i v).bankLevel = c.bankLevel := rfl
@[simp] theorem core_putBank_bankSlot (c : Core) (i : Nat) (v : Option Bank) : (c.putBank i v).bankSlot = c.bankSlot := rfl
@[simp] theorem core_putBank_spillCnt (c : Core) (i : Nat) (v : Option Bank) : (c.putBank i v).spillCnt = c.spillCnt := rfl
@[simp] theorem core_putBank_fillCnt (c : Core) (i : Nat) (v : Option Bank) : (c.putBank i v).fillCnt = c.fillCnt := rfl
@[simp] theorem core_putBank_stolenCnt (c : Core) (i : Nat) (v : Option Bank) : (c.putBank i v).stolenCnt = c.stolenCnt := rfl
@[simp] theorem core_putBank_freeCnt (c : Core) (i : Nat) (v : Option Bank) : (c.putBank i v).freeCnt = c.freeCnt := rfl
@[simp] theorem core_putBank_posted (c : Core) (i : Nat) (v : Option Bank) : (c.putBank i v).posted = c.posted := rfl
@[simp] theorem core_putBank_tlbWin (c : Core) (i : Nat) (v : Option Bank) : (c.putBank i v).tlbWin = c.tlbWin := rfl
@[simp] theorem core_putBank_mpuBase (c : Core) (i : Nat) (v : Option Bank) : (c.putBank i v).mpuBase = c.mpuBase := rfl
@[simp] theorem core_putBank_mpuAttr (c : Core) (i : Nat) (v : Option Bank) : (c.putBank i v).mpuAttr = c.mpuAttr := rfl
@[simp] theorem core_putBank_lost (c : Core) (i : Nat) (v : Option Bank) : (c.putBank i v).lost = c.lost := rfl
@[simp] theorem core_putBank_stopped (c : Core) (i : Nat) (v : Option Bank) : (c.putBank i v).stopped = c.stopped := rfl
@[simp] theorem core_putBank_served (c : Core) (i : Nat) (v : Option Bank) : (c.putBank i v).served = c.served := rfl
@[simp] theorem core_putBank_firstIssue (c : Core) (i : Nat) (v : Option Bank) : (c.putBank i v).firstIssue = c.firstIssue := rfl
@[simp] theorem core_putBank_arrivals (c : Core) (i : Nat) (v : Option Bank) : (c.putBank i v).arrivals = c.arrivals := rfl
@[simp] theorem core_putBank_gated (c : Core) (i : Nat) (v : Option Bank) : (c.putBank i v).gated = c.gated := rfl
@[simp] theorem core_setCtx_tm (c : Core) (sl : Fin 8) (lv : Fin 3) (x : Ctx) : (c.setCtx sl lv x).tm = c.tm := rfl
@[simp] theorem core_setCtx_cyc (c : Core) (sl : Fin 8) (lv : Fin 3) (x : Ctx) : (c.setCtx sl lv x).cyc = c.cyc := rfl
@[simp] theorem core_setCtx_vbuf (c : Core) (sl : Fin 8) (lv : Fin 3) (x : Ctx) : (c.setCtx sl lv x).vbuf = c.vbuf := rfl
@[simp] theorem core_setCtx_vvalid (c : Core) (sl : Fin 8) (lv : Fin 3) (x : Ctx) : (c.setCtx sl lv x).vvalid = c.vvalid := rfl
@[simp] theorem core_setCtx_bankResult (c : Core) (sl : Fin 8) (lv : Fin 3) (x : Ctx) : (c.setCtx sl lv x).bankResult = c.bankResult := rfl
@[simp] theorem core_setCtx_bankLevel (c : Core) (sl : Fin 8) (lv : Fin 3) (x : Ctx) : (c.setCtx sl lv x).bankLevel = c.bankLevel := rfl
@[simp] theorem core_setCtx_bankSlot (c : Core) (sl : Fin 8) (lv : Fin 3) (x : Ctx) : (c.setCtx sl lv x).bankSlot = c.bankSlot := rfl
@[simp] theorem core_setCtx_spillCnt (c : Core) (sl : Fin 8) (lv : Fin 3) (x : Ctx) : (c.setCtx sl lv x).spillCnt = c.spillCnt := rfl
@[simp] theorem core_setCtx_fillCnt (c : Core) (sl : Fin 8) (lv : Fin 3) (x : Ctx) : (c.setCtx sl lv x).fillCnt = c.fillCnt := rfl
@[simp] theorem core_setCtx_stolenCnt (c : Core) (sl : Fin 8) (lv : Fin 3) (x : Ctx) : (c.setCtx sl lv x).stolenCnt = c.stolenCnt := rfl
@[simp] theorem core_setCtx_freeCnt (c : Core) (sl : Fin 8) (lv : Fin 3) (x : Ctx) : (c.setCtx sl lv x).freeCnt = c.freeCnt := rfl
@[simp] theorem core_setCtx_posted (c : Core) (sl : Fin 8) (lv : Fin 3) (x : Ctx) : (c.setCtx sl lv x).posted = c.posted := rfl
@[simp] theorem core_setCtx_tlbWin (c : Core) (sl : Fin 8) (lv : Fin 3) (x : Ctx) : (c.setCtx sl lv x).tlbWin = c.tlbWin := rfl
@[simp] theorem core_setCtx_mpuBase (c : Core) (sl : Fin 8) (lv : Fin 3) (x : Ctx) : (c.setCtx sl lv x).mpuBase = c.mpuBase := rfl
@[simp] theorem core_setCtx_mpuAttr (c : Core) (sl : Fin 8) (lv : Fin 3) (x : Ctx) : (c.setCtx sl lv x).mpuAttr = c.mpuAttr := rfl
@[simp] theorem core_setCtx_lost (c : Core) (sl : Fin 8) (lv : Fin 3) (x : Ctx) : (c.setCtx sl lv x).lost = c.lost := rfl
@[simp] theorem core_setCtx_stopped (c : Core) (sl : Fin 8) (lv : Fin 3) (x : Ctx) : (c.setCtx sl lv x).stopped = c.stopped := rfl
@[simp] theorem core_setCtx_served (c : Core) (sl : Fin 8) (lv : Fin 3) (x : Ctx) : (c.setCtx sl lv x).served = c.served := rfl
@[simp] theorem core_setCtx_firstIssue (c : Core) (sl : Fin 8) (lv : Fin 3) (x : Ctx) : (c.setCtx sl lv x).firstIssue = c.firstIssue := rfl
@[simp] theorem core_setCtx_arrivals (c : Core) (sl : Fin 8) (lv : Fin 3) (x : Ctx) : (c.setCtx sl lv x).arrivals = c.arrivals := rfl
@[simp] theorem core_setCtx_gated (c : Core) (sl : Fin 8) (lv : Fin 3) (x : Ctx) : (c.setCtx sl lv x).gated = c.gated := rfl

end Sys2Proof.Laws
end

