-- ==== Sys2Proof/Laws/Memory.lean ====
section
/-! SUPPORT. Memory: what a store leaves to be read, the canonical form that every operation on memory keeps, and the shared
operations that leave memory alone. -/

namespace Sys2Proof.Laws

open Sys2Proof.Machine

/-! ## Reading after writing -/

theorem byteAt_putByte_self (s : State) (pa : Nat) (v : Byte) (h : Memory.wf s.mem = true) : (s.putByte pa v).byteAt pa = v := by
  simp only [Memory.wf, Tbl.canonical, Bool.and_eq_true] at h
  exact get_set_self byteDefault ⟨s.mem⟩ pa v h.1

theorem byteAt_putByte_ne (s : State) {a pa : Nat} (v : Byte) (h : a ≠ pa) : (s.putByte pa v).byteAt a = s.byteAt a :=
  get_set_ne byteDefault ⟨s.mem⟩ v h

theorem tagAt_putTag_self (s : State) (pa : Nat) (t : Tag) (h : s.tags.sorted = true) : (s.putTag pa t).tagAt pa = t :=
  get_set_self tagDefault s.tags (pa / 4) t h

theorem tagAt_putTag_ne (s : State) {a pa : Nat} (t : Tag) (h : a / 4 ≠ pa / 4) : (s.putTag pa t).tagAt a = s.tagAt a :=
  get_set_ne tagDefault s.tags t h

theorem eccAt_putEcc_self (s : State) (pa : Nat) (e : Ecc) (h : s.ecc.sorted = true) : (s.putEcc pa e).eccAt pa = e :=
  get_set_self (fun _ => Ecc.clean) s.ecc (eccKey pa) e h

theorem eccAt_putEcc_ne (s : State) {a pa : Nat} (e : Ecc) (h : eccKey a ≠ eccKey pa) : (s.putEcc pa e).eccAt a = s.eccAt a :=
  get_set_ne (fun _ => Ecc.clean) s.ecc e h

@[simp] theorem byteAt_putTag (s : State) (a pa : Nat) (t : Tag) : (s.putTag pa t).byteAt a = s.byteAt a := rfl

@[simp] theorem byteAt_putEcc (s : State) (a pa : Nat) (e : Ecc) : (s.putEcc pa e).byteAt a = s.byteAt a := rfl

@[simp] theorem tagAt_putByte (s : State) (a pa : Nat) (v : Byte) : (s.putByte pa v).tagAt a = s.tagAt a := rfl

@[simp] theorem tagAt_putEcc (s : State) (a pa : Nat) (e : Ecc) : (s.putEcc pa e).tagAt a = s.tagAt a := rfl

@[simp] theorem wordAt_putTag (s : State) (a pa : Nat) (t : Tag) : (s.putTag pa t).wordAt a = s.wordAt a := rfl

@[simp] theorem wordAt_putEcc (s : State) (a pa : Nat) (e : Ecc) : (s.putEcc pa e).wordAt a = s.wordAt a := rfl

@[simp] theorem tagAt_putBytes4 (s : State) (a pa : Nat) (w : Word) : (s.putBytes4 pa w).tagAt a = s.tagAt a := rfl

/-! ## The canonical form -/

theorem wf_putByte (s : State) (pa : Nat) (v : Byte) (h : Memory.wf s.mem = true) : Memory.wf (s.putByte pa v).mem = true :=
  canonical_set byteDefault ⟨s.mem⟩ pa v h

theorem wf_putBytes4 (s : State) (pa : Nat) (w : Word) (h : Memory.wf s.mem = true) : Memory.wf (s.putBytes4 pa w).mem = true :=
  wf_putByte _ _ _ (wf_putByte _ _ _ (wf_putByte _ _ _ (wf_putByte _ _ _ h)))

/-- The four bytes of a word that was stored are read back. -/
theorem wordAt_putBytes4_self (s : State) (pa : Nat) (w : Word) (h : Memory.wf s.mem = true) : (s.putBytes4 pa w).wordAt pa = w := by
  have h1 := wf_putByte s pa (w.extractLsb' 0 8) h
  have h2 := wf_putByte _ (pa + 1) (w.extractLsb' 8 8) h1
  have h3 := wf_putByte _ (pa + 2) (w.extractLsb' 16 8) h2
  have b3 : (s.putBytes4 pa w).byteAt (pa + 3) = w.extractLsb' 24 8 := byteAt_putByte_self _ _ _ h3
  have b2 : (s.putBytes4 pa w).byteAt (pa + 2) = w.extractLsb' 16 8 :=
    (byteAt_putByte_ne _ _ (by omega)).trans (byteAt_putByte_self _ _ _ h2)
  have b1 : (s.putBytes4 pa w).byteAt (pa + 1) = w.extractLsb' 8 8 :=
    (byteAt_putByte_ne _ _ (by omega)).trans ((byteAt_putByte_ne _ _ (by omega)).trans (byteAt_putByte_self _ _ _ h1))
  have b0 : (s.putBytes4 pa w).byteAt pa = w.extractLsb' 0 8 :=
    (byteAt_putByte_ne _ _ (by omega)).trans ((byteAt_putByte_ne _ _ (by omega)).trans
      ((byteAt_putByte_ne _ _ (by omega)).trans (byteAt_putByte_self _ _ _ h)))
  simp only [State.wordAt, b0, b1, b2, b3]
  refine BitVec.eq_of_getElem_eq fun i hi => ?_
  simp only [BitVec.getElem_append, BitVec.getElem_extractLsb']
  split
  · simp [BitVec.getLsbD_eq_getElem, hi]
  · split
    · rename_i h1 h2
      simp only [BitVec.getLsbD_eq_getElem, hi, show 8 + (i - 8) = i by omega]
    · split
      · rename_i h1 h2 h3
        simp only [BitVec.getLsbD_eq_getElem, hi, show 16 + (i - 8 - 8) = i by omega]
      · rename_i h1 h2 h3
        simp only [BitVec.getLsbD_eq_getElem, hi, show 24 + (i - 8 - 8 - 8) = i by omega]

/-- A word that is stored leaves every byte outside its four. -/
theorem byteAt_putBytes4_ne (s : State) (pa : Nat) (w : Word) (a : Nat) (h : ¬(pa ≤ a ∧ a < pa + 4)) :
    (s.putBytes4 pa w).byteAt a = s.byteAt a := by
  simp only [State.putBytes4]
  rw [byteAt_putByte_ne _ _ (by omega), byteAt_putByte_ne _ _ (by omega), byteAt_putByte_ne _ _ (by omega),
    byteAt_putByte_ne _ _ (by omega)]

/-! ## Operations that leave memory and the code stores alone -/

/-- Memory, its tags, the code stores and their check bits are the same data. -/
def SameMem (s t : State) : Prop :=
  t.mem = s.mem ∧ t.tags = s.tags ∧ t.ecc = s.ecc ∧ t.code = s.code ∧ t.codeEcc = s.codeEcc

theorem SameMem.refl (s : State) : SameMem s s := ⟨rfl, rfl, rfl, rfl, rfl⟩

theorem SameMem.trans {s t u : State} (h : SameMem s t) (g : SameMem t u) : SameMem s u :=
  ⟨g.1.trans h.1, g.2.1.trans h.2.1, g.2.2.1.trans h.2.2.1, g.2.2.2.1.trans h.2.2.2.1, g.2.2.2.2.trans h.2.2.2.2⟩

/-- What does not touch memory keeps its form. -/
theorem SameMem.sound {s t : State} (h : SameMem s t) (g : Sound s) : Sound t := by
  obtain ⟨h1, h2, h3, h4, h5⟩ := h
  simpa only [Sound, h1, h2, h3, h4, h5] using g

theorem sameMem_setSource (s : State) (i : Fin 2048) (x : Source) : SameMem s (s.setSource i x) := ⟨rfl, rfl, rfl, rfl, rfl⟩

theorem sameMem_raise (s : State) (i : Fin 2048) : SameMem s (s.raise i) := by
  unfold State.raise
  split
  · exact ⟨rfl, rfl, rfl, rfl, rfl⟩
  · split
    · exact SameMem.trans ⟨rfl, rfl, rfl, rfl, rfl⟩ (sameMem_setSource _ i _)
    · exact sameMem_setSource s i _

theorem sameMem_raiseN (s : State) (n : Nat) : SameMem s (s.raiseN n) := by
  unfold State.raiseN
  split
  · exact sameMem_raise s _
  · exact SameMem.refl s

theorem sameMem_detect (s : State) (page d : Nat) (inj : Bool) : SameMem s (s.detect page d inj) := by
  unfold State.detect
  have h : ∀ f : Frame, SameMem s (s.setFrame page f) := fun _ => ⟨rfl, rfl, rfl, rfl, rfl⟩
  dsimp only
  split
  · split
    · exact (h _).trans (sameMem_raiseN _ _)
    · exact h _
  · exact h _

/-- An opportunity of a detector takes at most a waiting injection out of the list. -/
theorem takeInj_cases (s : State) (page d : Nat) (ok : Word → Bool) :
    (s.takeInj page d ok = (none, s)) ∨
    ∃ w r, takeWaiting page d ok s.inj.waiting = some (w, r) ∧
      s.takeInj page d ok = (some w, { s with inj := { s.inj with waiting := r } }) := by
  unfold State.takeInj
  split
  · rename_i w r h; exact .inr ⟨w, r, h, rfl⟩
  · exact .inl rfl

/-- With nothing waiting no injection acts. -/
@[simp] theorem takeInj_quiet (s : State) (page d : Nat) (ok : Word → Bool) (h : s.inj.waiting = []) :
    s.takeInj page d ok = (none, s) := by
  simp [State.takeInj, h, takeWaiting]

theorem sameMem_takeInj (s : State) (page d : Nat) (ok : Word → Bool) : SameMem s (s.takeInj page d ok).2 := by
  rcases takeInj_cases s page d ok with h | ⟨w, r, -, h⟩ <;> rw [h] <;> exact ⟨rfl, rfl, rfl, rfl, rfl⟩

theorem sameMem_nextGen (s : State) (g : Gen) : SameMem s (s.nextGen g).2 := by
  unfold State.nextGen
  rcases takeInj_cases s 0x007 2 (fun _ => true) with h | ⟨w, r, -, h⟩ <;> rw [h] <;> dsimp only
  · exact SameMem.refl s
  · split
    · exact SameMem.trans ⟨rfl, rfl, rfl, rfl, rfl⟩ (sameMem_detect _ _ _ _)
    · exact ⟨rfl, rfl, rfl, rfl, rfl⟩

theorem sameMem_advance (s : State) (t : Nat) : SameMem s (s.advance t) := ⟨rfl, rfl, rfl, rfl, rfl⟩

theorem sameMem_modCore (s : State) (k : Nat) (f : Core → Core) : SameMem s (s.modCore k f) := ⟨rfl, rfl, rfl, rfl, rfl⟩

/-! ## Operations on memory keep the form -/

theorem sound_putByte (s : State) (pa : Nat) (v : Byte) (h : Sound s) : Sound (s.putByte pa v) :=
  ⟨wf_putByte s pa v h.1, h.2⟩

theorem sound_putBytes4 (s : State) (pa : Nat) (w : Word) (h : Sound s) : Sound (s.putBytes4 pa w) :=
  ⟨wf_putBytes4 s pa w h.1, h.2⟩

theorem sound_putTag (s : State) (pa : Nat) (t : Tag) (h : Sound s) : Sound (s.putTag pa t) :=
  ⟨h.1, canonical_set tagDefault s.tags _ t h.2.1, h.2.2⟩

theorem sound_putEcc (s : State) (pa : Nat) (e : Ecc) (h : Sound s) : Sound (s.putEcc pa e) :=
  ⟨h.1, h.2.1, canonical_set (fun _ => Ecc.clean) s.ecc _ e h.2.2.1, h.2.2.2⟩

theorem sound_putCarve (s : State) (pa : Nat) (e : Ecc) (h : Sound s) : Sound (s.putCarve pa e) :=
  ⟨h.1, h.2.1, canonical_set (fun _ => Ecc.clean) s.ecc _ e h.2.2.1, h.2.2.2⟩

theorem sound_poison (s : State) (pa n : Nat) (h : Sound s) : Sound (s.poison pa n) := by
  induction n generalizing s pa with
  | zero => exact h
  | succ n ih => exact ih _ _ (sound_putEcc _ _ _ (sound_putTag _ _ _ h))

theorem sound_poisonTags (s : State) (pa n : Nat) (h : Sound s) : Sound (s.poisonTags pa n) := by
  induction n generalizing s pa with
  | zero => exact h
  | succ n ih => exact ih _ _ (sound_putTag _ _ _ h)

theorem sound_poisonFor (s : State) (pa : Nat) (h : Sound s) : Sound (s.poisonFor pa) := by
  unfold State.poisonFor
  split <;> exact sound_poison _ _ _ h

theorem sameMem_countBeat (s : State) (pa cls : Nat) : SameMem s (s.countBeat pa cls) := ⟨rfl, rfl, rfl, rfl, rfl⟩

theorem sound_checkCarve (s : State) (pa : Nat) (h : Sound s) : Sound (s.checkCarve pa) := by
  have h1 : ∀ n, Sound ((s.countBeat pa n).putCarve pa Ecc.clean) := fun n => sound_putCarve _ _ _ ((sameMem_countBeat s pa n).sound h)
  unfold State.checkCarve
  dsimp only
  split
  · exact h
  · split
    · exact (sameMem_detect _ _ _ _).sound (sound_poisonTags _ _ _ (h1 _))
    · exact h1 _

theorem sound_checkBits (s : State) (pa : Nat) (scrub : Bool) (h : Sound s) : Sound (s.checkBits pa scrub) := by
  unfold State.checkBits
  dsimp only
  split
  · exact h
  · have h1 : ∀ c : Cove, ∀ n, Sound (s.setCove n c) := fun _ _ => SameMem.sound ⟨rfl, rfl, rfl, rfl, rfl⟩ h
    have h2 : ∀ n, Sound (s.countBeat pa n) := fun n => (sameMem_countBeat s pa n).sound h
    have lost : ∀ s1 : State, Sound s1 → Sound (match eccDetector pa with
        | some (page, d, _) => (s1.poisonFor pa).detect page d (s.eccAt pa).inj
        | none => s1.poisonFor pa) := fun s1 g => by
      split
      · exact (sameMem_detect _ _ _ _).sound (sound_poisonFor _ _ g)
      · exact sound_poisonFor _ _ g
    cases region pa <;> dsimp only <;> split <;>
      first
        | exact lost _ (h1 _ _)
        | exact lost _ (h2 _)
        | exact lost _ h
        | (split <;> first | exact sound_putEcc _ _ _ (h1 _ _) | exact h1 _ _)
        | (split <;> exact sound_putEcc _ _ _ (h2 _))
        | (split <;> exact sound_putEcc _ _ _ h)

theorem sound_checkWord (s : State) (pa : Nat) (scrub : Bool) (h : Sound s) : Sound (s.checkWord pa scrub) := by
  unfold State.checkWord
  split
  · exact sound_checkCarve _ _ (sound_checkBits _ _ _ h)
  · exact sound_checkBits _ _ _ h

theorem sound_injectStore (s : State) (pa : Nat) (h : Sound s) : Sound (s.injectStore pa) := by
  unfold State.injectStore
  split
  · rename_i page d ok he
    rcases takeInj_cases s page d ok with hi | ⟨x, r, -, hi⟩ <;> rw [hi] <;> dsimp only
    · exact h
    · have h1 : Sound { s with inj := { s.inj with waiting := r } } := SameMem.sound ⟨rfl, rfl, rfl, rfl, rfl⟩ h
      split
      · exact sound_putCarve _ _ _ h1
      · exact sound_putEcc _ _ _ h1
  · exact h

theorem sound_putWord (s : State) (pa : Nat) (w : Word) (t : Tag) (h : Sound s) : Sound (s.putWord pa w t) := by
  have key : ∀ s0 : State, Sound s0 → Sound ((((s0.putBytes4 pa w).putTag pa t).putEcc pa Ecc.clean).injectStore pa) := fun s0 h0 =>
    sound_injectStore _ _ (sound_putEcc _ _ _ (sound_putTag _ _ _ (sound_putBytes4 _ _ _ h0)))
  unfold State.putWord
  apply key
  split
  · exact SameMem.sound ⟨rfl, rfl, rfl, rfl, rfl⟩ h
  · exact sound_checkWord _ _ _ h
  · exact h

theorem sound_putPair (s : State) (pa : Nat) (w0 w1 : Word) (t0 t1 : Tag) (h : Sound s) : Sound (s.putPair pa w0 w1 t0 t1) := by
  unfold State.putPair
  split
  · exact sound_injectStore _ _ (sound_putEcc _ _ _ (sound_putTag _ _ _ (sound_putTag _ _ _
      (sound_putBytes4 _ _ _ (sound_putBytes4 _ _ _ (sound_checkCarve _ _ h))))))
  · exact sound_putWord _ _ _ _ (sound_putWord _ _ _ _ h)

theorem sound_storeWord (s : State) (pa : Nat) (w : Word) (h : Sound s) : Sound (s.storeWord pa w) := by
  have h0 : Sound (if region pa = .ext then s.checkWord pa false else s) := by
    split
    · exact sound_checkWord _ _ _ h
    · exact h
  unfold State.storeWord
  dsimp only
  apply sound_putWord
  generalize (if region pa = .ext then s.checkWord pa false else s) = s0 at h0
  split
  · exact sound_putTag _ _ _ h0
  · exact h0

theorem sound_storeCap (s : State) (pa : Nat) (c : Cap) (h : Sound s) : Sound (s.storeCap pa c) := sound_putPair _ _ _ _ _ _ h

theorem sound_putParcel (s : State) (adr : Nat) (p : Parcel) (h : Sound s) : Sound (s.putParcel adr p) := by
  have key : Sound { s with
      code := s.code.set (fun _ => 0) (codeIndex adr) p
      codeEcc := s.codeEcc.set (fun _ => Ecc.clean) (codeIndex adr) Ecc.clean } :=
    ⟨h.1, h.2.1, h.2.2.1, canonical_set _ _ _ _ h.2.2.2.1, canonical_set _ _ _ _ h.2.2.2.2⟩
  unfold State.putParcel
  dsimp only
  rcases takeInj_cases { s with
      code := s.code.set (fun _ => 0) (codeIndex adr) p
      codeEcc := s.codeEcc.set (fun _ => Ecc.clean) (codeIndex adr) Ecc.clean }
    (covePage (codeIndex adr / 2 ^ 18)) 2 (fun w => decide (injKind w ≠ 5)) with hi | ⟨x, r, -, hi⟩ <;> rw [hi] <;> dsimp only
  · exact key
  · exact ⟨key.1, key.2.1, key.2.2.1, key.2.2.2.1, canonical_set _ _ _ _ key.2.2.2.2⟩

theorem sound_checkParcel (s : State) (adr : Nat) (scrub : Bool) (h : Sound s) : Sound (s.checkParcel adr scrub).2 := by
  unfold State.checkParcel
  dsimp only
  split
  · exact h
  · split
    · exact (sameMem_detect _ _ _ _).sound (SameMem.sound ⟨rfl, rfl, rfl, rfl, rfl⟩ h)
    · split
      · exact ⟨h.1, h.2.1, h.2.2.1, h.2.2.2.1, canonical_set _ _ _ _ h.2.2.2.2⟩
      · exact SameMem.sound ⟨rfl, rfl, rfl, rfl, rfl⟩ h

/-! ## The cluster caches keep the form -/

theorem sameMem_drawBelow (s : State) (n : Nat) : SameMem s (s.drawBelow n).2 := ⟨rfl, rfl, rfl, rfl, rfl⟩

theorem sound_writePairs (s : State) (pa : Nat) (l : CacheLine) (all : Bool) (n : Nat) (h : Sound s) :
    Sound (s.writePairs pa l all n) := by
  induction n generalizing s with
  | zero => exact h
  | succ n ih =>
    apply ih
    split
    · exact sound_putPair _ _ _ _ _ _ h
    · split
      · exact sound_putWord _ _ _ _ h
      · split
        · exact sound_putWord _ _ _ _ h
        · exact h

theorem sound_writeLine (s : State) (pa : Nat) (l : CacheLine) (h : Sound s) : Sound (s.writeLine pa l) := by
  unfold State.writeLine
  split
  · exact h
  · split
    · exact (sameMem_detect _ _ _ _).sound h
    · exact sound_writePairs _ _ _ _ _ ((sameMem_drawBelow s 2).sound h)

theorem sound_writeLines (s : State) (ls : List (Nat × CacheLine)) (h : Sound s) : Sound (s.writeLines ls) := by
  induction ls generalizing s with
  | nil => exact h
  | cons e r ih => exact ih _ (sound_writeLine _ _ _ h)

theorem sound_cacheClean (s : State) (n : Nat) (h : Sound s) : Sound (s.cacheClean n) :=
  SameMem.sound ⟨rfl, rfl, rfl, rfl, rfl⟩ (sound_writeLines _ _ h)

theorem sound_cacheFlush (s : State) (n : Nat) (h : Sound s) : Sound (s.cacheFlush n) :=
  SameMem.sound ⟨rfl, rfl, rfl, rfl, rfl⟩ (sound_writeLines _ _ h)

theorem sound_settleLine (s : State) (n pa : Nat) (h : Sound s) : Sound (s.settleLine n pa) := by
  unfold State.settleLine
  split
  · exact SameMem.sound ⟨rfl, rfl, rfl, rfl, rfl⟩ (sound_writeLine _ _ _ h)
  · exact h

theorem sound_makeRoom (s : State) (n : Nat) (h : Sound s) : Sound (s.makeRoom n) := by
  unfold State.makeRoom
  dsimp only
  split
  · exact SameMem.sound ⟨rfl, rfl, rfl, rfl, rfl⟩ (sound_writeLine _ _ _ ((sameMem_drawBelow s _).sound h))
  · exact (sameMem_drawBelow s _).sound h

theorem sound_checkBeats (s : State) (pa n : Nat) (h : Sound s) : Sound (s.checkBeats pa n) := by
  induction n generalizing s pa with
  | zero => exact h
  | succ n ih => exact ih _ _ (sound_checkWord _ _ _ h)

theorem sound_fetchLine (s : State) (n pa : Nat) (h : Sound s) : Sound (s.fetchLine n pa).2 := by
  unfold State.fetchLine
  split
  · exact h
  · exact SameMem.sound ⟨rfl, rfl, rfl, rfl, rfl⟩ (sound_checkBeats _ _ _ (sound_makeRoom _ _ h))

theorem sound_modLine (s : State) (n : Nat) (p : Place) (f : CacheLine → CacheLine) (h : Sound s) : Sound (s.modLine n p f) :=
  SameMem.sound ⟨rfl, rfl, rfl, rfl, rfl⟩ (sound_fetchLine s n p.pa h)

theorem sound_pastCache (s : State) (n : Nat) (p : Place) (h : Sound s) : Sound (s.pastCache n p) := by
  unfold State.pastCache
  split
  · exact h
  · exact sound_settleLine _ _ _ h

theorem sound_peek (s : State) (n : Nat) (p : Place) (h : Sound s) : Sound (s.peek n p).2 := by
  unfold State.peek
  dsimp only
  split
  · exact sound_fetchLine _ _ _ h
  · exact sound_checkWord _ _ _ (sound_pastCache _ _ _ h)

theorem sound_memStore (s : State) (n : Nat) (p : Place) (w : Word) (h : Sound s) : Sound (s.memStore n p w) := by
  unfold State.memStore
  split
  · exact sound_modLine _ _ _ _ h
  · exact sound_storeWord _ _ _ (sound_pastCache _ _ _ h)

theorem sound_memCap (s : State) (n : Nat) (p : Place) (c : Cap) (h : Sound s) : Sound (s.memCap n p c) := by
  unfold State.memCap
  dsimp only
  split
  · exact sound_modLine _ _ _ _ h
  · exact sound_storeCap _ _ _ (sound_pastCache _ _ _ h)

theorem sound_memUnwrite (s : State) (n : Nat) (p : Place) (h : Sound s) : Sound (s.memUnwrite n p) := by
  unfold State.memUnwrite
  split
  · exact sound_modLine _ _ _ _ h
  · exact sound_putPair _ _ _ _ _ _ (sound_pastCache _ _ _ h)

/-- Memory at reset has the form. -/
theorem reset_memory_wf : Memory.wf State.reset.mem = true := rfl

end Sys2Proof.Laws
end

