-- ==== Sys2Proof/Laws/Threads.lean ====
section
/-! SUPPORT. Threads: the contexts that banks hold, the slots of a core, and how an operation that only changes registers ends. -/

namespace Sys2Proof.Laws

open Sys2Proof.Machine

/-! ## Slots -/

@[simp] theorem slot_setSlot_self (c : Core) (sl : Fin 8) (x : Slot) : (c.setSlot sl x).slot sl = x := by
  simp [Core.slot, Core.setSlot]

theorem slot_setSlot (c : Core) (i sl : Fin 8) (x : Slot) : (c.setSlot sl x).slot i = if i = sl then x else c.slot i := by
  by_cases h : i = sl
  · subst h; simp
  · have : sl.val ≠ i.val := fun e => h (Fin.ext e.symm)
    simp [Core.slot, Core.setSlot, h, this]

@[simp] theorem slot_setCtx (c : Core) (i sl : Fin 8) (lv : Fin 3) (x : Ctx) : (c.setCtx sl lv x).slot i = c.slot i := rfl

@[simp] theorem ctx_setSlot (c : Core) (sl i : Fin 8) (lv : Fin 3) (x : Slot) : (c.setSlot sl x).ctx i lv = c.ctx i lv := rfl

/-! ## Contexts -/

/-- A context put where it is resident is found there, and every other context stays. -/
theorem findCtx_map (l : List (Option Bank)) (sl i : Fin 8) (lv j : Fin 3) (x : Ctx) :
    findCtx (l.map fun b => b.map (Bank.withCtx sl lv x)) i j =
      if i = sl ∧ j = lv then (findCtx l i j).map fun _ => x else findCtx l i j := by
  induction l with
  | nil => simp [findCtx]
  | cons b r ih =>
    cases b with
    | none => simpa [findCtx] using ih
    | some b =>
      by_cases hb : b.slot = sl ∧ b.level = lv
      · by_cases hi : i = sl ∧ j = lv
        · obtain ⟨rfl, rfl⟩ := hi; obtain ⟨h1, h2⟩ := hb
          simp [findCtx, Bank.withCtx, h1, h2]
        · obtain ⟨rfl, rfl⟩ := hb
          have h : ¬(b.slot = i ∧ b.level = j) := fun e => hi ⟨e.1.symm, e.2.symm⟩
          simp [findCtx, Bank.withCtx, h, hi, ih]
      · by_cases he : b.slot = i ∧ b.level = j
        · have hi : ¬(i = sl ∧ j = lv) := fun e => hb ⟨he.1.trans e.1, he.2.trans e.2⟩
          simp [findCtx, Bank.withCtx, he, hi]
        · simp [findCtx, Bank.withCtx, hb, he, ih]

theorem ctx_setCtx (c : Core) (sl i : Fin 8) (lv j : Fin 3) (x : Ctx) :
    (c.setCtx sl lv x).ctx i j = if i = sl ∧ j = lv then (c.ctx i j).map fun _ => x else c.ctx i j := by
  simp only [Core.ctx, Core.setCtx, Vector.toList_map]
  exact findCtx_map _ _ _ _ _ _

@[simp] theorem ctx_setCtx_self (c : Core) (sl : Fin 8) (lv : Fin 3) (x : Ctx) :
    (c.setCtx sl lv x).ctx sl lv = (c.ctx sl lv).map fun _ => x := by
  simp [ctx_setCtx]

/-- The resident top context of a thread is the one that was put. -/
@[simp] theorem topCtx_setTop (s : State) (th : ThreadId) (x : Ctx) :
    (s.setTop th x).topCtx th = (s.topCtx th).map fun _ => x := by
  simp [State.topCtx, State.setTop]

/-! ## Data registers -/

@[simp] theorem getD_setD_self (x : Ctx) (d : DReg) (v : Word) : (x.setD d v).getD d = v := by
  simp [Ctx.getD, Ctx.setD]

theorem getD_setD (x : Ctx) (i d : DReg) (v : Word) : (x.setD d v).getD i = if i = d then v else x.getD i := by
  by_cases h : i = d
  · subst h; simp
  · have : d.val ≠ i.val := fun e => h (Fin.ext e.symm)
    simp [Ctx.getD, Ctx.setD, h, this]

@[simp] theorem getC_setC_self (x : Ctx) (c : CReg) (v : Cap) : (x.setC c v).getC c = v := by
  simp [Ctx.getC, Ctx.setC]

theorem getC_setC (x : Ctx) (i c : CReg) (v : Cap) : (x.setC c v).getC i = if i = c then v else x.getC i := by
  by_cases h : i = c
  · subst h; simp
  · have : c.val ≠ i.val := fun e => h (Fin.ext e.symm)
    simp [Ctx.getC, Ctx.setC, h, this]

/-! ## Issue -/

/-- A thread that may issue has its top context resident. -/
theorem topCtx_of_ready {s : State} {th : ThreadId} {x : Ctx} (h : s.ready th = some x) : s.topCtx th = some x := by
  simp only [State.ready] at h
  split at h
  · exact h
  · simp at h

/-- A bank that issues keeps its context. -/
theorem findCtx_touch (l : List (Option Bank)) (p : Bank → Prop) [DecidablePred p] (n : Nat) (i : Fin 8) (j : Fin 3) :
    findCtx (l.map fun b => b.map fun v => if p v then { v with used := n } else v) i j = findCtx l i j := by
  induction l with
  | nil => rfl
  | cons b r ih =>
    cases b with
    | none => simpa [findCtx] using ih
    | some b => by_cases hp : p b <;> by_cases he : b.slot = i ∧ b.level = j <;> simp [findCtx, hp, he, ih]

@[simp] theorem ctx_touchBank (c : Core) (sl i : Fin 8) (lv : Fin 3) : (c.touchBank sl).ctx i lv = c.ctx i lv := by
  simp only [Core.ctx, Core.touchBank, Vector.toList_map]
  exact findCtx_touch _ _ _ _ _

@[simp] theorem slot_touchBank (c : Core) (sl i : Fin 8) : (c.touchBank sl).slot i = c.slot i := rfl

/-- The state in which a thread's operation runs: its bank has issued (R123). -/
def touched (s : State) (th : ThreadId) : State := s.modCore th.core fun c => c.touchBank th.slot

@[simp] theorem topCtx_touched (s : State) (th : ThreadId) : (touched s th).topCtx th = s.topCtx th := by
  simp [touched, State.topCtx]

/-- A thread that waits for no response keeps nothing of the context before its parcel. -/
theorem keepBefore_of_ready (s t : State) (th : ThreadId) (h : ((t.core th.core).slot th.slot).wait.answerable = false) :
    s.keepBefore t th = t := by
  simp [State.keepBefore, h]

/-- An operation that completes with registers changed: the thread's top context is the new one past the parcel. -/
theorem issue_done {s : State} {th : ThreadId} {x : Ctx} (i : Instr) (o : Operation) {t : State}
    (h : s.ready th = some x) (hg : (s.core th.core).accepts o.grp = true) (hs : o.sup = true → x.ts.m = true)
    (hr : o.run th (touched s th) = .done t) : s.issue th i o = (touched s th).keepBefore (t.stepOver th) th := by
  have ht : (touched s th).topCtx th = some x := (topCtx_touched s th).trans (topCtx_of_ready h)
  have hg' : ((touched s th).core th.core).accepts o.grp = true := by
    have hgs : ((touched s th).core th.core).arch.groups = (s.core th.core).arch.groups := by simp [touched, Core.touchBank]
    unfold Core.accepts at hg ⊢
    rw [hgs]
    exact hg
  have : o.checked th (touched s th) = .done t := by
    simp only [Operation.checked, ht, hg']
    cases hm : o.sup <;> cases hx : x.ts.m <;> simp_all
  simp only [State.issue, h]
  rw [show (s.modCore th.core fun c => c.touchBank th.slot) = touched s th from rfl, this]
  rfl

/-- An operation on registers only. -/
theorem regOp_done {s : State} {th : ThreadId} {x : Ctx} (f : Ctx → Ctx) (h : s.topCtx th = some x) :
    regOp f th s = .done (s.setTop th (f x)) := by
  simp [regOp, h]

/-- The end of a parcel moves PCC on by one and clears PROG.VALID in the top context. -/
theorem topCtx_stepOver (s : State) (th : ThreadId) :
    (s.stepOver th).topCtx th =
      (s.topCtx th).map fun x => { x with pcc := x.pcc.withCursor (x.pcc.w0 + 1), progValid := false } := by
  unfold State.stepOver
  cases h : s.topCtx th with
  | none =>
    simp only [State.topCtx] at h ⊢
    simp [State.modSlot, h]
  | some x =>
    have h' : (s.core th.core).ctx th.slot ((s.core th.core).slot th.slot).top = some x := h
    simp [State.topCtx, State.modSlot, State.setTop, h']

end Sys2Proof.Laws
end

