-- ==== Sys2Proof/WellFormed.lean ====
section
/-! DEFINITION. Which commands are well-formed: the operand values that the spec's rows admit. A command that is not is
still total in the model: it does what the spec says of the encoding or of the code that it spells. -/

namespace Sys2Proof

/-- A register that names a pair: R93 reserves the odd ones. -/
def evenReg (d : DReg) : Bool := decide (d.val % 2 = 0)

/-- A register that names four: R107 reserves those that are not a multiple of 4. -/
def fourReg (d : DReg) : Bool := decide (d.val % 4 = 0)

/-- A command code that its table does not define, where the table defines 1 to n: the rows of unknown commands. -/
def otherCode (n code : Nat) : Bool := decide (code = 0 ∨ n < code)

/-- A frame that the CAN controllers' standard allows (R287): up to 8 bytes, or 64 in CAN FD, which has no remote frames; an
identifier of 11 bits unless it is extended. -/
def CanFrame.wf (f : CanFrame) : Bool :=
  decide (f.data.length ≤ if f.fdf then 64 else 8) && !(f.fdf && f.rtr) && (f.ide || decide (f.ident.toNat < 2048))

/-- The command is one that its row describes. -/
def Instr.wf : Instr → Bool
  | .macL _ d .. => evenReg d
  | .msubL _ d .. => evenReg d
  | .tlbw _ _ r => fourReg r
  | .tlbr _ d _ => fourReg d
  | .tenCmdUnknown _ c => otherCode 5 c.toNat
  | .cmodeUnknown _ _ c => otherCode 3 c.toNat
  | .chCmdUnknown _ c _ => otherCode 2 c.toNat
  | .joiningTimeout _ p => decide (p.val ≠ 0)
  | .positionLeft _ p _ => decide (p.val ≠ 0)
  | .lcmdUnknown _ _ c _ => otherCode 6 c.toNat
  | .canFrameReceive _ f _ => f.wf
  | .pcieInboundWrite _ data _ _ _ => !data.isEmpty
  | .gdCmdUnknown _ c => otherCode 6 c.toNat
  | .issueTurn .. | .parcelFetch .. | .mov .. | .movs .. | .movi .. | .add .. | .addi .. | .sub .. | .adc .. | .sbc ..
  | .neg .. | .cmp .. | .cmpi .. | .and .. | .andi .. | .or .. | .ori .. | .xor .. | .xori .. | .andn .. | .tst ..
  | .tsti .. | .not .. | .min .. | .max .. | .minu .. | .maxu .. | .shl .. | .shr .. | .sar .. | .ror .. | .shli ..
  | .shri .. | .sari .. | .rori .. | .mul .. | .mulh .. | .mulhu .. | .mulq .. | .muli .. | .mac .. | .msub ..
  | .macQ .. | .msubQ .. | .div .. | .divu .. | .rem .. | .remu .. | .sqrt .. | .sqrtQ .. | .padd .. | .psub ..
  | .pdiff .. | .psin .. | .pcos .. | .pcvt .. | .pnow .. | .ldp .. | .sel .. | .b _ _ _ | .bl .. | .ldiLo ..
  | .ldiHi .. | .nop .. | .ldB .. | .ldBu .. | .ldH .. | .ldHu .. | .ldW .. | .stB .. | .stH .. | .stW .. | .ldC ..
  | .stC .. | .ldAcq .. | .stRel .. | .ldxB .. | .ldxBu .. | .ldxH .. | .ldxHu .. | .ldxW .. | .stxB .. | .stxH ..
  | .stxW .. | .ldWS .. | .stWS .. | .cas .. | .amoAdd .. | .escalationEntry .. | .accessResponse ..
  | .postedStoreError .. | .postedStoreDrain .. | .pld .. | .cmov .. | .cadd .. | .caddi .. | .csetc .. | .csetbnd ..
  | .csetbndX .. | .candr .. | .cspan .. | .cseal .. | .cunseal .. | .cgetC .. | .cgetB .. | .cgetLast .. | .cgetR ..
  | .cgetOt .. | .cgetTag .. | .cgetE .. | .cgran .. | .cpcc .. | .cmint .. | .hld .. | .hst .. | .sld .. | .sst ..
  | .tstat .. | .tstop .. | .tresume .. | .jr .. | .jrl .. | .gcall .. | .gret .. | .rfe .. | .trap .. | .sleep ..
  | .wake .. | .tmark .. | .waitTide .. | .waitTideR .. | .waitComplete .. | .mfs .. | .mts .. | .mfsc .. | .mtsc ..
  | .wheelWrite .. | .hold .. | .release .. | .releaseRun .. | .create .. | .discard .. | .bankSpill .. | .bankFill ..
  | .vectorBufferReload .. | .eventDispatch .. | .tlbiVa .. | .tlbiT .. | .tlbiAll .. | .tlbiReceive .. | .wld ..
  | .fenceL .. | .fenceM .. | .fenceIo .. | .fenceT .. | .fenceC .. | .fenceComplete .. | .movb .. | .fillb ..
  | .crcb .. | .tagz .. | .pstoreN .. | .scrubStep .. | .repairQueueRewrite .. | .mint .. | .start .. | .stop ..
  | .resume .. | .retire .. | .tenCmdComplete .. | .tenantCommandArrive .. | .tenPhysWrite .. | .tenUnwrittenRead ..
  | .checkpoint .. | .checkpointCommit .. | .rollback .. | .glitchAlarm .. | .restoreComplete .. | .replayCatchUp ..
  | .change .. | .rotate .. | .restart .. | .copyEnd .. | .selfTestSchedulePoint .. | .coreTestComplete ..
  | .sliceComplete .. | .bankTestComplete .. | .eventArrival .. | .coalesceTimeout .. | .evcSelect .. | .urgentEntry ..
  | .enSet .. | .enClr .. | .enClrEffect .. | .pendSet .. | .pendClr .. | .coalWrite .. | .evcBindWrite ..
  | .maskWrite .. | .enablePendingDirectWrite .. | .enablePendingAliasWrite .. | .evcClaimRead .. | .evcDoneWrite ..
  | .wakeLatchCatch .. | .wakeLatchClear .. | .wakeBallEdge .. | .tideMeasurement .. | .encoderReversal ..
  | .slackWaterEntry .. | .fallbackApply .. | .tsrcWrite .. | .entryPhaseWrite .. | .entryCtrlWrite ..
  | .entryArgWrite .. | .entryBindWrite .. | .entryFire .. | .entryDispatch .. | .entryStage .. | .commitPoint ..
  | .edgePlace .. | .forceWrite .. | .ocfgWrite .. | .ownWrite .. | .modulatorSample .. | .modClockLost ..
  | .mcfgWrite .. | .halt .. | .wcmdResume .. | .wcmdReset .. | .trigger .. | .waveProgWrite .. | .waveRxRead ..
  | .weHalt .. | .weSet .. | .weDir .. | .waitp .. | .waitpTimeout .. | .shx .. | .dly .. | .ldc .. | .djnz ..
  | .jmp .. | .jpin .. | .stamp .. | .tide .. | .push .. | .pull .. | .evt .. | .clr .. | .undertowPacket ..
  | .chStop .. | .flush .. | .chPoolWrite .. | .tcapWrite .. | .cbindWrite .. | .cctrlWrite .. | .tailWrite ..
  | .cxeWrite .. | .startWrite .. | .descriptorProcess .. | .descriptorComplete .. | .cycleStart .. | .freezePoint ..
  | .frameReturn .. | .frameDeadline .. | .linkUp .. | .linkDown .. | .lctrlWrite .. | .lperiodWrite .. | .bind ..
  | .unbind .. | .evict .. | .quarantine .. | .linkRelease .. | .keyclr .. | .akeyWrite .. | .ethernetFrameReceive ..
  | .ethernetFrameTransmit .. | .ethernetLinkChange .. | .ptpStepWrite .. | .ptpNsRead .. | .txtsRead ..
  | .ptpTargetTime .. | .canFrameTransmit .. | .canErrorStateChange .. | .busOffRecovery .. | .uartRecordEnd ..
  | .uartTransmit .. | .pcieInboundRead .. | .pcieMsiReceive .. | .pcieOutboundCompletion ..
  | .pcieCompletionTimeout .. | .pcieLinkDown .. | .pcieLinkUp .. | .xspiCommand .. | .xspiWindowRead ..
  | .i2cTransfer .. | .i2cClockTimeout .. | .smbalert .. | .memoryTrainingComplete .. | .bypass .. | .idcode ..
  | .samplePreload .. | .extest .. | .clamp .. | .highz .. | .hykiowReadWord .. | .hykiowWriteWord ..
  | .hykiowStatus .. | .profileWrite .. | .profileSwitch .. | .profileChangeComplete .. | .thermalForcedNeap ..
  | .ungate .. | .clkgate .. | .pwrgate .. | .gdHold .. | .unhold .. | .gdReset .. | .gatingComplete ..
  | .blkGateWrite .. | .enter .. | .standbyRestart .. | .arm .. | .disarm .. | .ebbTrigger .. | .ebbSeal ..
  | .ebbReturn .. | .epochCmd .. | .epochRebuild .. | .sysReset .. | .otpRollback .. | .otpRevoke .. | .otpBootcfg ..
  | .powerOnReset .. | .poreset .. | .watchdogExpiry .. | .watchdogHalf .. | .aonKick .. | .aonAlarm ..
  | .aonCntLoRead .. | .supplyWarning .. | .supplyGlitch .. | .clockMonitorAlarm .. | .tidePllLoss .. | .crystalLoss ..
  | .crystalLossTimeout .. | .thermalWarning .. | .bootRomRun .. | .bootRetry .. | .featAcceptWrite .. | .flock ..
  | .featureSetApply .. | .pageOwnWrite .. | .errStatusClear .. | .injHitClear .. | .errEventSet .. | .errEventClr ..
  | .injUnlock .. | .injLock .. | .injectionWindowExpiry .. | .injCtrlWrite .. | .injectionFire .. | .hykEnWrite ..
  | .counterRcRead .. | .registerWrite .. | .supplyReturn .. | .powerOff .. | .vddIo33Fall .. | .crystalReturn ..
  | .tidePllRelock .. | .thermalAlarmClear .. | .modClockReturn .. | .unsolicited .. => true

end Sys2Proof
end

