-- ==== Sys2Proof/Tests/Slice0.lean ====
section
/-! SUPPORT. The model's own tests: the refusals of the well-formedness check, small runs whose results the spec gives, and for
every statement that has hypotheses a concrete state and operands that meet them. -/

open Sys2Proof Sys2Proof.Machine Sys2Proof.Claims

namespace Sys2Proof.Tests

section

-- The tests are decided one after another, each in the kernel.
set_option Elab.async false

/-! ## A small device -/

/-- A data capability over the first 2 MiB of a tenant's space, with every right but X (Example 2.1's layout). -/
def dataCap (cursor : Word) : Cap := { w0 := cursor, w1 := 0x6001003B#32, tag := true }

/-- A code capability over cove 1's first 512 parcels. -/
def codeCap (cursor : Word) : Cap := { w0 := cursor, w1 := 0x00010004#32, tag := true }

/-- A space capability of space 5 over tides 0 to 15 with rights L and S. -/
def tideCap : Cap := { w0 := 0x00100000#32, w1 := 0xFA800003#32, tag := true }

/-- A thread's context in supervisor mode, at the first parcel of cove 1's code store. -/
def demoCtx : Ctx := { Ctx.fresh with
  d := #v[0, 1, 2, 3, 4, 5, 0x80000000#32, 0xFFFFFFFF#32, 0x7FFFFFFF#32, 0x10#32, 0x12345678#32, 0x1000#32, 12, 13, 14, 15]
  c := #v[dataCap 0x1000#32, codeCap 0x40010#32, Cap.null, Cap.null, Cap.null, Cap.null, Cap.null, codeCap 0x40020#32]
  pcc := codeCap 0x40000#32 }

/-- A TLB entry that maps the first 2 MiB to cove 1's SRAM, for every tenant, readable and writable (R156). -/
def demoTlb : TlbEntry := { w0 := 0, w1 := 0xE0002000#32, w2 := 0xD50000C3#32, w3 := 0, last := 0 }

/-- A core whose slot 1 runs a context; its private region is offsets 0x1000 to 0x10FFF of its cove's SRAM. -/
def coreWith (x : Ctx) : Core :=
  { Core.reset 8 with
    tm := { (Tidemark.reset 8) with priv := 0x00100001#32 }
    arch := { Arch.reset with
      slots := Arch.reset.slots.set 1 { Slot.fresh with st := .active }
      banks := Arch.reset.banks.set 1 (some { slot := 1, level := 0, used := 0, ctx := x })
      tlb := ⟨[(0, demoTlb)]⟩ } }

/-- The device running with a core in the place of logical core 8, which is a single core of cove 1. -/
def withCore (c : Core) : State := { State.reset with phase := .run, cores := ⟨[(8, c)]⟩ }

/-- The device running, with one thread on logical core 8. -/
def demoWith (x : Ctx) : State := withCore (coreWith x)

/-- The device running, with the demonstration thread. -/
def demo : State := demoWith demoCtx

/-- The demonstration thread. -/
def th : ThreadId := { core := 8, slot := 1 }

/-- Headland's agent on the demonstration thread. -/
def head : Agent := { ten := 0, core := 8, slot := 1 }

/-- The issuer of the demonstration thread. -/
def me : Issuer := issuerOf th demoCtx

/-- The device with a word of the demonstration thread's memory written: offset in the mapped 2 MiB. -/
def stored (off : Nat) (w : Word) : State := demo.putWord (0xE000200000 + off) w .written

/-- The result is a success of which the state and the value hold what is asked. -/
def okAnd {ε α : Type} (r : Except ε α × State) (p : α → State → Bool) : Bool :=
  match r with
  | (.ok a, s) => p a s
  | _ => false

/-- The outcome is a next state of which the property holds. -/
def nextAnd (r : Host.Outcome State Fault Refusal) (p : State → Bool) : Bool :=
  match r with
  | .next s => p s
  | _ => false

/-- The thread's top context is still the one at hand. -/
def keeps (s : State) : Bool := decide (s.topCtx th = some demoCtx)

/-! ## Well-formedness: each check refuses an ill-formed command -/

theorem test_wf_macL_odd : (Instr.macL th 3 1 2 false).wf = false ∧ (Instr.macL th 2 1 2 false).wf = true := by decide
theorem test_wf_msubL_odd : (Instr.msubL th 15 1 2 false).wf = false := by decide
theorem test_wf_tlbw_unaligned : (Instr.tlbw th 0 5).wf = false ∧ (Instr.tlbw th 0 4).wf = true := by decide
theorem test_wf_tlbr_unaligned : (Instr.tlbr th 2 0).wf = false := by decide
theorem test_wf_tenCmd_known : (Instr.tenCmdUnknown head 3).wf = false ∧ (Instr.tenCmdUnknown head 6).wf = true := by decide
theorem test_wf_chCmd_known : (Instr.chCmdUnknown head 2 0).wf = false ∧ (Instr.chCmdUnknown head 0 0).wf = true := by decide
theorem test_wf_cmode_known : (Instr.cmodeUnknown head 0 1).wf = false ∧ (Instr.cmodeUnknown head 0 4).wf = true := by decide
theorem test_wf_lcmd_known : (Instr.lcmdUnknown head 0 6 1).wf = false ∧ (Instr.lcmdUnknown head 0 7 1).wf = true := by decide
theorem test_wf_gdCmd_known : (Instr.gdCmdUnknown head 1).wf = false ∧ (Instr.gdCmdUnknown head 7).wf = true := by decide
theorem test_wf_joiningTimeout_zero : (Instr.joiningTimeout 0 0).wf = false := by decide
theorem test_wf_positionLeft_zero : (Instr.positionLeft 0 0 0).wf = false ∧ (Instr.positionLeft 0 30 0).wf = true := by decide
theorem test_wf_can_long : (CanFrame.mk 1 false false false false false (List.replicate 9 0) true).wf = false := by decide
theorem test_wf_can_ident : (CanFrame.mk 2048 true false false false false [] true).wf = false := by decide
theorem test_wf_can_frame : (Instr.canFrameReceive 0 (CanFrame.mk 2047 true false false false true [] true) 0).wf = false := by decide
theorem test_wf_pcie_empty : (Instr.pcieInboundWrite (.mem 2) [] false .good 0).wf = false ∧ (Instr.pcieInboundWrite (.mem 2) [0] false .good 0).wf = true := by
  decide

/-! ## The block: no word spells a command, and the front of the queue runs -/

theorem test_no_word_spells_a_command : decodeTableWord 29 0 = none := rfl
theorem test_step_idle : nextAnd (step State.reset) (fun t => decide (t = State.reset)) = true := by decide +kernel
theorem test_step_front :
    nextAnd (step { demo with pending := [.movi th 3 7, .nop th] })
      (fun t => decide (t.pending = [.nop th] ∧ (t.topCtx th).map (fun x => x.d[3]) = some 7)) = true := by decide +kernel

/-! ## Hypotheses that threads' operations meet -/

theorem witness_ready : demo.ready th = some demoCtx := by decide +kernel
theorem witness_accepted : ∀ g : Fin 4, (demo.core th.core).arch.groups.getLsbD g = true := by decide +kernel
theorem witness_division_by_nonzero : demoCtx.d[6] = 0x80000000#32 ∧ demoCtx.d[7] = 0xFFFFFFFF#32 ∧ demoCtx.d[7] ≠ 0 := by decide
theorem witness_tide_auth : (tideAuthCheck tideCap [0, 15]).toOption = some () := by decide +kernel

/-! ## Small runs -/

/-- The top context of the demonstration thread after a command. -/
def after (i : Instr) : Option Ctx :=
  match exec i demo with
  | .next t => t.topCtx th
  | _ => none

/-- A data register after a command. -/
def reg (i : Instr) (d : DReg) : Option Word := (after i).map fun x => x.d[d.val]

/-- FLG after a command. -/
def flags (i : Instr) : Option (BitVec 4) := (after i).map fun x => x.flg

-- R91, R74: 0x7FFF_FFFF + 1 overflows: N and V.
theorem test_add_overflows : reg (.add th 1 8 1 false) 1 = some 0x80000000#32 ∧ flags (.add th 1 8 1 false) = some 0b1001#4 := by decide +kernel
-- R74: equal operands leave no borrow: Z and C.
theorem test_cmp_equal : flags (.cmp th 3 3) = some 0b0110#4 := by decide +kernel
theorem test_sub_borrows : flags (.sub th 0 1 2 false) = some 0b1000#4 := by decide +kernel
theorem test_addi_nf_keeps_flags : flags (.addi th 1 8 1 true) = some 0#4 := by decide +kernel
theorem test_addi_sign_extends : reg (.addi th 1 3 0x1FFF#13 false) 1 = some 2 := by decide +kernel
theorem test_andi_zero_extends : reg (.andi th 1 7 0x1FFF#13 false) 1 = some 0x1FFF#32 := by decide +kernel
-- R92: bits 31 to 5 of the amount are ignored; C is the last bit out.
theorem test_shl_amount_low_bits : reg (.shl th 1 3 7 false) 1 = some 0x80000000#32 ∧ flags (.shl th 1 3 7 false) = some 0b1010#4 := by decide +kernel
theorem test_sari_sign : reg (.sari th 1 6 31 false) 1 = some 0xFFFFFFFF#32 := by decide +kernel
-- R94: the one overflow, and the sign of a remainder.
theorem test_div_overflow : reg (.div th 1 6 7) 1 = some 0x80000000#32 ∧ reg (.rem th 1 6 7) 1 = some 0 := by decide +kernel
theorem test_divu : reg (.divu th 1 7 9) 1 = some 0x0FFFFFFF#32 := by decide +kernel
-- R94: SQRT.Q of 2.0 less 2^-30 gives 0x5A82_7999.
theorem test_sqrtQ_of_two : reg (.sqrtQ th 1 8) 1 = some 0x5A827999#32 := by decide +kernel
theorem test_mulh_signs : reg (.mulh th 1 6 6 false) 1 = some 0x40000000#32 ∧ reg (.mulhu th 1 7 7 false) 1 = some 0xFFFFFFFE#32 := by decide +kernel
theorem test_ldi_pair : reg (.ldiHi th 10 0xABCD#16) 10 = some 0xABCD5678#32 := by decide +kernel
-- R24, R102: CGRAN of 5,000 is 8, of 0 is 1.
theorem test_cgran : reg (.cgran th 1 0) 1 = some 1 := by decide +kernel
theorem test_encode_example :
    decodeBounds { w0 := 0x00123456#32, w1 := 0x1D147E03#32, tag := true } = { base := 0x123450, top := 0x1247E0, repLo := 0x123450, repHi := 0x125450 } := by
  decide +kernel
theorem test_cget : reg (.cgetLast th 1 (.reg 0)) 1 = some 0x001FFFFF#32 ∧ reg (.cgetE th 1 0) 1 = some 12 := by decide +kernel
theorem test_b_taken : (after (.b th 14 5)).map (fun x => x.pcc.w0) = some 0x40005#32 := by decide +kernel
theorem test_bl_links : (after (.bl th 14 5)).map (fun x => (x.pcc.w0, x.c[7].w0)) = some (0x40005#32, 0x40001#32) := by decide +kernel

/-! ## Witnesses: accesses -/

/-- Mapped offset 0x1010 of the demonstration thread's memory holds a word; the thread's private region covers it. -/
def memory : State := (demo.putWord 0xE000201010 0x8899AABB#32 .written).storeCap 0xE000201020 (dataCap 0x40#32)

-- every size; the displacement at the word, and the last byte of the capability's bounds for the stores
theorem witness_loads : ∀ n : Fin 3, okAnd ((issuing memory th).dataLoad me (query demoCtx 0 0x10 (2 ^ n.val) loads)) (fun _ t => keeps t) = true := by
  decide +kernel
theorem witness_load_word : okAnd ((issuing memory th).dataLoad me (query demoCtx 0 0x10 4 loads)) (fun v _ => decide (v = 0x8899AABB#32)) = true := by
  decide +kernel
theorem witness_word_store_last :
    okAnd ((issuing memory th).wordStore me (query demoCtx 0 0x1FEFFC 4 stores) 7) (fun _ t => keeps t) = true := by decide +kernel
theorem witness_short :
    okAnd ((issuing memory th).dataLoad me { query { demoCtx with c := demoCtx.c.set 0 (dataCap 0x1004#32) } 0 12 4 loads with short := true })
      (fun v _ => decide (v = 0x8899AABB#32)) = true
    ∧ okAnd ((issuing memory th).wordStore me { query demoCtx 0 12 4 stores with short := true } 7) (fun _ t => keeps t) = true := by decide +kernel
theorem witness_sub_stores : ∀ n : Fin 2, okAnd ((issuing memory th).subStore me (query demoCtx 0 0x12 (2 ^ n.val) stores) 7) (fun _ t => keeps t) = true := by
  decide +kernel
theorem witness_cap_load :
    okAnd ((issuing memory th).capLoad me (query demoCtx 0 0x20 8 { loads with cap := true })) (fun v t => decide (v = dataCap 0x40#32) && keeps t) = true := by
  decide +kernel
theorem witness_cap_store :
    okAnd ((issuing memory th).capStore me { query demoCtx 0 0x20 8 { stores with cap := true } with val := some demoCtx.c[0] } demoCtx.c[0])
      (fun _ t => keeps t) = true := by decide +kernel
theorem witness_atomic :
    okAnd ((issuing memory th).atomic me (query { demoCtx with c := demoCtx.c.set 0 (dataCap 0x1010#32) } 0 0 4 { load := true, store := true, cap := false }) [1, 2]
      (fun old => if old = 0x8899AABB#32 then some 2 else none)) (fun w t => decide (w = 0x8899AABB#32) && keeps t) = true := by decide +kernel
theorem witness_pld :
    (pldCheck { codeCap 0x40010#32 with w1 := 0x00010005#32 } 0x1EF).toOption = some 0x401FF ∧ memory.replaying th.core = false
      ∧ memory.codeEccAt 0x401FF = Ecc.clean := by decide +kernel
theorem witness_private_place :
    (match (issuing memory th).locate me (query demoCtx 0 0x10 4 stores) with
      | (.ok p, t) => decide (p.pa = 0xE000201010 ∧ Memory.wf t.mem = true ∧ t.inPrivate 8 p.pa = true ∧ t.foreignPrivate (some 8) p.pa = false
          ∧ t.heldBack 8 p.pa = false ∧ t.eccAt p.pa = Ecc.clean ∧ (t.core 8).postedFull = false ∧ t.inj.waiting = [] ∧ t.tagAt p.pa = .written)
      | _ => false) = true := by decide +kernel

/-- The demonstration core with something in a slot's wait or in its posted queue. -/
def waiting (w : Wait) (p : List Posted) : State :=
  let c := coreWith demoCtx
  withCore ({ c with posted := p }.setSlot 1 { Slot.fresh with st := .active, wait := w })

theorem witness_awaits : (((waiting .access []).core 8).slot 1).wait = .access
    ∧ (((waiting (.event 2047) []).core 8).slot 1).wait = .event 2047 := by decide +kernel
theorem witness_posted_accepted :
    ((waiting .none [{ pa := 0xE000201000, kind := .accepted, inj := false, slot := 1, dev := false, data := [] }]).core 8).posted
      = [{ pa := 0xE000201000, kind := .accepted, inj := false, slot := 1, dev := false, data := [] }] := by decide +kernel
theorem witness_posted_refused : ∀ k ∈ [PostedKind.refused, .privRegion], (∀ a ∈ [(0xE000000000, 0), (0xE0001FFFFF, 0), (0xE001FFFFFF, 15)],
    region a.1 = .sram a.2 ∧ ((waiting .none [{ pa := a.1, kind := k, inj := false, slot := 1, dev := false, data := [] }]).core 8).posted
      = [{ pa := a.1, kind := k, inj := false, slot := 1, dev := false, data := [] }]) := by decide +kernel
theorem witness_clear_outstanding : (({ demo with sources := ⟨[(2047, { Source.reset with enClrAt := [0] })]⟩ }).source 2047).enClrAt ≠ [] ∧ (demo.source 2047).enClrAt = []
    ∧ (demo.source 2047).maskClr = [] := by decide +kernel

-- R43: a store makes its word Written; R45: a load of an Unwritten word faults.
theorem test_store_then_load :
    nextAnd (exec (.stW th 5 0 0x20) memory) (fun t => decide (t.wordAt 0xE000201020 = 5 ∧ t.tagAt 0xE000201020 = .written
      ∧ t.tagAt 0xE000201024 = .written)) = true := by decide +kernel
theorem test_load_sign_extends : nextAnd (exec (.ldB th 1 0 0x10) memory) (fun t => decide ((t.topCtx th).map (fun x => x.d[1]) = some 0xFFFFFFBB#32)) = true := by
  decide +kernel
theorem test_unwritten_load_faults :
    (match (issuing memory th).dataLoad me (query demoCtx 0 0x14 4 loads) with
      | (.error f, _) => decide (f.code = 0x05)
      | _ => false) = true := by decide +kernel
theorem test_misaligned_load_faults :
    (match (issuing memory th).dataLoad me (query demoCtx 0 0x12 4 loads) with
      | (.error f, _) => decide (f.code = 0x07)
      | _ => false) = true := by decide +kernel

/-! ## Witnesses: phases, transfers, derivations and handles -/

/-- The demonstration thread with other capabilities. -/
def withCap (n : CReg) (c : Cap) : Ctx := { demoCtx with c := demoCtx.c.set n.val c }

/-- A space capability of a space over numbers 0 to `limit` less 1, with rights L, S and G. -/
def spaceCap (space limit : Nat) : Cap := { w0 := BitVec.ofNat 32 (limit * 65536), w1 := BitVec.ofNat 32 (0xF8000023 + space * 2 ^ 23), tag := true }

theorem witness_branches : holds demoCtx 14 = true ∧ holds demoCtx 15 = false ∧ targetOk demoCtx.pcc 0x40000 1 = true
    ∧ targetOk demoCtx.pcc 0x401FF 1 = true := by decide +kernel
theorem witness_jump : (jumpCheck demoCtx.c[1] 1).toOption = some () := by decide +kernel
theorem witness_pnow_reg : fld (demoCtx.d[15]) 3 0 = 15 ∧ (demo.tide 15).st = .off := by decide +kernel
theorem witness_pcvt_forms : bit 0x1010#32 4 = true ∧ bit 0x1010#32 12 = true ∧ bit 0#32 4 = false ∧ bit 0#32 12 = false := by decide
theorem witness_tide_running : ({ demo with tides := ⟨[(3, { Tide.reset with st := .locked })]⟩ }.tide 3).st ≠ .off := by decide +kernel
theorem witness_modulo_lost :
    modLost 1 (dataCap 0x1000#32) 0x400000 = true ∧ modLost 1 (dataCap 0x1000#32) 0x1FF000 = false ∧ (moveCheck (dataCap 0)).toOption = some () := by
  decide +kernel
theorem witness_derivations :
    (capAdd 0 (dataCap 0x1000#32) 8 0).toOption.isSome ∧ (capSetC (dataCap 0x1000#32) 0x1FFFFF#32).toOption.isSome
      ∧ (capSetBnd false (dataCap 0x1000#32) 0x1FF000#32).toOption.isSome ∧ (capSetBnd true (dataCap 0x1000#32) 960#32).toOption.isSome
      ∧ (capAndR (dataCap 0) 3).toOption.isSome ∧ (capSpan (spaceCap 5 16) 0x00100010#32).toOption.isSome
      ∧ (capSeal { dataCap 0x1000#32 with w1 := 0x6001003B#32 } (spaceCap 0 16 |> fun c => { c with w0 := 0x00020001#32 })).toOption.isSome := by
  decide +kernel
theorem witness_unseal :
    (match capSeal (dataCap 0x1000#32) { w0 := 0x00020001#32, w1 := 0xF8000023#32, tag := true } with
      | .ok c => (capUnseal c { w0 := 0x00020001#32, w1 := 0xF8000023#32, tag := true }).toOption.isSome
      | .error _ => false) = true := by decide +kernel
theorem witness_mint :
    (mintCheck (spaceCap 1 4096) 4095).toOption = some () ∧ (mintCheck (spaceCap 2 512) 511).toOption = some ()
      ∧ (mintCheck (spaceCap 4 2048) 0).toOption = some () ∧ demo.objGen 1 4095 ≠ 0xFFFFF#20 := by decide +kernel
/-- A handle of event source 3 with every right, of generation 0. -/
def srcHandle : Cap := mkHandle 4 0 3 true true true

theorem witness_handle_read :
    (handleCheck (mkHandle 4 0 2047 true true true) fieldHandle false).toOption = some ()
      ∧ okAnd (((issuing demo th).asks 8 2047 [(mkHandle 4 0 2047 true true true).w0, 0x0B]).objRead (mkHandle 4 0 2047 true true true) 0x0B)
        (fun _ t => keeps t && decide (t.inj.waiting = [])) = true := by decide +kernel
theorem witness_space_read :
    (spaceCheck (spaceCap 5 16) 15).toOption = some ()
      ∧ okAnd (((issuing demo th).asks 8 15 [word 5, 15]).spaceRead 5 15 0x00) (fun _ t => keeps t && decide (t.inj.waiting = [])) = true := by
  decide +kernel
theorem witness_tenant_handle :
    (handleCheck (mkHandle 1 0 4095 true true true) (fun ot => decide (ot = 2)) true).toOption = some () ∧ (demo.tenant 4095).gen = 0 := by
  decide +kernel
/-- The state in which a write of a field of source 3 through its handle is performed. -/
def released (f : Nat) (v : Word) : State := (issuing demo th).logRelease 8 6 srcHandle.w0.toNat 0xF [word 5, word f, v]

theorem witness_handle_write :
    (handleCheck srcHandle fieldHandle true).toOption = some () ∧ srcHandle.otype = 5 ∧ srcHandle.hNum = 3
      ∧ okAnd ((released 1 1).objWrite 0 srcHandle 1 1) (fun _ t => keeps t && decide (t.inj.waiting = [])) = true
      ∧ okAnd ((released 5 0).objWrite 0 srcHandle 5 0) (fun _ t => keeps t) = true ∧ coalBarred demoCtx 0 = false := by decide +kernel
-- EN_CLR of an enabled source has not taken effect; a mask write that clears nothing leaves nothing to wait for
theorem witness_event_clear :
    okAnd ((released 2 1).objWrite 0 srcHandle 2 1) (fun _ t => keeps t && decide (t.inj.waiting = []) && !(t.source 3).enClrAt.isEmpty) = true
    ∧ okAnd ((released 10 0).objWrite 0 srcHandle 10 0) (fun _ t => keeps t && decide (t.inj.waiting = []) && (t.source 3).enClrAt.isEmpty
        && (t.source 3).maskClr.isEmpty) = true := by
  decide +kernel
/-- R312: the device area and the save image take no access; the software Cave begins at 0xE2_0070_0000. -/
theorem test_cave_areas :
    demo.storeRefused 0xE200000000 true false = true ∧ demo.taggedTarget 0xE2006FFFFC = false
      ∧ demo.storeRefused 0xE200700000 true false = false ∧ demo.taggedTarget 0xE200700000 = true := by decide +kernel
/-- R190, R191: LEVEL of an enabled output with FORCE 2, and with FORCE 3 and SAFE high. -/
theorem test_level_force :
    (State.reset.setOutput 24 { Output.reset with ocfg := 0x80000000#32, own := 1, force := 2 }).drivesSafe 24 = true
      ∧ ({ State.reset with phase := .run }.setOutput 24 { Output.reset with ocfg := 0x80000000#32, own := 1, force := 2 }).outLevel 24 = 5
      ∧ ({ State.reset with phase := .run }.setOutput 24 { Output.reset with ocfg := 0x80000000#32, own := 1, force := 3 }).outLevel 24 = 3 := by
  decide +kernel
theorem witness_space_write :
    okAnd (((issuing demo th).logRelease 8 7 15 0xF [word 5, word 1, 0x04C4B400#32]).spaceWrite 0 5 15 1 0x04C4B400#32) (fun _ t => keeps t && decide (t.inj.waiting = [])) = true := by
  decide +kernel
theorem witness_coal_write :
    coalBarred demoCtx 0xFFFFFFFF#32 = false
      ∧ ((((issuing demo th).logRelease 8 6 2047 0xF [5, 5, 0x02000000#32]).srcWrite 0 2047 5 0x02000000#32).toOption.map fun t =>
          keeps t && decide (t.inj.waiting = [])) = some true := by decide +kernel
theorem witness_table_busy :
    ({ demo with tenTable := { demo.tenTable with current := some { cmd := .mint, ten := 5, handle := none } } }.tenTable.current).isSome = true := by
  decide +kernel

/-! ## Witnesses: handlers, gates, sleeping and waiting -/

/-- A thread whose TVEC points at a table at offset 0x2000: c0, c6, RECORD, the fault entry, and the entry of TRAP 3. -/
def tableCtx : Ctx := { demoCtx with tvec := dataCap 0x2000#32 }

/-- The table in memory. -/
def tabled : State :=
  ((((((demoWith tableCtx).storeCap 0xE000202000 (dataCap 0x3000#32)).storeCap 0xE000202008 (dataCap 0x4000#32)).storeCap 0xE000202010
    (dataCap 0x5000#32)).storeCap 0xE000202018 (codeCap 0x40080#32)).storeCap 0xE000202058 (codeCap 0x40090#32))

/-- What EntryReady asks of the device's reads. -/
def entryReady (s : State) (x : Ctx) (kind n : Nat) (f : FaultInfo) : Bool :=
  let p := s.recordOf x kind n 0 f
  match p.2.readCaps (issuerOf th x) x.tvec [0, 8, 0x10, 0x18] with
  | (.ok l, s2) =>
    match s2.recordPlaces (issuerOf th x) (l.getD 2 Cap.null) (List.range 16) with
    | (.ok pas, s3) =>
      match s3.takeBank th.core with
      | (some b, s4) => decide (b < 12) && decide (((s4.deviceWords (issuerOf th x) (pas.zip p.1.toList)).core th.core).ctx th.slot 1 = none)
      | _ => false
    | _ => false
  | _ => false

theorem witness_entry_ready :
    entryReady (issuing tabled th) tableCtx 1 0 ((plainFault 0x18).ofParcel (tabled.parcelNow tableCtx) 0) = true := by decide +kernel
theorem witness_trap_ready :
    (match (issuing tabled th).capLoad (issuerOf th tableCtx) (devQuery tableCtx.tvec (0x40 + 8 * 3)) with
      | (.ok c, t) => c.tag && !c.sealed && c.rX && decide (t.topCtx th = some tableCtx)
          && entryReady t tableCtx 0 3 ((plainFault 0).ofParcel (tabled.parcelNow tableCtx) 0)
      | _ => false) = true := by decide +kernel
theorem witness_div_by_zero : tabled.ready th = some tableCtx ∧ tableCtx.ts.level = 0 ∧ tableCtx.d[0] = 0 := by decide +kernel
theorem witness_group_refused :
    let s := withCore { coreWith tableCtx with arch := { (coreWith tableCtx).arch with groups := 0xC#4 } }
    s.ready th = some tableCtx ∧ (s.core 8).arch.groups.getLsbD 1 = false ∧ (s.core 8).arch.groups.getLsbD 0 = false := by decide +kernel
theorem witness_user_mode : ({ tableCtx with ts := { tableCtx.ts with m := false } } : Ctx).ts.m = false := by decide

/-- The demonstration core with slot 1 waiting to escalate and ESC_STACK at a descriptor at offset 0x6000. -/
def escalating : State :=
  let c := (coreWith demoCtx).setEsc 1 0 (dataCap 0x6000#32)
  (((withCore (c.setSlot 1 { Slot.fresh with st := .active, wait := .escalate (plainFault 0x18) 0 1 })).storeCap 0xE000206000
    (codeCap 0x40080#32)).storeCap 0xE000206008 (dataCap 0#32)).storeCap 0xE000206010 (dataCap 8#32)

theorem witness_escalation :
    escalating.coreRuns 8 = true ∧ ((escalating.core 8).slot 1).st = .active ∧ escalating.topCtx th = some demoCtx
      ∧ (∀ j : Fin 8, j ≠ 1 → ((escalating.core 8).slot j).top ≠ 2 ∧ ((escalating.core 8).slot j).wait = .none)
      ∧ escOk ((escalating.core 8).esc 1 0) = true := by decide +kernel
theorem witness_escalation_reads :
    (let p := escalating.recordOf demoCtx 2 0 1 (plainFault 0x18)
     match p.2.ownCaps me [0x6000, 0x6008, 0x6010] with
     | (.ok l, s2) =>
       match s2.takeBank 8 with
       | (some b, s3) => decide (b < 12) && decide (((s3.deviceWords me (p.1.toList.mapIdx fun n w =>
           (ownPlace 8 (0x6000 + 0x20 + 4 * n), w))).core 8).ctx 1 2 = none) && decide (l.length = 3)
       | _ => false
     | _ => false) = true := by decide +kernel

/-- A handler context at level 1 above the demonstration context, both resident. -/
def handlerCtx : Ctx := { demoCtx with ts := { demoCtx.ts with level := 1 } }

/-- A core in which slot 1 is in its handler. -/
def handling : State :=
  let c := coreWith demoCtx
  withCore ({ c with arch := { c.arch with banks := c.arch.banks.set 2 (some { slot := 1, level := 1, used := 1, ctx := handlerCtx }) } }.setSlot 1
    { Slot.fresh with st := .active, top := 1 })

theorem witness_rfe :
    handling.ready th = some handlerCtx ∧ handlerCtx.ts.level ≠ 0 ∧ (jumpCheck handlerCtx.c[7] 1).toOption = some ()
      ∧ (handling.core 8).ctx 1 (handling.levelBelow th) = some demoCtx ∧ handling.levelBelow th ≠ ((handling.core 8).slot 1).top := by decide +kernel
theorem witness_no_tenant_stopped : ∀ n, (handling.tenant n).st ≠ .stopped := by
  intro n
  by_cases h : n = 0 <;> simp [handling, withCore, State.tenant, State.reset, Tbl.get, Tbl.empty, cellsFind, Tenant.reset, h]

/-- A sealed gate capability at offset 0x7000: OTYPE 1, rights L and LC over the first 2 MiB. -/
def gateCap : Cap := { w0 := 0x7000#32, w1 := 0x600800C9#32, tag := true }

/-- A thread about to cross: a gate in c2, an argument in c1, and a crossing stack at offset 0x8000. -/
def callerCtx : Ctx := { demoCtx with c := demoCtx.c.set 2 gateCap, xstk := dataCap 0x8000#32 }

/-- The gate's descriptor in memory: entry, data, stack, no TVEC, no tides, callee tenant 0, supervisor mode, no checks. -/
def gated : State :=
  ((((((((demoWith callerCtx).storeCap 0xE000207000 (codeCap 0x40100#32)).storeCap 0xE000207008 (dataCap 0x9000#32)).storeCap 0xE000207010
    (dataCap 0xA000#32)).storeCap 0xE000207018 Cap.null).storeCap 0xE000207020 Cap.null).storeWords 0xE000207028 (List.replicate 12 0))
    |>.putWord 0xE00020702C 1 .written)

theorem witness_gate_call :
    gated.ready th = some callerCtx ∧ (gateCheck callerCtx.c[2]).toOption = some () ∧ callerCtx.ts.xdepth.toNat < 64
      ∧ frameOk callerCtx.xstk callerCtx.xstk.w0.toNat = true
      ∧ okAnd ((issuing gated th).gateRead (issuerOf th callerCtx) 2 0x7000) (fun g t => decide (t.topCtx th = some callerCtx ∧ t.inj.waiting = []
          ∧ (t.core 8).tm.st = (gated.core 8).tm.st ∧ t.tagLive g.callee = true ∧ (t.tenant (tagTenant g.callee).toNat).st = .running
          ∧ firstFailing callerCtx 1 g.args = none)) = true := by decide +kernel

/-- The same thread inside the callee, with its frame at offset 0x8000. -/
def calleeCtx : Ctx := { demoCtx with xstk := dataCap 0x8040#32, ts := { demoCtx.ts with xdepth := 1 } }

/-- The frame in memory. -/
def crossed : State :=
  ((((((((demoWith calleeCtx).storeCap 0xE000208000 (codeCap 0x40001#32)).storeCap 0xE000208008 (dataCap 0#32)).storeCap 0xE000208010
    (dataCap 0#32)).storeCap 0xE000208018 Cap.null).storeCap 0xE000208020 Cap.null).storeCap 0xE000208028 Cap.null).storeWords 0xE000208030
    [0, 0, 0, 1])

theorem witness_gate_return :
    crossed.ready th = some calleeCtx ∧ calleeCtx.ts.xdepth ≠ 0 ∧ frameOk calleeCtx.xstk ((calleeCtx.xstk.w0.toNat : Int) - 64) = true
      ∧ okAnd ((issuing crossed th).frameAt (issuerOf th calleeCtx) 0x8000) (fun f t => decide (t.topCtx th = some calleeCtx ∧ t.inj.waiting = []
          ∧ (t.core 8).tm.st = (crossed.core 8).tm.st ∧ t.tagLive f.caller = true ∧ (t.tenant (tagTenant f.caller).toNat).st ≠ .stopped)) = true := by
  decide +kernel

/-- Slot 0 in its service at level 0, and a sleeper in slot 2 of the same tenant; slot 3 is active. -/
def busyCore : State :=
  let c := coreWith { demoCtx with d := demoCtx.d.set 1 2 }
  withCore ((({ c with
    arch := { c.arch with banks := ((c.arch.banks.set 0 (some { slot := 0, level := 0, used := 0, ctx := demoCtx })).set 2
      (some { slot := 2, level := 0, used := 0, ctx := demoCtx })).set 3 (some { slot := 3, level := 0, used := 0, ctx := demoCtx }) }
    served := some { src := 5, dispatched := true, claimed := true, urgent := false, word := 0 } }.setSlot 0 { Slot.fresh with st := .active }).setSlot 2
    { Slot.fresh with st := .sleeping }).setSlot 3 { Slot.fresh with st := .active })

theorem witness_event_sleep : busyCore.ready { core := 8, slot := 0 } = some demoCtx ∧ (busyCore.core 8).ctx 0 0 = some demoCtx
    ∧ (busyCore.core 8).served.isSome ∧ busyCore.inj.waiting = [] := by decide +kernel
-- the event slot above level 0
theorem witness_event_sleep_level1 :
    let s : State := busyCore.modCore 8 fun c => { c with arch := { c.arch with
      banks := c.arch.banks.set 4 (some { slot := 0, level := 1, used := 0, ctx := handlerCtx })
      slots := c.arch.slots.set 0 { Slot.fresh with st := .active, top := 1 } } }
    s.ready { core := 8, slot := 0 } = some handlerCtx ∧ (s.core 8).ctx 0 0 = some demoCtx ∧ ((s.core 8).slot 0).top ≠ 0 := by decide +kernel
-- with and without a pending wake
theorem witness_sleep_pending : ∀ b : Bool, let x : Ctx := { demoCtx with ts := { demoCtx.ts with wp := b } }
    (demoWith x).ready th = some x ∧ (demoWith x).levels 8 1 = [0] ∧ ((demoWith x).core 8).ctx 1 0 = some x := by decide +kernel
theorem witness_wake_sleeper :
    busyCore.ready th = some { demoCtx with d := demoCtx.d.set 1 2 } ∧ ((busyCore.core 8).slot 2).st = .sleeping ∧ busyCore.curOf 8 2 = demoCtx.cur
      ∧ (busyCore.anyCtx 8 2 ((busyCore.core 8).slot 2).top).ts.h = false := by decide +kernel
theorem witness_wake_others :
    ((busyCore.core 8).slot 4).st = .empty ∧ ((busyCore.core 8).slot 3).st = .active ∧ busyCore.curOf 8 3 = demoCtx.cur
      ∧ busyCore.levels 8 3 = [0] ∧ (busyCore.core 8).ctx 3 0 = some demoCtx := by decide +kernel
theorem witness_wake_foreign : ({ demoCtx with cur := 7 } : Ctx).cur ≠ busyCore.curOf 8 2 := by decide +kernel

/-- The demonstration thread in WAIT.TIDE for a target. -/
def tideWaiting (done : Bool) : State :=
  withCore ((coreWith demoCtx).setSlot 1 { Slot.fresh with st := .waiting, tideWait := some { tide := 15, target := 0x100#32, done := done } })

theorem witness_tide_wait :
    ((tideWaiting true).core 8).slot 1 = { Slot.fresh with st := .waiting, tideWait := some { tide := 15, target := 0x100#32, done := true } }
      ∧ ((tideWaiting false).tide 15).still = true ∧ (tideWaiting true).phase ≠ .standby ∧ ((tideWaiting true).core 8).tm.st = .run
      ∧ ((tideWaiting true).core 8).gated = false ∧ (tideWaiting true).inj.waiting = [] := by decide +kernel
theorem witness_tmark : demoCtx.ts.m = true ∧ (demo.core 8).tm.st = .run ∧ demo.inj.waiting = [] := by decide +kernel
theorem witness_tide_auth_of_thread : th.slot ≠ 0 ∧ (tideAuthCheck tideCap [demoCtx.d[15].toNat % 16]).toOption = some () := by decide +kernel
theorem witness_wheel_write : wheelSum 0x22222222#32 = 16 ∧ wheelSum 0x32222222#32 = 17 ∧ (demo.frame (corePage 8)).owner = demoCtx.cur := by
  decide +kernel
theorem witness_head_registers : demoCtx.ts.m = true ∧ demoCtx.cur = 0 ∧ ¬(th.slot = 0 ∧ bit demoCtx.d[2] 1 = true ∧ demoCtx.cur ≠ 0) := by decide

-- R104: SLEEP with a pending wake uses it up and goes on.
theorem test_sleep_sleeps : nextAnd (exec (.sleep th) demo) (fun t => decide (((t.core 8).slot 1).st = .sleeping)) = true := by decide +kernel
theorem test_division_by_zero_enters_level1 :
    nextAnd (exec (.div th 1 2 0) tabled) (fun t => decide (((t.core 8).slot 1).top = 1 ∧ (t.topCtx th).map (fun y => y.pcc.w0) = some 0x40080#32)) = true := by
  decide +kernel
theorem test_trap_returns_after : nextAnd (exec (.trap th 3) tabled) (fun t => decide ((t.topCtx th).map (fun y => (y.pcc.w0, y.c[7].w0))
    = some (0x40090#32, 0x40001#32))) = true := by decide +kernel
theorem test_rfe_drops_level : nextAnd (exec (.rfe th) handling) (fun t => decide (((t.core 8).slot 1).top = 0
    ∧ (t.topCtx th).map (fun y => y.pcc.w0) = some 0x40020#32)) = true := by decide +kernel
theorem test_gcall_crosses : nextAnd (exec (.gcall th 2) gated) (fun t => decide ((t.topCtx th).map (fun y => (y.pcc.w0, y.xstk.w0, y.ts.xdepth))
    = some (0x40100#32, 0x8040#32, 1#7))) = true := by decide +kernel
theorem test_gret_returns : nextAnd (exec (.gret th) crossed) (fun t => decide ((t.topCtx th).map (fun y => (y.pcc.w0, y.xstk.w0, y.ts.xdepth))
    = some (0x40001#32, 0x8000#32, 0#7))) = true := by decide +kernel

/-! ## Witnesses: banks, the wheel and the event slot -/

theorem witness_image_hypotheses : Memory.wf demo.mem = true ∧ demo.inj.waiting = [] := by decide +kernel
theorem witness_placement_bounds : wheelSum 0x00000000#32 = 0 ∧ wheelSum 0x44440000#32 = 16 := by decide
theorem witness_core_page_owner :
    (demo.frame (corePage 8)).owner = head.ten ∧ demo.pageCore 8 = some 8 ∧ demo.inj.waiting = [] ∧ (demo.core 8).arch.bankJob = none := by
  decide +kernel
theorem witness_hold : ((busyCore.core 8).slot 2).st = .sleeping ∧ (0 : Fin 3) ≤ ((busyCore.core 8).slot 2).top
    ∧ (busyCore.core 8).ctx 2 0 = some demoCtx := by decide +kernel

/-- Slot 1 held, what it was before, and its context resident. -/
def heldCore (prior : SlotState) : State := withCore ((coreWith demoCtx).setSlot 1 { Slot.fresh with st := .held, prior := prior })

theorem witness_release :
    ((heldCore .sleeping).core 8).slot 1 = { Slot.fresh with st := .held, prior := .sleeping } ∧ ¬((1 : Fin 8) = 0 ∧ ((heldCore .sleeping).core 8).slot 1 = Slot.fresh) := by
  decide +kernel
-- slot 0, at level 0 and above it
theorem witness_release_event : ∀ top : Fin 3,
    ((withCore ((coreWith demoCtx).setSlot 0 { Slot.fresh with st := .held, prior := .sleeping, top := top })).core 8).slot 0
      = { Slot.fresh with st := .held, prior := .sleeping, top := top } := by decide +kernel
theorem witness_release_run :
    (((heldCore .parked).core 8).slot 1).prior = .parked ∧ ((heldCore .parked).tenant ((heldCore .parked).curOf 8 1).toNat).st = .running := by
  decide +kernel
theorem witness_create : ((demo.core 8).slot 7).st = .empty := by decide +kernel

/-- A bank of slots 2 to 7, at levels 0 and 1, whose context issued the longer ago the higher its number is. -/
def bankOf (i : Fin 12) : Option Bank :=
  some { slot := ⟨2 + i.val % 6, by omega⟩, level := ⟨i.val / 6, by omega⟩, used := 20 - i.val, ctx := demoCtx }

/-- Every bank holds a context, and slot 1's is in none of them. -/
def fullBanks : State :=
  let c := coreWith demoCtx
  withCore { c with arch := { c.arch with banks := Vector.ofFn bankOf } }

/-- Slot 1's context only in its image, and every bank but the first free. -/
def imaged : State := ((demoWith demoCtx).modCore 8 fun c => { c with arch := { c.arch with banks := Vector.replicate 12 none } }).writeImage 8 1 0 demoCtx

theorem witness_spill :
    (fullBanks.core 8).needsFill 1 = true ∧ (fullBanks.core 8).freeBank = none
      ∧ ((fullBanks.core 8).victimBank.map fun q => q.1) = some 11 := by decide +kernel
theorem witness_fill :
    (imaged.core 8).needsFill 1 = true ∧ (imaged.core 8).freeBank = some 1 ∧ Memory.wf imaged.mem = true
      ∧ ((List.range 64).all fun n => decide (imaged.eccAt (imageAddr 8 1 0 + 4 * n) = Ecc.clean)
          && (decide (imaged.tagAt (imageAddr 8 1 0 + 4 * n) = .written) || decide (imaged.tagAt (imageAddr 8 1 0 + 4 * n) = .capability))) = true := by
  decide +kernel
theorem test_image_round_trip : imaged.imageCtx 8 1 0 = demoCtx := by decide +kernel

/-- Slot 0 asleep at its entry, and source 5 selected for core 8. -/
def delivering : State :=
  let c := coreWith demoCtx
  let s := withCore { (c.setSlot 0 { Slot.fresh with st := .sleeping }) with
    arch := { (c.setSlot 0 { Slot.fresh with st := .sleeping }).arch with
      banks := c.arch.banks.set 0 (some { slot := 0, level := 0, used := 0, ctx := { demoCtx with entry := codeCap 0x401F0#32 } }) }
    served := some { src := 5, dispatched := false, claimed := false, urgent := false, word := 0 } }
  { s with sources := ⟨[(5, { Source.reset with en := true, pend := true, svc := .delivered, mask := #v[0x100#32, 0, 0, 0] })]⟩ }

theorem witness_vector_reload :
    (delivering.core 8).vvalid = false ∧ (delivering.core 8).ctx 0 0 = some { demoCtx with entry := codeCap 0x401F0#32 }
      ∧ (∀ n : Fin 4, delivering.codeEccAt (0x401F0 + n.val) = Ecc.clean) := by decide +kernel
theorem witness_dispatch : ∀ b : Bool, let s := delivering.modCore 8 fun c => { c with vvalid := b }
    s.stillTarget 8 = true ∧ (s.core 8).vvalid = b ∧ (s.core 8).served.map (fun v => v.dispatched) = some false ∧ s.inj.waiting = [] := by decide +kernel

-- R115: equal shares alternate in slot order.
theorem test_placement_reset : placeShares 0x22222222#32 = resetOwners := by decide +kernel
theorem test_hold_refused_when_active :
    nextAnd (exec (.hold head 8 1 0) demo) (fun t => decide ((t.core 8).bankResult = 1)) = true := by decide +kernel

/-! ## Witnesses: translation, fences, block instructions, fetch and issue -/

theorem witness_tlbw : (demo.tlbwEntry 8 0 63 { w0 := 0x1000#32, w1 := 0xE0002010#32, w2 := 0x8C0000C3#32, w3 := 0 }).toOption.isSome := by
  decide +kernel
theorem witness_tlbr : (demo.core 8).indexOpen 0 63 = true := by decide +kernel
theorem witness_tlbi :
    (tlbiCheck (spaceCap 1 4096) (some 4095)).toOption = some () ∧ (tlbiCheck (spaceCap 1 4096) none).toOption = some ()
      ∧ demoCtx.d[0].setWidth 12 = demoCtx.cur := by decide +kernel

/-- An invalidation on its way to cores 0 and 8 and to the Churn. -/
def invalidating : State :=
  { demo with tlbis := [{ form := 2, va := 0, ten := 0, headland := true, core := 16, slot := 1, owing := [0, 8, notACore] }] }

theorem witness_tlbi_receive :
    (takeTlbi 8 invalidating.tlbis).isSome ∧ (takeTlbi notACore invalidating.tlbis).isSome ∧ invalidating.dropsTlb 8 = false
      ∧ (invalidating.core 8).tm.st = .run := by decide +kernel
theorem witness_walk : okAnd ((issuing (stored 0x1100 9) th).walk me 0xE000201100) (fun w t => decide (w = 9) && keeps t) = true := by decide +kernel
theorem witness_lookup :
    (capCheck (dataCap 0x1000#32) loads none).toOption = some () ∧ (formAddress 0 0 (dataCap 0x1000#32) 0 4).toOption = some 0x1000
      ∧ (demo.core 8).arch.tlb.sorted = true ∧ (demo.core 8).mpu me 0xE000201000 true false = none
      ∧ (demoTlb.words.permit true false).toOption = some () ∧ 8 ≤ fld demoTlb.w2 29 24 ∧ demoTlb.w1.toNat % 2 ^ (fld demoTlb.w2 29 24 - 8) = 0
      ∧ bit demoTlb.w2 31 = true ∧ 0x1000 / 2 ^ fld demoTlb.w2 29 24 = demoTlb.w0.toNat / 2 ^ fld demoTlb.w2 29 24 ∧ bit demoTlb.w2 30 = true := by
  decide +kernel
theorem witness_lookup_miss : ((withCore { coreWith demoCtx with arch := { (coreWith demoCtx).arch with tlb := ⟨[]⟩ } }).core 8).arch.tlb.sorted = true := by
  decide +kernel

/-- The demonstration core maps offsets of its memory to cove 1's register pages. -/
def pageTlb : TlbEntry := { demoTlb with w1 := 0xFE000000#32 }

-- an ordinary place, and a register page reached by a short operation
theorem witness_entry_used :
    (capCheck (dataCap 0x1000#32) loads none).toOption = some () ∧ (formAddress 0 0 (dataCap 0x1000#32) 0x10 4).toOption = some 0x1010
      ∧ (demo.core 8).lookup 0 0x1010 = some (0, demoTlb) ∧ (demoTlb.words.permit true false).toOption = some ()
      ∧ (demo.core 8).mpu me (demoTlb.words.pa 0x1010) true false = none ∧ ((demo.core 8).slot 1).given = [] ∧ demo.inj.waiting = [] := by
  decide +kernel
theorem witness_entry_page :
    let s := demo.modCore 8 fun c => c.setTlb 0 pageTlb
    (s.core 8).lookup 0 0x1010 = some (0, pageTlb) ∧ (pageTlb.words.permit true false).toOption = some ()
      ∧ (match region (pageTlb.words.pa 0x1010) with
        | .page _ => true
        | _ => false) = true ∧ (s.core 8).mpu me (pageTlb.words.pa 0x1010) true false = none ∧ (s.core 8).arch.tlb.sorted = true := by decide +kernel

theorem witness_fences : ∀ kind ∈ [FenceKind.l, .m, .io, .t, .c],
    (((waiting (.fence kind) []).core 8).slot 1).wait = .fence kind ∧ ((waiting (.fence kind) []).core 8).posted = []
      ∧ (waiting (.fence kind) []).evcOwes = false ∧ (waiting (.fence kind) []).tlbis = []
      ∧ (∀ n : Fin 16, (waiting (.fence kind) []).vectorOwed th n = false) := by decide +kernel
/-- A store of the demonstration thread that its target has yet to take. -/
def postedTo (pa : Nat) (dev : Bool) : Posted := { pa := pa, kind := .accepted, inj := false, slot := 1, dev := dev, data := [] }

-- FENCE.L and FENCE.IO pass a store of their own that they do not order; FENCE.IO and FENCE.M wait for one that they do
theorem witness_fences_posted :
    ((waiting (.fence .l) [postedTo 0xE000001000 false]).core 8).posted = [postedTo 0xE000001000 false] ∧ region 0xE000001000 ≠ .sram (th.core / 8)
      ∧ (postedTo 0xE000001000 false).device = false ∧ (postedTo 0xE000001000 true).device = true := by decide +kernel

/-- A context set up for block instructions: c0 at offset 0x1000, lengths in d9 (16) and d12 (12). -/
def blockQ (k n : Nat) (kind : AccessKind) : Query := blockQuery demoCtx 0 (n * k) n kind

theorem witness_block_lengths :
    demoCtx.c[0].w0.toNat % 8 = 0 ∧ demoCtx.d[12].toNat % 4 = 0 ∧ demoCtx.doneUnits < demoCtx.d[12].toNat / 4 ∧ demoCtx.d[9].toNat % 8 = 0
      ∧ demoCtx.doneUnits < demoCtx.d[9].toNat / 8 ∧ demoCtx.d[0].toNat = 0 := by decide +kernel
-- PROG of an earlier parcel counts for none
theorem witness_stale_prog :
    let x : Ctx := { demoCtx with progValid := true, progDone := 3 }
    let s := withCore ((coreWith x).setSlot 1 { Slot.fresh with st := .active, stale := true })
    s.ready th = some x ∧ ({ x with progValid := false } : Ctx).doneUnits = 0 ∧ x.doneUnits = 3 := by decide +kernel
theorem witness_fillb : okAnd (((issuing demo th).freshProg th).blockWord me (blockQ 0 4 stores) 7) (fun _ t => keeps t) = true := by decide +kernel
theorem witness_movb :
    okAnd (((issuing (stored 0x1000 9) th).freshProg th).dataLoad me (blockQ 0 4 loads)) (fun w t => okAnd (t.blockWord me (blockQ 0 4 stores) w) (fun _ u => keeps u)) = true := by
  decide +kernel
theorem witness_crcb :
    okAnd (((issuing (stored 0x1000 9) th).freshProg th).crcPlace me (blockQ 0 4 loads) 0x1000 0x1004 0x1000) (fun p t => !t.heldBack 8 p.pa
      && okAnd (t.groupLoad me p 4 false) (fun _ u => keeps u)) = true := by decide +kernel
theorem witness_tagz : okAnd (tagzUnit 0 th demoCtx 0 ((issuing demo th).freshProg th)) (fun _ t => keeps t) = true := by decide +kernel
theorem witness_tagz_private :
    (match memory.locate me (blockQuery demoCtx 0 0x10 8 stores) with
      | (.ok p, t) => decide (t.inPrivate 8 p.pa = true ∧ t.foreignPrivate (some 8) p.pa = false ∧ t.heldBack 8 p.pa = false ∧ t.eccAt p.pa = Ecc.clean
          ∧ Memory.wf t.mem = true ∧ t.tags.canonical tagDefault = true ∧ t.inj.waiting = []) && okAnd (tagzUnit 0 th demoCtx 2 memory) (fun _ _ => true)
      | _ => false) = true := by decide +kernel
theorem witness_pstore :
    (pstoreCheck { codeCap 0x40010#32 with w1 := 0x00010006#32 } 0x1F0).toOption = some ()
      ∧ okAnd (pstoreUnit 1 0 th { demoCtx with c := (demoCtx.c.set 1 { codeCap 0x40010#32 with w1 := 0x00010006#32 }) } 0
        ((issuing (stored 0x1000 9) th).freshProg th)) (fun _ t => keeps t)
        = true := by decide +kernel

/-- The parcel of ADDI d1, d2, 3 (R68, R91), built from the encoding's fields; slot 1 has fetched it, and owns position 2. -/
def fetched (bits : Parcel) : State :=
  withCore ({ coreWith demoCtx with cyc := 1 }.setSlot 1 { Slot.fresh with st := .active, buf := [{ adr := 0x40000, bits := bits, bad := false }] })

theorem witness_fetch :
    demo.executes 8 = true ∧ (demo.core 8).fetchSlot 1 = some (1, 0x40000, []) ∧ demo.codeEccAt 0x40000 = Ecc.clean := by decide +kernel
theorem witness_idle_turn :
    (withCore { coreWith demoCtx with cyc := 15 }).coreRuns 8 = true ∧ (15 : Nat) % 16 ≠ 0 ∧ demo.power.entering = false
      ∧ (∀ j, (withCore { coreWith demoCtx with cyc := 15 }).eligible 8 j = none) := by decide +kernel

/-! ## The parcels of Example 5.1, bit by bit -/

/-- The command of a long parcel. -/
def longOf (bits : Parcel) : Option Instr :=
  match decodeParcel th bits with
  | .long (some d) => some d.instr
  | _ => none

/-- The commands of a paired parcel. -/
def pairOf (bits : Parcel) : Option (Instr × Instr) :=
  match decodeParcel th bits with
  | .pair (some p) (some q) => some (p.instr, q.instr)
  | _ => none

theorem test_decode_ldi : longOf 0x0F064000#29 = some (.ldiLo th 3 0x4000) := by decide +kernel
theorem test_decode_ldw : longOf 0x0C888010#29 = some (.ldW th 4 2 16) := by decide +kernel
theorem test_decode_psin : longOf 0x00AA8004#29 = some (.psin th 5 4) := by decide +kernel
theorem test_decode_macQ : longOf 0x0070AC03#29 = some (.macQ th 8 5 6 false) := by decide +kernel
theorem test_decode_pair : pairOf 0x10AA04CE#29 = some (.add th 5 5 4 false, .sub th 6 6 7 false) := by decide +kernel
theorem test_decode_hst : longOf 0x028C6E02#29 = some (.hst th 3 7 6) := by decide +kernel
theorem test_decode_waitTide : longOf 0x0F458000#29 = some (.waitTide th 2 0x18000) := by decide +kernel
theorem test_decode_addi : longOf 0x08022003#29 = some (.addi th 1 1 3 false) := by decide +kernel
theorem witness_issue_addi :
    (fetched 0x08022003#29).power.entering = false ∧ (fetched 0x08022003#29).coreRuns 8 = true ∧ ((fetched 0x08022003#29).core 8).cyc % 16 ≠ 0 ∧ (fetched 0x08022003#29).inj.waiting = []
      ∧ (pickSlot ((fetched 0x08022003#29).core 8) fun j => ((fetched 0x08022003#29).eligible 8 j).isSome).slot = some 1
      ∧ ((fetched 0x08022003#29).eligible 8 1).isSome := by decide +kernel
theorem test_issue_turn_runs_addi :
    nextAnd (exec (.issueTurn 8 .agree 0) (fetched 0x08022003#29)) (fun t => decide ((t.topCtx th).map (fun y => (y.d[1], y.pcc.w0)) = some (4, 0x40001#32)
      ∧ (t.core 8).cyc = 2)) = true := by decide +kernel

-- Example 4.2: the ring of 768 bytes at 0x0012_4000, its cursor at offset 756.
theorem test_modulo_wraps :
    (formAddress 0x40#24 3 { w0 := 0x001242F4#32, w1 := 0x0001800B#32, tag := true } 12 4).toOption = some 0x00124000 := by
  decide +kernel

/-- The demonstration thread's parcel waits for PCIe. -/
def outside : State := waiting (.outside true [.ldW th 1 0 0x10]) []

theorem witness_outside :
    ((outside.core 8).slot 1).wait = .outside true [.ldW th 1 0 0x10] ∧ ((outside.core 8).slot 1).answers = [] ∧ outside.topCtx th = some demoCtx := by
  decide +kernel
theorem witness_outside_answers :
    (let s := { outside with pcie := { Pcie.reset with up := true } }
     let s1 := (s.modCore 8 fun c => c.setTlb 0 { demoTlb with w0 := 0, w1 := 0xE8000000#32, w2 := 0xDC0000C3#32 }).modSlot 8 1
       fun y => { y with wait := .none, answers := [.data 77] }
     okAnd (s1.dataLoad me (query demoCtx 0 0x10 4 loads)) fun w t => decide (w = 77) && keeps t) = true := by decide +kernel

-- the answer finds that its entry has been invalidated meanwhile (R164)
theorem witness_outside_error :
    (let x : Ctx := { tableCtx with c := tableCtx.c.set 1 (dataCap 0x1FF000#32) }
     let s := ((tabled.modCore 8 fun c => c.setTlb 0 { demoTlb with w2 := 0xD40000C3#32 }).setTop th x).modSlot 8 1 fun y =>
       { y with wait := .outside true [.ldW th 1 1 0x10] }
     let s1 := s.modSlot 8 1 fun y => { y with wait := .none, answers := [.error] }
     match s1.dataLoad (issuerOf th x) (query x 1 0x10 4 loads) with
     | (.ok _, _) => false
     | (.error f, t) => decide (f.code < 64 ∧ s.topCtx th = some x ∧ t.topCtx th = some x ∧ x.ts.pf = false ∧ x.ts.level = 0)
         && entryReady t x 1 0 (f.ofParcel (s.waitingParcel th x) 0)) = true := by decide +kernel
/-! ## Witnesses: the tenant table -/

/-- Tenant 5 selected, in a state. -/
def selecting (st : TenantState) : State :=
  { demo with tenTable := { demo.tenTable with sel := 5 }, tenants := ⟨[(5, { Tenant.reset 5 with st := st })]⟩ }

theorem witness_table_idle :
    (selecting .free).inj.waiting = [] ∧ ((selecting .free).frame tenPage).owner = head.ten ∧ (selecting .free).tenTable.current = none
      ∧ (selecting .free).tenTable.held = [] ∧ (selecting .free).tenTable.result ≠ 1 ∧ (selecting .free).tenTable.sel ≠ 0
      ∧ demo.tenTable.sel = 0 := by decide +kernel
theorem witness_table_states : ∀ st, ((selecting st).tenant (selecting st).tenTable.sel.toNat).st = st := by
  intro st; cases st <;> decide +kernel
theorem witness_table_generation : ((selecting .free).tenant 5).gen ≠ 0xFFFFF#20 := by decide +kernel
-- TEN_PHYS of a row that is BUILDING or STOPPED, by the page's owner
theorem witness_phys_write : ∀ st ∈ [TenantState.building, .stopped], (selecting st).inj.waiting = [] ∧ ((selecting st).frame tenPage).owner = head.ten
    ∧ (selecting st).tenTable.result ≠ 1 ∧ ((selecting st).tenant 5).st = st := by decide +kernel
theorem witness_unknown_codes : 5 < (6#4).toNat ∧ (0#4) = 0 := by decide

/-- A command on tenant 5 in progress. -/
def finishing (cmd : TenCmd) (st : TenantState) : State :=
  { selecting st with tenTable := { (selecting st).tenTable with current := some { cmd := cmd, ten := 5, handle := none }, result := 1 } }

theorem witness_table_finishing : (finishing .stop .stopped).tenUnfinished 5 = false ∧ (finishing .retire .retiring).tenUnfinished 5 = false
    ∧ (finishing .mint .building).tenTable.held = [] := by decide +kernel
theorem witness_stop_arrives :
    ((demo.modCore 8 fun c => { c with arrivals := [{ ten := 0, stop := true }] }).core 8).arrivals = [{ ten := 0, stop := true }]
      ∧ demo.phase ≠ .standby ∧ (demo.core 8).tm.st = .run ∧ (demo.core 8).gated = false ∧ ((demo.core 8).slot 1).st = .active
      ∧ ((demo.core 8).slot 1).awaitsLevel2 = false ∧ (demo.core 8).ctx 1 0 = some demoCtx
      ∧ demoCtx.cur = 0 := by decide +kernel

theorem test_stop_in_wrong_state_refused :
    nextAnd (exec (.stop head) (selecting .free)) (fun t => decide (t.tenTable.result = 2 ∧ t.tenTable.reason = 1)) = true := by decide +kernel
theorem test_retire_advances_generation :
    nextAnd (exec (.retire head) (selecting .stopped)) (fun t => decide ((t.tenant 5).gen = 1 ∧ (t.tenant 5).st = .retiring)) = true := by decide +kernel

/-! ## Witnesses: the Tidemark and the cove modes -/

/-- The demonstration core with its Tidemark in a state. -/
def marked (st : TmState) : State := demo.modCore 8 fun c => { c with tm := { c.tm with st := st, shadow := some c.arch, pending := some c.arch } }

theorem witness_checkpoint : demo.inj.waiting = [] ∧ demo.coreRuns 8 = true ∧ (demo.core 8).tm.st = .run := by decide +kernel
theorem witness_commit :
    ((marked .commit).core 8).tm.st = .commit ∧ ((marked .commit).cove 1).toSplit = [] ∧ ((marked .commit).cove 1).fenced = []
      ∧ ((marked .commit).cove 1).copies = [] := by decide +kernel
theorem witness_may_roll : ∀ j : Fin 8, demo.isLeader (8 + j.val) = true ∧ (demo.core (8 + j.val)).lost = false
    ∧ (demo.core (8 + j.val)).tm.st = .run ∧ (demo.core (8 + j.val)).tm.lastCause ≠ 3 := by decide +kernel
theorem witness_leaders : demo.leaders 1 = [8, 9, 10, 11, 12, 13, 14, 15] ∧ demo.leaders 0 = [0, 3] := by decide +kernel
theorem witness_restore :
    ((marked .restore).core 8).tm.st = .restore ∧ ((marked .restore).undoAll 8 ((marked .restore).core 8).tm.log.reverse ((marked .restore).core 8).tm.written).1
      = true ∧ ((marked .restore).core 8).tm.shadow.isSome ∧ ((marked .restore).core 8).tm.extra = [] := by decide +kernel
theorem witness_replay_ends :
    ((marked .replay).core 8).tm.goal ≤ ((marked .replay).core 8).tm.pos ∧ ((marked .replay).core 8).tm.inputs = [] ∧ (marked .replay).heldWakes = [] := by
  decide +kernel

theorem witness_mode_open : demo.inj.waiting = [] ∧ head.ten = 0 ∧ (demo.cove 2).busy = false ∧ (demo.gate 2).st = .on ∧ (demo.cove 2).mode = .split := by
  decide +kernel
theorem witness_change_quiet :
    ((modeGroups (modeOfCode 3)).flatMap (·.2) ++ modeSpares (modeOfCode 3)).all (fun c => demo.quiet (8 * 2 + c.val)) = true := by decide +kernel
theorem witness_leave_triple : (demo.cove 0).mode = .triple ∧ demo.leaders 0 ≠ [] := by decide +kernel
theorem witness_rotate : (demo.memberLeader 0 1).isSome ∧ (demo.cove 0).freeSpare.isSome := by decide +kernel

/-- Cove 0 with a core's role replaced. -/
def rolled (i : Fin 8) (r : Role) : State := demo.modCove 0 fun c => { c with role := c.role.set i.val r }

theorem witness_restart_failed : ((rolled 7 .failed).cove 0).role[7] = .failed ∧ ((rolled 7 .failed).cove 0).mode ≠ .split ∧ (0x80#8).getLsbD 7 = true := by
  decide +kernel
theorem witness_restart_lost :
    (let s := (demo.modCove 2 fun c => { c with role := c.role.set 3 .lost }).modCore 19 fun c => { c with lost := true }
     decide ((s.cove 2).role[3] = .lost ∧ (s.cove 2).mode = .split ∧ (s.core 19).lost = true)) = true := by decide +kernel
theorem witness_copy_end :
    (let s := demo.modCove 2 fun c => { c with copies := [CopyJob.mk 0 [1, 2] none true], mode := .triple, busy := true }
     decide ((s.cove 2).copies = [CopyJob.mk 0 [1, 2] none true] ∧ (0 : Fin 8) ∉ ([1, 2] : List (Fin 8)) ∧ (s.cove 2).trial = [] ∧ (s.cove 2).toSplit = [])) = true := by
  decide +kernel

/-- Cove 2's self-test enabled on a running tide, one turn from its slice. -/
def testing : State :=
  { demo.modCove 2 fun c => { c with stestCtrl := 0x83020000#32, turnsSince := 1 } with
    tides := ⟨[(3, { Tide.reset with st := .locked, tsrc := 0x90000000#32, p := -1, w := 65536 })]⟩, now := 1 }

theorem witness_self_test :
    bit (testing.cove 2).stestCtrl 31 = true ∧ fld (testing.cove 2).stestPhase 23 0 = 0
      ∧ floorDiv (floorDiv (testing.phaseAt 3 0) (2 ^ 32)) (2 ^ 24) < floorDiv (floorDiv (testing.phaseAt 3 1) (2 ^ 32)) (2 ^ 24)
      ∧ (testing.tide 3).still = false ∧ (testing.cove 2).busy = false
      ∧ max (fld (testing.cove 2).stestCtrl 23 16) 1 ≤ (testing.cove 2).turnsSince + 1 ∧ (testing.cove 2).step = .none ∧ (testing.cove 2).bankTest = none
      ∧ (testing.cove 2).freeSpare = none ∧ (testing.nextGroup 2 (testing.cove 2).stestNext).isSome ∧ bit (testing.cove 2).stestCtrl 30 = false := by
  decide +kernel
theorem witness_test_ends :
    (let s := demo.modCove 0 fun c => { c with role := c.role.set 6 .test, step := .core 6, bankTest := some 15 }
     decide ((∀ j : Fin 8, (s.core j.val).tm.st ≠ .stopped) ∧ (s.cove 0).role[6] = .test ∧ (s.cove 0).coreMap[6] = 6
       ∧ (∀ j : Fin 8, j ≠ 6 → (s.cove 0).coreMap[j.val] ≠ 6) ∧ (s.cove 0).bankTest = some 15)) = true := by decide +kernel

theorem test_checkpoint_starts :
    nextAnd (exec (.checkpoint 8) demo) (fun t => decide ((t.core 8).tm.st = .commit ∧ (t.core 8).tm.seq = 1)) = true := by decide +kernel
theorem test_change_to_own_mode_refused :
    nextAnd (exec (.change head 2 0) demo) (fun t => decide ((t.cove 2).result = 1 ∧ (t.cove 2).reason = 2)) = true := by decide +kernel

/-! ## Witnesses: the event controller -/

/-- A source in a state of its own. -/
def sourced (i : Nat) (x : Source) : State := { demo with sources := ⟨[(i, x)]⟩ }

theorem witness_sources : demo.inj.waiting = [] ∧ demo.phase ≠ .standby ∧ raisedSource 2047 = true ∧ raisedSource 511 = false
    ∧ (demo.source 2047).maskClr = [] ∧ (demo.source 2047).pendClrAt = none ∧ fld 0x00050000#32 27 16 ≠ fld (demo.source 2047).bind 27 16 := by decide +kernel
theorem witness_coalesce :
    (let x : Source := { Source.reset with count := 1, coal := 0x01000001#32, coalAt := some (0, 0x01000001#32, 0) }
     x.coalElapsed ((sourced 3 x).advance 100000)) = true := by decide +kernel
theorem witness_en_clear :
    (let s := sourced 3 { Source.reset with enClrAt := [0] }
     decide ((s.source 3).enClrAt = [0] ∧ (s.source 3).maskClr = [] ∧ 0 + 6 * (s.advance 72).evcTicks ≤ (s.advance 72).now)) = true := by decide +kernel
theorem witness_event_page : (demo.frame evcPage).owner = head.ten := by decide +kernel
theorem witness_wake_catch :
    (let s := { demo with phase := .standby, evc := { demo.evc with wakeEn := 0x8000000000000000#64 } }
     decide (s.phase = .standby ∧ s.evc.wakeEn.getLsbD 63 = true)) = true := by decide +kernel

/-- Source 5 selectable for core 8, whose event slot sleeps. -/
def selectable : State :=
  let c := (coreWith demoCtx).setSlot 0 { Slot.fresh with st := .sleeping }
  let s := withCore (c.putBank 0 (some { slot := 0, level := 0, used := 0, ctx := demoCtx }))
  { s with sources := ⟨[(5, { Source.reset with en := true, pend := true, count := 1, mask := #v[0x100#32, 0, 0, 0], selAt := some 0 })]⟩ }

theorem witness_select :
    selectable.phase = .run ∧ selectable.selectOrder.head? = some 5 ∧ (selectable.selectOrder.drop 1).all (fun j => !(selectable.source j).selectable) = true
      ∧ (selectable.source 5).selectable = true ∧ selectable.pickTarget (selectable.source 5) [] = some 8 := by decide +kernel
theorem witness_urgent :
    (selectable.advance 720001).liveTarget (selectable.source 5) = true ∧ (selectable.source 5).urgent = false ∧ (selectable.source 5).waited = none ∧ fld (selectable.source 5).age 15 0 ≠ 0
      ∧ (selectable.source 5).selAt = some 0 ∧ fld (selectable.source 5).age 15 0 * 7200 < (selectable.advance 720001).now - 0 := by decide +kernel
-- a claim with no arrival in its own EVC cycle, and with one
theorem witness_claim_fresh :
    (selectable.source 5).fresh = none ∧ (let x : Source := { Source.reset with count := 3, fresh := some { tick := 0, count := 2, sat := false, n := 1 } }
      decide (((sourced 5 x).source 5).fresh.map (fun f => (f.tick, f.n)) = some (0, 1) ∧ (sourced 5 x).now / (sourced 5 x).evcTicks = 0)) = true := by decide +kernel
theorem witness_claim :
    busyCore.isEventSlot { ten := 0, core := 8, slot := 0 } 8 = true ∧ (busyCore.core 8).served.isSome
      ∧ (busyCore.frame (eventPage 8)).owner = 0 := by decide +kernel

-- R226: an arrival that finds COUNT at 255 sets SAT, and leaves it there.
theorem test_arrival_saturates :
    nextAnd (exec (.eventArrival 3 0) (sourced 3 { Source.reset with count := 255 })) (fun t => decide ((t.source 3).sat = true ∧ (t.source 3).count = 255)) = true := by
  decide +kernel
theorem test_arrival_to_255_does_not_saturate :
    nextAnd (exec (.eventArrival 3 0) (sourced 3 { Source.reset with count := 254 })) (fun t => decide ((t.source 3).sat = false ∧ (t.source 3).count = 255)) = true := by
  decide +kernel
theorem test_select_delivers :
    nextAnd (exec (.evcSelect 0) selectable) (fun t => decide ((t.source 5).svc = .delivered ∧ (t.source 5).last = 8)) = true := by decide +kernel

/-! ## Witnesses: the Tide Table -/

/-- A state with tide 3 in a state of its own. -/
def tided (x : Tide) : State := { demo with tides := ⟨[(3, x)]⟩ }

/-- An internal tide: LOCKED, at 2^-32 ripple a tick. -/
def running : Tide := { Tide.reset with tsrc := 0x80000000#32, st := .locked, w := 2 ^ 40 }

theorem witness_measure_ignored : (demo.tide 3).en = false ∧ running.kind = 0 := by decide +kernel
theorem witness_measure :
    (let x : Tide := { Tide.reset with tsrc := 0xC0000000#32, st := .acquiring, measured := true, tm := 0 }
     decide (x.en = true ∧ x.kind = 4 ∧ x.discardTo ≤ ((tided x).advance 128).now ∧ x.base = none)) = true := by decide +kernel
-- a resolver on tide 3, by inputs 30 and 31, whose samples of one moment stand at a quarter turn
theorem witness_measure_pair :
    (let x : Tide := { Tide.reset with tsrc := 0xBF000000#32, st := .acquiring }
     let m : ModInput := { ModInput.reset with doneAt := some 64, stampAt := 32 }
     let s : State := { tided x with mods := ⟨[(30, { m with value := some (2 ^ 29) }), (31, { m with value := some 0 })]⟩ }
     let n := 2 * fld (s.tide 3).tsrc 27 24
     decide ((s.tide 3).en = true ∧ (s.tide 3).kind = 3 ∧ n = 30 ∧ (s.mod n).value = some (2 ^ 29) ∧ (s.mod (n + 1)).value = some 0
       ∧ (s.mod n).doneAt = (s.mod (n + 1)).doneAt ∧ x.measured = false ∧ x.discardTo ≤ (s.advance 64).now)) = true := by decide +kernel
theorem witness_reversal : (let x : Tide := { Tide.reset with tsrc := 0xA0000000#32 }; decide (x.en = true ∧ x.kind = 2 ∧ x.back = false)) = true := by decide +kernel
theorem witness_silent :
    (let x : Tide := { Tide.reset with tsrc := 0xB0000000#32, st := .locked, intervals := [128, 128], seen := 0 }
     decide (x.en = true ∧ x.kind ≠ 0 ∧ x.intervals ≠ [] ∧ (max (fld x.tfall 31 24) 1) * x.intervals.sum ≤ (512 - x.seen) * x.intervals.length)) = true := by
  decide +kernel
theorem witness_silent_link :
    (let x : Tide := { Tide.reset with tsrc := 0xD0000000#32, st := .locked }
     decide (x.en = true ∧ x.kind = 5 ∧ (max (fld x.tfall 31 24) 1) * 7200 ≤ 28800 - x.seen)) = true := by decide +kernel
theorem witness_slack_event : bit (tided running |>.frame tidePage).errEvent 2 = true ∧
    bit ((demo.setFrame tidePage { demo.frame tidePage with errEvent := 0 }).frame tidePage).errEvent 2 = false := by decide +kernel
theorem witness_fallback :
    (let x : Tide := { Tide.reset with tsrc := 0xB0000000#32, st := .slack, slackAt := -2 ^ 60 }
     decide (x.st = .slack ∧ (fld x.tfall 23 16 : Int) * 2 ^ 56 ≤ ((tided x).advance 0).tidePhase 3 - x.slackAt)) = true := by decide +kernel
theorem witness_tsrc_boundaries :
    fld 0xDF000000#32 30 28 = 5 ∧ ¬fld 0xDF000000#32 27 24 < 6 ∧ fld 0xD5000000#32 27 24 < 6 ∧ fld 0xA7000000#32 27 24 < 8 ∧ fld 0x93000000#32 27 24 < 4
      ∧ 5 < fld 0xE0000000#32 30 28 := by decide

/-! ## Witnesses: entries and outputs -/

/-- A state with tide 3 running and one entry on it. -/
def entered (x : Entry) : State := { tided running with entries := ⟨[(4095, x)]⟩ }

/-- An entry of tide 3, owned by tenant 0, with CTRL and ARG. -/
def entryWith (ctrl arg : Word) : Entry := { Entry.reset with ctrl := ctrl, arg := arg, bind := 3 }

theorem witness_entry_free : (entryWith 0 0).holdsWrites = false ∧ fld (entryWith 0 0).ctrl 27 24 = 0 := by decide +kernel
theorem witness_entry_held :
    ({ entryWith 0x01000000#32 0 with job := some { tick := 5, target := 0, out := 0, lv := 0, pulse := none, owner := 0, tide := 3, live := true } }).holdsWrites
      = true := by decide +kernel
theorem witness_entry_late :
    (let s := (entered (entryWith 0x01004000#32 0)).advance 7200
     decide (0 ≤ (s.tideWord 3 - 0#32).toInt)) = true := by decide +kernel
theorem witness_entry_not_late :
    (let s := (entered (entryWith 0x01000000#32 0)).advance 0
     let q := s.tidePhase 3
     let r := s.tideRate 3
     let target := 0x01000000#32
     decide (¬(0 ≤ (s.tideWord 3 - target).toInt ∨ ((target - phaseWord q).toInt * 2 ^ 32 - q % 2 ^ 32) * r.2 < 720 * r.1))) = true := by decide +kernel
-- LATE with and without SKIP: REPEAT 0, REPEAT 1
theorem witness_entry_late_skip :
    fld 0x01004000#32 27 24 = 1 ∧ bit 0x01004000#32 14 = true ∧ fld 0x01004000#32 23 16 = 0 ∧ fld 0x01014000#32 23 16 = 1 ∧ bit 0x01014000#32 14 = true
      ∧ (entryWith 0x01014000#32 0).holdsWrites = false := by decide +kernel
theorem witness_entry_late_at_once : fld 0x09010000#32 27 24 = 9 ∧ bit 0x09010000#32 14 = false ∧ (entryWith 0x09010000#32 0).job = none
    ∧ (entryWith 0x09010000#32 0).due = none := by decide +kernel
theorem witness_tide_moves : (tided running).tide 3 = running ∧ running.st ≠ .off ∧ running.st ≠ .held ∧ running.st ≠ .safe ∧ running.kind = 0 := by decide +kernel
theorem witness_entry_actions :
    demo.actionBad 6 2047#32 = false ∧ demo.actionOwned 0 6 2047#32 = true ∧ demo.actionBad 1 63#32 = false ∧ demo.actionOwned 0 8 15#32 = true
      ∧ demo.actionOwned 5 6 2047#32 = false := by decide +kernel
theorem witness_ctrl_boundaries : fld 0x09001000#32 27 24 = 9 ∧ fld 0x09001000#32 13 12 = 1 ∧ 9 < fld 0x0A000000#32 27 24 ∧ 1 < fld 0x02002000#32 13 12
    ∧ fld 0x00000300#32 9 8 = 3 := by decide
theorem witness_entry_fires :
    (let x := { entryWith 0x09000000#32 0 with armed := true }
     let s := (entered x).advance 7200
     decide (x.job = none ∧ x.due = none ∧ x.armed = true ∧ fld x.ctrl 27 24 = 9 ∧ 0 ≤ (s.tideWord x.tide - x.target).toInt ∧ fld x.ctrl 23 16 = 0)) = true := by
  decide +kernel
theorem witness_commit_point :
    (let x := { entryWith 0x02000000#32 0x0000003F#32 with armed := true, target := 0x100#32 }
     let s := (entered x).advance 0
     match s.reachTick x.tide x.target with
     | some n => decide (x.rets = [] ∧ x.job = none ∧ x.armed = true ∧ 0 < n) && decide (n - 720 ≤ (s.advance n).now)
     | none => false) = true := by decide +kernel
theorem witness_edge_placed :
    (let j : EdgeJob := { tick := 5, target := 0x100#32, out := 63, lv := 1, pulse := some 7, owner := 0, tide := 3, live := true }
     let x : Entry := { entryWith 0x02000000#32 0x13F#32 with job := some j }
     decide (x.rets = [] ∧ x.later = [] ∧ j.live = true ∧ j.tick ≤ ((entered x).advance 5).now ∧ j.lv ≤ 1 ∧ fld x.ctrl 23 16 = 0)) = true := by decide +kernel
theorem witness_dispatch_due :
    (let x := { entryWith 0x09000000#32 0 with due := some (0x100#32, 7) }
     decide ((entered x).dueList = [(4095, 0x100#32)])) = true := by decide +kernel
theorem witness_output_owner : BitVec.ofNat 12 (fld (demo.output 63).own 27 16) = 0 ∧ (5#12) ≠ BitVec.ofNat 12 (fld (demo.output 63).own 27 16) := by decide +kernel

-- R184: an entry write whose fraction lies ahead of the tide takes the next moment of it.
theorem test_entry_arms :
    nextAnd (exec (.entryPhaseWrite 0 4095 0x01000000#32 0) (entered (entryWith 0x01008000#32 0)))
      (fun t => decide ((t.entry 4095).armed = true ∧ (t.entry 4095).target = 0x01000000#32 ∧ (t.entry 4095).late = false)) = true := by decide +kernel
theorem test_tsrc_refused_kind : nextAnd (exec (.tsrcWrite 0 3 0xE0000000#32 0) demo) (fun t => decide ((t.tide 3).tsrc = 0)) = true := by decide +kernel
theorem test_own_is_headlands : nextAnd (exec (.ownWrite 5 0 0x00050000#32) demo) (fun t => decide ((t.output 0).own = 0)) = true := by decide +kernel

/-! ## Witnesses: modulator inputs and wave engines -/

/-- A modulator input of DECIM 16 that lacks one bit of its sample, with a window of 16 samples, bound to channel 511. -/
def sampling : ModInput :=
  { ModInput.reset with mcfg := 0x802C0800#32, mbind := 0x000001FF#32, settling := 0, window := some (16, 0), taken := 15, hist := List.replicate 47 true }

/-- The input in its place, and a ring channel of type 3 with a start. -/
def sampler : State := { demo with mods := ⟨[(31, sampling)]⟩, channels := ⟨[(511, { Channel.reset with cctrl := 0x80000000#32, cbind := 0x30000000#32, st := .run })]⟩ }

theorem witness_modulator :
    sampling.en = true ∧ sampling.clkLost = false ∧ sampling.settling = 0 ∧ sampling.window = some (16, 0) ∧ ModInput.reset.en = false
      ∧ fld sampling.mcfg 15 7 = 16 ∧ 16 ≤ sampling.taken + (([true] : List Bool).take (max (16 - sampling.taken) 1)).length
      ∧ ((([true] : List Bool).reverse ++ sampling.hist).take 48).length = 3 * 16 := by decide +kernel
theorem witness_modulator_channel :
    fld sampling.mbind 8 0 = 511 ∧ (sampler.channel 511).ty = 3 ∧ (sampler.channel 511).takes = true ∧ (sampler.channel 511).stream = none
      ∧ sampler.canHold 511 2 = true ∧ (demo.channel 511).ty < 3 := by decide +kernel
theorem witness_modulator_states :
    (sampling.taken + ([] : List Bool).length < 16) ∧ ({ sampling with settling := 3 } : ModInput).settling ≠ 0
      ∧ ({ sampling with window := none } : ModInput).window = none ∧ ({ sampling with window := some (16, 16) } : ModInput).window = some (16, 16) := by
  decide +kernel
theorem witness_no_window : demo.windows = [] := rfl
theorem witness_external_clock : bit 0xC02C0800#32 31 = true ∧ bit 0xC02C0800#32 30 = true := by decide
theorem witness_decim_boundaries : fld 0x802C0800#32 15 7 = 16 ∧ fld 0x802C8000#32 15 7 = 256 ∧ fld 0x802C0780#32 15 7 = 15 ∧ fld 0x802C8080#32 15 7 = 257 := by decide

/-- A wave engine that runs one instruction word. -/
def engine (ins : BitVec 16) : Wave := { Wave.reset with st := .running, prog := Vector.replicate 64 ins, dirs := 0xF#4 }

theorem witness_wave_words : ∀ op : Fin 16, (engine (BitVec.ofNat 16 (op.val * 4096))).st = .running
    ∧ ((engine (BitVec.ofNat 16 (op.val * 4096))).prog[0]).toNat / 4096 = op.val ∧ (engine (BitVec.ofNat 16 (op.val * 4096))).pc = 0 := by decide +kernel
-- level 0 of pin 0 holds for code 0 of WAITP and not for code 1; a rise needs a wait before it
theorem witness_waitp : ∀ c : Fin 4, 0x3000 / 4096 = 3 ∧ (0x3000 + c.val * 1024) / 1024 % 4 = c.val ∧ (engine 0x3000#16).waiting = false := by decide
theorem witness_waitp_timeout : 0x3001 / 4096 = 3 ∧ 0x3001 % 256 ≠ 0 ∧ ({ engine 0x3001#16 with waiting := true } : Wave).waiting = true := by decide +kernel
-- an SHX of two bits at H = 1: all of its 4 engine clocks, and 3 of them, of which the last is past the middle of its bit
theorem witness_shx : 0x4001 / 4096 = 4 ∧ 0x4001 % 64 + 1 = 2 ∧ (engine 0x4001#16).shx = none ∧ max (fld (engine 0x4001#16).wcfg 15 8) 1 = 1
    ∧ 2 * 1 * 2 ≤ 4 ∧ 3 < 2 * 1 * 2 ∧ 3 / 2 + (decide (1 < 3 % 2)).toNat = 1 := by decide +kernel
theorem witness_wave_halted : ∀ p : Bool, ∀ sh ∈ [none, some { ins := 0x4001#16, sr := 7#64, bits := 1, clk := 1, back := false }],
    (let w : Wave := { Wave.reset with st := WaveState.halted, progWritten := p, shx := sh }
     decide (w.st = .halted ∧ w.progWritten = p ∧ w.shx = sh)) = true := by decide
theorem witness_tide_of_engine :
    (let x : Tide := { Tide.reset with tsrc := 0xC0000000#32 }
     decide (x.en = true ∧ x.kind = 4 ∧ fld x.tsrc 27 24 = 0 ∧ x.discardTo ≤ 0 ∧ ∀ j : Fin 16, j ≠ 3 → ((tided x).tide j.val).en = false)) = true := by decide +kernel

-- R197: DJNZ counts down and falls through at the last turn.
theorem test_djnz : nextAnd (exec (.djnz 0) { demo with waves := ⟨[(0, { engine 0x7005#16 with cnt := 1 })]⟩ })
    (fun t => decide ((t.wave 0).pc = 1 ∧ (t.wave 0).cnt = 0)) = true := by decide +kernel
theorem test_set_drives : nextAnd (exec (.weSet 0) { demo with waves := ⟨[(0, engine 0x10F5#16)]⟩ }) (fun t => decide ((t.wave 0).outs = 5#4)) = true := by
  decide +kernel
theorem test_trigger_overrun : nextAnd (exec (.trigger 0 0) { demo with waves := ⟨[(0, engine 0#16)]⟩ }) (fun t => decide ((t.wave 0).ovr = true)) = true := by
  decide +kernel

/-! ## Witnesses: the Undertow lane and the Churn -/

/-- A packet of a class at port 127. -/
def packet (cls seq : Nat) : UPacket := { cls := cls, port := 127, seq := seq }

theorem witness_undertow :
    (∀ q, q ∈ ([packet 1 4] : List UPacket) → q.port = 127 → (packet 0 5).cls < q.cls)
      ∧ (∀ q, q ∈ ([packet 0 6] : List UPacket) → q.port = 127 → (packet 0 5).cls ≤ q.cls)
      ∧ (∀ q, q ∈ demo.undertow.held → q.port ≠ 127)
      ∧ ((demo.undertow.recent.get (fun _ => []) 127).filter fun x => x).length < 2
      ∧ ¬(([true, true] : List Bool).filter fun x => x).length < 2 := by decide +kernel
-- both buffers of class 0 taken, and a third packet that waits
theorem witness_undertow_full :
    ({ demo.undertow with held := [packet 0 5, packet 0 6], waiting := [packet 0 7] } : Undertow).held = [] ++ packet 0 5 :: [packet 0 6] := rfl

/-- A translation entry of tenant 0 over the first 2 MiB, to cove 1's SRAM. -/
def cxe : Vector Word 4 := #v[0, 0xE0002000#32, 0xD50000C3#32, 0]

/-- A channel of a type and a state, with a ring of 2 descriptors at 0x2000 and one posted. -/
def channelOf (ty : Nat) (st : ChState) : Channel :=
  { Channel.reset with cbind := BitVec.ofNat 32 (ty * 2 ^ 28), cctrl := 0x81000000#32, st := st, ring := 0x2000, tail := 1, cxe0 := cxe }

/-- The last channel in a state of its own. -/
def channeled (c : Channel) : State := { State.reset with phase := .run, channels := ⟨[(511, c)]⟩ }

/-- A descriptor of 4 bytes from 0x1000 to 0x1100. -/
def someDesc : Desc := { a := dataCap 0x1000#32, b := dataCap 0x1100#32, len := 4, evt := true }

theorem witness_churn_page : demo.inj.waiting = [] ∧ (demo.frame churnPage).owner = head.ten := by decide +kernel
theorem witness_channel_states :
    (channelOf 1 .stale).st = .stale ∧ (channelOf 1 .run).st ≠ .stale ∧ (channelOf 1 .run).desc = none
      ∧ ({ channelOf 1 .run with desc := some someDesc }).desc ≠ none := by decide +kernel
theorem witness_pool : fld 0x00003000#32 13 0 ≤ 12288 ∧ demo.sharedUsed ≤ 12288 - fld 0x00003000#32 13 0 ∧ 12288 < fld 0x00003001#32 13 0 := by decide +kernel
theorem witness_cbind :
    cbindBad 0x60000000#32 = false ∧ 6 < fld 0x70000000#32 31 28 ∧ fld 0x60000000#32 31 16 ≠ fld Channel.reset.cbind 31 16
      ∧ cbindBad 0x00000007#32 = false ∧ fld 0x00000007#32 31 16 = fld Channel.reset.cbind 31 16 := by decide +kernel
theorem witness_owns_channel : OwnsChannel { Channel.reset with cbind := 0x00050000#32 } 5 ∧ ¬OwnsChannel { Channel.reset with cbind := 0x00050000#32 } 6 :=
  ⟨Or.inr (by decide), by unfold OwnsChannel; decide⟩
theorem witness_cctrl :
    13 ≤ fld 0x0D000000#32 27 24 ∧ fld 0xCC000000#32 27 24 < 13 ∧ bit 0xCC000000#32 31 = true ∧ bit 0xCC000000#32 30 = true
      ∧ bit 0x4C000000#32 31 = false ∧ (channelOf 1 .stopped).desc = none ∧ (channelOf 1 .stopped).done = 0
      ∧ (channelOf 1 .stopped).moved = false := by decide +kernel
theorem witness_tail :
    (let c := channelOf 1 .run
     decide (c.st ≠ .stale ∧ c.posted + ((2#32).setWidth 12 - c.tail).toNat ≤ 2 ^ max (fld c.cctrl 27 24) 1
       ∧ 2 ^ max (fld c.cctrl 27 24) 1 < c.posted + ((3#32).setWidth 12 - c.tail).toNat)) = true
      ∧ (let c := channelOf 1 .stale
         decide (c.st = .stale ∧ ((0#32).setWidth 12 - c.head).toNat ≤ c.posted ∧ ¬((3#32).setWidth 12 - c.head).toNat ≤ c.posted)) = true := by
  decide +kernel
theorem witness_cxe_word : (0 : Fin 4).val ≠ 2 ∧ (3 : Fin 4).val ≠ 2 ∧ bit 0x7FFFFFFF#32 31 = false := by decide
theorem witness_start : bit 0xFFFFFFFE#32 0 = false ∧ bit 0x1#32 0 = true := by decide

/-- A memory-to-memory descriptor's capability words and control words at the ring, in memory. -/
def descriptor : State :=
  let s := channeled (channelOf 1 .run)
  let put := fun (t : State) (off : Nat) (w : Word) => t.putWord (0xE000200000 + off) w .written
  let cap := fun (t : State) (off : Nat) (c : Cap) =>
    ((t.putWord (0xE000200000 + off) c.w0 .capability).putWord (0xE000200000 + off + 4) c.w1 .capability)
  let s1 := cap (cap s 0x2000 (dataCap 0x1000#32)) 0x2008 (dataCap 0x1100#32)
  (((put s1 0x2010 0).putWord 0xE000202014 1 .written).putWord 0xE000202018 0 .written).putWord 0xE00020201C 0 .written

theorem witness_descriptor_read :
    (match descriptor.chReadCap 511 0x2000 with
     | (.ok ca, s1) => match s1.chReads 511 true 0x2008 2 with
       | (_, none, s2) => match s2.chReadCap 511 0x2008 with
         | (.ok cb, s3) => match s3.chReads 511 true 0x2010 4 with
           | ([0, w3, _, _], none, _) =>
             decide (ca = dataCap 0x1000#32 ∧ cb = dataCap 0x1100#32 ∧ descriptor.descFault (descriptor.channel 511) { a := ca, b := cb, len := 0, evt := bit w3 0 } = none)
           | _ => false
         | _ => false
       | _ => false
     | _ => false) = true
      ∧ (descriptor.channel 511).st = .run ∧ (descriptor.channel 511).posted ≠ 0 ∧ (descriptor.channel 511).ty = 1 := by decide +kernel
theorem witness_descriptor_unreadable :
    (let s := channeled { channelOf 1 .run with cxe0 := Vector.replicate 4 0 }
     match s.chTranslate 511 0x2000 true false with
     | .error f => decide (f = 8)
     | .ok _ => false) = true := by decide +kernel
theorem witness_descriptor_moves :
    (let s := { descriptor with channels := ⟨[(511, { channelOf 1 .run with desc := some someDesc })]⟩ }.putWord 0xE000201000 7 .written
     match s.chRead 511 0x1000 false with
     | (.ok w, s1) => match s1.chWrite 511 0x1100 w false with
       | (.ok (), s2) => decide (w = 7 ∧ s2.wordAt 0xE000201100 = 7)
       | _ => false
     | _ => false) = true := by decide +kernel
theorem witness_descriptor_completes :
    (let s := { descriptor with channels := ⟨[(511, { channelOf 1 .run with desc := some someDesc, moved := true, done := 4 })]⟩ }
     match (s.advance 10).chWrites 511 0x2018 [(word 4, false), (0x80000000#32, false)] with
     | (2, none, _) => true
     | _ => false) = true := by decide +kernel

-- R251: a TAIL that would post more than the ring holds is refused.
theorem test_tail_overfull_refused :
    nextAnd (exec (.tailWrite 0 511 3) (channeled (channelOf 1 .run))) (fun t => decide ((t.channel 511).tail = 1)) = true := by decide +kernel
theorem test_empty_descriptor_ends_at_once :
    nextAnd (exec (.descriptorProcess 511) descriptor) (fun t => decide ((t.channel 511).moved = true)) = true := by decide +kernel
-- a channel of a position's output that has taken its data, until the next freeze point
theorem witness_descriptor_loaded :
    (let c : Channel := { channelOf 2 .run with cbind := 0x2000047D#32 }
     let s : State := { channeled c with links := ⟨[(3, { Link.reset with positions := ⟨[(29, { Position.reset with loaded := true })]⟩ })]⟩ }
     decide ((s.channel 511).ty = 2 ∧ 0x400 ≤ fld c.cbind 11 0 ∧ fld c.cbind 11 0 < 0x480
       ∧ ((s.link ((fld c.cbind 11 0 - 0x400) / 32)).pos (fld c.cbind 11 0 % 32)).loaded = true)) = true := by decide +kernel
/-! ## Witnesses: Afmus Link -/

/-- A link with a state of its own, and tide 3 running. -/
def linked (x : Link) : State := { tided running with links := ⟨[(3, x)]⟩ }

/-- A link with position 30 in a state of its own. -/
def placed (st : LinkState) (q : Position) : Link :=
  { Link.reset with link := st, lctrlNext := 0x83101008#32, lctrl := 0x83101008#32, started := true, closed := false, positions := ⟨[(30, q)]⟩ }

/-- A position in a state. -/
def posOf (st : PosState) : Position := { Position.reset with st := st }

theorem witness_link_page : (demo.frame (linkPage 3)).owner = head.ten ∧ demo.inj.waiting = [] := by decide +kernel
theorem witness_lctrl_refused :
    8 < fld 0x00009000#32 15 12 ∧ bit 0x40001000#32 30 = true ∧ bit ((demo.setFrame (linkPage 3) { demo.frame (linkPage 3) with active := 0 }).frame (linkPage 3)).active 0 = false
      ∧ bit 0x85001000#32 31 = true ∧ (demo.tide (fld 0x85001000#32 27 24)).en = false := by decide +kernel
theorem witness_frame_too_long : (linked Link.reset).frameFits 3 Link.reset.lctrlNext 0x001003E8#32 [] = true
    ∧ (linked { Link.reset with loopSeen := 72000 }).frameFits 3 Link.reset.lctrlNext 0x001003E8#32 [] = false := by decide +kernel
theorem witness_lctrl_taken :
    (let v := 0x83101008#32
     decide ((linked Link.reset).lctrlBad 3 (v &&& 0xFFFFF0FF#32) = false ∧ bit v 31 = true ∧ Link.reset.link = .off ∧ bit Link.reset.lctrlNext 31 = false
       ∧ (linked Link.reset).lctrlBad 3 0x00101008#32 = false ∧ bit 0x00101008#32 31 = false)) = true := by decide +kernel
theorem witness_lperiod :
    fld 0x000003E8#32 31 20 = 0 ∧ fld 0x001003E7#32 16 0 < 1000 ∧ 100000 < fld 0x001186A1#32 16 0
      ∧ (linked Link.reset).lperiodBad 3 0x001003E8#32 = false ∧ (linked Link.reset).lperiodBad 3 0x001186A0#32 = false := by decide +kernel
theorem witness_position_commands :
    (posOf .absent).bound = false ∧ (posOf .absent).st = .absent ∧ (posOf .left).st ≠ .absent
      ∧ ¬((posOf .joining).st = .verifying ∨ (posOf .joining).st = .active ∨ (posOf .joining).st = .left)
      ∧ (0#5).toNat = 0 ∧ (31#5).toNat = 31 ∧ 1 ≤ (1#5).toNat ∧ (30#5).toNat ≤ 30 ∧ (0#4).toNat = 0 ∧ 6 < (7#4).toNat := by decide +kernel
theorem witness_positions_kept : (placed .up (posOf .active)).positions.sorted = true
    ∧ (∀ n, n ≠ 30 → ((placed .up (posOf .active)).pos n).st = .absent) ∧ ∀ n, (Link.reset.pos n).st = .absent := by
  refine ⟨by decide, fun n h => ?_, fun n => by rfl⟩
  have h' : ¬30 = n := fun e => h e.symm
  simp only [placed, Link.pos, Tbl.get, cellsFind, if_neg h', Position.reset]
theorem witness_cycle_states :
    (let x := placed .up (posOf .active)
     let late := (linked x).advance 720000
     let soon := (linked { x with lctrlNext := 0x93101008#32 }).advance 100
     decide (x.link = .up ∧ bit x.lctrlNext 31 = true ∧ late.tideStarts 3 = false ∧ x.lastStart + fld x.lperiodNext 16 0 * 72 ≤ late.now
       ∧ soon.tideStarts 3 = true ∧ soon.now < x.lastStart + 72000 ∧ ((linked x).advance 100).now < x.lastStart + fld x.lperiodNext 16 0 * 72
       ∧ ¬(Link.reset.link = .up ∨ Link.reset.link = .down) ∧ bit { x with lctrlNext := 0 }.lctrlNext 31 = false)) = true := by decide +kernel

/-- A link whose cycles start by tide 3, at each turn of 10 us, as cycle starts at a moment find it; its last started at tick 1. -/
def tidal (now : Nat) : State :=
  { tided { running with tlen := 40000#32 } with
    links := ⟨[(3, { placed .up (posOf .active) with lctrlNext := 0x93101008#32, lperiodNext := 0x001003E8#32, frozen := true, lastStart := 1 })]⟩
    now := now }

-- between start phases; at one, too soon after the last start; at one
theorem witness_tide_starts : (tidal 100).tideStarts 3 = true ∧ (tidal 72000).tideStarts 3 = true ∧ (tidal 144000).tideStarts 3 = true
    ∧ 72000 < ((tidal 0).link 3).lastStart + 72000 ∧ ((tidal 0).link 3).lastStart + 72000 ≤ 144000 := by decide +kernel
theorem witness_start_phase : AtStartPhase (tidal 72000) ((tidal 0).link 3) ∧ AtStartPhase (tidal 144000) ((tidal 0).link 3) :=
  ⟨⟨1, 0, by decide +kernel⟩, ⟨2, 0, by decide +kernel⟩⟩
theorem witness_forward : Forward (tidal 100) ((tidal 0).link 3) ∧ Forward (tidal 72000) ((tidal 0).link 3) ∧ Forward (tidal 144000) ((tidal 0).link 3) := by
  unfold Forward; decide +kernel
theorem witness_no_start_phase : ¬AtStartPhase (tidal 100) ((tidal 0).link 3) := by
  rintro ⟨turn, k, hk, h1, h2⟩
  have e : fld ((tidal 0).link 3).lperiodNext 31 20 = 1 := by decide +kernel
  have a : floorDiv ((tidal 100).phaseAt (fld ((tidal 0).link 3).lctrlNext 27 24) ((tidal 100).now - 1)) (2 ^ 32) = 23068 := by decide +kernel
  have b : floorDiv ((tidal 100).phaseAt (fld ((tidal 0).link 3).lctrlNext 27 24) (tidal 100).now) (2 ^ 32) = 23301 := by decide +kernel
  rw [e] at hk
  have hk0 : k = 0 := by omega
  subst hk0
  simp only [e, a, b] at h1 h2
  omega
-- the freeze point: not while the cycle is frozen or too soon, and within 1 us of the next start
theorem witness_freeze_point :
    (let x := { placed .up (posOf .active) with frozen := false }
     decide (((tidal 0).link 3).frozen = true ∧ x.started = true ∧ 100 + 7200 < x.lastStart + fld x.lperiodNext 16 0 * 72
       ∧ x.lastStart + fld x.lperiodNext 16 0 * 72 ≤ 720000 + 7200 ∧ x.frozen = false)) = true := by decide +kernel
-- a frame that is complete at the deadline, and one a tick after it
theorem witness_deadline : 0 ≤ (placed .up (posOf .active)).deadline ∧ (placed .up (posOf .active)).deadline < 720000
    ∧ (placed .up (posOf .active)).badCrc = false ∧ (placed .up (posOf .active)).closed = false ∧ (placed .up (posOf .active)).started = true := by
  decide +kernel
theorem witness_lctrl_running :
    (let x := { placed .up (posOf .active) with lctrlNext := 0x03101008#32 }
     decide ((linked x).lctrlBad 3 0x83101008#32 = false ∧ bit x.lctrlNext 31 = false ∧ (x.link = .up ∨ x.link = .down) ∧ x.started = true)) = true := by
  decide +kernel
theorem witness_position_over : ∀ st ∈ [PosState.verifying, .active, .left], ({ posOf st with reached := true } : Position).reached = true ∧ (posOf st).st ≠ .absent := by
  decide

/-- An output channel of position 30 with its data read, on link 3. -/
def sending : State :=
  let c := { channelOf 2 .run with cbind := 0x2000047E#32, desc := some someDesc, done := 4, out := [0x12345678#32] }
  { linked (placed .up (posOf .active)) with channels := ⟨[(511, c)]⟩ }

theorem witness_freeze : sending.txReady (0x400 + 32 * 3 + 30) = some (511, [0x12345678#32]) := by decide +kernel

/-- An append of position 30 with no record. -/
def append30 : Append :=
  { pos := 30, kind := 1, badRx := false, nrec := 0, records := [], ident := 0, version := 0, descs := [], crcOk := true, tagOk := true, offset := 0 }

theorem witness_append :
    append30.pos.toNat = 30 ∧ append30.kind = 1 ∧ append30.crcOk = true ∧ append30.tagOk = true ∧ append30.nrec ≤ 2
      ∧ (linked (placed .up (posOf .verifying))).channelFor 4 (0x400 + 32 * 3 + 30) = none ∧ (placed .up (posOf .verifying)).roll = false
      ∧ (placed .up (posOf .verifying)).badCrc = false ∧ (placed .up (posOf .verifying)).closed = false := by decide +kernel
theorem witness_joining : 3 ≤ ({ posOf .joining with quiet := 3 } : Position).quiet ∧ { posOf .joining with quiet := 3 }.sends < 3
    ∧ 3 ≤ { posOf .joining with sends := 3 }.sends := by decide
theorem witness_misses : 3 ≤ { posOf .active with misses := 3 }.misses ∧ (posOf .active).misses < 3 := by decide
theorem witness_link_states : (placed .training (posOf .left)).link = .training ∧ 3 ≤ { placed .up (posOf .left) with silent := 3 }.silent
    ∧ (placed .up (posOf .left)).vlog = [] := by decide

-- R271: a position becomes ACTIVE at its fourth valid cycle in a row.
theorem test_fourth_valid_cycle :
    nextAnd (exec (.frameReturn 3 100 true [append30] none 0) (linked (placed .up { posOf .verifying with validRun := 3 })))
      (fun t => decide (((t.link 3).pos 30).st = .active)) = true := by decide +kernel
theorem test_unbind_active_refused :
    nextAnd (exec (.unbind head 3 30) (linked (placed .up (posOf .active)))) (fun t => decide ((t.link 3).cmdResult = 2 ∧ (t.link 3).cmdReason = 1)) = true := by
  decide +kernel
/-! ## Witnesses: the standard interfaces -/

theorem witness_interfaces_on : On demo 20 ∧ On demo 25 ∧ On demo 26 ∧ On demo 29 ∧ On demo 30 ∧ On demo 37 ∧ On demo 38 ∧ On demo 39
    ∧ On demo 40 ∧ On demo 43 ∧ ¬On State.reset 20 := by unfold On; decide +kernel

/-- A channel of a type bound to an endpoint, running; a transmit channel has one word read. -/
def bound (ty ep : Nat) : State :=
  let c := { channelOf ty .run with cbind := BitVec.ofNat 32 (ty * 2 ^ 28 + ep) }
  channeled (if ty = 2 then { c with desc := some someDesc, done := 4, out := [0x12345678#32] } else c)

/-- An Ethernet port with its receiver on and its link up; `t` holds its filters by their number. -/
def port5With (t : Tbl Word) (s : State) : State := s.setEth 5 { Eth.reset with mode := 0x80000000#32, up := true, setup := t }

/-- The same port with no filter. -/
def port5 (s : State) : State := port5With Tbl.empty s

/-- A frame of so many bytes, to an address whose bytes are all `b`, of an Ethernet type. -/
def etherOf (n : Nat) (b : Byte) (ty : List Byte) : EthFrame :=
  { payload := List.replicate 6 b ++ List.replicate 6 0 ++ ty ++ List.replicate (n - 12 - ty.length) 0, fcsOk := true }

/-- A frame of so many bytes to the address 0. -/
def ethFrame (n : Nat) : EthFrame := etherOf n 0 []

theorem witness_ethernet_frames :
    bit ((port5 demo).eth 5).mode 31 = true ∧ 60 ≤ (ethFrame 60).payload.length ∧ ¬60 ≤ (ethFrame 59).payload.length
      ∧ (ethFrame 1996).payload.length ≤ 1996 ∧ ((port5 demo).eth 5).up = true ∧ (demo.eth 5).up = false := by decide +kernel
theorem witness_ethernet_pause : field16 (etherOf 60 0 [0x88, 0x08, 0, 1]).payload 12 = 0x8808 ∧ field16 (etherOf 60 0 [0x88, 0x08, 0, 1]).payload 14 = 1
    ∧ ¬field16 (ethFrame 60).payload 12 = 0x8808 := by decide +kernel
-- the last exact filter takes the address 0, the broadcast filter all ones; without filters the port takes neither
theorem witness_ethernet_filters :
    (let e : Eth := { Eth.reset with setup := ⟨[(103, 1)]⟩ }
     FilterTakes e 15 (destOf (ethFrame 60).payload) ∧ (∀ n : Fin 15, ¬FilterTakes e n (destOf (ethFrame 60).payload)))
      ∧ ({ Eth.reset with setup := ⟨[(104, 1)]⟩ } : Eth).filter 104 = 1 ∧ destOf (etherOf 60 0xFF []).payload = BitVec.allOnes 48
      ∧ (∀ n : Fin 16, ¬FilterTakes Eth.reset n (destOf (ethFrame 60).payload)) ∧ Eth.reset.filter 104 ≠ 1
      ∧ (destOf (ethFrame 60).payload).getLsbD 40 = false ∧ destOf (ethFrame 60).payload ≠ BitVec.allOnes 48 := by
  unfold FilterTakes; decide +kernel
-- whichever bin the hash gives a group address, a table of all ones takes it
theorem witness_ethernet_hash : ∀ b : Fin 64, bit (({ Eth.reset with setup := ⟨[(106, 0xFFFFFFFF#32), (107, 0xFFFFFFFF#32)]⟩ } : Eth).filter (106 + b.val / 32))
    (b.val % 32) = true ∧ (destOf (etherOf 60 0x01 []).payload).getLsbD 40 = true := by decide +kernel
-- a Sync message of PTP, in two steps and in one
theorem witness_ptp : ptpOffset (etherOf 60 0 [0x88, 0xF7]).payload = some 14 ∧ ptpOffset (ethFrame 60).payload = none
    ∧ ({ Eth.reset with setup := ⟨[(27, 1)]⟩ } : Eth).filter 27 = 1 ∧ Eth.reset.filter 27 ≠ 1 ∧ 14 + 44 ≤ (etherOf 60 0 [0x88, 0xF7]).payload.length
    ∧ field16 (etherOf 60 0 [0x88, 0xF7]).payload 12 ≠ 0x86DD := by decide +kernel
theorem witness_ethernet_room : RoomFor (bound 3 0x57) 3 (0x10 * 5 + 7) [0, 0] (ethFrame 1996).payload := ⟨511, by decide +kernel⟩
theorem witness_ethernet_room_first : RoomFor (bound 3 0x50) 3 (0x10 * 5 + 0) [0, 0] (ethFrame 60).payload := ⟨511, by decide +kernel⟩
theorem witness_ethernet_transmits :
    (∀ k : Fin 4, (port5 (bound 2 0x5B)).txReady (0x10 * 5 + 8 + k.val) = if k.val = 3 then some (511, [0x12345678#32]) else none)
      ∧ (∀ k : Fin 4, (port5 demo).txReady (0x10 * 5 + 8 + k.val) = none) := by decide +kernel
theorem witness_ethernet_moved :
    (bound 2 0x5B).channels.sorted = true ∧ (bound 2 0x5B).channelFor 2 (0x10 * 5 + 8 + 3) = some 511 ∧ ((bound 2 0x5B).channel 511).desc ≠ none
      ∧ ((bound 2 0x5B).channel 511).moved = false ∧ ((demo.frame (ethPage 5)).owner = head.ten) := by decide +kernel

/-- A CAN frame. -/
def canFrame : CanFrame := { ident := 0, fdf := true, brs := false, esi := false, ide := false, rtr := false, data := List.replicate 64 0, crcOk := true }

theorem witness_can :
    (demo.can 3).st ≠ .busOff ∧ canFrame.crcOk = true ∧ { canFrame with crcOk := false }.crcOk = false ∧ demo.txReady (0x081 + 4 * 3) = none
      ∧ demo.txReady (0x082 + 4 * 3) = none ∧ (bound 2 0x08D).txReady (0x081 + 4 * 3) = some (511, [0x12345678#32])
      ∧ (bound 2 0x08E).txReady (0x081 + 4 * 3) = none ∧ (bound 2 0x08E).txReady (0x082 + 4 * 3) = some (511, [0x12345678#32]) := by decide +kernel
theorem witness_can_room : RoomFor (bound 3 0x08C) 3 (0x080 + 4 * 3) [canFrame.ident.setWidth 32] canFrame.data := ⟨511, by decide +kernel⟩
theorem witness_can_states :
    (let x : Can := { Can.reset with st := CanState.busOff, autorec := true }
     decide (x.st = .busOff ∧ x.autorec = true ∧ Can.reset.st ≠ .busOff ∧ Can.reset.autorec = false ∧ x.st ≠ .errorPassive)) = true := by decide
theorem witness_uart_room : RoomFor (bound 3 0x0AE) 3 (0x0A0 + 2 * 7) [] [0x41#8] := ⟨511, by decide +kernel⟩
theorem witness_uart :
    (bound 2 0x0AF).txReady (0x0A1 + 2 * 7) = some (511, [0x12345678#32]) ∧ demo.txReady (0x0A1 + 2 * 7) = none ∧ (demo.uart 7).echoSup = false := by
  decide +kernel

/-- A character of no error whose start bit is at a tick. -/
def charAt (t : Nat) : UartChar := { data := 0x41#8, parityBad := false, framingBad := false, at_ := t }

-- at 300 baud with 8 bits, no parity and 1 stop bit a character lasts 240,000,000 ticks: within and after one idle time of it
theorem witness_uart_gap :
    450000000 * (16 * 10) / 300 = 240000000 ∧ Uart.reset.baud.toNat = 300 ∧ Uart.reset.idle.toNat = 1
      ∧ ¬((charAt 0).at_ + (1 + Uart.reset.idle.toNat) * 240000000 ≤ 240000000) ∧ (charAt 0).at_ + (1 + Uart.reset.idle.toNat) * 240000000 ≤ 480000000
      ∧ ({ Uart.reset with heard := [charAt 0] } : Uart).heard.getLast? = some (charAt 0) := by decide +kernel
-- an own character under ECHO_SUP, from DE's first tick
theorem witness_uart_own :
    (let y : Uart := { Uart.reset with echoSup := true, spans := [(10, 20)] }
     decide (y.echoSup = true ∧ (∃ e ∈ y.spans, e.1 ≤ (charAt 10).at_ ∧ (charAt 10).at_ < e.2) ∧ ¬(∃ e ∈ y.spans, e.1 ≤ (charAt 20).at_ ∧ (charAt 20).at_ < e.2))) = true := by
  decide +kernel
-- the next descriptor's LEN of 12 leaves 4 bytes beside the header; without a channel there is no limit
theorem witness_uart_descriptor :
    (let c : Channel := { channelOf 3 .run with cbind := 0x300000AE#32 }
     decide (((channeled c).putWord 0xE000202010 12 .written).uartRoom 7 = some 4 ∧ demo.uartRoom 7 = none)) = true := by decide +kernel

/-- PCIe with its link up, as a root or as an endpoint. -/
def pcieAs (root : Bool) (s : State) : State := { s with pcie := { s.pcie with up := true, root := root, bar0 := 0x800000, bar2 := 0x1000000 } }

/-- PCIe with its link up, as a root. -/
def pcieUp (s : State) : State := pcieAs true s

theorem witness_pcie : On (pcieUp demo) 38 ∧ (pcieUp demo).pcie.up = true ∧ (pcieUp demo).pcie.root = true ∧ demo.pcie.up = false ∧ demo.pcie.root = false := by
  unfold On; decide +kernel
-- an endpoint's window of 8 MiB and its table of 1 KiB, and an address in neither
theorem witness_pcie_windows :
    (let p := (pcieAs false demo).pcie
     decide (p.root = false ∧ p.bar0.toNat ≤ 0xFFFFFF ∧ 0xFFFFFF < p.bar0.toNat + 2 ^ 23 ∧ p.bar2.toNat ≤ 0x10003FC ∧ 0x10003FC < p.bar2.toNat + 1024
       ∧ ¬(0x1000400 < p.bar2.toNat + 1024) ∧ ¬(0x1000000 < p.bar0.toNat + 2 ^ 23))) = true := by decide +kernel
theorem witness_pcie_checks : PcieCheck.lcrc ≠ .good ∧ PcieCheck.ecrc ≠ .good := by decide
theorem witness_pcie_room : HasRoom (pcieUp (bound 5 0x107)) 5 (0x100 + 7) (3 + 64) := ⟨511, by decide +kernel⟩
theorem witness_msi : fld 0x40#32 31 6 ≠ 0 ∧ fld 63#32 31 6 = 0 ∧ fld 31#32 5 0 < 32 ∧ ¬fld 32#32 5 0 < 32 := by decide
theorem witness_flash :
    demo.txReady 0x121 = none ∧ (bound 2 0x121).txReady 0x121 = some (511, [0x12345678#32]) ∧ bit 0x12345678#32 1 = false ∧ bit 0x2#32 1 = true := by
  decide +kernel
theorem witness_flash_read :
    (let c := { channelOf 2 .run with cbind := 0x20000121#32, desc := some { someDesc with len := 12 }, done := 12, out := [2, 0, 4] }
     let d := { channelOf 5 .run with cbind := 0x50000120#32 }
     let s : State := { demo with channels := ⟨[(3, d), (511, c)]⟩ }
     decide (s.txReady 0x121 = some (511, [2, 0, 4]) ∧ s.channelFor 5 0x120 = some 3 ∧ (s.channel 3).takes = true ∧ s.canHold 3 3 = true)) = true := by decide +kernel
theorem witness_i2c :
    (let c := { channelOf 2 .run with cbind := 0x20000137#32, desc := some someDesc, done := 4, out := [0x01000000#32] }
     let d := { channelOf 5 .run with cbind := 0x50000136#32 }
     let s : State := { demo with channels := ⟨[(3, d), (511, c)]⟩ }
     decide (s.txReady (0x131 + 2 * 3) = some (511, [0x01000000#32]) ∧ fld 0x01000000#32 31 24 ≠ 0 ∧ fld 0x00000000#32 31 24 = 0
       ∧ s.channelFor 5 (0x130 + 2 * 3) = some 3 ∧ (s.channel 3).takes = true ∧ s.canHold 3 4 = true ∧ demo.txReady (0x131 + 2 * 3) = none)) = true := by
  decide +kernel
theorem witness_scans : ({ demo with phase := .reset } : State).phase = .reset ∧ demo.phase ≠ .reset ∧ demo.phase ≠ .off
    ∧ nextAnd (exec .powerOff demo) (fun t => decide (t.phase = .off)) = true := by decide +kernel

-- R295: IDCODE shifts out 0x1B712ACB, least significant bit first.
theorem test_idcode : nextAnd (exec (.idcode (List.replicate 32 false)) demo) (fun t => decide (t.jtag.out.take 8 = [true, true, false, true, false, false, true, true]))
    = true := by decide +kernel
theorem test_short_frame_dropped : nextAnd (exec (.ethernetFrameReceive 5 (ethFrame 59) 0) (port5 demo)) (fun t => decide ((t.eth 5).dropped = 1)) = true := by
  decide +kernel
/-! ## Witnesses: profiles, gates and standby -/

/-- A state with its power page changed. -/
def powered (f : Power → Power) : State := { demo with power := f demo.power }

theorem witness_head : Head demo head := ⟨rfl, rfl⟩
theorem witness_profile :
    demo.power.busy = false ∧ fld 2#32 1 0 ≠ 3 ∧ fld 3#32 1 0 = 3 ∧ demo.power.critical = false ∧ demo.power.current = .mean ∧ demo.anyRolling = false
      ∧ (powered fun p => { p with busy := true, switched := true }).power.switched = true := by decide +kernel
theorem witness_rolling : (demo.modCore 8 fun c => { c with tm := { c.tm with st := .replay } }).anyRolling = true := by decide +kernel

/-- A gate domain selected and in a state of its own. -/
def gatedDomain (d : Nat) (g : Gate) : State := (powered fun p => { p with gdSel := BitVec.ofNat 6 d }).setGate d g

theorem witness_gate_commands :
    (gatedDomain 44 Gate.reset).power.gdResult ≠ 1 ∧ (gatedDomain 44 Gate.reset).power.gdSel.toNat < 45 ∧ ((gatedDomain 44 Gate.reset).gate 44).st ≠ .reset
      ∧ Gate.reset.st = .on ∧ ((gatedDomain 43 { Gate.reset with st := .reset }).gate 43).st = .reset ∧ 45 ≤ (45#6).toNat ∧ (0#4).toNat = 0 ∧ 6 < (7#4).toNat ∧ Gate.reset.hold ≠ 0xFFF#12 ∧ Gate.reset.gateBy ≠ .harbour
      ∧ Gate.reset.deferred = false := by decide +kernel
theorem witness_gate_states :
    (let g : Gate := { Gate.reset with st := .clk, gateBy := .harbour, hold := 0xFFF }
     let h : Gate := { Gate.reset with deferred := true, hold := 1 }
     decide (g.st ≠ .on ∧ g.hold = 0xFFF#12 ∧ g.gateBy = .harbour ∧ h.deferred = true ∧ h.hold.toNat ≤ 1)) = true := by decide
theorem witness_gating_completes :
    (let g : Gate := { Gate.reset with st := .going, next := .on, epoch := some 7 }
     decide (g.st = .going ∧ g.next = .on ∧ g.epoch ≠ none ∧ g.epoch ≠ some demo.power.epoch ∧ ({ g with next := .pwr } : Gate).next ≠ .on)) = true := by decide +kernel
theorem witness_gate_pages : (demo.frame (gatePage 38)).owner = head.ten ∧ (demo.frame (gatePage 38)).owner ≠ 5 := by decide +kernel
theorem witness_gate_requests : fld 2#32 1 0 = 2 ∧ fld 3#32 1 0 = 3 ∧ fld 4#32 1 0 = 0 ∧ ((gatedDomain 38 Gate.reset).gate 38).gateBy ≠ .headland
    ∧ ((gatedDomain 38 Gate.reset).gate 38).hold = 0 := by decide +kernel
theorem witness_rebuild_channel :
    (bound 2 0x121).channels.sorted = true ∧ ((bound 2 0x121).channel 511).ty = 2 ∧ (domainEndpoints 39).contains ((bound 2 0x121).channel 511).endpoint = true := by
  decide +kernel
theorem witness_standby :
    demo.phase = .run ∧ demo.board.pfwLow = false ∧ demo.evc.wakeLatch &&& demo.evc.wakeEn = 0
      ∧ (∀ n : Fin 16, (demo.cove n.val).busy = false ∧ (demo.cove n.val).copies = [] ∧ (demo.cove n.val).step = .none ∧ (demo.cove n.val).bankTest = none)
      ∧ (powered fun p => { p with busy := true }).power.busy = true ∧ { demo.board with pfwLow := true }.pfwLow = true := by decide +kernel
-- a group rolls back, so standby waits for it
theorem witness_standby_waits :
    (let s := demo.modCore 8 fun c => { c with tm := { c.tm with st := .replay } }
     decide (s.anyRolling = true ∧ s.phase = .run ∧ s.power.busy = false ∧ s.board.pfwLow = false)) = true := by decide +kernel
theorem witness_restart :
    (let s := { demo with phase := .standby, heldEvents := [2047] }
     decide (s.phase = .standby ∧ s.heldEvents = [2047] ∧ s.heldWakes = [] ∧ s.evc.wakeLatch = 0)) = true := by decide +kernel

-- R303: a gate command on the always-on domain that would gate it is refused with reason 4.
theorem test_gate_of_domain_0_refused :
    nextAnd (exec (.clkgate head) (gatedDomain 0 Gate.reset)) (fun t => decide (t.power.gdResult = 2 ∧ t.power.gdReason = 4)) = true := by decide +kernel
theorem test_critical_allows_neap_only :
    nextAnd (exec (.profileWrite head 2) (powered fun p => { p with critical := true })) (fun t => decide (t.power.result = 1)) = true := by decide +kernel
/-! ## Witnesses: resets, Ebb and boot -/

theorem witness_resets :
    demo.phase ≠ .off ∧ demo.aon.wdEn = false ∧ fld 0xA55A#32 15 0 = 0xA55A ∧ demo.power.resetKey = false ∧ fld 0xA55B#32 15 0 ≠ 0xA55A := by
  decide +kernel
-- a watchdog of 1 ms at the earliest tick of its expiry, and half a timeout before it
theorem witness_watchdog :
    (let a : Aon := { demo.aon with wdEn := true, wdMs := 1, wdAt := 0 }
     decide (a.wdEn = true ∧ a.wdMs.toNat * 7200000 * 5000 ≤ (7198561 - a.wdAt) * 5001 ∧ ¬(a.wdMs.toNat * 7200000 * 5000 ≤ (7198560 - a.wdAt) * 5001)
       ∧ a.wdMs.toNat * 7200000 * 5000 ≤ 2 * (3599281 - a.wdAt) * 5001 ∧ ¬(a.wdMs.toNat * 7200000 * 5000 ≤ 2 * (3599280 - a.wdAt) * 5001)
       ∧ a.wdHalf = false)) = true := by decide +kernel
-- alarm 1 at a count that the oscillator may have reached, and one that it cannot have reached
theorem witness_alarm :
    (let a : Aon := { demo.aon with alctrl := 2, cnt := 0, cntAt := 0, alarm1 := 32768 }
     let least := 7200000000 * 32768 * 4999 / (5000 * 7200000000)
     let most := 7200000000 * 32768 * 5001 / (5000 * 7200000000) + 1
     decide (a.alctrl.getLsbD 1 = true ∧ (a.alarm1 - (a.cnt + BitVec.ofNat 48 least).extractLsb' 0 32).toNat ≤ most - least ∧ a.rang[1] = none
       ∧ ¬(((40000 : Word) - (a.cnt + BitVec.ofNat 48 least).extractLsb' 0 32).toNat ≤ most - least))) = true := by decide +kernel
theorem witness_arm_refused : demo.power.plist.toNat < 0x700000 ∧ demo.armBar = some 1 := by decide +kernel

/-- An armed set of no block: both lists empty, in the Cave's soft pages. -/
def armable : State := powered fun p => { p with plist := 0x700000#32, clist := 0x700000#32 }

theorem witness_arm : armable.armBar = none := by decide +kernel

/-- An image with an epoch. -/
def imageOf (epoch : Word) (isSealed : Bool) : Image :=
  { epoch := epoch, sealed := isSealed, consumed := false, haltTick := 0, haltCnt := 0, cores := Tbl.empty, coves := Tbl.empty, tenants := Tbl.empty
    tides := Tbl.empty, entries := Tbl.empty, outputs := Tbl.empty, mods := Tbl.empty, waves := Tbl.empty, sources := Tbl.empty, wakeEn := 0
    channels := Tbl.empty, tcap := Tbl.empty, links := Tbl.empty, eths := Tbl.empty, cans := Tbl.empty, uarts := Tbl.empty, pcie := Pcie.reset
    xspi := demo.xspi, i2cs := Tbl.empty, gates := Tbl.empty, persistent := [], armedP := [], armedC := [], scrubs := Tbl.empty }

theorem witness_seal :
    (imageOf 0 false).epoch = demo.power.ebbEpoch ∧ (imageOf 0 false).sealed = false ∧ demo.board.supplyBack = false ∧ demo.image = none
      ∧ ({ demo with phase := .saving } : State).phase = .saving := by decide +kernel
theorem witness_return :
    (let done := some Training.ready
     let s : State := { State.reset with image := some (imageOf 0 true), memCtl := ⟨[(0, { MemCtl.reset with training := done }), (1, { MemCtl.reset with training := done })]⟩ }
     decide (s.phase = .boot ∧ (imageOf 0 true).sealed = true ∧ (imageOf 0 true).consumed = false ∧ (imageOf 0 true).epoch = s.power.ebbEpoch
       ∧ (s.memc 0).training = some .ready ∧ (s.memc 1).training = some .ready)) = true := by decide +kernel
-- a warning of 100 us is long enough to save, one of 99 is not
theorem witness_warning : (∀ m, some 100 = some m → 100 ≤ m) ∧ ¬∀ m, some 99 = some m → 100 ≤ m := by
  constructor
  · intro m h; cases h; decide
  · intro h; exact absurd (h 99 rfl) (by decide)
theorem witness_trigger : demo.phase = .run ∧ demo.inj.waiting = [] ∧ demo.power.armed = false ∧ (powered fun p => { p with armed := true }).power.armed = true := by
  decide +kernel
theorem witness_crystal : ({ demo with board := { demo.board with crystalLost := true } } : State).board.crystalLost = true ∧ demo.board.crystalLost = false := by
  decide +kernel

/-- A boot image that passes every check. -/
def bootImage : BootImage :=
  { present := true, key := 1, keyHash := 0, sigOk := true, version := 0, enc := false, gcmOk := false, code := [0, 1], data := [], entry := 1 }

theorem witness_boot :
    State.reset.phase = .boot ∧ State.reset.image = none ∧ State.reset.core 0 = Core.reset 0 ∧ State.reset.otp.bootcfg.getLsbD 2 = true
      ∧ State.reset.otp.rollback ≤ bootImage.version ∧ State.reset.otp.bootcfg.getLsbD 3 = false ∧ bootImage.code.length ≤ 262144 ∧ 4 * bootImage.data.length ≤ 0x1C0000
      ∧ bootImage.keyHash = State.reset.otp.keyhash1 ∧ State.reset.otp.revoke.getLsbD 1 = false ∧ State.reset.board.pfwLow = false
      ∧ ([bootImage, bootImage, bootImage] : List BootImage).length = 3 ∧ State.reset.inj.waiting = [] ∧ ({ bootImage with present := false } : BootImage).present = false := by decide +kernel

-- R322, R324: Headland runs once an image passes every check.
theorem test_boot_runs : (let t := State.reset.tryBoot [bootImage, bootImage, bootImage] [2, 0, 1]
    decide (t.phase = .run ∧ ((t.core 0).slot 1).st = .active)) = true := by decide +kernel
theorem test_boot_waits : (State.reset.tryBoot [] [2, 0, 1]).phase = .bootWait := by decide +kernel
/-! ## Witnesses: monitors, pages, the scrubber, Hykiow, and whole steps -/

theorem witness_monitors :
    demo.power.monitorsOff = false ∧ (powered fun p => { p with monitorsOff := true }).power.monitorsOff = true ∧ demo.board.tidePllLost = false
      ∧ ({ demo with board := { demo.board with tidePllLost := true } } : State).board.tidePllLost = true := by decide +kernel
theorem witness_pages :
    pageAssigned 0x009 = false ∧ pageAssigned 0x03F = true ∧ (demo.frame 0x03F).flock = false ∧ (demo.frame 0x03F).lock = false
      ∧ (demo.frame 0x001).lock = true ∧ pageDomain 0x03F = some 37 ∧ pageDomain 0x001 = none ∧ bit (demo.frame 0x023).accept 0 = true
      ∧ BitVec.ofNat 12 (fld 5#32 11 0) ≠ (demo.frame 0x03F).owner ∧ (demo.frame 0).flock = false := by decide +kernel
theorem witness_feature_owing :
    (let s := { demo with feat := { demo.feat with owing := [8] } }
     decide (8 ∈ s.feat.owing ∧ (s.core 8).tm.st = .run ∧ s.coreRuns 8 = true ∧ (s.cove 1).copies = [] ∧ (s.cove 1).fenced = [] ∧ 9 ∉ s.feat.owing
       ∧ (s.modCore 8 fun c => { c with lost := true }).coreRuns 8 = false ∧ ∀ j, j ∈ s.feat.owing → j = 8)) = true := by
  decide +kernel

/-- The injection window open, with an injection armed on the last page's detector 0. -/
def armedInjection : State :=
  let s := { demo with inj := { demo.inj with open_ := true, endAt := 100000 } }
  s.setFrame 0x03F { s.frame 0x03F with inj := ⟨[(0, 0x80010000#32)]⟩ }

theorem witness_injection :
    demo.inj.first = none ∧ demo.inj.open_ = false ∧ (demo.frame 0x004).owner = head.ten ∧ detCount 0x03F ≤ 31 ∧ 0 < detCount 0x03F
      ∧ armedInjection.inj.open_ = true ∧ armedInjection.pageInService 0x03F = true ∧ 1 ≤ kindsOf 0x03F 0
      ∧ fld 0x80010000#32 19 16 = 1 ∧ bit 0x80010000#32 31 = true ∧ bit 0x80010000#32 30 = false := by decide +kernel
-- a window of 1 ms that may just have passed, and one that cannot have
theorem witness_window : (7200000 - 0 - 219727) * 5000 ≤ (6978878 - 0) * 5001 ∧ ¬((7200000 - 0 - 219727) * 5000 ≤ (6978877 - 0) * 5001) := by decide
theorem witness_unlock :
    (let s := { demo with inj := { demo.inj with first := some (head, 0) } }
     decide (s.inj.first = some (head, 0) ∧ (s.advance 7200).now - 0 ≤ 7200)) = true := by decide +kernel
theorem witness_registers :
    demo.pageCore 8 = some 8 ∧ (demo.frame (covePage 15)).owner = head.ten ∧ (demo.frame 0x010).owner = head.ten ∧ (demo.frame 0x008).owner = head.ten
      ∧ (demo.frame 0x001).owner = head.ten ∧ (demo.frame (covePage 15)).owner ≠ 5 ∧ 1 ≤ fld 1#32 4 0 ∧ fld 30#32 4 0 ≤ 30
      ∧ (0x03F#12).toNat < 0x040 ∧ (0#5).toNat < detCount 0x028 := by decide +kernel
theorem witness_scrubs :
    (demo.gate 15).st = .on ∧ bit (demo.cove 15).scrubCtrl 0 = true ∧ demo.phase ≠ .standby
      ∧ (∀ b : Fin 16, demo.eccAt (sramWord 15 (wordOfBank b.val (demo.cove 15).scrubPos.toNat)) = Ecc.clean)
      ∧ demo.codeEccAt (15 * 2 ^ 18 + (demo.cove 15).codePos.toNat) = Ecc.clean := by decide +kernel
-- an off patrol, and the carve-out's last beat where memory is fitted
theorem witness_patrol : bit (demo.memc 0).scrubCtrl 0 = true ∧ demo.phase ≠ .standby
    ∧ bit (({ demo with memCtl := ⟨[(1, { MemCtl.reset with scrubCtrl := 0 })]⟩ } : State).memc 1).scrubCtrl 0 = false := by decide +kernel
theorem witness_repair :
    (let pa := 0xE000000000 + 0x200000 * 15 + 4 * 0x7FFFF
     let s := (demo.modCove 15 fun c => { c with repairs := [.word 0x7FFFF] }).putEcc pa { Ecc.clean with kind := .dataBit }
     decide ((s.cove 15).repairs = [.word 0x7FFFF] ∧ ((s.eccAt pa).cls pa = 1 ∨ (s.eccAt pa).cls pa = 2))) = true := by decide +kernel
theorem witness_pcie_loss : ((pcieUp demo).cores.cells.all fun e => e.2.arch.slots.toList.all fun y => decide (y.wait = .none)) = true ∧ (pcieUp demo).pcie.up = true := by decide +kernel
theorem witness_hykiow :
    (let s := { demo with hykEn := true }
     decide (s.hykEn = true ∧ s.otp.bootcfg.getLsbD 4 = false ∧ demo.hykEn = false ∧ s.jtag.hykWait = none ∧ s.heldBack notACore 0xE000200000 = false
       ∧ s.storeRefused 0xE000200000 true false = false ∧ s.foreignPrivate none 0xE000200000 = false ∧ s.taggedTarget 0xE000200000 = true)) = true := by
  decide +kernel
theorem witness_hykiow_load :
    (match ({ stored 0 7 with hykEn := true } : State).targetLoad hykIssuer (hykPlace 0xE000200000) 4 with
     | (.ok (w, _), _) => decide (w = 7)
     | _ => false) = true := by decide +kernel
-- a group's replay holds a word back; the command before it waits for that word
theorem witness_hykiow_held :
    (let s := demo.modCore 8 fun c => { c with tm := { c.tm with restored := [0x400] } }
     decide (s.heldBack notACore 0xE000201000 = true ∧ s.heldBack notACore 0xE000201004 = false
       ∧ ({ s with jtag := { s.jtag with hykWait := some (0xE000201000, none) } } : State).jtag.hykWait = some (0xE000201000, none))) = true := by
  decide +kernel
/-- Every core's regions at reset let Hykiow's accesses through, whichever core carries them (log entry 49). -/
theorem witness_hykiow_mpu : ∀ k : Fin 128, (State.reset.core k.val).mpu hykIssuer 0xE000200000 true false = none
    ∧ (State.reset.core k.val).mpu hykIssuer 0xE000200000 false true = none := by decide +kernel

theorem test_idle_step : (match step demo with | .next t => decide (t = demo) | _ => false) = true := by decide +kernel
/-- A sound state whose next step answers a state: the machine at reset with a command in front. -/
theorem witness_sound_step : (match step { State.reset with pending := [.bypass [true]] } with | .next t => decide (t.jtag.out = [false]) | _ => false) = true := by
  decide +kernel
theorem witness_sound : Sound State.reset := by unfold Sound; decide +kernel
/-- Every entry of the demonstration core has a size and a base address aligned to it. -/
theorem witness_lookup_sizes (j : Nat) :
    8 ≤ fld ((demo.core 8).tlbEntry j).w2 29 24 ∧ fld ((demo.core 8).tlbEntry j).w2 29 24 ≤ 32
      ∧ ((demo.core 8).tlbEntry j).w1.toNat % 2 ^ (fld ((demo.core 8).tlbEntry j).w2 29 24 - 8) = 0 := by
  have e : (demo.core 8).tlbEntry j = if 0 = j then demoTlb else TlbEntry.reset := by
    show Tbl.get (fun _ => TlbEntry.reset) ⟨[(0, demoTlb)]⟩ j = _
    simp only [Tbl.get, cellsFind]
    by_cases h : 0 = j <;> simp [h]
  rw [e]
  split <;> decide +kernel
end

end Sys2Proof.Tests
end

section
/-! PROOFS. Capabilities as values: bounds as counts of granules, and what the derivations of R25 keep of them. -/

namespace Sys2Proof.Proofs

open Sys2Proof.Machine Sys2Proof.Claims

/-! ## Fields of a capability's second word -/

theorem fld_eq_div_mod (w : Word) (hi lo : Nat) : fld w hi lo = w.toNat / 2 ^ lo % 2 ^ (hi + 1 - lo) := by
  simp [fld, Nat.shiftRight_eq_div_pow]

theorem fld_lt (w : Word) (hi lo : Nat) : fld w hi lo < 2 ^ (hi + 1 - lo) := Nat.mod_lt _ (by positivity)

/-- A right, and K, is a bit of the RIGHTS field. -/
theorem bit_eq_rights_testBit (c : Cap) {n : Nat} (h : n < 7) : bit c.w1 n = c.rights.testBit n := by
  rw [Cap.rights, fld, Nat.testBit_mod_two_pow]
  simp [bit, h]

theorem sealed_eq_rights_testBit (c : Cap) : c.sealed = c.rights.testBit 6 := bit_eq_rights_testBit c (by decide)

theorem rights_lt (c : Cap) : c.rights < 128 := fld_lt c.w1 6 0

/-- Normalisation only takes rights away (R19). -/
theorem testBit_of_normRights {r n : Nat} (h : (normRights r).testBit n = true) : r.testBit n = true := by
  unfold normRights at h
  split at h
  · exact (Bool.and_eq_true_iff.mp (Nat.testBit_and r 0x67 n ▸ h)).1
  · exact h

theorem normRights_lt {r : Nat} (h : r < 128) : normRights r < 128 := by
  unfold normRights
  split
  · exact Nat.and_lt_two_pow r (n := 7) (by decide)
  · exact h

theorem bMant_lt (c : Cap) : c.bMant < 1024 := by
  have hs := fld_lt c.w1 26 20
  have hu := fld_lt c.w1 26 17
  unfold Cap.bMant
  split <;> omega

/-! ## Decoded bounds in granules (R21) -/

/-- The number of the block in whose upper or own part the base mantissa `b` lies, for a cursor in granule `q` (R21). -/
def baseBlock (b q : Nat) : Int := if b ≤ q % 1024 then (q / 1024 : Nat) else (q / 1024 : Nat) - 1

/-- The granule at which the bounds of a capability start, where E is not 22 (R21). -/
def baseGranule (c : Cap) : Int := 1024 * baseBlock c.bMant (c.w0.toNat / 2 ^ c.e) + c.bMant

/-- The decoding of R21 where E is not 22, in granules of 2^E bytes. -/
theorem decodeBounds_of_e_ne (c : Cap) (h : c.e ≠ 22) :
    decodeBounds c =
      { base := baseGranule c * 2 ^ c.e
        top := (baseGranule c + ((c.tMant : Int) - c.bMant) % 1024) * 2 ^ c.e
        repLo := baseGranule c * 2 ^ c.e
        repHi := min ((baseGranule c + 1024) * 2 ^ c.e) (2 ^ 32) } := by
  have hblk : c.w0.toNat / 2 ^ (c.e + 10) = c.w0.toNat / 2 ^ c.e / 1024 := by
    rw [pow_add, Nat.div_div_eq_div_mul]; norm_num
  simp only [decodeBounds, h, if_false, hblk, baseGranule, baseBlock]
  push_cast
  rw [show ((2 : Int) ^ (c.e + 10)) = 1024 * 2 ^ c.e by rw [pow_add]; ring]
  simp only [Bounds.mk.injEq]
  refine ⟨?_, ?_, ?_, ?_⟩ <;> ring_nf

/-- The decoding of R21 where E is 22 does not depend on the cursor. -/
theorem decodeBounds_of_e_eq (c : Cap) (h : c.e = 22) :
    decodeBounds c =
      { base := (c.bMant : Int) * 2 ^ 22, top := if c.tMant = 0 then 2 ^ 32 else (c.tMant : Int) * 2 ^ 22
        repLo := 0, repHi := 2 ^ 32 } := by
  simp [decodeBounds, h]

/-- The bounds depend on the cursor, E and the two mantissas only. -/
theorem decodeBounds_congr {c c' : Cap} (hw : c'.w0 = c.w0) (he : c'.e = c.e) (hb : c'.bMant = c.bMant) (ht : c'.tMant = c.tMant) :
    decodeBounds c' = decodeBounds c := by
  simp only [decodeBounds, hw, he, hb, ht]

/-- A cursor within 1024 granules of the base keeps the block of the base. -/
theorem baseBlock_of_near {b q q' : Nat} (hb : b < 1024) (h1 : 1024 * baseBlock b q + b ≤ q') (h2 : q' < 1024 * baseBlock b q + b + 1024) :
    baseBlock b q' = baseBlock b q := by
  unfold baseBlock at *
  split at h1 <;> split <;> simp_all only [if_true, if_false] <;> omega

/-- A cursor inside the representable region leaves the bounds as they were (R22). -/
theorem decodeBounds_cursor_in_region (c : Cap) (w : Word) (t : Bool) (hlo : (decodeBounds c).repLo ≤ (w.toNat : Int))
    (hhi : (w.toNat : Int) < (decodeBounds c).repHi) :
    decodeBounds { c with w0 := w, tag := t } = decodeBounds c := by
  by_cases he : c.e = 22
  · exact (decodeBounds_of_e_eq { c with w0 := w, tag := t } he).trans (decodeBounds_of_e_eq c he).symm
  · have hg : (0 : Int) < 2 ^ c.e := by positivity
    rw [decodeBounds_of_e_ne c he] at hlo hhi
    have h1 : baseGranule c ≤ (w.toNat / 2 ^ c.e : Nat) := by
      push_cast; exact (Int.le_ediv_iff_mul_le hg).mpr hlo
    have h2 : ((w.toNat / 2 ^ c.e : Nat) : Int) < baseGranule c + 1024 := by
      push_cast; exact Int.ediv_lt_of_lt_mul hg (lt_of_lt_of_le hhi (min_le_left _ _))
    have hbase : baseGranule { c with w0 := w, tag := t } = baseGranule c := by
      show 1024 * baseBlock c.bMant (w.toNat / 2 ^ c.e) + _ = _
      rw [baseBlock_of_near (bMant_lt c) h1 h2]; rfl
    rw [decodeBounds_of_e_ne { c with w0 := w, tag := t } he, decodeBounds_of_e_ne c he, hbase]
    rfl

theorem repHi_le (c : Cap) : (decodeBounds c).repHi ≤ 2 ^ 32 := by
  by_cases he : c.e = 22
  · simp [decodeBounds_of_e_eq c he]
  · simp [decodeBounds_of_e_ne c he]

/-- A capability whose tag survives a move of its cursor has the bounds and the rights of before (R22). -/
theorem narrower_moved (c : Cap) (target : Int) : Narrower c (c.moved target) := by
  intro ht
  simp only [Cap.moved, Bool.and_eq_true, decide_eq_true_eq] at ht
  obtain ⟨⟨⟨htag, hlo⟩, hhi⟩, hpos⟩ := ht
  have hw : ((BitVec.ofInt 32 target).toNat : Int) = target := by
    have := repHi_le c
    rw [BitVec.toNat_ofInt]
    omega
  have hsame : decodeBounds (c.moved target) = decodeBounds c :=
    decodeBounds_cursor_in_region c _ _ (by rw [hw]; exact hlo) (by rw [hw]; exact hhi)
  rw [hsame]
  exact ⟨htag, le_refl _, le_refl _, fun _ _ h => h⟩

/-! ## Encoded bounds (R24) -/

/-- The first granule at or above a top. -/
def topGranule (t0 e : Nat) : Nat := (t0 + 2 ^ e - 1) / 2 ^ e

/-- An encoding of a span: its mantissas are those of the granules around it, of which there are at most 960 below E 22 (R24). -/
structure Encodes (b0 t0 : Nat) (en : Encoded) : Prop where
  e_le : en.e ≤ 22
  b_eq : en.b = b0 / 2 ^ en.e % 1024
  t_eq : en.t = topGranule t0 en.e % 1024
  base_eq : en.base = ((b0 / 2 ^ en.e * 2 ^ en.e : Nat) : Int)
  top_eq : en.top = ((topGranule t0 en.e * 2 ^ en.e : Nat) : Int)
  short : en.e ≠ 22 → topGranule t0 en.e - b0 / 2 ^ en.e ≤ 960

theorem encodeFrom_encodes {b0 t0 : Nat} (hb : b0 < 2 ^ 32) (k : Nat) : Encodes b0 t0 (encodeFrom b0 t0 k) := by
  induction k with
  | zero =>
    have : b0 / 2 ^ 22 < 1024 := by omega
    exact ⟨le_refl _, (Nat.mod_eq_of_lt this).symm, rfl, rfl, rfl, fun h => absurd rfl h⟩
  | succ k ih =>
    simp only [encodeFrom]
    split
    next h => exact ⟨by show 21 - k ≤ 22; omega, rfl, rfl, rfl, rfl, fun _ => h⟩
    next => exact ih

theorem encodeBounds_encodes {b0 : Nat} (t0 : Nat) (hb : b0 < 2 ^ 32) : Encodes b0 t0 (encodeBounds b0 t0) := encodeFrom_encodes hb 22

/-- A span that needs E 22 has a top above 0. -/
theorem pos_of_encodeBounds_e {b0 t0 : Nat} (h : (encodeBounds b0 t0).e = 22) : 0 < t0 := by
  by_contra h0
  obtain rfl : t0 = 0 := by omega
  simp [encodeBounds, encodeFrom] at h

theorem le_topGranule_mul (t0 e : Nat) : t0 ≤ topGranule t0 e * 2 ^ e := by
  have hg : 0 < 2 ^ e := by positivity
  have := Nat.lt_div_mul_add hg (a := t0 + 2 ^ e - 1)
  unfold topGranule
  omega

theorem packW1_toNat {e b t r : Nat} (he : e < 32) (hb : b < 1024) (ht : t < 1024) (hr : r < 128) :
    (packW1 e b t r).toNat = e * 2 ^ 27 + b * 2 ^ 17 + t * 2 ^ 7 + r := by
  have h1 := Nat.shiftLeft_add_eq_or_of_lt (i := 7) (b := r) hr t
  have h2 := Nat.shiftLeft_add_eq_or_of_lt (i := 17) (b := t <<< 7 + r) (by rw [Nat.shiftLeft_eq]; omega) b
  have h3 := Nat.shiftLeft_add_eq_or_of_lt (i := 27) (b := b <<< 17 + (t <<< 7 + r)) (by simp only [Nat.shiftLeft_eq]; omega) e
  have hpack : packW1 e b t r = BitVec.ofNat 32 (e <<< 27 ||| (b <<< 17 ||| (t <<< 7 ||| r))) := by
    simp [packW1, at_, BitVec.ofNat_or, BitVec.or_assoc]
  rw [hpack, ← h1, ← h2, ← h3, BitVec.toNat_ofNat]
  simp only [Nat.shiftLeft_eq]
  omega

/-- The fields of a capability packed unsealed (R16). -/
theorem packed_fields {e b t r : Nat} (w : Word) (tag : Bool) (he : e < 32) (hb : b < 1024) (ht : t < 1024) (hr : r < 64) :
    let c : Cap := { w0 := w, w1 := packW1 e b t r, tag := tag }
    c.e = e ∧ c.bMant = b ∧ c.tMant = t ∧ c.rights = r := by
  intro c
  have hw : c.w1.toNat = e * 2 ^ 27 + b * 2 ^ 17 + t * 2 ^ 7 + r := packW1_toNat he hb ht (by omega)
  have hrights : c.rights = r := by rw [Cap.rights, fld_eq_div_mod, hw]; omega
  have hsealed : c.sealed = false := by
    rw [sealed_eq_rights_testBit, hrights]; exact Nat.testBit_lt_two_pow hr
  refine ⟨?_, ?_, ?_, hrights⟩
  · rw [Cap.e, fld_eq_div_mod, hw]; omega
  · simp only [Cap.bMant, hsealed, Bool.false_eq_true, if_false, fld_eq_div_mod, hw]; omega
  · simp only [Cap.tMant, hsealed, Bool.false_eq_true, if_false, fld_eq_div_mod, hw]; omega

/-- An encoded span decodes to the granules around it: below E 22 to exactly these, and at E 22 to these where they end at 2^32 or
below, and to an earlier end otherwise (R21, R24). -/
theorem decodeBounds_of_encodes {c : Cap} {t0 : Nat} {en : Encoded} (h : Encodes c.w0.toNat t0 en) (hle : c.w0.toNat ≤ t0)
    (hpos : en.e = 22 → 0 < t0) (he : c.e = en.e) (hb : c.bMant = en.b) (ht : c.tMant = en.t) :
    (decodeBounds c).base = en.base ∧ (decodeBounds c).top ≤ en.top ∧ (en.top ≤ 2 ^ 32 → (decodeBounds c).top = en.top) := by
  obtain ⟨-, hbe, hte, hbase, htop, hshort⟩ := h
  have hgran := le_topGranule_mul t0 en.e
  by_cases h22 : en.e = 22
  · have hlt := c.w0.isLt
    rw [h22] at hbe hte hbase htop hgran
    have := hpos h22
    rw [decodeBounds_of_e_eq c (he.trans h22), hb, ht, hbe, hte, hbase, htop]
    refine ⟨by push_cast; omega, ?_, ?_⟩ <;> split <;> push_cast <;> omega
  · have hg : 0 < 2 ^ en.e := by positivity
    have hlo : c.w0.toNat / 2 ^ en.e ≤ topGranule t0 en.e :=
      (Nat.div_le_div_right hle).trans (Nat.div_le_of_le_mul (by rw [mul_comm]; exact hgran))
    have hs := hshort h22
    have hgr : baseGranule c = (c.w0.toNat / 2 ^ en.e : Nat) := by
      unfold baseGranule baseBlock
      rw [he, hb, hbe, if_pos (le_refl _)]
      omega
    have hlen : ((c.tMant : Int) - c.bMant) % 1024 = (topGranule t0 en.e : Int) - (c.w0.toNat / 2 ^ en.e : Nat) := by
      rw [hb, ht, hbe, hte]
      omega
    have hd : (decodeBounds c).top = en.top := by
      rw [decodeBounds_of_e_ne c (he ▸ h22), htop, hgr, hlen, he]
      push_cast
      ring
    refine ⟨?_, hd.le, fun _ => hd⟩
    rw [decodeBounds_of_e_ne c (he ▸ h22), hbase, hgr, he]
    push_cast
    rfl

/-! ## The derivations (R25) -/

/-- What an accepted CSETBND answers: the encoding of the span, inside the source's bounds, and under CSETBND.X with no rounding. -/
theorem capSetBnd_ok {exact_ : Bool} {c c' : Cap} {len : Word} (h : capSetBnd exact_ c len = .ok c') :
    let en := encodeBounds c.w0.toNat (c.w0.toNat + len.toNat)
    c.tag = true ∧ c.sealed = false ∧ (decodeBounds c).base ≤ en.base ∧ en.top ≤ (decodeBounds c).top
      ∧ (exact_ = true → en.base = (c.w0.toNat : Int) ∧ en.top = ((c.w0.toNat + len.toNat : Nat) : Int))
      ∧ c' = { w0 := c.w0, w1 := packW1 en.e en.b en.t (normRights c.rights), tag := true } := by
  intro en
  unfold capSetBnd at h
  split at h
  · cases h
  split at h
  · cases h
  split at h
  · cases h
  dsimp only at h
  split at h
  · cases h
  next hin =>
  split at h
  · cases h
  next hex =>
  simp only [not_or, not_lt] at hin
  refine ⟨by simp_all, by simp_all, hin.1, hin.2, fun hx => ?_, (Except.ok.inj h).symm⟩
  simpa [hx] using hex

/-- The bounds of what CSETBND answers: those of the encoding. -/
theorem decodeBounds_capSetBnd {exact_ : Bool} {c c' : Cap} {len : Word} (h : capSetBnd exact_ c len = .ok c') :
    let en := encodeBounds c.w0.toNat (c.w0.toNat + len.toNat)
    c'.rights = normRights c.rights ∧ (decodeBounds c').base = en.base ∧ (decodeBounds c').top ≤ en.top
      ∧ (en.top ≤ 2 ^ 32 → (decodeBounds c').top = en.top) := by
  intro en
  obtain ⟨-, hseal, -, -, -, rfl⟩ := capSetBnd_ok h
  have henc : Encodes c.w0.toNat (c.w0.toNat + len.toNat) en := encodeBounds_encodes _ c.w0.isLt
  have hr : normRights c.rights < 64 := by
    have h7 : normRights c.rights < 2 ^ 7 := normRights_lt (rights_lt c)
    have h6 : (normRights c.rights).testBit 6 = false := by
      by_contra hbit
      have := testBit_of_normRights (Bool.eq_true_of_not_eq_false hbit)
      rw [← sealed_eq_rights_testBit, hseal] at this
      exact Bool.noConfusion this
    exact Nat.lt_of_testBit 6 h6 (by decide) fun j hj => by
      rw [Nat.testBit_lt_two_pow (lt_of_lt_of_le h7 (Nat.pow_le_pow_right (by decide) hj))]
      exact (Nat.testBit_lt_two_pow (lt_of_lt_of_le (by decide) (Nat.pow_le_pow_right (by decide) hj))).symm
  have hb : en.b < 1024 := henc.b_eq ▸ Nat.mod_lt _ (by decide)
  have ht : en.t < 1024 := henc.t_eq ▸ Nat.mod_lt _ (by decide)
  obtain ⟨fe, fb, ft, fr⟩ := packed_fields c.w0 true (Nat.lt_of_le_of_lt henc.e_le (by decide)) hb ht hr
  exact ⟨fr, decodeBounds_of_encodes henc (Nat.le_add_right _ _) pos_of_encodeBounds_e fe fb ft⟩

theorem narrower_capSetBnd {exact_ : Bool} {c c' : Cap} {len : Word} (h : capSetBnd exact_ c len = .ok c') : Narrower c c' := by
  obtain ⟨htag, -, hbase, htop, -, -⟩ := capSetBnd_ok h
  obtain ⟨hr, hb, ht, -⟩ := decodeBounds_capSetBnd h
  refine fun _ => ⟨htag, hb ▸ hbase, ht.trans htop, fun n hn hbit => ?_⟩
  rw [bit_eq_rights_testBit _ hn, hr] at hbit
  rw [bit_eq_rights_testBit _ hn]
  exact testBit_of_normRights hbit

/-- CSETBND.X gives the bounds asked for, where they do not reach past the address space. -/
theorem decodeBounds_capSetBnd_exact {c c' : Cap} {len : Word} (h : capSetBnd true c len = .ok c')
    (hfit : len.toNat + c.w0.toNat ≤ 2 ^ 32) :
    (decodeBounds c').base = c.w0.toNat ∧ (decodeBounds c').top = c.w0.toNat + len.toNat := by
  obtain ⟨-, -, -, -, hex, -⟩ := capSetBnd_ok h
  obtain ⟨-, hb, -, ht⟩ := decodeBounds_capSetBnd h
  obtain ⟨hbase, htop⟩ := hex rfl
  rw [hb, hbase, ht (by rw [htop]; omega), htop]
  exact ⟨rfl, by push_cast; rfl⟩

theorem withFld_rights_toNat (w : Word) {v : Nat} (hv : v < 128) : (withFld w 6 0 v).toNat = w.toNat / 128 * 128 + v := by
  have := w.isLt
  simp only [withFld, fld_eq_div_mod, BitVec.toNat_ofNat, Nat.shiftLeft_eq]
  omega

/-- What an accepted CANDR answers. -/
theorem capAndR_ok {c c' : Cap} {imm : Nat} (h : capAndR c imm = .ok c') :
    c.tag = true ∧ c.sealed = false ∧ c' = { c with w1 := withFld c.w1 6 0 (normRights (c.rights &&& imm)) } := by
  unfold capAndR at h
  split at h
  · cases h
  split at h
  · cases h
  exact ⟨by simp_all, by simp_all, (Except.ok.inj h).symm⟩

/-- CANDR masks the rights and leaves the bounds. -/
theorem capAndR_fields {c c' : Cap} {imm : Nat} (h : capAndR c imm = .ok c') :
    c'.rights = normRights (c.rights &&& imm) ∧ decodeBounds c' = decodeBounds c := by
  obtain ⟨-, hseal, rfl⟩ := capAndR_ok h
  have hv : normRights (c.rights &&& imm) < 128 := normRights_lt (Nat.lt_of_le_of_lt Nat.and_le_left (rights_lt c))
  have hw := withFld_rights_toNat c.w1 hv
  generalize hc' : ({ c with w1 := withFld c.w1 6 0 (normRights (c.rights &&& imm)) } : Cap) = c'
  have hw1 : c'.w1.toNat = c.w1.toNat / 128 * 128 + normRights (c.rights &&& imm) := by rw [← hc']; exact hw
  have hr : c'.rights = normRights (c.rights &&& imm) := by rw [Cap.rights, fld_eq_div_mod, hw1]; omega
  have hseal' : c'.sealed = false := by
    rw [sealed_eq_rights_testBit, hr]
    by_contra hbit
    have := testBit_of_normRights (Bool.eq_true_of_not_eq_false hbit)
    rw [Nat.testBit_and, ← sealed_eq_rights_testBit, hseal, Bool.false_and] at this
    exact Bool.noConfusion this
  refine ⟨hr, decodeBounds_congr (by rw [← hc']) ?_ ?_ ?_⟩
  · simp only [Cap.e, fld_eq_div_mod, hw1]; omega
  · simp only [Cap.bMant, hseal, hseal', Bool.false_eq_true, if_false, fld_eq_div_mod, hw1]; omega
  · simp only [Cap.tMant, hseal, hseal', Bool.false_eq_true, if_false, fld_eq_div_mod, hw1]; omega

theorem narrower_capAndR {c c' : Cap} {imm : Nat} (h : capAndR c imm = .ok c') : Narrower c c' := by
  obtain ⟨htag, -, -⟩ := capAndR_ok h
  obtain ⟨hr, hbd⟩ := capAndR_fields h
  refine fun _ => ⟨htag, hbd ▸ le_refl _, hbd ▸ le_refl _, fun n hn hbit => ?_⟩
  rw [bit_eq_rights_testBit _ hn, hr] at hbit
  have := testBit_of_normRights hbit
  rw [Nat.testBit_and, Bool.and_eq_true] at this
  rw [bit_eq_rights_testBit _ hn]
  exact this.1

/-- Outside modulo mode CADD and CADDI move the cursor (R25). -/
theorem narrower_capAdd {mode : Nat} {c c' : Cap} {v : Int} {lost : Word} (hm : mode ≠ 1) (h : capAdd mode c v lost = .ok c') :
    Narrower c c' := by
  unfold capAdd at h
  cases hc : moveCheck c with
  | error e => simp [hc, bind, Except.bind] at h
  | ok u =>
    simp only [hc, bind, Except.bind, hm, decide_false, Bool.false_and, Bool.false_eq_true, if_false, Except.ok.injEq] at h
    exact h ▸ narrower_moved c _

theorem narrower_capSetC {c c' : Cap} {w : Word} (h : capSetC c w = .ok c') : Narrower c c' := by
  unfold capSetC at h
  cases hc : moveCheck c with
  | error e => simp [hc, bind, Except.bind] at h
  | ok u =>
    simp only [hc, bind, Except.bind, Except.ok.injEq] at h
    exact h ▸ narrower_moved c _

/-- CSPAN narrows the span of a tagged space capability (R25, R31). -/
theorem capSpan_narrows {c c' : Cap} {w : Word} (h : capSpan c w = .ok c') :
    c'.tag = true ∧ c.tag = true ∧ c.spBase ≤ c'.spBase ∧ c'.spLimit ≤ c.spLimit := by
  unfold capSpan at h
  split at h
  · cases h
  next ht =>
  split at h
  · cases h
  split at h
  · cases h
  dsimp only at h
  split at h
  · cases h
  split at h
  · cases h
  next hin =>
  obtain rfl := Except.ok.inj h
  simp only [not_or, not_lt] at hin
  have htag : c.tag = true := by simpa using ht
  exact ⟨htag, htag, hin.1, hin.2⟩

/-- Settles O14: a move keeps the tag only where it keeps the bounds, CSETBND's encoding decodes to itself or less, and CANDR and
the normalisation only clear rights. -/
theorem derivationNarrows : Obligations.DerivationNarrows := by
  intro c c' v w n mode exact_
  exact ⟨narrower_capAdd, narrower_capSetC,
    fun h => ⟨narrower_capSetBnd h, by obtain ⟨-, -, -, -, -, rfl⟩ := capSetBnd_ok h; rfl⟩,
    decodeBounds_capSetBnd_exact, fun h => ⟨narrower_capAndR h, (capAndR_fields h).2⟩, capSpan_narrows⟩

end Sys2Proof.Proofs
end

section
/-! PROOFS. The state at reset: every table is empty, so each part reads as the reset value of its chapter. -/

namespace Sys2Proof.Proofs

open Sys2Proof.Machine Sys2Proof.Claims

/-! ## What the empty tables read as -/

theorem core_reset (k : Nat) : State.reset.core k = Core.reset k := rfl
theorem cove_reset (n : Nat) : State.reset.cove n = Cove.reset n := rfl
theorem tenant_reset (t : Nat) : State.reset.tenant t = Tenant.reset t := rfl
theorem tide_reset (i : Nat) : State.reset.tide i = Tide.reset := rfl
theorem entry_reset (i : Nat) : State.reset.entry i = Entry.reset := rfl
theorem output_reset (i : Nat) : State.reset.output i = Output.reset := rfl
theorem mod_reset (i : Nat) : State.reset.mod i = ModInput.reset := rfl
theorem wave_reset (i : Nat) : State.reset.wave i = Wave.reset := rfl
theorem source_reset (i : Nat) : State.reset.source i = Source.reset := rfl
theorem channel_reset (i : Nat) : State.reset.channel i = Channel.reset := rfl
theorem link_reset (l : Nat) : State.reset.link l = Link.reset := rfl
theorem eth_reset (i : Nat) : State.reset.eth i = Eth.reset := rfl
theorem gate_reset (d : Nat) : State.reset.gate d = Gate.reset := rfl
theorem frame_reset (p : Nat) : State.reset.frame p = Frame.reset p := rfl
theorem tagAt_reset (a : Nat) : State.reset.tagAt a = .unwritten := rfl

/-! ## The parts -/

/-- Memory, tags, code and check bits list nothing at reset. -/
theorem sound_reset : Sound State.reset := ⟨Laws.reset_memory_wf, rfl, rfl, rfl, rfl⟩

theorem slot_reset (k : Nat) (sl : Fin 8) : (Core.reset k).slot sl = Slot.fresh := Vector.getElem_replicate _

theorem tlbEntry_reset (k j : Nat) : (Core.reset k).tlbEntry j = TlbEntry.reset := rfl

theorem windows_reset (k : Nat) (n : Fin 8) : (Core.reset k).tlbWin[n] = 0 := Vector.getElem_replicate _

theorem regions_reset (k : Nat) (n : Fin 16) : (Core.reset k).mpuBase[n] = 0 ∧ (Core.reset k).mpuAttr[n] = 0 :=
  ⟨Vector.getElem_replicate _, Vector.getElem_replicate _⟩

/-- Every cove but the first is in Split (R203). -/
theorem cove_mode_reset {n : Nat} (h : n ≠ 0) : (Cove.reset n).mode = .split := by simp [Cove.reset, h]

/-- Every tenant but Headland is FREE, with an allotment that holds nothing (R33). -/
theorem tenant_free_reset {t : Nat} (h : t ≠ 0) :
    (Tenant.reset t).st = .free ∧ (Tenant.reset t).base = 1 ∧ (Tenant.reset t).last = 0 := by
  simp [Tenant.reset, h]

/-- Settles O59: the reset tables are empty, so every read gives the reset value of its part. -/
theorem atReset : Obligations.AtReset := by
  simp only [Obligations.AtReset, core_reset, cove_reset, tenant_reset, tide_reset, entry_reset, output_reset, mod_reset, wave_reset,
    source_reset, channel_reset, link_reset, eth_reset, gate_reset, frame_reset, slot_reset, tlbEntry_reset]
  refine ⟨sound_reset, rfl, tagAt_reset, fun k => ⟨fun _ => rfl, rfl, rfl, rfl, fun _ => by decide, windows_reset k, regions_reset k,
    rfl, rfl, rfl, rfl⟩, rfl,
    fun _ => cove_mode_reset, fun _ => rfl, rfl, rfl, rfl, fun _ => tenant_free_reset, rfl, fun _ => ⟨rfl, rfl, rfl, rfl, rfl, rfl⟩,
    fun _ => ⟨rfl, rfl⟩, fun _ => rfl, fun _ => rfl, fun _ => rfl, fun _ => ⟨rfl, rfl, rfl, rfl, rfl⟩, fun _ => rfl,
    fun _ => ⟨rfl, rfl, rfl, rfl⟩, fun _ => rfl, rfl, rfl, rfl, fun _ => rfl, rfl, rfl, fun _ _ => ⟨rfl, rfl, rfl⟩⟩

end Sys2Proof.Proofs
end

section
/-! PROOFS. Threads: what stays in one core, and how an operation that a thread issues ends (R65, R72, R87). -/

namespace Sys2Proof.Proofs

open Sys2Proof.Machine Sys2Proof.Claims

/-! ## Changes of one core -/

theorem onlyCore_refl (s : State) (k : Nat) : OnlyCore s s k := ⟨rfl, fun _ _ => rfl⟩

theorem onlyCore_trans {s t u : State} {k : Nat} (h : OnlyCore s t k) (g : OnlyCore t u k) : OnlyCore s u k := by
  obtain ⟨hrest, hcores⟩ := h
  obtain ⟨grest, gcores⟩ := g
  exact ⟨(congrArg (fun r : State => { r with cores := s.cores }) grest).trans hrest,
    fun j hj => (gcores j hj).trans (hcores j hj)⟩

theorem onlyCore_modCore (s : State) (k : Nat) (f : Core → Core) : OnlyCore s (s.modCore k f) k :=
  ⟨rfl, fun j hj => by rw [Laws.core_modCore, if_neg hj]⟩

theorem onlyCore_modSlot (s : State) (k : Nat) (sl : Fin 8) (f : Slot → Slot) : OnlyCore s (s.modSlot k sl f) k :=
  onlyCore_modCore s k _

theorem onlyCore_setTop (s : State) (th : ThreadId) (x : Ctx) : OnlyCore s (s.setTop th x) th.core := onlyCore_modCore s _ _

theorem onlyCore_issuing (s : State) (th : ThreadId) : OnlyCore s (issuing s th) th.core := onlyCore_modCore s _ _

/-! ## Slots and top contexts -/

@[simp] theorem slot_modSlot_self (s : State) (k : Nat) (sl : Fin 8) (f : Slot → Slot) :
    ((s.modSlot k sl f).core k).slot sl = f ((s.core k).slot sl) := by simp [State.modSlot]

@[simp] theorem slot_setTop (s : State) (th : ThreadId) (x : Ctx) (sl : Fin 8) :
    ((s.setTop th x).core th.core).slot sl = (s.core th.core).slot sl := by simp [State.setTop]

@[simp] theorem slot_issuing (s : State) (th : ThreadId) (sl : Fin 8) :
    ((issuing s th).core th.core).slot sl = (s.core th.core).slot sl := by simp [issuing]

@[simp] theorem topCtx_issuing (s : State) (th : ThreadId) : (issuing s th).topCtx th = s.topCtx th := Laws.topCtx_touched s th

@[simp] theorem tm_issuing (s : State) (th : ThreadId) : ((issuing s th).core th.core).tm = (s.core th.core).tm := by
  simp [issuing, Core.touchBank]

/-- A change of its slot that leaves the top level leaves the thread's top context. -/
theorem topCtx_modSlot (s : State) (th : ThreadId) (f : Slot → Slot) (h : ∀ y, (f y).top = y.top) :
    (s.modSlot th.core th.slot f).topCtx th = s.topCtx th := by
  simp [State.topCtx, State.modSlot, h]

@[simp] theorem topCtx_awaits (s : State) (th : ThreadId) : (s.awaits th).topCtx th = s.topCtx th :=
  topCtx_modSlot s th _ fun _ => rfl

/-! ## The end of a parcel -/

@[simp] theorem wait_stepOver (s : State) (th : ThreadId) :
    (((s.stepOver th).core th.core).slot th.slot).wait = ((s.core th.core).slot th.slot).wait := by
  unfold State.stepOver
  cases s.topCtx th <;> simp

theorem onlyCore_stepOver (s : State) (th : ThreadId) : OnlyCore s (s.stepOver th) th.core := by
  unfold State.stepOver
  cases s.topCtx th with
  | none => exact onlyCore_modSlot s _ _ _
  | some x => exact onlyCore_trans (onlyCore_setTop s th _) (onlyCore_modSlot _ _ _ _)

/-- What a thread whose access waits keeps of the context before its parcel stands in its slot only (R314). -/
theorem keepBefore_cases (s t : State) (th : ThreadId) :
    s.keepBefore t th = t ∨ s.keepBefore t th = t.modSlot th.core th.slot fun y => { y with before := s.topCtx th } := by
  unfold State.keepBefore
  dsimp only
  split
  · exact .inr rfl
  · exact .inl rfl

@[simp] theorem topCtx_keepBefore (s t : State) (th : ThreadId) : (s.keepBefore t th).topCtx th = t.topCtx th := by
  rcases keepBefore_cases s t th with h | h <;> rw [h]
  exact topCtx_modSlot t th _ fun _ => rfl

@[simp] theorem wait_keepBefore (s t : State) (th : ThreadId) :
    (((s.keepBefore t th).core th.core).slot th.slot).wait = ((t.core th.core).slot th.slot).wait := by
  rcases keepBefore_cases s t th with h | h <;> simp [h]

theorem onlyCore_keepBefore (s t : State) (th : ThreadId) : OnlyCore t (s.keepBefore t th) th.core := by
  rcases keepBefore_cases s t th with h | h <;> rw [h]
  · exact onlyCore_refl t _
  · exact onlyCore_modSlot t _ _ _

/-! ## Issue -/

/-- A thread that may issue waits for nothing, and its group runs (R113). -/
theorem ready_runs {s : State} {th : ThreadId} {x : Ctx} (h : s.ready th = some x) :
    s.coreRuns th.core = true ∧ ((s.core th.core).slot th.slot).wait = .none := by
  unfold State.ready at h
  dsimp only at h
  split at h
  next hr => simp only [Bool.and_eq_true, decide_eq_true_eq] at hr; exact ⟨hr.1.1, hr.2⟩
  next => cases h

/-- A group whose threads issue does not replay (R211). -/
theorem not_replaying_of_ready {s : State} {th : ThreadId} {x : Ctx} (h : s.ready th = some x) : s.replaying th.core = false := by
  have hr := (ready_runs h).1
  simp only [State.coreRuns, Bool.and_eq_true, Bool.or_eq_true, decide_eq_true_eq] at hr
  rcases hr.2 with hst | hst <;> simp [State.replaying, hst]

/-- A thread that may issue finds its registers in its bank as its parcel runs. -/
theorem topCtx_issuing_of_ready {s : State} {th : ThreadId} {x : Ctx} (h : s.ready th = some x) :
    (issuing s th).topCtx th = some x := (topCtx_issuing s th).trans (Laws.topCtx_of_ready h)

/-- A plain operation of a thread that may issue runs and ends (R72). -/
theorem issue_plainOp {s : State} {th : ThreadId} {x : Ctx} (h : s.ready th = some x) (i : Instr) (run : Op) :
    s.issue th i (plainOp run)
      = (issuing s th).settleOp th ((issuing s th).parcelNow x) 0 false [i] (run th (issuing s th)) := by
  have ht := topCtx_issuing_of_ready h
  have hrun : (plainOp run).checked th (issuing s th) = run th (issuing s th) := by
    simp [Operation.checked, ht, plainOp, Core.accepts]
  rw [← hrun]
  simp only [State.issue, h]
  rfl

/-- A plain operation that completes. -/
theorem issue_plainOp_done {s t : State} {th : ThreadId} {x : Ctx} {i : Instr} {run : Op} (h : s.ready th = some x)
    (hr : run th (issuing s th) = .done t) : s.issue th i (plainOp run) = (issuing s th).keepBefore (t.stepOver th) th := by
  rw [issue_plainOp h, hr]; rfl

/-- A plain operation that sets PCC itself. -/
theorem issue_plainOp_jump {s t : State} {th : ThreadId} {x : Ctx} {i : Instr} {run : Op} (h : s.ready th = some x)
    (hr : run th (issuing s th) = .jump t) : s.issue th i (plainOp run) = (issuing s th).keepBefore (t.jumped th) th := by
  rw [issue_plainOp h, hr]; rfl

/-! ## Operations on registers only -/

/-- A change of a core that touches nothing but what its banks hold for one slot and level. -/
structure OnlyBank (c c' : Core) (sl : Fin 8) (lv : Fin 3) : Prop where
  rest : { c' with arch := { c'.arch with banks := c.arch.banks } } = c
  ctx : ∀ i j, ¬(i = sl ∧ j = lv) → c'.ctx i j = c.ctx i j

theorem slot_of_onlyBank {c c' : Core} {sl : Fin 8} {lv : Fin 3} (h : OnlyBank c c' sl lv) (i : Fin 8) : c'.slot i = c.slot i := by
  have hi := congrArg (fun d : Core => d.slot i) h.rest
  exact hi

theorem onlyBank_touchBank (c : Core) (sl : Fin 8) (lv : Fin 3) : OnlyBank c (c.touchBank sl) sl lv :=
  ⟨rfl, fun _ _ _ => Laws.ctx_touchBank _ _ _ _⟩

theorem onlyBank_setCtx {c c' : Core} {sl : Fin 8} {lv : Fin 3} (h : OnlyBank c c' sl lv) (y : Ctx) :
    OnlyBank c (c'.setCtx sl lv y) sl lv :=
  ⟨h.rest, fun i j hne => by rw [Laws.ctx_setCtx, if_neg hne]; exact h.ctx i j hne⟩

/-- A parcel that ends after a change of its thread's bank only, with registers `y`: the device is otherwise as it was (R65). -/
theorem onlyTop_stepOver {s : State} {th : ThreadId} {y : Ctx} {g : Core → Core} (ht : (s.modCore th.core g).topCtx th = some y)
    (hg : OnlyBank (s.core th.core) (g (s.core th.core)) th.slot ((s.core th.core).slot th.slot).top) :
    OnlyTop s ((s.modCore th.core g).stepOver th) th (nextParcel y) := by
  have htop : ((s.modCore th.core g).stepOver th).topCtx th = some (nextParcel y) := by
    rw [Laws.topCtx_stepOver, ht]; rfl
  have hslots := slot_of_onlyBank hg
  have hcore : (((s.modCore th.core g).stepOver th).core th.core) =
      ((g (s.core th.core)).setCtx th.slot ((s.core th.core).slot th.slot).top (nextParcel y)).setSlot th.slot
        { (s.core th.core).slot th.slot with answers := [], given := [], stale := false } := by
    unfold State.stepOver
    simp only [ht]
    simp [State.setTop, State.modSlot, hslots, nextParcel]
  refine ⟨onlyCore_trans (onlyCore_modCore s _ g) (onlyCore_stepOver _ th), htop, ?_, fun sl lv hne => ?_, fun sl hne => ?_, ?_⟩
  · rw [hcore]
    exact (congrArg (fun c : Core => { c with arch := { c.arch with slots := (s.core th.core).arch.slots } }) hg.rest)
  · rw [hcore, Laws.ctx_setSlot, Laws.ctx_setCtx, if_neg hne]
    exact hg.ctx sl lv hne
  · rw [hcore, Laws.slot_setSlot, if_neg hne, Laws.slot_setCtx, hslots]
  · rw [hcore, Laws.slot_setSlot_self]

/-- A plain operation that changes only its thread's bank, to registers `y`, on top of a state `u` with the core as it was. -/
theorem onlyTop_of_run_bank {s u : State} {th : ThreadId} {x y : Ctx} {i : Instr} {run : Op} {g : Core → Core}
    (h : s.ready th = some x) (hu : u.core th.core = s.core th.core) (hr : run th (issuing s th) = .done (u.modCore th.core g))
    (ht : (u.modCore th.core g).topCtx th = some y)
    (hg : OnlyBank (u.core th.core) (g (u.core th.core)) th.slot ((u.core th.core).slot th.slot).top) :
    OnlyTop u (s.issue th i (plainOp run)) th (nextParcel y) := by
  have hwait : ((g (u.core th.core)).slot th.slot).wait = .none := by
    rw [slot_of_onlyBank hg, hu]; exact (ready_runs h).2
  rw [issue_plainOp_done h hr, Laws.keepBefore_of_ready]
  · exact onlyTop_stepOver ht hg
  · simp [hwait, Wait.answerable]

/-- A plain operation that sets registers, on top of a state `u` with the core as it was. -/
theorem onlyTop_of_run_on {s u : State} {th : ThreadId} {x y : Ctx} {i : Instr} {run : Op} (h : s.ready th = some x)
    (hu : u.core th.core = s.core th.core) (hr : run th (issuing s th) = .done ((issuing u th).setTop th y)) :
    OnlyTop u (s.issue th i (plainOp run)) th (nextParcel y) := by
  have hset : (issuing u th).setTop th y = u.modCore th.core fun c => (c.touchBank th.slot).setCtx th.slot (c.slot th.slot).top y := by
    simp [State.setTop, issuing]
  have htop : u.topCtx th = some x := by
    rw [← Laws.topCtx_of_ready h, State.topCtx, State.topCtx, hu]
  have ht : ((issuing u th).setTop th y).topCtx th = some y := by simp [htop]
  rw [hset] at hr ht
  exact onlyTop_of_run_bank h hu hr ht (onlyBank_setCtx (onlyBank_touchBank _ _ _) y)

/-- A plain operation that only sets registers: nothing else changes. -/
theorem onlyTop_of_run {s : State} {th : ThreadId} {x y : Ctx} {i : Instr} {run : Op} (h : s.ready th = some x)
    (hr : run th (issuing s th) = .done ((issuing s th).setTop th y)) :
    OnlyTop s (s.issue th i (plainOp run)) th (nextParcel y) := onlyTop_of_run_on h rfl hr

/-- A plain operation that leaves even the registers as they were. -/
theorem onlyTop_of_run_idle {s : State} {th : ThreadId} {x : Ctx} {i : Instr} {run : Op} (h : s.ready th = some x)
    (hr : run th (issuing s th) = .done (issuing s th)) : OnlyTop s (s.issue th i (plainOp run)) th (nextParcel x) :=
  onlyTop_of_run_bank h rfl hr ((topCtx_issuing s th).trans (Laws.topCtx_of_ready h)) (onlyBank_touchBank _ _ _)

/-! ## Transfers of control -/

/-- A transfer of control to the PCC of `y` (R119, R143). -/
theorem jumps_of_run {s : State} {th : ThreadId} {x y : Ctx} {i : Instr} {run : Op} (h : s.ready th = some x)
    (hx : exec i s = .next (s.issue th i (plainOp run))) (hr : run th (issuing s th) = .jump ((issuing s th).setTop th y)) :
    Jumps s th i y := by
  have ht : ((issuing s th).setTop th y).topCtx th = some y := by simp [Laws.topCtx_of_ready h]
  refine ⟨_, hx, ?_⟩
  rw [issue_plainOp_jump h hr, Laws.keepBefore_of_ready]
  · unfold State.jumped
    simp only [ht]
    refine ⟨?_, onlyCore_trans (onlyCore_issuing s th) (onlyCore_trans (onlyCore_setTop _ th _)
      (onlyCore_trans (onlyCore_setTop _ th _) (onlyCore_modSlot _ _ _ _))), ?_⟩
    · rw [topCtx_modSlot]
      · simp [Laws.topCtx_of_ready h]
      · exact fun _ => rfl
    · simp
  · unfold State.jumped
    simp [ht, (ready_runs h).2, Wait.answerable]

/-! ## Operations that wait for a response -/

/-- An operation that completes on top of `s1` with registers `y` and waits for its response (R87). -/
theorem responds_of_run {s s1 : State} {th : ThreadId} {x z y : Ctx} {i : Instr} {run : Op} (h : s.ready th = some x)
    (hx : exec i s = .next (s.issue th i (plainOp run))) (ht : s1.topCtx th = some z)
    (hr : run th (issuing s th) = .done ((s1.setTop th y).awaits th)) : Responds s s1 th i y := by
  refine ⟨_, hx, ?_⟩
  rw [issue_plainOp_done h hr]
  refine ⟨?_, ?_, ?_⟩
  · simp [Laws.topCtx_stepOver, ht, nextParcel]
  · simp [Awaits, State.awaits]
  · exact onlyCore_trans (onlyCore_setTop s1 th y) (onlyCore_trans (onlyCore_modSlot _ _ _ _)
      (onlyCore_trans (onlyCore_stepOver _ th) (onlyCore_keepBefore _ _ th)))

/-- A posted operation that completes on top of `s1` (R87). -/
theorem posts_of_run {s s1 : State} {th : ThreadId} {x z : Ctx} {i : Instr} {run : Op} (h : s.ready th = some x)
    (hx : exec i s = .next (s.issue th i (plainOp run))) (ht : s1.topCtx th = some z)
    (hr : run th (issuing s th) = .done s1) : Posts s s1 th i z := by
  refine ⟨_, hx, ?_⟩
  rw [issue_plainOp_done h hr]
  refine ⟨?_, onlyCore_trans (onlyCore_stepOver s1 th) (onlyCore_keepBefore _ _ th), ?_⟩
  · simp [Laws.topCtx_stepOver, ht, nextParcel]
  · simp

end Sys2Proof.Proofs
end

section
/-! PROOFS. Branches and jumps (R97, R104), and the derivations of capabilities as operations of a thread (R25, R28, R101). -/

namespace Sys2Proof.Proofs

open Sys2Proof.Machine Sys2Proof.Claims

/-! ## Transfers of control -/

/-- The table of R75, as the model matches it and as a list. -/
theorem condHolds_eq_holds (x : Ctx) (cond : BitVec 4) : condHolds x.flg cond = holds x cond := by
  obtain ⟨⟨n, hn⟩⟩ := cond
  have hn' : n < 16 := hn
  interval_cases n <;> rfl

theorem branchTo_of_targetOk {x : Ctx} {cove : Nat} {off : BitVec 17}
    (h : targetOk x.pcc ((x.pcc.w0.toNat : Int) + off.toInt) cove = true) :
    branchTo x cove off = .ok (x.pcc.withCursor (BitVec.ofInt 32 ((x.pcc.w0.toNat : Int) + off.toInt))) := by
  simp [branchTo, h]

section Operations

variable {s : State} {th : ThreadId} {x : Ctx} (h : s.ready th = some x)
include h

/-- B and BL with a condition that fails only end their parcel (R75, R97). -/
theorem branches_not_taken {cond : BitVec 4} (off : BitVec 17) (hc : holds x cond = false) :
    Leaves s th x (.b th cond off) (none, x.flg) ∧ Leaves s th x (.bl th cond off) (none, x.flg) := by
  have ht := topCtx_issuing_of_ready h
  have hc' := (condHolds_eq_holds x cond).trans hc
  exact ⟨⟨_, rfl, onlyTop_of_run_idle h (by simp [ht, hc'])⟩, ⟨_, rfl, onlyTop_of_run_idle h (by simp [ht, hc'])⟩⟩

/-- B and BL with a condition that holds (R97, R104). -/
theorem branches_taken {cond : BitVec 4} {off : BitVec 17} (hc : holds x cond = true)
    (hto : targetOk x.pcc ((x.pcc.w0.toNat : Int) + off.toInt) (th.core / 8) = true) :
    let target := x.pcc.withCursor (BitVec.ofInt 32 ((x.pcc.w0.toNat : Int) + off.toInt))
    Jumps s th (.b th cond off) { x with pcc := target }
      ∧ Jumps s th (.bl th cond off) { x with c := x.c.set 7 (x.pcc.withCursor (x.pcc.w0 + 1)), pcc := target } := by
  have ht := topCtx_issuing_of_ready h
  have hc' := (condHolds_eq_holds x cond).trans hc
  have hb := branchTo_of_targetOk hto
  exact ⟨jumps_of_run h rfl (by simp [ht, hc', hb]), jumps_of_run h rfl (by simp [ht, hc', hb, Ctx.setC, Ctx.link])⟩

/-- JR and JRL (R104). -/
theorem jumps_taken {ca : CReg} (hj : jumpCheck x.c[ca.val] (th.core / 8) = .ok ()) :
    Jumps s th (.jr th ca) { x with pcc := x.c[ca.val] }
      ∧ Jumps s th (.jrl th ca) { x with c := x.c.set 7 (x.pcc.withCursor (x.pcc.w0 + 1)), pcc := x.c[ca.val] } := by
  have ht := topCtx_issuing_of_ready h
  exact ⟨jumps_of_run h rfl (by simp [ht, Ctx.getC, hj]), jumps_of_run h rfl (by simp [ht, Ctx.getC, hj, Ctx.setC, Ctx.link])⟩

/-! ## Derivations -/

/-- A derivation that answers `c` writes it to its register and changes nothing else. -/
theorem derives_of_derive {i : Instr} {cd : CReg} {f : Ctx → Except Nat Cap} (hx : exec i s = .next (s.issue th i (plainOp (derive cd f)))) :
    Derives s th x cd i (f x) := by
  intro c hc
  have ht := topCtx_issuing_of_ready h
  exact ⟨_, hx, onlyTop_of_run (y := x.setC cd c) h (by simp [derive, regOrFault, ht, hc])⟩

/-- CADD and CADDI where the step stays in its ring, or no ring is there (R25, R79). -/
theorem derives_of_capAddOp {i : Instr} {cd ca : CReg} {v : Ctx → Int} (hx : exec i s = .next (s.issue th i (plainOp (capAddOp cd ca v))))
    (hl : modLost (modeOf x.addrmode ca) x.c[ca.val] (v x) = false) :
    Derives s th x cd i (capAdd (modeOf x.addrmode ca) x.c[ca.val] (v x) 0) := by
  intro c hc
  have ht := topCtx_issuing_of_ready h
  exact ⟨_, hx, onlyTop_of_run (y := x.setC cd c) h (by simp only [capAddOp, ht, Ctx.getC, hl, Bool.false_eq_true, if_false, hc])⟩

/-- CADD and CADDI where the step leaves the ring: an untagged capability whose cursor is drawn (R79, log entry 13). -/
theorem capAddOp_lost {i : Instr} {cd ca : CReg} {v : Ctx → Int} (hx : exec i s = .next (s.issue th i (plainOp (capAddOp cd ca v))))
    (hl : modLost (modeOf x.addrmode ca) x.c[ca.val] (v x) = true) (hm : moveCheck x.c[ca.val] = .ok ()) :
    Answers i s fun t => ∃ w, OnlyTop { s with free := s.free + 1 } t th
      (nextParcel { x with c := x.c.set cd.val { x.c[ca.val] with w0 := w, tag := false } }) := by
  have ht := topCtx_issuing_of_ready h
  refine ⟨_, hx, Config.freeWord s.free, onlyTop_of_run_on
    (y := x.setC cd { x.c[ca.val] with w0 := Config.freeWord s.free, tag := false }) h rfl ?_⟩
  have hc : capAdd (modeOf x.addrmode ca) x.c[ca.val] (v x) (Config.freeWord s.free)
      = .ok { x.c[ca.val] with w0 := Config.freeWord s.free, tag := false } := by
    have hmt : (decide (modeOf x.addrmode ca = 1) && x.c[ca.val].tag) = true := by
      simp only [modLost, Bool.and_eq_true] at hl
      simpa using hl.1
    simp only [capAdd, hm, bind, Except.bind, hmt, hl, if_true]
  simp only [capAddOp, ht, Ctx.getC, hl, if_true, State.drawWord]
  rw [show (issuing s th).free = s.free from rfl, hc]
  rfl

end Operations

/-- Settles O12. -/
theorem transferResult : Obligations.TransferResult := by
  intro s th x ca cond off h
  exact ⟨branches_not_taken h off, branches_taken h, jumps_taken h⟩

/-- Settles O13. -/
theorem derivationResult : Obligations.DerivationResult := by
  intro s th x cd ca cb b imm mask h
  have ht := topCtx_issuing_of_ready h
  refine ⟨?_, ?_, derives_of_capAddOp (v := fun x => (x.getD b).toInt) h rfl, derives_of_capAddOp (v := fun _ => imm.toInt) h rfl, ?_,
    derives_of_derive (f := fun x => capSetC (x.getC ca) (x.getD b)) h rfl,
    derives_of_derive (f := fun x => capSetBnd false (x.getC ca) (x.getD b)) h rfl,
    derives_of_derive (f := fun x => capSetBnd true (x.getC ca) (x.getD b)) h rfl,
    derives_of_derive (f := fun x => capAndR (x.getC ca) (mask.toNat % 64)) h rfl,
    derives_of_derive (f := fun x => capSpan (x.getC ca) (x.getD b)) h rfl,
    derives_of_derive (f := fun x => capSeal (x.getC ca) (x.getC cb)) h rfl,
    derives_of_derive (f := fun x => capUnseal (x.getC ca) (x.getC cb)) h rfl⟩
  · rintro c ⟨⟩
    exact ⟨_, rfl, onlyTop_of_run (y := x.setC cd (x.getC ca)) h (by simp [regOp, ht])⟩
  · rintro c ⟨⟩
    exact ⟨_, rfl, onlyTop_of_run (y := x.setC cd x.pcc) h (by simp [regOp, ht])⟩
  · rintro i u (⟨rfl, rfl⟩ | ⟨rfl, rfl⟩) hl hm
    · exact capAddOp_lost (v := fun x => (x.getD b).toInt) h rfl hl hm
    · exact capAddOp_lost (v := fun _ => imm.toInt) h rfl hl hm

end Sys2Proof.Proofs
end

section
/-! PROOFS. What the Tidemark's log leaves unchanged (R207, R210): a record goes into the group's ring and into its core's list. -/

namespace Sys2Proof.Proofs

open Sys2Proof.Machine Sys2Proof.Claims

/-! ## Where the ring lies (R209) -/

theorem logSize_pos (t : Tidemark) : 0 < t.logSize := by unfold Tidemark.logSize; positivity

theorem eight_dvd_logSize (t : Tidemark) : 8 ∣ t.logSize := Dvd.dvd.mul_right (by decide) _

theorem logSize_le (t : Tidemark) : t.logSize ≤ 0x40000 := by
  have : 2 ^ min (fld t.ctrl 2 0) 4 ≤ 2 ^ 4 := Nat.pow_le_pow_right (by decide) (min_le_right _ _)
  unfold Tidemark.logSize
  omega

theorem logOffset_le (t : Tidemark) : t.logOffset ≤ 0x1FC000 := by
  have := fld_lt t.logBase 6 0
  unfold Tidemark.logOffset
  omega

/-- The place of the next record of a ring. -/
def recordPlace (s : State) (k : Nat) : Nat :=
  coveBase (k / 8) + (s.core k).tm.logOffset + 8 * (s.core k).tm.written % (s.core k).tm.logSize

/-- A record lies inside its ring. -/
theorem recordPlace_in_ring (s : State) (k : Nat) {a : Nat} (h1 : recordPlace s k ≤ a) (h2 : a < recordPlace s k + 8) : inItsLog s k a := by
  obtain ⟨m, hm⟩ := eight_dvd_logSize (s.core k).tm
  have hpos := logSize_pos (s.core k).tm
  have hmod : 8 * (s.core k).tm.written % (s.core k).tm.logSize = 8 * ((s.core k).tm.written % m) := by
    rw [hm, Nat.mul_mod_mul_left]
  have hlt : (s.core k).tm.written % m < m := Nat.mod_lt _ (by omega)
  unfold recordPlace at h1 h2
  exact ⟨by omega, by omega⟩

/-- The place is in a cove's SRAM, or past the last one: a target whose stores do nothing but store. -/
theorem region_of_ring {s : State} {k a : Nat} (hk : k < 128) (h : inItsLog s k a) : (∃ n, region a = .sram n) ∨ region a = .nowhere := by
  have hs := logSize_le (s.core k).tm
  have ho := logOffset_le (s.core k).tm
  obtain ⟨h1, h2⟩ := h
  simp only [coveBase] at h1 h2
  unfold region
  split
  · omega
  split
  · exact .inl ⟨_, rfl⟩
  repeat (split; · omega)
  exact .inr rfl

/-! ## A word of a record -/

/-- An opportunity of a detector changes nothing but the waiting injections. -/
theorem takeInj_rest (s : State) (page d : Nat) (ok : Word → Bool) : { (s.takeInj page d ok).2 with inj := s.inj } = s := by
  rcases Laws.takeInj_cases s page d ok with h | ⟨_, _, _, h⟩ <;> rw [h]

/-- An injection at a store corrupts check bits and is used up; it changes nothing else (R341). -/
theorem injectStore_rest (s : State) (pa : Nat) : { s.injectStore pa with ecc := s.ecc, inj := s.inj } = s := by
  unfold State.injectStore
  split
  next page d ok _ =>
    have h := takeInj_rest s page d ok
    split
    next w s1 hs =>
      rw [hs] at h
      split
      · exact congrArg (fun r : State => { r with ecc := s.ecc }) h
      · exact congrArg (fun r : State => { r with ecc := s.ecc }) h
    next s1 hs =>
      rw [hs] at h
      exact congrArg (fun r : State => { r with ecc := s.ecc }) h
  next => rfl

/-- Where no injection waits, a store corrupts nothing. -/
theorem injectStore_quiet {s : State} (pa : Nat) (h : quiet s) : s.injectStore pa = s := by
  unfold State.injectStore
  split
  · rw [Laws.takeInj_quiet _ _ _ _ h]
  · rfl

/-- A store of a word into a ring. -/
theorem putWord_of_ring {pa : Nat} (h : (∃ n, region pa = .sram n) ∨ region pa = .nowhere) (s : State) (w : Word) (t : Tag) :
    s.putWord pa w t = (((s.putBytes4 pa w).putTag pa t).putEcc pa Ecc.clean).injectStore pa := by
  unfold State.putWord
  rcases h with ⟨n, h⟩ | h <;> simp only [h]

/-- What a store into a ring leaves unchanged. -/
structure Stored (s t : State) (pa : Nat) : Prop where
  rest : { t with mem := s.mem, tags := s.tags, ecc := s.ecc, inj := s.inj } = s
  inj : quiet s → t.inj = s.inj
  bytes : ∀ a, ¬(pa ≤ a ∧ a < pa + 4) → t.byteAt a = s.byteAt a

theorem stored_putWord {pa : Nat} (h : (∃ n, region pa = .sram n) ∨ region pa = .nowhere) (s : State) (w : Word) (t : Tag) :
    Stored s (s.putWord pa w t) pa := by
  rw [putWord_of_ring h]
  have hrest := injectStore_rest (((s.putBytes4 pa w).putTag pa t).putEcc pa Ecc.clean) pa
  refine ⟨?_, fun hq => ?_, fun a ha => ?_⟩
  · exact congrArg (fun r : State => { r with mem := s.mem, tags := s.tags, ecc := s.ecc }) hrest
  · rw [injectStore_quiet (s := ((s.putBytes4 pa w).putTag pa t).putEcc pa Ecc.clean) pa hq]; rfl
  · have hmem := congrArg State.mem hrest
    calc State.byteAt (State.injectStore _ pa) a
        = State.byteAt (((s.putBytes4 pa w).putTag pa t).putEcc pa Ecc.clean) a := congrArg (fun m => Tbl.get byteDefault ⟨m⟩ a) hmem
      _ = (s.putBytes4 pa w).byteAt a := rfl
      _ = s.byteAt a := Laws.byteAt_putBytes4_ne s pa w a ha

/-! ## Records -/

/-- A core that has logged: its list of records and their count have grown. -/
def CoreLogged (c c' : Core) : Prop :=
  { c' with tm := { c'.tm with log := c.tm.log, written := c.tm.written, lastPos := c.tm.lastPos } } = c

theorem coreLogged_trans {c d e : Core} (h : CoreLogged c d) (g : CoreLogged d e) : CoreLogged c e := by
  unfold CoreLogged at *
  exact (congrArg (fun r : Core => { r with tm := { r.tm with log := c.tm.log, written := c.tm.written, lastPos := c.tm.lastPos } }) g).trans h

theorem arch_of_coreLogged {c c' : Core} (h : CoreLogged c c') : c'.arch = c.arch := by
  unfold CoreLogged at h
  have ha := congrArg Core.arch h
  exact ha

/-- Logging keeps the ring's place and size, and whether the group replays. -/
theorem tm_of_coreLogged {c c' : Core} (h : CoreLogged c c') :
    c'.tm.logBase = c.tm.logBase ∧ c'.tm.ctrl = c.tm.ctrl ∧ c'.tm.st = c.tm.st := by
  unfold CoreLogged at h
  have hb := congrArg (fun d : Core => d.tm.logBase) h
  have hc := congrArg (fun d : Core => d.tm.ctrl) h
  have hs := congrArg (fun d : Core => d.tm.st) h
  exact ⟨hb, hc, hs⟩

/-- A group has logged: its core's list, the bytes of its ring with their tags and check bits, and nothing else (R207). -/
structure Recorded (s t : State) (k : Nat) : Prop where
  rest : { t with cores := s.cores, mem := s.mem, tags := s.tags, ecc := s.ecc, inj := s.inj } = s
  inj : quiet s → t.inj = s.inj
  core : CoreLogged (s.core k) (t.core k)
  others : ∀ j, j ≠ k → t.core j = s.core j
  bytes : ∀ a, ¬inItsLog s k a → t.byteAt a = s.byteAt a

theorem recorded_refl (s : State) (k : Nat) : Recorded s s k := ⟨rfl, fun _ => rfl, rfl, fun _ _ => rfl, fun _ _ => rfl⟩

section Facts

variable {s t : State} {k : Nat} (h : Recorded s t k)
include h

theorem quiet_of_recorded (hq : quiet s) : quiet t := by
  unfold quiet at *
  rw [h.inj hq]
  exact hq

theorem arch_of_recorded (j : Nat) : (t.core j).arch = (s.core j).arch := by
  by_cases hj : j = k
  · subst hj
    exact arch_of_coreLogged h.core
  · rw [h.others j hj]

theorem topCtx_of_recorded (th : ThreadId) : t.topCtx th = s.topCtx th := by
  have ha := arch_of_recorded h th.core
  simp only [State.topCtx, Core.ctx, Core.slot, ha]

theorem inItsLog_of_recorded (a : Nat) : inItsLog t k a ↔ inItsLog s k a := by
  obtain ⟨hb, hc, -⟩ := tm_of_coreLogged h.core
  simp only [inItsLog, Tidemark.logOffset, Tidemark.logSize, hb, hc]

theorem replaying_of_recorded : t.replaying k = s.replaying k := by
  obtain ⟨-, -, hst⟩ := tm_of_coreLogged h.core
  simp only [State.replaying, hst]

/-- Logging leaves the code stores. -/
theorem code_of_recorded : t.code = s.code ∧ t.codeEcc = s.codeEcc := by
  have hc := congrArg State.code h.rest
  have he := congrArg State.codeEcc h.rest
  exact ⟨hc, he⟩

end Facts

theorem recorded_trans {s t u : State} {k : Nat} (h : Recorded s t k) (g : Recorded t u k) : Recorded s u k where
  rest := (congrArg (fun r : State => { r with cores := s.cores, mem := s.mem, tags := s.tags, ecc := s.ecc, inj := s.inj }) g.rest).trans h.rest
  inj hq := (g.inj (quiet_of_recorded h hq)).trans (h.inj hq)
  core := coreLogged_trans h.core g.core
  others j hj := (g.others j hj).trans (h.others j hj)
  bytes a ha := (g.bytes a fun hl => ha ((inItsLog_of_recorded h a).mp hl)).trans (h.bytes a ha)

/-- A change of a core's list of records. -/
theorem recorded_modCore (s : State) (k : Nat) {f : Core → Core} (hf : CoreLogged (s.core k) (f (s.core k))) : Recorded s (s.modCore k f) k where
  rest := rfl
  inj _ := rfl
  core := by rw [Laws.core_modCore_self]; exact hf
  others j hj := by rw [Laws.core_modCore, if_neg hj]
  bytes _ _ := rfl

theorem recorded_append (s : State) (k : Nat) (r : LogRec) :
    Recorded s (s.modCore k fun c => { c with tm := { c.tm with log := c.tm.log ++ [r], written := c.tm.written + 1 } }) k :=
  recorded_modCore s k rfl

theorem recorded_lastPos (s : State) (k p : Nat) : Recorded s (s.modCore k fun c => { c with tm := { c.tm with lastPos := p } }) k :=
  recorded_modCore s k rfl

theorem recorded_of_stored {s t : State} {k pa : Nat} (h : Stored s t pa) (hin : ∀ a, pa ≤ a → a < pa + 4 → inItsLog s k a) :
    Recorded s t k := by
  have hcores := congrArg State.cores h.rest
  have hcores : t.cores = s.cores := hcores
  have hcore : ∀ j, t.core j = s.core j := fun j => by simp only [State.core, hcores]
  refine ⟨?_, h.inj, ?_, fun j _ => hcore j, fun a ha => h.bytes a fun hp => ha (hin a hp.1 hp.2)⟩
  · exact congrArg (fun r : State => { r with cores := s.cores }) h.rest
  · rw [hcore]; rfl

theorem recorded_putRecord (s : State) {k : Nat} (hk : k < 128) (r : LogRec) (w : Word × Word) : Recorded s (s.putRecord k r w) k := by
  have hin : ∀ a, recordPlace s k ≤ a → a < recordPlace s k + 8 → inItsLog s k a := fun a => recordPlace_in_ring s k
  have h1 : Recorded s (s.putWord (recordPlace s k) w.1 .written) k :=
    recorded_of_stored (stored_putWord (region_of_ring hk (hin _ (by omega) (by omega))) _ _ _) fun a h1 h2 => hin a h1 (by omega)
  have h2 : Recorded _ ((s.putWord (recordPlace s k) w.1 .written).putWord (recordPlace s k + 4) w.2 .written) k :=
    recorded_of_stored (stored_putWord (region_of_ring hk (hin _ (by omega) (by omega))) _ _ _) fun a ha hb =>
      (inItsLog_of_recorded h1 a).mpr (hin a (by omega) (by omega))
  exact recorded_trans (recorded_trans h1 h2) (recorded_append _ k r)

theorem recorded_logRecord (s : State) {k : Nat} (hk : k < 128) (r : LogRec) : Recorded s (s.logRecord k r) k := by
  unfold State.logRecord
  dsimp only
  split
  · exact recorded_putRecord s hk _ _
  next p _ =>
    refine recorded_trans ?_ (recorded_lastPos _ k p)
    split
    · exact recorded_trans (recorded_putRecord s hk _ _) (recorded_putRecord _ hk _ _)
    · exact recorded_putRecord s hk _ _

theorem recorded_logValue (s : State) {k : Nat} (hk : k < 128) (sl : Fin 8) (v : Word) (t : Tag) (code : Nat) (second : Bool) :
    Recorded s (s.logValue k sl v t code second) k := by
  unfold State.logValue
  split
  · exact recorded_refl s k
  · exact recorded_logRecord s hk _

theorem recorded_logRelease (s : State) {k : Nat} (hk : k < 128) (kind pa be : Nat) (data : List Word) :
    Recorded s (s.logRelease k kind pa be data) k := by
  unfold State.logRelease
  split
  · exact recorded_refl s k
  · exact recorded_logRecord s hk _

/-! ## Requests and responses of a group that does not replay -/

/-- An output goes out with its digest logged (R207). -/
theorem emit_live {s : State} {k : Nat} (h : s.replaying k = false) (kind pa be : Nat) (data : List Word) (act : State → State) :
    s.emit k kind pa be data act = act (s.logRelease k kind pa be data) := by
  simp [State.emit, h]

theorem recorded_asks {s : State} {k : Nat} (hk : k < 128) (h : s.replaying k = false) (n : Nat) (data : List Word) :
    Recorded s (s.asks k n data) k := by
  rw [State.asks, emit_live h]
  exact recorded_logRelease s hk _ _ _ _

/-- A response comes from its target and is logged (R207). -/
theorem respond_live {s s1 : State} {k : Nat} {live : State → Except Nat (Word × Tag) × State} {v : Word} {t : Tag}
    (h : s.replaying k = false) (hl : live s = (.ok (v, t), s1)) (sl : Fin 8) (second : Bool) :
    s.respond k sl second live = (.ok (v, t), s1.logValue k sl v t 0 second) := by
  simp [State.respond, State.takeValue, h, hl]

/-! ## Only the log has changed -/

/-- A core changed on top of a state that has logged: only its core and its ring have changed (R207). -/
theorem onlyLogged_of_recorded {s t u : State} {k : Nat} (h : Recorded s t k) (hq : quiet s) (g : OnlyCore t u k) : OnlyLogged s u k := by
  obtain ⟨grest, gcores⟩ := g
  have hinj : t.inj = s.inj := h.inj hq
  have hrest : { t with cores := s.cores, mem := s.mem, tags := s.tags, ecc := s.ecc } = s := by
    have hr := h.rest
    rw [← hinj] at hr
    exact hr
  have hmem := congrArg State.mem grest
  have hmem : u.mem = t.mem := hmem
  refine ⟨?_, fun j hj => (gcores j hj).trans (h.others j hj), fun a ha => ?_⟩
  · exact (congrArg (fun r : State => { r with cores := s.cores, mem := s.mem, tags := s.tags, ecc := s.ecc }) grest).trans hrest
  · rw [← h.bytes a ha]
    simp only [State.byteAt, hmem]

end Sys2Proof.Proofs
end

section
/-! PROOFS. Capability loads and stores, the atomics and PLD as operations of a thread (R98 to R100). -/

namespace Sys2Proof.Proofs

open Sys2Proof.Machine Sys2Proof.Claims

section Operations

variable {s s1 : State} {th : ThreadId} {x : Ctx} (h : s.ready th = some x)
include h

/-- LD.C where its access answers a capability (R98). -/
theorem responds_ldC {cd c : CReg} {disp : BitVec 14} {v : Cap}
    (ha : (issuing s th).capLoad (issuerOf th x) (query x c disp.toInt 8 { loads with cap := true }) = (.ok v, s1))
    (ht : s1.topCtx th = some x) : Responds s s1 th (.ldC th cd c disp) { x with c := x.c.set cd.val v } := by
  have hx := topCtx_issuing_of_ready h
  exact responds_of_run (y := x.setC cd v) h rfl ht (by simp only [capLoadOp, hx]; simp only [query] at ha; rw [ha])

/-- ST.C where its access is accepted (R98). -/
theorem posts_stC {cd c : CReg} {disp : BitVec 14}
    (ha : (issuing s th).capStore (issuerOf th x)
      { query x c disp.toInt 8 { stores with cap := true } with val := some x.c[cd.val] } x.c[cd.val] = (.ok (), s1))
    (ht : s1.topCtx th = some x) : Posts s s1 th (.stC th cd c disp) x := by
  have hx := topCtx_issuing_of_ready h
  have ha' : (issuing s th).capStore (issuerOf th x) (regQuery x c disp.toInt 8 { stores with cap := true } (some (x.getC cd))) (x.getC cd)
      = (.ok (), s1) := ha
  exact posts_of_run h rfl ht (by simp only [capStoreOp, hx, ha'])

/-- CAS and AMO.ADD where their access answers the old word (R99). -/
theorem responds_atomic {i : Instr} {d : DReg} {c : CReg} {data : Ctx → List Word} {f : Ctx → Word → Option Word} {w : Word}
    (hi : exec i s = .next (s.issue th i (plainOp (atomicOp c d data f))))
    (ha : (issuing s th).atomic (issuerOf th x) (query x c 0 4 { load := true, store := true, cap := false }) (data x) (f x) = (.ok w, s1))
    (ht : s1.topCtx th = some x) : Responds s s1 th i { x with d := x.d.set d.val w } := by
  have hx := topCtx_issuing_of_ready h
  exact responds_of_run (y := x.setD d w) h hi ht (by simp only [atomicOp, hx]; simp only [query] at ha; rw [ha])

end Operations

/-- A parcel in order passes its check and is counted nowhere (R50). -/
theorem checkParcel_clean {s : State} {adr : Nat} (h : s.codeEccAt adr = Ecc.clean) (scrub : Bool) : s.checkParcel adr scrub = (false, s) := by
  simp [State.checkParcel, h, Ecc.clean, Ecc.cls]

/-- PLD reads its parcel past the log (R100). -/
theorem answers_pld {s : State} {th : ThreadId} {x : Ctx} (h : s.ready th = some x) {d : DReg} {c : CReg} {b : DReg} {adr : Nat}
    (hc : pldCheck x.c[c.val] x.d[b.val].toInt = .ok adr) (hecc : s.codeEccAt adr = Ecc.clean) :
    Answers (.pld th d c b) s fun t =>
      t.topCtx th = some (nextParcel { x with d := x.d.set d.val (0#3 ++ s.parcelAt adr) }) ∧ Awaits t th := by
  have hx := topCtx_issuing_of_ready h
  have hrep : (issuing s th).replaying th.core = false := by
    simpa [State.replaying] using not_replaying_of_ready h
  have hk : th.core.val < 128 := th.core.isLt
  have hasks := recorded_asks hk hrep adr []
  obtain ⟨hcode, hcodeEcc⟩ := code_of_recorded hasks
  have hclean : ((issuing s th).asks th.core adr []).codeEccAt adr = Ecc.clean := by
    rw [← hecc]; simp only [State.codeEccAt, hcodeEcc]; rfl
  have hparcel : (((issuing s th).asks th.core adr []).parcelAt adr).setWidth 32 = 0#3 ++ s.parcelAt adr := by
    simp only [State.parcelAt, hcode]
    exact BitVec.setWidth_eq_append (by decide)
  obtain ⟨t, he, htop, hwait, -⟩ := responds_of_run (i := .pld th d c b) (y := x.setD d (0#3 ++ s.parcelAt adr)) h rfl
    ((topCtx_of_recorded (recorded_trans hasks (recorded_logValue _ hk th.slot (0#3 ++ s.parcelAt adr) .written 0 false)) th).trans hx)
    (by
      simp only [hx, Ctx.getC, Ctx.getD, hc]
      rw [respond_live ((replaying_of_recorded hasks).trans hrep) (v := 0#3 ++ s.parcelAt adr) (t := .written)
        (s1 := (issuing s th).asks th.core adr [])]
      simp only [checkParcel_clean hclean, hparcel])
  exact ⟨t, he, htop, hwait⟩

/-- Settles O6. -/
theorem capAtomicResult : Obligations.CapAtomicResult := by
  intro s th x d cd c b disp h
  exact ⟨fun _ _ => responds_ldC h, fun _ => posts_stC h,
    ⟨fun _ _ => responds_atomic (data := fun x => [x.getD d, x.getD b])
        (f := fun x old => if old = x.getD d then some (x.getD b) else none) h rfl,
      fun _ _ => responds_atomic (data := fun x => [x.getD b]) (f := fun x old => some (old + x.getD b)) h rfl⟩,
    fun _ hc _ => answers_pld h hc⟩

end Sys2Proof.Proofs
end

section
/-! PROOFS. Operations that a block of the device answers: CMINT, HLD, HST, SLD, SST, COAL and the tenant handles (R29, R34, R103). -/

namespace Sys2Proof.Proofs

open Sys2Proof.Machine Sys2Proof.Claims

/-! ## What a block answers -/

theorem flit_quiet {s : State} (h : quiet s) : s.flit = s := by
  simp [State.flit, Laws.takeInj_quiet _ _ _ _ h]

/-- A block's answer to a group that does not replay: the response is logged, and the registers take it (R87, R207). -/
theorem answered_live {s s1 : State} {th : ThreadId} {z : Ctx} {ask : State → Except Nat Word × State} {w : Word}
    (hr : s.replaying th.core = false) (hq : quiet s) (ha : ask s = (.ok w, s1)) (ht : s1.topCtx th = some z) (put : Ctx → Word → Ctx) :
    answered ask put th s = .done (((s1.logValue th.core th.slot w .written 0).setTop th (put z w)).awaits th) := by
  have ht' := (topCtx_of_recorded (recorded_logValue s1 th.core.isLt th.slot w .written 0 false) th).trans ht
  unfold answered
  rw [respond_live (v := w) (t := .written) (s1 := s1) hr (by simp only [flit_quiet hq, ha])]
  simp only [ht']
  rfl

/-- The device from before a parcel to after it, where the parcel has logged and changed its core. -/
theorem onlyLogged_of_onlyCore {s t u : State} {k : Nat} (h : OnlyCore s t k) (htm : (t.core k).tm = (s.core k).tm)
    (g : OnlyLogged t u k) : OnlyLogged s u k := by
  obtain ⟨hrest, hcores⟩ := h
  obtain ⟨grest, gcores, gbytes⟩ := g
  have hmem := congrArg State.mem hrest
  have hmem : t.mem = s.mem := hmem
  have htags := congrArg State.tags hrest
  have htags : t.tags = s.tags := htags
  have hecc := congrArg State.ecc hrest
  have hecc : t.ecc = s.ecc := hecc
  refine ⟨?_, fun j hj => (gcores j hj).trans (hcores j hj), fun a ha => ?_⟩
  · rw [hmem, htags, hecc] at grest
    have hboth := congrArg (fun r : State => { r with cores := s.cores }) grest
    exact hboth.trans hrest
  · have hl : ¬inItsLog t k a := by simpa only [inItsLog, htm] using ha
    rw [gbytes a hl]
    simp only [State.byteAt, hmem]

section Requests

variable {s : State} {th : ThreadId} {x : Ctx} (h : s.ready th = some x) (hq : quiet s)
include h

theorem issuing_not_replaying : (issuing s th).replaying th.core = false := by
  simpa [State.replaying] using not_replaying_of_ready h

/-- A thread's request leaves its group with its digest logged. -/
theorem recorded_asks_issuing (n : Nat) (data : List Word) : Recorded (issuing s th) ((issuing s th).asks th.core n data) th.core :=
  recorded_asks th.core.isLt (issuing_not_replaying h) n data

include hq

/-- An operation that a block answers on top of a record `u` of the request or of the write: the registers take the answer. -/
theorem answers_of_answered {i : Instr} {run : Op} {u s1 : State} {ask : State → Except Nat Word × State} {put : Ctx → Word → Ctx}
    {w : Word} {z : Ctx} (hi : exec i s = .next (s.issue th i (plainOp run))) (hu : Recorded (issuing s th) u th.core)
    (hr : run th (issuing s th) = answered ask put th u) (ha : ask u = (.ok w, s1)) (ht : s1.topCtx th = some z) :
    ∃ s2, Recorded s1 s2 th.core ∧ Responds s s2 th i (put z w) := by
  have hrec := recorded_logValue s1 th.core.isLt th.slot w .written 0 false
  refine ⟨_, hrec, responds_of_run h hi ((topCtx_of_recorded hrec th).trans ht) ?_⟩
  exact hr.trans (answered_live ((replaying_of_recorded hu).trans (issuing_not_replaying h)) (quiet_of_recorded hu hq) ha ht put)

/-- A block that answers and changes nothing itself. -/
theorem replies_of_answered {i : Instr} {run : Op} {u : State} {ask : State → Except Nat Word × State} {put : Ctx → Word → Ctx}
    {w : Word} (hi : exec i s = .next (s.issue th i (plainOp run))) (hu : Recorded (issuing s th) u th.core)
    (hr : run th (issuing s th) = answered ask put th u) (ha : ask u = (.ok w, u)) : Replies s th i (put x w) := by
  have ht := (topCtx_of_recorded hu th).trans (topCtx_issuing_of_ready h)
  obtain ⟨s2, hrec, t, he, htop, hwait, honly⟩ := answers_of_answered h hq hi hu hr ha ht
  exact ⟨t, he, htop, hwait, onlyLogged_of_onlyCore (onlyCore_issuing s th) (tm_issuing s th)
    (onlyLogged_of_recorded (recorded_trans hu hrec) hq honly)⟩

/-- A block that answers on top of what it does, `s1`. -/
theorem answers_logged {i : Instr} {run : Op} {u s1 : State} {ask : State → Except Nat Word × State} {put : Ctx → Word → Ctx}
    {w : Word} {z : Ctx} (hi : exec i s = .next (s.issue th i (plainOp run))) (hu : Recorded (issuing s th) u th.core)
    (hr : run th (issuing s th) = answered ask put th u) (ha : ask u = (.ok w, s1)) (ht : s1.topCtx th = some z) (hq1 : quiet s1) :
    Answers i s fun t => t.topCtx th = some (nextParcel (put z w)) ∧ Awaits t th ∧ OnlyLogged s1 t th.core := by
  obtain ⟨s2, hrec, t, he, htop, hwait, honly⟩ := answers_of_answered h hq hi hu hr ha ht
  exact ⟨t, he, htop, hwait, onlyLogged_of_recorded hrec hq1 honly⟩

end Requests

/-! ## The reads (R29, R103) -/

/-- Logging leaves every object's generation and the tenants. -/
theorem objects_of_recorded {s t : State} {k : Nat} (h : Recorded s t k) :
    (∀ n, t.tenant n = s.tenant n) ∧ ∀ space n, t.objGen space n = s.objGen space n := by
  have ht := congrArg State.tenants h.rest
  have ht : t.tenants = s.tenants := ht
  have hc := congrArg State.chGens h.rest
  have hc : t.chGens = s.chGens := hc
  have he := congrArg State.entryGens h.rest
  have he : t.entryGens = s.entryGens := he
  have hs := congrArg State.srcGens h.rest
  have hs : t.srcGens = s.srcGens := hs
  exact ⟨fun n => by simp only [State.tenant, ht], fun space n => by simp only [State.objGen, State.tenant, ht, hc, he, hs]⟩

section Reads

variable {s : State} {th : ThreadId} {x : Ctx} (h : s.ready th = some x) (hq : quiet s)
include h hq

/-- CMINT's answer (R29, R30). -/
theorem replies_cmint {cd ca : CReg} {b : DReg} (rights : BitVec 2) (hc : mintCheck x.c[ca.val] x.d[b.val].toNat = .ok ())
    (hg : s.objGen x.c[ca.val].space x.d[b.val].toNat ≠ 0xFFFFF#20) :
    Replies s th (.cmint th cd ca b rights) { x with
      c := x.c.set cd.val (mkHandle x.c[ca.val].space (s.objGen x.c[ca.val].space x.d[b.val].toNat) x.d[b.val].toNat
        (rights.getLsbD 0) (rights.getLsbD 1) x.c[ca.val].rG) } := by
  have hx := topCtx_issuing_of_ready h
  have hu := recorded_asks_issuing h x.d[b.val].toNat [word x.c[ca.val].space]
  have hgen : ((issuing s th).asks th.core x.d[b.val].toNat [word x.c[ca.val].space]).objGen x.c[ca.val].space x.d[b.val].toNat
      = s.objGen x.c[ca.val].space x.d[b.val].toNat := (objects_of_recorded hu).2 _ _
  have hw : ((s.objGen x.c[ca.val].space x.d[b.val].toNat).setWidth 32).setWidth 20 = s.objGen x.c[ca.val].space x.d[b.val].toNat := by
    simp
  have := replies_of_answered (i := .cmint th cd ca b rights) h hq rfl hu (by simp only [hx, Ctx.getC, Ctx.getD, hc]; rfl)
    (w := (s.objGen x.c[ca.val].space x.d[b.val].toNat).setWidth 32) (by simp only [hgen, hg, if_false])
  simp only [hw] at this
  exact this

/-- HLD's answer (R103). -/
theorem answers_hld {s1 : State} {d b : DReg} {ca : CReg} {w : Word} (hc : handleCheck x.c[ca.val] fieldHandle false = .ok ())
    (ha : ((issuing s th).asks th.core x.c[ca.val].hNum [x.c[ca.val].w0, x.d[b.val]]).objRead x.c[ca.val] (fld x.d[b.val] 7 0) = (.ok w, s1))
    (ht : s1.topCtx th = some x) (hq1 : quiet s1) :
    Answers (.hld th d ca b) s fun t => t.topCtx th = some (nextParcel { x with d := x.d.set d.val w }) ∧ Awaits t th
      ∧ OnlyLogged s1 t th.core := by
  have hx := topCtx_issuing_of_ready h
  exact answers_logged (i := .hld th d ca b) (put := fun y w => y.setD d w) h hq rfl (recorded_asks_issuing h _ _)
    (by simp only [hx, Ctx.getC, Ctx.getD, hc]; rfl) ha ht hq1

/-- SLD's answer (R103). -/
theorem answers_sld {s1 : State} {d b : DReg} {ca : CReg} {w : Word} (hc : spaceCheck x.c[ca.val] (fld x.d[b.val] 15 0) = .ok ())
    (ha : ((issuing s th).asks th.core (fld x.d[b.val] 15 0) [word x.c[ca.val].space, x.d[b.val]]).spaceRead x.c[ca.val].space
      (fld x.d[b.val] 15 0) (fld x.d[b.val] 23 16) = (.ok w, s1))
    (ht : s1.topCtx th = some x) (hq1 : quiet s1) :
    Answers (.sld th d ca b) s fun t => t.topCtx th = some (nextParcel { x with d := x.d.set d.val w }) ∧ Awaits t th
      ∧ OnlyLogged s1 t th.core := by
  have hx := topCtx_issuing_of_ready h
  exact answers_logged (i := .sld th d ca b) (put := fun y w => y.setD d w) h hq rfl (recorded_asks_issuing h _ _)
    (by simp only [hx, Ctx.getC, Ctx.getD, hc]; rfl) ha ht hq1

/-- TSTAT's answer (R33, R103). -/
theorem replies_tstat {d : DReg} {ca : CReg} (hc : handleCheck x.c[ca.val] (fun ot => decide (ot = 2)) false = .ok ())
    (hl : (s.tenant x.c[ca.val].hNum).gen = x.c[ca.val].hGen) :
    Replies s th (.tstat th d ca) { x with d := x.d.set d.val (s.tenState x.c[ca.val].hNum) } := by
  have hx := topCtx_issuing_of_ready h
  have hu := recorded_asks_issuing h x.c[ca.val].hNum [x.c[ca.val].w0]
  have hten : ((issuing s th).asks th.core x.c[ca.val].hNum [x.c[ca.val].w0]).tenant x.c[ca.val].hNum = s.tenant x.c[ca.val].hNum :=
    (objects_of_recorded hu).1 _
  exact replies_of_answered (i := .tstat th d ca) (put := fun y w => y.setD d w) h hq rfl hu
    (by simp only [hx, Ctx.getC, hc]; rfl) (by simp only [State.tenantLive, State.tenState, hten, hl, decide_true, if_true])

end Reads

/-- Settles O16. -/
theorem handleReads : Obligations.HandleReads := by
  intro s th x d b cd ca rights h hq
  exact ⟨replies_cmint h hq rights, fun hc _ _ => answers_hld h hq hc, fun hc _ _ => answers_sld h hq hc, replies_tstat h hq⟩

/-! ## The writes (R103, R228, R234) -/

/-- The wait of a handle write that owes no clear: one to another kind of object, or to another field (R87, R234). -/
theorem writeWait_access {s : State} {c : Cap} {f : Nat} (hf : c.otype ≠ 5 ∨ ¬(f = 2 ∨ (7 ≤ f ∧ f ≤ 10))) : s.writeWait c f = .access := by
  unfold State.writeWait
  split
  next hk =>
    have hf' : (decide (f = 2) || (decide (7 ≤ f) && decide (f ≤ 10))) = false := by
      have := hf.resolve_left (not_not.mpr hk.1)
      simpa [not_or] using this
    simp [hf']
  next => rfl

/-- The wait of a write of EN_CLR or a mask: the source's clear, where one has not taken effect (R234). -/
theorem writeWait_event {s : State} {c : Cap} {f : Nat} {src : Fin 2048} (ho : c.otype = 5) (hn : c.hNum = src.val)
    (hf : f = 2 ∨ (7 ≤ f ∧ f ≤ 10)) :
    s.writeWait c f = if (s.source src).enClrAt = [] ∧ (s.source src).maskClr = [] then .access else .event src := by
  have hk : c.otype = 5 ∧ c.hNum < 2048 := ⟨ho, hn ▸ src.isLt⟩
  have hsrc : (⟨c.hNum, hk.2⟩ : Fin 2048) = src := Fin.ext hn
  have hf' : (decide (f = 2) || (decide (7 ≤ f) && decide (f ≤ 10))) = true := by simpa using hf
  unfold State.writeWait
  rw [dif_pos hk, hsrc, hf', Bool.true_and]
  unfold State.evcOwesFor
  by_cases he : (s.source src).enClrAt = [] <;> by_cases hm : (s.source src).maskClr = [] <;> simp [he, hm]

/-- The wait looks at the sources only. -/
theorem writeWait_congr {s t : State} (h : t.sources = s.sources) (c : Cap) (f : Nat) : t.writeWait c f = s.writeWait c f := by
  unfold State.writeWait State.evcOwesFor State.source
  rw [h]

section Writes

variable {s : State} {th : ThreadId} {x : Ctx} (h : s.ready th = some x) (hq : quiet s)
include h hq

/-- A write that a block accepts, leaving `s1`: the thread waits for the response, and the registers stay. -/
theorem answers_told {i : Instr} {run : Op} {s1 : State} {kind pa : Nat} {data : List Word} {act : State → Except Nat Word × State}
    {w : Word} (hi : exec i s = .next (s.issue th i (plainOp run))) (hr : run th (issuing s th) = told kind pa data act th (issuing s th))
    (ha : act ((issuing s th).logRelease th.core kind pa 0xF data) = (.ok w, s1)) (ht : s1.topCtx th = some x) (hq1 : quiet s1) :
    Answers i s fun t => t.topCtx th = some (nextParcel x) ∧ ((t.core th.core).slot th.slot).wait = .access ∧ OnlyLogged s1 t th.core :=
  answers_logged (put := fun y _ => y) h hq hi (recorded_logRelease _ th.core.isLt kind pa 0xF data)
    (hr.trans (by rw [told, emit_live (issuing_not_replaying h)]; rfl)) ha ht hq1

/-- SST (R103). -/
theorem answers_sst {s1 : State} {b d : DReg} {ca : CReg} {r : Word} (hc : spaceCheck x.c[ca.val] (fld x.d[b.val] 15 0) = .ok ())
    (ha : ((issuing s th).logRelease th.core 7 (fld x.d[b.val] 15 0) 0xF
      [word x.c[ca.val].space, word (fld x.d[b.val] 23 16), x.d[d.val]]).spaceWrite x.cur x.c[ca.val].space (fld x.d[b.val] 15 0)
        (fld x.d[b.val] 23 16) x.d[d.val] = (.ok r, s1))
    (ht : s1.topCtx th = some x) (hq1 : quiet s1) :
    Answers (.sst th ca b d) s fun t => t.topCtx th = some (nextParcel x) ∧ ((t.core th.core).slot th.slot).wait = .access
      ∧ OnlyLogged s1 t th.core := by
  have hx := topCtx_issuing_of_ready h
  exact answers_told (i := .sst th ca b d) h hq rfl (by simp only [hx, Ctx.getC, Ctx.getD, hc]; rfl) ha ht hq1

/-- A write to COAL by a thread whose TIDE_AUTH lets it (R228). -/
theorem answers_coalWrite {s1 : State} {src : Fin 2048} {w : Word} (hb : coalBarred x w = false)
    (ha : ((issuing s th).logRelease th.core 6 src 0xF [5, 5, w]).srcWrite x.cur src 5 w = .ok s1)
    (ht : s1.topCtx th = some x) (hq1 : quiet s1) :
    Answers (.coalWrite th src w) s fun t => t.topCtx th = some (nextParcel x) ∧ ((t.core th.core).slot th.slot).wait = .access
      ∧ OnlyLogged s1 t th.core := by
  have hx := topCtx_issuing_of_ready h
  exact answers_told (i := .coalWrite th src w) (w := 0) h hq rfl (by simp only [hx, hb, Bool.false_eq_true, if_false]; rfl)
    (by simp only [ha]) ht hq1

/-- HST (R103, R228, R234). -/
theorem answers_hst {s1 : State} {b d : DReg} {ca : CReg} {r : Word} (hc : handleCheck x.c[ca.val] fieldHandle true = .ok ())
    (hb : ¬(x.c[ca.val].otype = 5 ∧ fld x.d[b.val] 7 0 = 5 ∧ coalBarred x x.d[d.val] = true))
    (ha : ((issuing s th).logRelease th.core 6 x.c[ca.val].w0.toNat 0xF
      [word x.c[ca.val].otype, word (fld x.d[b.val] 7 0), x.d[d.val]]).objWrite x.cur x.c[ca.val] (fld x.d[b.val] 7 0) x.d[d.val] = (.ok r, s1))
    (ht : s1.topCtx th = some x) (hq1 : quiet s1) :
    Answers (.hst th ca b d) s fun t => t.topCtx th = some (nextParcel x)
      ∧ ((t.core th.core).slot th.slot).wait = s1.writeWait x.c[ca.val] (fld x.d[b.val] 7 0) ∧ OnlyLogged s1 t th.core := by
  have hx := topCtx_issuing_of_ready h
  have hu := recorded_logRelease (issuing s th) th.core.isLt 6 x.c[ca.val].w0.toNat 0xF
    [word x.c[ca.val].otype, word (fld x.d[b.val] 7 0), x.d[d.val]]
  have hans := answered_live ((replaying_of_recorded hu).trans (issuing_not_replaying h)) (quiet_of_recorded hu hq)
    (ask := fun t => t.objWrite x.cur x.c[ca.val] (fld x.d[b.val] 7 0) x.d[d.val]) ha ht fun y _ => y
  have hrec := recorded_logValue s1 th.core.isLt th.slot r .written 0 false
  have htop := (topCtx_of_recorded hrec th).trans ht
  generalize s1.logValue th.core th.slot r .written 0 = s2 at hans hrec htop
  have hsources := congrArg State.sources hrec.rest
  have hsources : s2.sources = s1.sources := hsources
  have hrun := issue_plainOp_done (i := .hst th ca b d) (run := (opHst ca b d).run) h
    (t := ((s2.setTop th x).awaits th).modSlot th.core th.slot fun y =>
      { y with wait := ((s2.setTop th x).awaits th).writeWait x.c[ca.val] (fld x.d[b.val] 7 0) })
    (by
      simp only [opHst, plainOp, hx, Ctx.getC, Ctx.getD, hc, hb, if_false, told, emit_live (issuing_not_replaying h), id]
      rw [hans])
  have hwait : ((s2.setTop th x).awaits th).writeWait x.c[ca.val] (fld x.d[b.val] 7 0) = s1.writeWait x.c[ca.val] (fld x.d[b.val] 7 0) :=
    writeWait_congr hsources _ _
  refine ⟨_, congrArg Host.Outcome.next hrun, ?_, ?_, ?_⟩
  · rw [topCtx_keepBefore, Laws.topCtx_stepOver, topCtx_modSlot, topCtx_awaits, Laws.topCtx_setTop, htop]
    · rfl
    · exact fun _ => rfl
  · rw [wait_keepBefore, wait_stepOver, slot_modSlot_self]
    exact hwait
  · exact onlyLogged_of_recorded hrec hq1 (onlyCore_trans (onlyCore_setTop _ th x) (onlyCore_trans (onlyCore_modSlot _ _ _ _)
      (onlyCore_trans (onlyCore_modSlot _ _ _ _) (onlyCore_trans (onlyCore_stepOver _ th) (onlyCore_keepBefore _ _ th)))))

end Writes

/-- The writes that handles and space capabilities perform, and COAL (R103, R228). -/
theorem handleWrites : HandleWrites := by
  intro s th x d b ca src w h hq
  refine ⟨fun hc hb r s1 ha => ⟨fun hf ht hq1 => ?_, fun ho hn hf ht hq1 => ?_⟩, fun hc r s1 ha ht hq1 => answers_sst h hq hc ha ht hq1,
    fun hb s1 ha ht hq1 => answers_coalWrite h hq hb ha ht hq1⟩
  · have := answers_hst h hq hc hb ha ht hq1
    rwa [writeWait_access hf] at this
  · have := answers_hst h hq hc hb ha ht hq1
    rwa [writeWait_event ho hn hf] at this

/-! ## The tenant handles' commands (R34, R103) -/

/-- Logging leaves the tenant table. -/
theorem tenTable_of_recorded {s t : State} {k : Nat} (h : Recorded s t k) : t.tenTable = s.tenTable ∧ t.tenants = s.tenants := by
  have htab := congrArg State.tenTable h.rest
  have hten := congrArg State.tenants h.rest
  exact ⟨htab, hten⟩

theorem tenTable_of_onlyCore {s t : State} {k : Nat} (h : OnlyCore s t k) : t.tenTable = s.tenTable ∧ t.tenants = s.tenants := by
  have htab := congrArg State.tenTable h.1
  have hten := congrArg State.tenants h.1
  exact ⟨htab, hten⟩

/-- While a command is in progress a handle command is held behind it, and its thread waits (R34). -/
theorem tenHandle_held {s : State} {th : ThreadId} (hc : s.tenTable.current.isSome = true) (cmd : TenCmd) (t : TenantId) :
    s.tenHandle cmd t th = { s.modSlot th.core th.slot (fun x => { x with wait := .table }) with
      tenTable := { s.tenTable with held := s.tenTable.held ++ [{ cmd := cmd, ten := t, handle := some th }] } } := by
  have hc' : (s.modSlot th.core th.slot fun x => { x with wait := .table }).tenTable.current.isSome = true := hc
  simp only [State.tenHandle, hc', true_or, if_true]
  rfl

/-- TSTOP and TRESUME past the checks of their handle: what they log, and then their command. -/
theorem tenantOp_done {s : State} {th : ThreadId} {x : Ctx} (h : s.ready th = some x) (hq : quiet s) {ca : CReg}
    (hc : handleCheck x.c[ca.val] (fun ot => decide (ot = 2)) true = .ok ()) (hl : (s.tenant x.c[ca.val].hNum).gen = x.c[ca.val].hGen)
    (cmd : TenCmd) (code : Word) :
    ∃ u, Recorded (issuing s th) u th.core
      ∧ tenantOp cmd code ca th (issuing s th) = .done (u.tenHandle cmd (BitVec.ofNat 12 x.c[ca.val].hNum) th) := by
  have hx := topCtx_issuing_of_ready h
  have hask := recorded_asks_issuing h x.c[ca.val].hNum [x.c[ca.val].w0]
  have hlive : ((issuing s th).asks th.core x.c[ca.val].hNum [x.c[ca.val].w0]).tenantLive x.c[ca.val] = true := by
    simp only [State.tenantLive, (objects_of_recorded hask).1, decide_eq_true_eq]
    exact hl
  have hval := recorded_trans hask (recorded_logValue _ th.core.isLt th.slot 0 .written 0 false)
  have hrep := (replaying_of_recorded hval).trans (issuing_not_replaying h)
  refine ⟨_, recorded_trans hval (recorded_logRelease _ th.core.isLt 8 x.c[ca.val].hNum 0xF [code]), ?_⟩
  simp only [tenantOp, hx, Ctx.getC, hc]
  rw [respond_live ((replaying_of_recorded hask).trans (issuing_not_replaying h)) (v := 0) (t := .written)
    (s1 := (issuing s th).asks th.core x.c[ca.val].hNum [x.c[ca.val].w0])]
  · simp only [hrep, emit_live hrep, Bool.false_eq_true, if_false]
  · simp only [hlive, if_true, flit_quiet (quiet_of_recorded hask hq)]

/-- TSTOP and TRESUME while the table judges another command (R34, R103). -/
theorem tenantHandleCommands : TenantHandleCommands := by
  intro s th x ca h hq hc hl cur hcur i cmd hi
  obtain ⟨code, hx⟩ : ∃ code, exec i s = .next (s.issue th i (plainOp (tenantOp cmd code ca))) := by
    rcases hi with ⟨rfl, rfl⟩ | ⟨rfl, rfl⟩
    · exact ⟨3, rfl⟩
    · exact ⟨4, rfl⟩
  obtain ⟨u, hu, hr⟩ := tenantOp_done h hq hc hl cmd code
  obtain ⟨htab, hten⟩ := tenTable_of_recorded hu
  have htab : u.tenTable = s.tenTable := htab
  have htop := (topCtx_of_recorded hu th).trans (topCtx_issuing_of_ready h)
  rw [tenHandle_held (by rw [htab, hcur]; rfl)] at hr
  generalize hw : ({ u.modSlot th.core th.slot (fun y => { y with wait := .table }) with
    tenTable := { u.tenTable with held := u.tenTable.held ++
      [{ cmd := cmd, ten := BitVec.ofNat 12 x.c[ca.val].hNum, handle := some th }] } } : State) = w at hr
  have hwx : w.topCtx th = some x := by
    subst hw
    exact (topCtx_modSlot u th (fun y => { y with wait := .table }) fun _ => rfl).trans htop
  have hww : ((w.core th.core).slot th.slot).wait = .table := by
    subst hw
    exact congrArg Slot.wait (slot_modSlot_self u th.core th.slot fun y => { y with wait := .table })
  obtain ⟨hwtab, hwten⟩ := tenTable_of_onlyCore (onlyCore_trans (onlyCore_stepOver w th) (onlyCore_keepBefore (issuing s th) _ th))
  refine ⟨_, hx.trans (congrArg Host.Outcome.next (issue_plainOp_done h hr)), ?_, ?_, ?_, ?_⟩
  · rw [topCtx_keepBefore, Laws.topCtx_stepOver, hwx]
    rfl
  · rw [wait_keepBefore, wait_stepOver, hww]
  · rw [hwtab, ← hw, htab]
  · rw [hwten, ← hw]
    exact hten

/-- Settles O17. -/
theorem handleCommands : Obligations.HandleCommands := ⟨handleWrites, tenantHandleCommands⟩

end Sys2Proof.Proofs
end

section
/-! PROOFS. A RETIRE that completes may leave a command in progress (R34, R36): the thread that it unwinds enters its handler, whose
entry record goes where RECORD points, and that may be the page of the tenant table. -/

namespace Sys2Proof.Proofs

open Sys2Proof.Machine Sys2Proof.Claims

/-! ## An output that replay suppresses (R211) -/

/-- An output whose digest is the log's next one only uses up that record. -/
theorem emit_suppressed {s : State} {k kind pa be pos : Nat} {data : List Word} {act : State → State} {rest : List LogRec}
    (hr : s.replaying k = true) (hd : (s.core k).tm.releases = .release (Config.releaseDigest kind pa be data) pos :: rest) :
    s.emit k kind pa be data act = s.modCore k fun c => { c with tm := { c.tm with releases := rest } } := by
  simp only [State.emit, hr, hd, if_true]

/-! ## A device in which a retired tenant's gate call is unwound -/

/-- A data capability over the first 2 MiB of a space, with every right but X. -/
def spanCap (cursor : Word) : Cap := { w0 := cursor, w1 := 0x6001003B#32, tag := true }

/-- The code capability that the crossing frame holds as the caller's PCC. -/
def callerPcc : Cap := { w0 := 0x40001#32, w1 := 0x00010004#32, tag := true }

/-- A Headland thread inside a gate call into tenant 7: its one frame is at offset 0x8000. -/
def insideCtx : Ctx := { Ctx.fresh with cur := 7, xstk := spanCap 0x8040#32, ts := { Ctx.fresh.ts with xdepth := 1 } }

/-- The first 2 MiB map to cove 1's SRAM, but that the 4 KiB from 0x100000 on map to the tenant table's page. -/
def tablePageTlb : Tbl TlbEntry :=
  ⟨[(0, { w0 := 0x100000#32, w1 := 0xFE000010#32, w2 := 0xCC0000C3#32, w3 := 0, last := 0 }),
    (1, { w0 := 0, w1 := 0xE0002000#32, w2 := 0xD50000C3#32, w3 := 0, last := 0 })]⟩

/-- What the core holds beside its Tidemark: the thread parked in slot 1. -/
def parkedArch : Arch := { Arch.reset with
  slots := Arch.reset.slots.set 1 { Slot.fresh with st := .parked, under := .active }
  banks := Arch.reset.banks.set 1 (some { slot := 1, level := 0, used := 0, ctx := insideCtx })
  tlb := tablePageTlb }

/-- The group replays what its log holds of the unwinding: the question whether the caller is live, and the answer that it is. -/
def replayOf (releases values : List LogRec) : Tidemark := { Tidemark.reset 8 with
  priv := 0x00100001#32, st := .replay, releases := releases, values := values }

def parkedCore (tm : Tidemark) : Core := { Core.reset 8 with tm := tm, arch := parkedArch }

/-- The bytes of cove 1's SRAM that are not 0: of RECORD at offset 0x7010, which points at TEN_CMD, and from 0x8000 on of the frame's
PCC, its TVEC, which is at 0x7000, and the caller's THREAD_STATE. -/
def frameBytes : List Host.Cell :=
  [(0xE000207010, 0x58), (0xE000207012, 0x10), (0xE000207014, 0x3B), (0xE000207016, 0x01), (0xE000207017, 0x60),
   (0xE000208000, 0x01), (0xE000208002, 0x04), (0xE000208004, 0x04), (0xE000208006, 0x01),
   (0xE000208021, 0x70), (0xE000208024, 0x3B), (0xE000208026, 0x01), (0xE000208027, 0x60), (0xE00020803C, 0x01)]

/-- The tags of words from an address on: those listed as capabilities, the others Written. -/
def tagsFrom (pa n : Nat) (caps : List Nat) : List (Nat × Tag) :=
  (List.range n).map fun j => (pa / 4 + j, if j ∈ caps then .capability else .written)

/-- The table of TVEC and the frame are tagged. -/
def frameTags : Tbl Tag := ⟨tagsFrom 0xE000207000 8 [4, 5] ++ tagsFrom 0xE000208000 16 [0, 1, 8, 9]⟩

/-- Tenant 7 is RETIRING and tenant 5, the selected one, BUILDING; the table judges tenant 7's RETIRE, though RESULT is not BUSY. -/
def retiring (tm : Tidemark) : State := { State.reset with
  phase := .run, cores := ⟨[(8, parkedCore tm)]⟩, mem := frameBytes, tags := frameTags
  tenants := ⟨[(5, { Tenant.reset 5 with st := .building }), (7, { Tenant.reset 7 with st := .retiring })]⟩
  tenTable := { sel := 5, result := 0, reason := 0, busyRef := false, held := []
                current := some { cmd := .retire, ten := 7, handle := none } } }

/-- The log's record of the question, and that of its answer. -/
def askedLive : Tidemark := replayOf [.release (Config.releaseDigest readKind 0 0xF [0]) 0] [.value 1 .written 0 false 1 0]

/-- The thread, what it accesses as while it is inside the call, and what its frame holds. -/
def insider : ThreadId := { core := 8, slot := 1 }

def insideIssuer : Issuer := issuerOf insider insideCtx

def insideFrame : Crossing :=
  { pcc := callerPcc, c0 := Cap.null, c6 := Cap.null, c7 := Cap.null, tvec := spanCap 0x7000#32, tide := Cap.null
    caller := 0, addrmode := 0, callee := 0, state := 1 }

/-- The frame reads as it was written, and the read leaves everything as it was (R149). -/
theorem frameAt_retiring : (retiring askedLive).frameAt insideIssuer 0x8000 = (.ok insideFrame, retiring askedLive) := by
  exact rfl

/-- The context that the frame restores, at the caller's GCALL (R36). -/
def unwoundCtx : Ctx := insideCtx.uncross insideFrame (insideFrame.pcc.w0 - 1)

theorem asks_retiring : (retiring askedLive).asks 8 0 [0] = retiring (replayOf [] [.value 1 .written 0 false 1 0]) := by
  rw [State.asks, emit_suppressed (pos := 0) (rest := []) (by decide +kernel) (by exact rfl)]
  exact rfl

theorem dropHandlers_retiring : (retiring askedLive).dropHandlers 8 1 = retiring askedLive := by
  have harch : (((retiring askedLive).dropHandlers 8 1).core 8).arch = parkedArch := by decide +kernel
  calc (retiring askedLive).dropHandlers 8 1
      = { retiring askedLive with
          cores := ⟨[(8, { parkedCore askedLive with arch := (((retiring askedLive).dropHandlers 8 1).core 8).arch })]⟩ } := by exact rfl
    _ = retiring askedLive := by rw [harch]; rfl

/-! ## The unwinding -/

/-- The unwinding from the innermost frame on, as it was read (R36 step 5). -/
def unwindFrom (x : Ctx) (n : Nat) (r : Except Nat Crossing × State) : Unwound × State :=
  match r with
  | (.error e, s1) => (if e = notYet then .waits else .unreadable x, s1)
  | (.ok f, s1) =>
    let (a, s2) := (s1.asks 8 (tagTenant f.caller).toNat [f.caller]).respond 8 1 false fun t =>
      (.ok (if t.tagLive f.caller then 1 else 0, .written), t)
    match a with
    | .ok (w, _) => if w = 0 then s2.unwind insideIssuer (x.moveStack (-1)) n else (.live (x.uncross f (f.pcc.w0 - 1)), s2)
    | .error _ => (.unreadable x, s2)

theorem unwind_succ (s : State) (x : Ctx) (n : Nat) :
    s.unwind insideIssuer x (n + 1) =
      if x.ts.xdepth = 0 ∨ !frameOk x.xstk ((x.xstk.w0.toNat : Int) - 64) then (.unreadable x, s)
      else unwindFrom x n (s.frameAt insideIssuer ((x.xstk.w0.toNat : Int) - 64).toNat) := by
  exact rfl

/-- The unwinding ends at the first frame, whose caller the log calls live. -/
theorem unwind_retiring :
    (retiring askedLive).unwind insideIssuer insideCtx 128 = (.live unwoundCtx, retiring (replayOf [] [])) := by
  have hok : ¬(insideCtx.ts.xdepth = 0 ∨ (!frameOk insideCtx.xstk ((insideCtx.xstk.w0.toNat : Int) - 64)) = true) := by decide +kernel
  have hoff : ((insideCtx.xstk.w0.toNat : Int) - 64).toNat = 0x8000 := by decide
  have hasks : (retiring askedLive).asks 8 (tagTenant insideFrame.caller).toNat [insideFrame.caller]
      = retiring (replayOf [] [.value 1 .written 0 false 1 0]) := asks_retiring
  rw [unwind_succ, if_neg hok, hoff, frameAt_retiring]
  simp only [unwindFrom, hasks]
  exact rfl

/-- Tenant 7's RETIRE once the thread has been unwound and has entered its handler, and goes on. -/
def unwound : State :=
  let s := retiring (replayOf [] [])
  ((s.settleOp insider (s.parcelNow insideCtx) 0 false [] (unwoundOut insider (.live unwoundCtx) s)).modSlot 8 1 Slot.unwound).unparkSlot 8 1

theorem unwindParked_retiring : (retiring askedLive).unwindParked 8 1 = unwound := by
  have hctx : ((retiring askedLive).core (8 : Fin 128)).ctx 1 0 = some insideCtx := by decide +kernel
  have hunwind : (retiring askedLive).unwind (issuerOf { core := 8, slot := 1 } insideCtx) insideCtx 128
      = (.live unwoundCtx, retiring (replayOf [] [])) := unwind_retiring
  have hdrop : (retiring askedLive).dropHandlers (8 : Fin 128) 1 = retiring askedLive := dropHandlers_retiring
  unfold State.unwindParked
  rw [hdrop]
  simp only [hctx, Option.isSome_some, if_true, hunwind]
  rfl

theorem retireThreads_retiring : (retiring askedLive).retireThreads 7 = unwound := by
  have hall : (retiring askedLive).allThreads = [(8, 1)] := by decide +kernel
  have hhome : (retiring askedLive).homeOf (8 : Fin 128) 1 ≠ 7 := by decide +kernel
  have hinside : (retiring askedLive).insideCall (8 : Fin 128) 1 7 = true := by decide +kernel
  unfold State.retireThreads
  simp only [hall, List.foldl_cons, List.foldl_nil, hhome, if_false, hinside, if_true, unwindParked_retiring]

theorem tenComplete_retiring :
    (retiring askedLive).tenComplete.tenTable.current = some { cmd := .start, ten := 5, handle := none } := by
  have hcur : (retiring askedLive).tenTable.current = some { cmd := .retire, ten := 7, handle := none } := rfl
  have hdone : (retiring askedLive).tenUnfinished 7 = false := by decide +kernel
  simp only [State.tenComplete, hcur, hdone, Bool.false_eq_true, if_false, retireThreads_retiring]
  decide +kernel

/-- Refutes O39: the completion of a RETIRE may leave a command in progress. The thread that it unwinds takes its fault, whose entry
record RECORD may put over TEN_CMD; where RESULT does not read BUSY that write is a command, held behind the RETIRE and judged as soon
as the RETIRE is complete (R34, R36). -/
theorem not_tenantCommands : ¬ Obligations.TenantCommands := by
  unfold Obligations.TenantCommands
  intro h
  obtain ⟨-, -, -, -, -, -, -, -, hcomplete, -⟩ := h (retiring askedLive) { ten := 0, core := 8, slot := 1 } 0 0 8
  obtain ⟨-, hretire⟩ := hcomplete { cmd := .retire, ten := 7, handle := none } rfl rfl (by decide +kernel)
  obtain ⟨t, ht, -, hnone⟩ := hretire rfl
  obtain rfl : (retiring askedLive).tenComplete = t := Host.Outcome.next.inj ht
  rw [tenComplete_retiring] at hnone
  contradiction

end Sys2Proof.Proofs
end

section
/-! PROOFS. What keeps memory, tags, code stores and check bits canonical (O60): the rules by which the proof of each function of the
model follows that function's own definition. -/

namespace Sys2Proof

open Sys2Proof.Machine

/-- A state with the same memory, tags, code stores and check bits is canonical too. -/
theorem Sound.same {s t : State} (h : Sound s) (hmem : t.mem = s.mem := by rfl) (htags : t.tags = s.tags := by rfl)
    (hecc : t.ecc = s.ecc := by rfl) (hcode : t.code = s.code := by rfl) (hcodeEcc : t.codeEcc = s.codeEcc := by rfl) : Sound t := by
  unfold Sound
  rw [hmem, htags, hecc, hcode, hcodeEcc]
  exact h

/-- A state that differs only in fields other than those five is canonical too: stated through the constructor, so that a record update
is recognised by its form alone. -/
theorem Sound.update {s : State} (h : Sound s)
    {cores coves tenants tenTable chGens entryGens srcGens tides entries outputs mods windows waves sources evc churn channels
    undertow tlbis links eths cans uarts pcie xspi i2cs memCtl jtag power gates aon otp board phase bootAt image undurable
    heldEvents heldWakes frames inj feat hykEn now free pending} :
    Sound ⟨s.mem, s.tags, s.ecc, s.code, s.codeEcc,
      cores, coves, tenants, tenTable, chGens, entryGens, srcGens, tides, entries, outputs, mods, windows, waves, sources, evc,
      churn, channels, undertow, tlbis, links, eths, cans, uarts, pcie, xspi, i2cs, memCtl, jtag, power, gates, aon, otp, board,
      phase, bootAt, image, undurable, heldEvents, heldWakes, frames, inj, feat, hykEn, now, free, pending⟩ := h

theorem Sound.of_snd {α : Type} {p : α × State} {a : α} {s : State} (h : Sound p.2) (he : p = (a, s)) : Sound s := by
  rwa [he] at h

theorem Sound.of_fst {α : Type} {p : State × α} {a : α} {s : State} (h : Sound p.1) (he : p = (s, a)) : Sound s := by
  rwa [he] at h

theorem Sound.of_snd_snd {α β : Type} {p : α × β × State} {a : α} {b : β} {s : State} (h : Sound p.2.2) (he : p = (a, b, s)) :
    Sound s := by
  rwa [he] at h

end Sys2Proof

namespace Sys2Proof.Proofs

open Sys2Proof.Machine

/-- An answer that is an error leaves no new state; any other answer's state is canonical. -/
def OkSound {ε : Type} : Except ε State → Prop
  | .ok t => Sound t
  | .error _ => True

/-- The state that is answered, if any, is canonical. -/
def SomeSound : Option State → Prop
  | some t => Sound t
  | none => True

/-- The state that an operation's outcome carries is canonical. -/
def OutSound : OpOut → Prop
  | .done t | .jump t | .stay t | .trap _ _ t | .fault _ t | .escalate _ _ t => Sound t

/-- The next state, if there is one, is canonical. -/
def NextSound : Host.Outcome State Fault Refusal → Prop
  | .next t => Sound t
  | .fault _ | .refused _ => True

/-- An operation of the table leaves a canonical state canonical. -/
def OpKeeps (o : Operation) : Prop := ∀ th s, Sound s → OutSound (o.run th s)

theorem OkSound.of_ok {ε : Type} {r : Except ε State} {t : State} (h : OkSound r) (he : r = .ok t) : Sound t := by
  rwa [he] at h

theorem SomeSound.of_some {r : Option State} {t : State} (h : SomeSound r) (he : r = some t) : Sound t := by
  rwa [he] at h

theorem OutSound.of_done {r : OpOut} {t : State} (h : OutSound r) (he : r = .done t) : Sound t := by
  rwa [he] at h

theorem OutSound.of_fault {r : OpOut} {f : FaultInfo} {t : State} (h : OutSound r) (he : r = .fault f t) : Sound t := by
  rwa [he] at h

theorem holds_ite {α : Type} {P : α → Prop} {c : Prop} [Decidable c] {a b : α} (ha : P a) (hb : P b) : P (if c then a else b) := by
  split
  · exact ha
  · exact hb

theorem sound_ite {c : Prop} [Decidable c] {a b : State} (ha : Sound a) (hb : Sound b) : Sound (if c then a else b) :=
  holds_ite ha hb

theorem sound_ite_snd {α : Type} {c : Prop} [Decidable c] {a b : α × State} (ha : Sound a.2) (hb : Sound b.2) :
    Sound (if c then a else b).2 :=
  holds_ite (P := fun p : α × State => Sound p.2) ha hb

theorem sound_ite_fst {α : Type} {c : Prop} [Decidable c] {a b : State × α} (ha : Sound a.1) (hb : Sound b.1) :
    Sound (if c then a else b).1 :=
  holds_ite (P := fun p : State × α => Sound p.1) ha hb

theorem sound_foldl {α : Type} {f : State → α → State} {l : List α} {s : State} (h : Sound s)
    (hf : ∀ t, Sound t → ∀ a, Sound (f t a)) : Sound (l.foldl f s) := by
  induction l generalizing s with
  | nil => exact h
  | cons a r ih => exact ih (hf _ h a)

/-- What holds of a recursion on a list step by step, each step taking it of its recursive call, holds of the recursion: for a function
whose own equation would cost the kernel an evaluation of the access that its step makes first. -/
theorem list_brecOn_holds {α ρ : Type} {F : (l : List α) → List.below (motive := fun _ => ρ) l → ρ} (P : ρ → Prop)
    (hnil : P (F [] ⟨⟩)) (hcons : ∀ a r f, P f.1 → P (F (a :: r) f)) (l : List α) : P (List.brecOn (motive := fun _ => ρ) l F) := by
  induction l with
  | nil => exact hnil
  | cons a r ih => exact hcons a r _ ih

/-- The same of a recursion on a number. -/
theorem nat_brecOn_holds {ρ : Type} {F : (n : Nat) → Nat.below (motive := fun _ => ρ) n → ρ} (P : ρ → Prop)
    (hzero : P (F 0 ⟨⟩)) (hsucc : ∀ n f, P f.1 → P (F (n + 1) f)) (n : Nat) : P (Nat.brecOn (motive := fun _ => ρ) n F) := by
  induction n with
  | zero => exact hzero
  | succ n ih => exact hsucc n _ ih

/-- A canonical table filtered by its entries is canonical. -/
theorem canonical_filter {α : Type} [DecidableEq α] {dflt : Nat → α} {t : Tbl α} (keep : Nat × α → Bool)
    (h : t.canonical dflt = true) : Tbl.canonical dflt ⟨t.cells.filter keep⟩ = true := by
  simp only [Tbl.canonical, Tbl.sorted, Bool.and_eq_true, List.all_eq_true, List.mem_filter] at h ⊢
  obtain ⟨hsorted, hall⟩ := h
  exact ⟨Laws.cellsSorted_filter _ _ hsorted, fun e he => hall e he.1⟩

theorem sound_raise {s : State} {i : Fin 2048} (h : Sound s) : Sound (s.raise i) := (Laws.sameMem_raise s i).sound h

theorem sound_raiseN {s : State} {n : Nat} (h : Sound s) : Sound (s.raiseN n) := (Laws.sameMem_raiseN s n).sound h

theorem sound_detect {s : State} {page d : Nat} {inj : Bool} (h : Sound s) : Sound (s.detect page d inj) :=
  (Laws.sameMem_detect s page d inj).sound h

theorem sound_takeInj {s : State} {page d : Nat} {ok : Word → Bool} (h : Sound s) : Sound (s.takeInj page d ok).2 :=
  (Laws.sameMem_takeInj s page d ok).sound h

theorem sound_nextGen {s : State} {g : Gen} (h : Sound s) : Sound (s.nextGen g).2 := (Laws.sameMem_nextGen s g).sound h

theorem keeps_plainOp {run : Op} (hr : ∀ th s, Sound s → OutSound (run th s)) : OpKeeps (plainOp run) := hr

theorem keeps_groupOp {g : Group} {run : Op} (hr : ∀ th s, Sound s → OutSound (run th s)) : OpKeeps (groupOp g run) := hr

theorem keeps_supOp {run : Op} (hr : ∀ th s, Sound s → OutSound (run th s)) : OpKeeps (supOp run) := hr

theorem keeps_blockOp {g : Group} {run : Op} (hr : ∀ th s, Sound s → OutSound (run th s)) : OpKeeps (blockOp g run) := hr

end Sys2Proof.Proofs
end

section
/-! PROOFS. Memory, tags, code stores and check bits stay canonical at every step (O60): a lemma for each function that gives a
state, in the order of the model's files, and the step itself. -/

namespace Sys2Proof.Proofs

open Sys2Proof.Machine Sys2Proof.Laws

/-! ### Fields of the state -/

theorem sound_setCore {s : State} {k c} (h : Sound s) : Sound (s.setCore k c) := h.update
theorem sound_setCove {s : State} {n c} (h : Sound s) : Sound (s.setCove n c) := h.update
theorem sound_setTenant {s : State} {t v} (h : Sound s) : Sound (s.setTenant t v) := h.update
theorem sound_setTide {s : State} {i v} (h : Sound s) : Sound (s.setTide i v) := h.update
theorem sound_setEntry {s : State} {i v} (h : Sound s) : Sound (s.setEntry i v) := h.update
theorem sound_setOutput {s : State} {i v} (h : Sound s) : Sound (s.setOutput i v) := h.update
theorem sound_setMod {s : State} {i v} (h : Sound s) : Sound (s.setMod i v) := h.update
theorem sound_setWave {s : State} {i v} (h : Sound s) : Sound (s.setWave i v) := h.update
theorem sound_setChannel {s : State} {i v} (h : Sound s) : Sound (s.setChannel i v) := h.update
theorem sound_setLink {s : State} {l v} (h : Sound s) : Sound (s.setLink l v) := h.update
theorem sound_setEth {s : State} {i v} (h : Sound s) : Sound (s.setEth i v) := h.update
theorem sound_setCan {s : State} {i v} (h : Sound s) : Sound (s.setCan i v) := h.update
theorem sound_setUart {s : State} {i v} (h : Sound s) : Sound (s.setUart i v) := h.update
theorem sound_setI2c {s : State} {i v} (h : Sound s) : Sound (s.setI2c i v) := h.update
theorem sound_setGate {s : State} {d v} (h : Sound s) : Sound (s.setGate d v) := h.update
theorem sound_setFrame {s : State} {page v} (h : Sound s) : Sound (s.setFrame page v) := h.update
theorem sound_drawWord {s : State} (h : Sound s) : Sound s.drawWord.2 := h.update
theorem sound_drawBelow {s : State} {n} (h : Sound s) : Sound (s.drawBelow n).2 := h.update
theorem sound_advance {s : State} {t} (h : Sound s) : Sound (s.advance t) := h.update
theorem sound_undertowSend {s : State} {cls port} (h : Sound s) : Sound (s.undertowSend cls port) := h.update
theorem sound_class0 {s : State} {who port} (h : Sound s) : Sound (s.class0 who port) := sound_ite (sound_undertowSend h) h
theorem sound_setSource {s : State} {i x} (h : Sound s) : Sound (s.setSource i x) := h.update
theorem sound_ageAll {s : State} (h : Sound s) : Sound s.ageAll := sound_foldl h fun _ ht _ => sound_setSource ht
theorem sound_arrive {s : State} {i} (h : Sound s) : Sound (s.arrive i) := sound_setSource h
theorem sound_injClose {s : State} (h : Sound s) : Sound s.injClose := h.update

theorem sound_nextChGen {s : State} {n} (h : Sound s) : Sound (s.nextChGen n) := by
  unfold State.nextChGen
  split
  next he => exact ((sound_nextGen h).of_snd he).update

theorem sound_nextEntryGen {s : State} {n} (h : Sound s) : Sound (s.nextEntryGen n) := by
  unfold State.nextEntryGen
  split
  next he => exact ((sound_nextGen h).of_snd he).update

theorem sound_nextSrcGen {s : State} {n} (h : Sound s) : Sound (s.nextSrcGen n) := by
  unfold State.nextSrcGen
  split
  next he => exact ((sound_nextGen h).of_snd he).update

/-! ### Threads, banks and images -/

theorem sound_modCore {s : State} {k f} (h : Sound s) : Sound (s.modCore k f) := sound_setCore h
theorem sound_modSlot {s : State} {k sl f} (h : Sound s) : Sound (s.modSlot k sl f) := sound_modCore h
theorem sound_modCove {s : State} {n f} (h : Sound s) : Sound (s.modCove n f) := sound_setCove h
theorem sound_setTop {s : State} {th x} (h : Sound s) : Sound (s.setTop th x) := sound_modCore h

theorem sound_storeCaps {s : State} {pa l} (h : Sound s) : Sound (s.storeCaps pa l) := by
  induction l generalizing s pa with
  | nil => exact h
  | cons c r ih => exact ih (sound_storeCap _ _ _ h)

theorem sound_storeWords {s : State} {pa l} (h : Sound s) : Sound (s.storeWords pa l) := by
  induction l generalizing s pa with
  | nil => exact h
  | cons w r ih => exact ih (sound_putWord _ _ _ _ h)

theorem sound_writeImage {s : State} {k sl lv x} (h : Sound s) : Sound (s.writeImage k sl lv x) := by
  unfold State.writeImage
  extract_lets _ s1 s2 s3 s4
  have hs1 : Sound s1 := sound_storeWords h
  have hs2 : Sound s2 := sound_storeCaps hs1
  have hs3 : Sound s3 := sound_storeWords hs2
  have hs4 : Sound s4 := sound_storeCaps hs3
  exact sound_storeWords hs4

theorem sound_checkImage {s : State} {k sl lv} (h : Sound s) : Sound (s.checkImage k sl lv).2 :=
  sound_foldl h fun _ ht _ => sound_checkWord _ _ _ ht

theorem sound_setWp {s : State} {k sl lv on} (h : Sound s) : Sound (s.setWp k sl lv on) := by
  unfold State.setWp
  split
  · exact sound_modCore h
  · exact sound_putWord _ _ _ _ h

theorem sound_threadWp {s : State} {k sl on} (h : Sound s) : Sound (s.threadWp k sl on) := sound_foldl h fun _ ht _ => sound_setWp ht

theorem sound_wakeThread {s : State} {k sl} (h : Sound s) : Sound (s.wakeThread k sl) := by
  unfold State.wakeThread
  exact sound_ite h (sound_ite (sound_threadWp h) (sound_ite (sound_modSlot h)
    (sound_ite (sound_modSlot h) (sound_ite (sound_modSlot h) (sound_ite (sound_modSlot h) (sound_threadWp h))))))

theorem sound_wakeBy {s : State} {ten k sl} (h : Sound s) : Sound (s.wakeBy ten k sl) := sound_ite (sound_wakeThread h) h
theorem sound_spill {s : State} {k i b} (h : Sound s) : Sound (s.spill k i b) := sound_modCore (sound_writeImage h)

theorem sound_takeBank {s : State} {k} (h : Sound s) : Sound (s.takeBank k).2 := by
  unfold State.takeBank
  split
  · exact h
  · split
    · exact sound_spill h
    · exact h

theorem sound_bankFor {s : State} {k sl lv} (h : Sound s) : Sound (s.bankFor k sl lv).2 := sound_ite_snd h (sound_takeBank h)
theorem sound_placeCtx {s : State} {k i sl lv x} (h : Sound s) : Sound (s.placeCtx k i sl lv x) := sound_modCore h

theorem sound_injectFill {s : State} {k sl lv} (h : Sound s) : Sound (s.injectFill k sl lv).2 := by
  unfold State.injectFill
  split
  next he => exact sound_poison _ _ _ ((sound_takeInj h).of_snd he)
  next he => exact (sound_takeInj h).of_snd he

theorem sound_fill {s : State} {k sl lv} (h : Sound s) : Sound (s.fill k sl lv) := by
  unfold State.fill
  split
  next he =>
    split
    next he1 =>
      split
      · exact sound_detect (sound_ite ((sound_checkImage ((sound_injectFill h).of_snd he)).of_snd he1)
          (sound_modSlot ((sound_checkImage ((sound_injectFill h).of_snd he)).of_snd he1)))
      · split
        next he3 =>
          exact sound_modCore (sound_placeCtx ((sound_bankFor ((sound_checkImage ((sound_injectFill h).of_snd he)).of_snd he1)).of_snd he3))
        next he3 => exact (sound_bankFor ((sound_checkImage ((sound_injectFill h).of_snd he)).of_snd he1)).of_snd he3

theorem sound_evict {s : State} {k sl lv} (h : Sound s) : Sound (s.evict k sl lv) := by
  unfold State.evict
  split
  · exact sound_modCore (sound_writeImage h)
  · exact h

/-! ### The log and the trace -/

theorem sound_putRecord {s : State} {k r w} (h : Sound s) : Sound (s.putRecord k r w) :=
  sound_modCore (sound_putWord _ _ _ _ (sound_putWord _ _ _ _ h))

theorem sound_logRecord {s : State} {k r} (h : Sound s) : Sound (s.logRecord k r) := by
  unfold State.logRecord
  extract_lets
  split
  · exact sound_putRecord h
  · extract_lets _ s1 s2
    have hs1 : Sound s1 := sound_ite (sound_putRecord h) h
    have hs2 : Sound s2 := sound_putRecord hs1
    exact sound_modCore hs2

theorem sound_flushIssues {s : State} {k} (h : Sound s) : Sound (s.flushIssues k) := sound_ite h (sound_modCore (sound_logRecord h))

theorem sound_traceIssue {s : State} {k regular issuer} (h : Sound s) : Sound (s.traceIssue k regular issuer) := by
  unfold State.traceIssue
  exact sound_ite (sound_modCore (sound_ite (sound_logRecord (sound_flushIssues h)) (sound_flushIssues h)))
    (sound_ite (sound_flushIssues (sound_modCore h)) (sound_modCore h))

theorem sound_logValue {s : State} {k slot v t code second} (h : Sound s) : Sound (s.logValue k slot v t code second) :=
  sound_ite h (sound_logRecord h)

theorem sound_logRelease {s : State} {k kind pa be data} (h : Sound s) : Sound (s.logRelease k kind pa be data) :=
  sound_ite h (sound_logRecord h)

theorem sound_logInput {s : State} {k r} (h : Sound s) : Sound (s.logInput k r) := sound_ite h (sound_logRecord h)
theorem sound_logUndo {s : State} {k pa} (h : Sound s) : Sound (s.logUndo k pa) := sound_logRecord h

theorem sound_logStore {s : State} {k pa be data} (h : Sound s) : Sound (s.logStore k pa be data) :=
  sound_ite (sound_foldl h fun _ ht _ => sound_logUndo ht) (sound_logRelease h)

/-! ### Translation of an access -/

theorem sound_countUnwritten {s : State} {t} (h : Sound s) : Sound (s.countUnwritten t) := sound_setTenant h

theorem sound_judgeTag {s : State} {w t lenient ten} (h : Sound s) : Sound (s.judgeTag w t lenient ten).2 := by
  unfold State.judgeTag
  split
  · exact h
  · exact sound_ite_snd (sound_countUnwritten h) h
  · exact h

theorem sound_readTagged {s : State} {pa lenient ten} (h : Sound s) : Sound (s.readTagged pa lenient ten).2 :=
  sound_judgeTag (sound_checkWord _ _ _ h)

/-! ### Memory targets -/

theorem sound_memLoad {s : State} {n p ten} (h : Sound s) : Sound (s.memLoad n p ten).2 := by
  unfold State.memLoad
  split
  next he =>
    split
    next he1 => exact (sound_judgeTag ((sound_peek _ _ _ h).of_snd he)).of_snd he1
    next he1 => exact (sound_judgeTag ((sound_peek _ _ _ h).of_snd he)).of_snd he1

/-! ### The event controller -/

theorem sound_srcEnable {s : State} {i} (h : Sound s) : Sound (s.srcEnable i) := sound_setSource h
theorem sound_srcDisable {s : State} {i} (h : Sound s) : Sound (s.srcDisable i) := sound_setSource h
theorem sound_srcPendSet {s : State} {i} (h : Sound s) : Sound (s.srcPendSet i) := sound_ite h (sound_setSource (sound_arrive h))
theorem sound_srcPendClr {s : State} {i} (h : Sound s) : Sound (s.srcPendClr i) := sound_setSource h
theorem sound_srcMask {s : State} {i k v} (h : Sound s) : Sound (s.srcMask i k v) := sound_setSource h
theorem sound_srcBind {s : State} {i v} (h : Sound s) : Sound (s.srcBind i v) := sound_ite h (sound_nextSrcGen (sound_setSource h))

theorem sound_srcPut {s : State} {ten i f v} (h : Sound s) : OkSound (s.srcPut ten i f v) := by
  unfold State.srcPut
  extract_lets
  split
  · trivial
  · exact sound_ite (sound_srcEnable h) h
  · exact sound_ite (sound_srcDisable h) h
  · exact sound_ite (sound_srcPendSet h) h
  · exact sound_ite (sound_srcPendClr h) h
  · exact sound_setSource h
  · exact holds_ite (sound_setSource h) trivial
  · exact holds_ite (sound_srcMask h) trivial
  · exact holds_ite (sound_srcMask h) trivial
  · exact holds_ite (sound_srcMask h) trivial
  · exact holds_ite (sound_srcMask h) trivial
  · exact holds_ite (sound_srcBind h) trivial
  · trivial

theorem sound_checkSource {s : State} {i} (h : Sound s) : Sound (s.checkSource i) := by
  unfold State.checkSource
  split
  next he => exact sound_ite (sound_detect (sound_setSource ((sound_takeInj h).of_snd he))) ((sound_takeInj h).of_snd he)
  next he => exact (sound_takeInj h).of_snd he

theorem sound_srcWrite {s : State} {ten i f v} (h : Sound s) : OkSound (s.srcWrite ten i f v) := by
  unfold State.srcWrite
  split
  next he => exact sound_checkSource ((sound_srcPut h).of_ok he)
  · trivial

theorem sound_orSame {s : State} {r : Except ℕ State} (h : Sound s) (hr : OkSound r) : Sound (orSame s r) := by
  unfold orSame
  split
  · exact hr
  · exact h

theorem sound_deliver {s : State} {i k} (h : Sound s) : Sound (s.deliver i k) := sound_modCore (sound_setSource h)

theorem sound_selectFrom {s : State} {taken l} (h : Sound s) : Sound (s.selectFrom taken l) := by
  induction l generalizing s taken with
  | nil => exact h
  | cons i r ih =>
    unfold State.selectFrom
    extract_lets
    split
    · exact ih h
    · split
      · exact ih (sound_deliver h)
      · exact ih h

theorem sound_endService {s : State} {k} (h : Sound s) : Sound (s.endService k) := by
  unfold State.endService
  split
  · exact h
  · exact sound_modCore (sound_setSource h)

theorem sound_withdraw {s : State} {k} (h : Sound s) : Sound (s.withdraw k) := by
  unfold State.withdraw
  split
  · exact sound_ite h (sound_modCore (sound_undertowSend (sound_setSource h)))
  · exact h

theorem sound_claim {s : State} {k} (h : Sound s) : Sound (s.claim k).2 := by
  unfold State.claim
  split
  · exact h
  · split
    · exact h
    · extract_lets _ s0
      have hs0 : Sound s0 := sound_setSource h
      split
      · exact sound_modCore (sound_foldl hs0 fun _ ht _ => sound_arrive ht)

theorem sound_done {s : State} {k} (h : Sound s) : Sound (s.done k) := by
  unfold State.done
  split
  · exact sound_ite (sound_endService h) h
  · exact h

theorem sound_execEventArrival {src at_} {s : State} (h : Sound s) : NextSound (execEventArrival src at_ s) :=
  sound_ite (sound_checkSource (sound_raise (sound_advance h))) (sound_advance h)

theorem sound_execCoalesceTimeout {src at_} {s : State} (h : Sound s) : NextSound (execCoalesceTimeout src at_ s) :=
  holds_ite (sound_setSource (sound_advance h)) (sound_advance h)

theorem sound_execEvcSelect {at_} {s : State} (h : Sound s) : NextSound (execEvcSelect at_ s) :=
  sound_ite (sound_selectFrom (sound_advance h)) (sound_advance h)

theorem sound_execUrgentEntry {src at_} {s : State} (h : Sound s) : NextSound (execUrgentEntry src at_ s) :=
  holds_ite (sound_setSource ((sound_advance h).update)) (sound_advance h)

theorem sound_execEnSet {ten src at_} {s : State} (h : Sound s) : NextSound (execEnSet ten src at_ s) :=
  sound_orSame (sound_advance h) (sound_srcWrite (sound_advance h))

theorem sound_execEnClr {ten src at_} {s : State} (h : Sound s) : NextSound (execEnClr ten src at_ s) :=
  sound_orSame (sound_advance h) (sound_srcWrite (sound_advance h))

theorem sound_execEnClrEffect {src at_} {s : State} (h : Sound s) : NextSound (execEnClrEffect src at_ s) :=
  sound_setSource (sound_advance h)

theorem sound_execPendSet {ten src at_} {s : State} (h : Sound s) : NextSound (execPendSet ten src at_ s) :=
  sound_orSame (sound_advance h) (sound_srcWrite (sound_advance h))

theorem sound_execPendClr {ten src} {s : State} (h : Sound s) : NextSound (execPendClr ten src s) := sound_orSame h (sound_srcWrite h)

theorem sound_execEvcBindWrite {ten src v} {s : State} (h : Sound s) : NextSound (execEvcBindWrite ten src v s) :=
  sound_orSame h (sound_srcWrite h)

theorem sound_execMaskWrite {ten src k v at_} {s : State} (h : Sound s) : NextSound (execMaskWrite ten src k v at_ s) :=
  sound_orSame (sound_advance h) (sound_srcWrite (sound_advance h))

theorem sound_aliasSet {s : State} {pending i} (h : Sound s) : Sound (s.aliasSet pending i) :=
  sound_ite (sound_srcPendSet h) (sound_srcEnable h)

theorem sound_aliasClr {s : State} {pending i} (h : Sound s) : Sound (s.aliasClr pending i) :=
  sound_ite (sound_srcPendClr h) (sound_srcDisable h)

theorem sound_evcDirect {s : State} {pending k v} (h : Sound s) : Sound (s.evcDirect pending k v) :=
  sound_foldl h fun _ ht _ => sound_ite (sound_aliasSet ht) (sound_aliasClr ht)

theorem sound_evcAlias {s : State} {pending set k v} (h : Sound s) : Sound (s.evcAlias pending set k v) :=
  sound_foldl h fun _ ht _ => sound_ite (sound_aliasSet ht) (sound_aliasClr ht)

theorem sound_ifOwner {s : State} {who page} {f : State → State} (h : Sound s) (hf : ∀ t, Sound t → Sound (f t)) :
    Sound (s.ifOwner who page f) := by
  unfold State.ifOwner
  split
  next he => exact sound_detect ((sound_takeInj h).of_snd he)
  next he => exact sound_ite (hf _ ((sound_takeInj h).of_snd he)) (sound_detect ((sound_takeInj h).of_snd he))

theorem sound_ifHeadland {s : State} {who page} {f : State → State} (h : Sound s) (hf : ∀ t, Sound t → Sound (f t)) :
    Sound (s.ifHeadland who page f) := by
  unfold State.ifHeadland
  split
  next he => exact sound_detect ((sound_takeInj h).of_snd he)
  next he => exact sound_ite (hf _ ((sound_takeInj h).of_snd he)) (sound_detect ((sound_takeInj h).of_snd he))

theorem sound_execEnablePendingDirectWrite {who pending k v at_} {s : State} (h : Sound s) :
    NextSound (execEnablePendingDirectWrite who pending k v at_ s) := by
  unfold execEnablePendingDirectWrite
  exact sound_ifOwner (sound_advance h) (fun _ ht => sound_evcDirect ht)

theorem sound_execEnablePendingAliasWrite {who pending set k v at_} {s : State} (h : Sound s) :
    NextSound (execEnablePendingAliasWrite who pending set k v at_ s) := by
  unfold execEnablePendingAliasWrite
  exact sound_ifOwner (sound_advance h) (fun _ ht => sound_evcAlias ht)

theorem sound_execEvcClaimRead {who page} {s : State} (h : Sound s) : NextSound (execEvcClaimRead who page s) := sound_ite (sound_claim h) h

theorem sound_execEvcDoneWrite {who page} {s : State} (h : Sound s) : NextSound (execEvcDoneWrite who page s) :=
  sound_ite (sound_ifOwner h (fun _ ht => sound_ite (sound_done ht) ht)) h

theorem sound_latchCatch {s : State} {k} (h : Sound s) : Sound (s.latchCatch k) := sound_ite h.update h
theorem sound_execWakeLatchCatch {k} {s : State} (h : Sound s) : NextSound (execWakeLatchCatch k s) := sound_latchCatch h
theorem sound_latchClear {s : State} {hi v} (h : Sound s) : Sound (s.latchClear hi v) := h.update

theorem sound_execWakeLatchClear {who hi v} {s : State} (h : Sound s) : NextSound (execWakeLatchClear who hi v s) :=
  sound_ifOwner h (fun _ ht => sound_latchClear ht)

theorem sound_ballEdge {s : State} {k} (h : Sound s) : Sound (s.ballEdge k) := sound_ite (sound_latchCatch h) (sound_raiseN h)
theorem sound_execWakeBallEdge {k at_} {s : State} (h : Sound s) : NextSound (execWakeBallEdge k at_ s) := sound_ballEdge (sound_advance h)

theorem sound_execEventDispatch {core} {s : State} (h : Sound s) : NextSound (execEventDispatch core s) := by
  unfold execEventDispatch
  split
  · exact h
  · exact holds_ite h (holds_ite (sound_modCore (sound_logInput h)) (sound_withdraw h))

/-! ### The Churn: accesses of a channel -/

theorem sound_countDrop {s : State} {ch} (h : Sound s) : Sound (s.countDrop ch) :=
  sound_ite (sound_raiseN (sound_setChannel h)) (sound_setChannel h)

theorem sound_deposit {s : State} {ch r} (h : Sound s) : Sound (s.deposit ch r).2 := by
  unfold State.deposit
  extract_lets _ _ s1
  have hs1 : Sound s1 := sound_setChannel h
  split
  · exact sound_setChannel h
  · split
    · split
      · exact sound_setChannel h
    · exact sound_ite hs1 (sound_countDrop hs1)

theorem sound_depositAt {s : State} {ty ep r} (h : Sound s) : Sound (s.depositAt ty ep r).2 := by
  unfold State.depositAt
  split
  · exact sound_deposit h
  · exact h

theorem sound_chRead {s : State} {ch va strict} (h : Sound s) : Sound (s.chRead ch va strict).2 := by
  unfold State.chRead
  split
  · exact h
  · exact sound_ite_snd h (sound_ite_snd h (sound_readTagged h))

theorem sound_chForeign {s : State} {ch va} (h : Sound s) : Sound (s.chForeign ch va) := by
  unfold State.chForeign
  extract_lets _ pick
  clear_value pick
  split
  · exact h
  · split
    · exact sound_ite (sound_detect h) h
    · exact h

theorem sound_chWrite {s : State} {ch va w poisoned} (h : Sound s) : Sound (s.chWrite ch va w poisoned).2 := by
  unfold State.chWrite
  split
  · exact sound_chForeign h
  · exact sound_ite_snd h (sound_ite (sound_putTag _ _ _ (sound_storeWord _ _ _ h)) (sound_storeWord _ _ _ h))

theorem sound_chReads {s : State} {ch strict n va} (h : Sound s) : Sound (s.chReads ch strict va n).2.2 := by
  induction n generalizing s va with
  | zero => exact h
  | succ n ih =>
    unfold State.chReads
    split
    next he => exact (sound_chRead h).of_snd he
    next he => exact ih ((sound_chRead h).of_snd he)

theorem sound_chWrites {s : State} {ch va l} (h : Sound s) : Sound (s.chWrites ch va l).2.2 := by
  induction l generalizing s va with
  | nil => exact h
  | cons w r ih =>
    unfold State.chWrites
    split
    next he => exact (sound_chWrite h).of_snd he
    next he => exact ih ((sound_chWrite h).of_snd he)

theorem sound_writeBack {s : State} {ch done stat} (h : Sound s) : Sound (s.writeBack ch done stat) := sound_chWrites h

theorem sound_chFault {s : State} {ch code} (h : Sound s) : Sound (s.chFault ch code) :=
  sound_ite h (sound_raiseN (sound_setChannel (sound_writeBack h)))

theorem sound_chHalt {s : State} {ch} (h : Sound s) : Sound (s.chHalt ch) := sound_setChannel (sound_ite (sound_writeBack h) h)
theorem sound_chStop {s : State} {ch} (h : Sound s) : Sound (s.chStop ch) := sound_ite (sound_setChannel h) (sound_chHalt h)

theorem sound_chFlush {s : State} {ch} (h : Sound s) : Sound (s.chFlush ch) :=
  sound_ite (sound_setChannel h) (sound_setChannel (sound_chHalt h))

theorem sound_chRebind {s : State} {ch cbind} (h : Sound s) : Sound (s.chRebind ch cbind) := sound_nextChGen (sound_setChannel h)
theorem sound_chRetire {s : State} {ch} (h : Sound s) : Sound (s.chRetire ch) := sound_nextChGen (sound_setChannel h)
theorem sound_chStart {s : State} {ch} (h : Sound s) : Sound (s.chStart ch) := sound_setChannel h
theorem sound_chReadField {s : State} {ch f} (h : Sound s) : Sound (s.chReadField ch f).2 := sound_ite (sound_setChannel h) h

theorem sound_chCtrl {s : State} {ch v} (h : Sound s) : Sound (s.chCtrl ch v) :=
  sound_ite (sound_setChannel h) (sound_setChannel (sound_ite h (sound_chHalt h)))

theorem sound_cxeWrite {s : State} {ch second w v} (h : Sound s) : OkSound (s.cxeWrite ch second w v) := by
  unfold State.cxeWrite
  extract_lets
  split
  · split
    · trivial
    · exact sound_setChannel h
  · exact sound_setChannel h

theorem sound_chTail {s : State} {ch v} (h : Sound s) : OkSound (s.chTail ch v) := holds_ite (sound_setChannel h) trivial

theorem sound_chWriteField {s : State} {ten ch f v} (h : Sound s) : OkSound (s.chWriteField ten ch f v) := by
  unfold State.chWriteField
  extract_lets
  split
  · exact holds_ite trivial (holds_ite trivial (holds_ite (sound_setChannel h) (sound_chRebind h)))
  · exact holds_ite trivial (holds_ite (sound_chCtrl h) trivial)
  · trivial
  · trivial
  · trivial
  · trivial
  · exact holds_ite trivial (holds_ite (sound_setChannel h) trivial)
  · exact holds_ite (sound_chTail h) trivial
  · exact holds_ite (sound_cxeWrite h) trivial
  · exact holds_ite (sound_cxeWrite h) trivial
  · exact holds_ite (sound_cxeWrite h) trivial
  · exact holds_ite (sound_cxeWrite h) trivial
  · exact holds_ite (sound_cxeWrite h) trivial
  · exact holds_ite (sound_cxeWrite h) trivial
  · exact holds_ite (sound_cxeWrite h) trivial
  · exact holds_ite (sound_cxeWrite h) trivial
  · exact holds_ite (sound_ite (sound_chStart h) h) trivial
  · trivial

theorem sound_churnTlbi {s : State} {form ten va} (h : Sound s) : Sound (s.churnTlbi form ten va) := h.update

theorem sound_windowCheck {s : State} (h : Sound s) : Sound s.windowCheck := by
  unfold State.windowCheck
  extract_lets
  refine sound_foldl h.update fun _ ht _ => ?_
  extract_lets t1
  have ht1 : Sound t1 := sound_foldl ht fun _ ht1 _ => sound_setMod ht1
  split
  · exact sound_raiseN ht1
  · exact ht1

theorem sound_sampleDone {s : State} {i epoch} (h : Sound s) : Sound (s.sampleDone i epoch) :=
  sound_ite (sound_windowCheck (sound_setMod h)) h

theorem sound_linkWritten {s : State} {l} (h : Sound s) : Sound (s.linkWritten l) :=
  sound_foldl (sound_setLink h) fun _ ht _ => sound_raiseN ht

theorem sound_inputDone {s : State} {r} (h : Sound s) : Sound (s.inputDone r) := by
  unfold State.inputDone
  split
  · exact sound_linkWritten h
  · exact h

/-! ### Tides -/

theorem sound_atan2 {s : State} {y x} (h : Sound s) : Sound (s.atan2 y x).2 := by
  unfold State.atan2
  split
  · exact sound_drawBelow h
  · split
    next he1 => exact (sound_drawBelow h).of_snd he1

theorem sound_tideEvent {s : State} {i} (h : Sound s) : Sound (s.tideEvent i) := sound_ite (sound_raiseN h) h
theorem sound_waitEnds {s : State} {k sl} (h : Sound s) : Sound (s.waitEnds k sl) := sound_modSlot (sound_logInput h)
theorem sound_wakeInput {s : State} {k sl} (h : Sound s) : Sound (s.wakeInput k sl) := sound_wakeThread (sound_logInput h)

theorem sound_releaseWake {s : State} {w} (h : Sound s) : Sound (s.releaseWake w) := by
  unfold State.releaseWake
  split
  · split
    · exact sound_ite (sound_waitEnds h) h
    · exact h
  · exact sound_wakeInput h

theorem sound_holdWake {s : State} {w} (h : Sound s) : Sound (s.holdWake w) := sound_ite h h.update

theorem sound_releaseHeld {s : State} {k} (h : Sound s) : Sound (s.releaseHeld k) :=
  sound_ite (sound_foldl h.update fun _ ht _ => sound_releaseWake ht) h

theorem sound_waitsDone {s : State} {i} (h : Sound s) : Sound (s.waitsDone i) := h.update

theorem sound_changeTide {s : State} {i t} (h : Sound s) : Sound (s.changeTide i t) := by
  unfold State.changeTide
  extract_lets _ s1 s2 s3
  have hs1 : Sound s1 := sound_setTide h
  have hs2 : Sound s2 := sound_ite (sound_tideEvent hs1) hs1
  have hs3 : Sound s3 := sound_ite (sound_detect hs2) hs2
  exact sound_ite (sound_waitsDone hs3) hs3

theorem sound_shiftTimers {s : State} {i d} (h : Sound s) : Sound (s.shiftTimers i d) := sound_ite h h.update
theorem sound_enterSlack {s : State} {i} (h : Sound s) : Sound (s.enterSlack i) := sound_changeTide h

theorem sound_fallBack {s : State} {i} (h : Sound s) : Sound (s.fallBack i) := by
  unfold State.fallBack
  extract_lets
  split
  · exact h
  · exact sound_ite (sound_changeTide h) (sound_changeTide h)
  · exact sound_changeTide h
  · exact sound_changeTide h

theorem sound_tideRead {s : State} {i f} (h : Sound s) : Sound (s.tideRead i f).2 := by
  unfold State.tideRead
  extract_lets
  split
  · exact h
  · exact h
  · exact h
  · exact h
  · exact h
  · exact h
  · exact h
  · exact h
  · exact h
  · exact h
  · exact sound_setTide h
  · exact h

theorem sound_tsrcPut {s : State} {i v} (h : Sound s) : Sound (s.tsrcPut i v) := by
  unfold State.tsrcPut
  extract_lets
  split
  · exact sound_changeTide h
  · split
    · exact sound_changeTide h
    · split
      · exact sound_changeTide h
      · split
        next he3 => exact sound_changeTide ((sound_drawWord h).of_snd he3)

theorem sound_tsrcStep {s : State} {i v} (h : Sound s) : Sound (s.tsrcStep i v) := sound_shiftTimers (sound_tsrcPut h)

theorem sound_tideWrite {s : State} {ten i f v} (h : Sound s) : OkSound (s.tideWrite ten i f v) := by
  unfold State.tideWrite
  extract_lets
  split
  · exact holds_ite trivial (holds_ite (sound_tsrcStep h) trivial)
  · exact holds_ite trivial (holds_ite (holds_ite (sound_setTide h) trivial) (holds_ite (sound_setTide h) trivial))
  · exact holds_ite (sound_setTide h) trivial
  · exact holds_ite trivial (holds_ite (sound_setTide h) trivial)
  · exact holds_ite (sound_setTide h) trivial
  · exact holds_ite (sound_setTide h) trivial
  · exact holds_ite (sound_setTide h) trivial
  · trivial
  · trivial
  · trivial
  · trivial
  · trivial

/-! ### Outputs -/

theorem sound_placeEdge {s : State} {n lv entry tick target} (h : Sound s) : Sound (s.placeEdge n lv entry tick target) := by
  unfold State.placeEdge
  extract_lets
  split
  · exact sound_ite (sound_setOutput h) (sound_setOutput h)
  · exact sound_setOutput h

theorem sound_outRead {s : State} {n f} (h : Sound s) : Sound (s.outRead n f).2 := by
  unfold State.outRead
  extract_lets
  split
  · exact h
  · exact h
  · exact h
  · exact h
  · exact sound_setOutput h
  · exact h
  · exact h

theorem sound_outWrite {s : State} {ten n f v} (h : Sound s) : OkSound (s.outWrite ten n f v) := by
  unfold State.outWrite
  extract_lets
  split
  · exact holds_ite (sound_setOutput h) trivial
  · exact holds_ite (sound_setOutput h) trivial
  · trivial
  · trivial
  · trivial
  · exact holds_ite (sound_setOutput h) trivial
  · trivial

theorem sound_windowOpen {s : State} {first last n src} (h : Sound s) : Sound (s.windowOpen first last n src) :=
  sound_windowCheck ((sound_foldl h.update fun _ ht _ => sound_setMod ht).update)

theorem sound_windowClose {s : State} {first last} (h : Sound s) : Sound (s.windowClose first last) :=
  sound_windowCheck (sound_foldl h.update fun _ ht _ => sound_setMod ht)

/-! ### Wheel entries -/

theorem sound_fireNow {s : State} {n} (h : Sound s) : Sound (s.fireNow n) := by
  unfold State.fireNow
  extract_lets
  split
  · split
    · exact h
    · split
      next he2 => exact sound_setEntry ((sound_drawBelow h).of_snd he2)
  · exact sound_ite h (sound_setEntry h)

theorem sound_armEntry {s : State} {n} (h : Sound s) : Sound (s.armEntry n) :=
  sound_ite (sound_fireNow (sound_setEntry h)) (sound_setEntry h)

theorem sound_entryApply {s : State} {n f v} (h : Sound s) : Sound (s.entryApply n f v) := by
  unfold State.entryApply
  extract_lets _ _ s1
  have hs1 : Sound s1 := sound_setEntry h
  split
  · exact sound_setEntry h
  · exact sound_ite hs1 (sound_armEntry hs1)
  · exact sound_setEntry h
  · exact sound_setEntry h
  · exact sound_setEntry h
  · exact h

theorem sound_entryBind {s : State} {n v} (h : Sound s) : Sound (s.entryBind n v) :=
  sound_ite (sound_setEntry h) (sound_nextEntryGen (sound_setEntry h))

theorem sound_entryRetire {s : State} {n} (h : Sound s) : Sound (s.entryRetire n) := sound_nextEntryGen (sound_setEntry h)

theorem sound_entryWrite {s : State} {ten n f v} (h : Sound s) : OkSound (s.entryWrite ten n f v) := by
  unfold State.entryWrite
  extract_lets _ put
  have hput : Sound put := sound_ite (sound_setEntry h) (sound_entryApply h)
  split
  · exact holds_ite trivial (holds_ite trivial (holds_ite trivial hput))
  · exact holds_ite trivial (holds_ite trivial hput)
  · exact hput
  · exact hput
  · exact hput
  · trivial
  · trivial
  · trivial
  · trivial
  · exact holds_ite (sound_entryBind h) trivial
  · trivial

theorem sound_entryRead {s : State} {n f} (h : Sound s) : Sound (s.entryRead n f).2 := by
  unfold State.entryRead
  extract_lets
  split
  · exact h
  · exact h
  · exact h
  · exact h
  · exact h
  · exact h
  · exact h
  · exact sound_setEntry h
  · exact h
  · exact h
  · exact h

theorem sound_stageEntry {s : State} {n} (h : Sound s) : Sound (s.stageEntry n) := sound_setEntry h
theorem sound_restageOne {s : State} {i} (h : Sound s) : Sound (s.restageOne i) := sound_foldl h fun _ ht _ => sound_stageEntry ht
theorem sound_follow {s : State} {i} (h : Sound s) : Sound (s.follow i) := sound_ite (sound_restageOne (sound_setTide h)) h
theorem sound_restage {s : State} {i} (h : Sound s) : Sound (s.restage i) := sound_foldl (sound_restageOne h) fun _ ht _ => sound_follow ht
theorem sound_commitEntry {s : State} {n} (h : Sound s) : Sound (s.commitEntry n) := sound_setEntry (sound_stageEntry h)

theorem sound_applyLater {s : State} {n} (h : Sound s) : Sound (s.applyLater n) :=
  sound_foldl (sound_setEntry h) fun _ ht _ => sound_entryApply ht

theorem sound_placeJob {s : State} {n j} (h : Sound s) : Sound (s.placeJob n j) :=
  sound_ite (sound_applyLater (sound_setEntry (sound_ite (sound_placeEdge h) h))) (sound_setEntry (sound_ite (sound_placeEdge h) h))

theorem sound_placeRets {s : State} {n l} (h : Sound s) : Sound (s.placeRets n l) := by
  induction l generalizing s with
  | nil => exact h
  | cons r rest ih =>
    unfold State.placeRets
    split
    · split
      · exact ih (sound_setEntry (sound_placeEdge h))
      · exact ih h
    · exact ih h

theorem sound_placeDue {s : State} {n} (h : Sound s) : Sound (s.placeDue n) := by
  unfold State.placeDue
  extract_lets s1
  have hs1 : Sound s1 := sound_placeRets h
  split
  · exact sound_ite (sound_placeJob hs1) hs1
  · exact hs1

theorem sound_wakeAction {s : State} {owner arg} (h : Sound s) : SomeSound (s.wakeAction owner arg) :=
  holds_ite (sound_ite (sound_wakeInput h) (sound_holdWake h)) trivial

theorem sound_perform {s : State} {n snap} (h : Sound s) : Sound (s.perform n snap) := by
  unfold State.perform
  extract_lets _ refused
  have hrefused : Sound refused := sound_setEntry h
  split
  · exact hrefused
  · split
    · exact sound_windowOpen h
    · exact sound_windowClose h
    · split
      next he2 => exact (sound_wakeAction h).of_some he2
      · exact hrefused
    · exact sound_raiseN h
    · exact sound_chStart h
    · exact sound_setWave h
    · exact sound_setEntry h
    · exact h

theorem sound_dispatch {s : State} (h : Sound s) : Sound s.dispatch := sound_foldl h fun _ ht _ => sound_perform (sound_setEntry ht)

theorem sound_checkEntry {s : State} {n} (h : Sound s) : Sound (s.checkEntry n) := by
  unfold State.checkEntry
  split
  next he => exact sound_ite (sound_detect (sound_setEntry ((sound_takeInj h).of_snd he))) ((sound_takeInj h).of_snd he)
  next he => exact (sound_takeInj h).of_snd he

theorem sound_rearm {s : State} {i} (h : Sound s) : Sound (s.rearm i) :=
  sound_foldl h fun _ ht _ => sound_ite (sound_ite (sound_fireNow (sound_setEntry ht)) (sound_setEntry ht)) (sound_armEntry ht)

/-! ### Commands to tides, outputs and entries -/

theorem sound_tideStore {s : State} {ten i f v} (h : Sound s) : OkSound (s.tideStore ten i f v) := by
  unfold State.tideStore
  split
  · trivial
  next he => exact sound_restage (sound_ite (sound_rearm ((sound_tideWrite h).of_ok he)) ((sound_tideWrite h).of_ok he))

theorem sound_applyMeasure {s : State} {i m te count} (h : Sound s) : Sound (s.applyMeasure i m te count) := by
  unfold State.applyMeasure
  extract_lets _ _ _ s1 s2
  have hs1 : Sound s1 := sound_changeTide h
  have hs2 : Sound s2 := sound_ite (sound_rearm (sound_shiftTimers hs1)) hs1
  exact sound_restage hs2

theorem sound_countMeasure {s : State} {i k te} (h : Sound s) : Sound (s.countMeasure i k te) := sound_applyMeasure (sound_setTide h)
theorem sound_turnMeasure {s : State} {i f te} (h : Sound s) : Sound (s.turnMeasure i f te) := sound_applyMeasure h

theorem sound_pairMeasure {s : State} {i} (h : Sound s) : Sound (s.pairMeasure i) := by
  unfold State.pairMeasure
  extract_lets
  split
  · split
    · split
      next he3 => exact sound_turnMeasure ((sound_atan2 h).of_snd he3)
    · exact h
  · exact h

theorem sound_reverse {s : State} {i} (h : Sound s) : Sound (s.reverse i) := sound_tideEvent (sound_setTide h)

theorem sound_encoderCount {s : State} {i forward te} (h : Sound s) : Sound (s.encoderCount i forward te) := by
  unfold State.encoderCount
  exact sound_ite (sound_ite (sound_setTide h) (sound_restage (sound_reverse h)))
    (sound_ite (sound_ite (sound_restage (sound_setTide h)) (sound_setTide h)) (sound_countMeasure h))

theorem sound_lossInjection {s : State} {i} (h : Sound s) : Sound (s.lossInjection i) := by
  unfold State.lossInjection
  split
  next he =>
    extract_lets
    split
    · exact sound_setTide ((sound_takeInj h).of_snd he)
  next he => exact (sound_takeInj h).of_snd he

theorem sound_execTideMeasurement {t m at_} {s : State} (h : Sound s) : NextSound (execTideMeasurement t m at_ s) := by
  unfold execTideMeasurement
  extract_lets s1
  have hs1 : Sound s1 := sound_lossInjection (sound_advance h)
  split
  · exact hs1
  · show Sound _
    split
    · exact sound_ite (sound_countMeasure hs1) hs1
    · exact sound_ite (sound_encoderCount hs1) hs1
    · exact sound_ite hs1 (sound_turnMeasure hs1)
    · exact sound_pairMeasure hs1
    · exact sound_turnMeasure hs1
    · exact sound_turnMeasure hs1
    · exact hs1

theorem sound_execEncoderReversal {t at_} {s : State} (h : Sound s) : NextSound (execEncoderReversal t at_ s) :=
  sound_ite (sound_restage (sound_reverse (sound_advance h))) (sound_advance h)

theorem sound_execSlackWaterEntry {t at_} {s : State} (h : Sound s) : NextSound (execSlackWaterEntry t at_ s) :=
  sound_ite (sound_restage (sound_enterSlack (sound_advance h))) (sound_advance h)

theorem sound_execFallbackApply {t at_} {s : State} (h : Sound s) : NextSound (execFallbackApply t at_ s) :=
  sound_ite (sound_restage (sound_fallBack (sound_advance h))) (sound_advance h)

theorem sound_execTsrcWrite {ten t v at_} {s : State} (h : Sound s) : NextSound (execTsrcWrite ten t v at_ s) :=
  sound_orSame (sound_advance h) (sound_tideStore (sound_advance h))

theorem sound_execEntryPhaseWrite {ten e v at_} {s : State} (h : Sound s) : NextSound (execEntryPhaseWrite ten e v at_ s) :=
  sound_orSame (sound_checkEntry (sound_advance h)) (sound_entryWrite (sound_checkEntry (sound_advance h)))

theorem sound_execEntryCtrlWrite {ten e v at_} {s : State} (h : Sound s) : NextSound (execEntryCtrlWrite ten e v at_ s) :=
  sound_orSame (sound_checkEntry (sound_advance h)) (sound_entryWrite (sound_checkEntry (sound_advance h)))

theorem sound_execEntryArgWrite {ten e v at_} {s : State} (h : Sound s) : NextSound (execEntryArgWrite ten e v at_ s) :=
  sound_orSame (sound_checkEntry (sound_advance h)) (sound_entryWrite (sound_checkEntry (sound_advance h)))

theorem sound_execEntryBindWrite {ten e v} {s : State} (h : Sound s) : NextSound (execEntryBindWrite ten e v s) :=
  sound_orSame h (sound_entryWrite h)

theorem sound_execEntryFire {e at_} {s : State} (h : Sound s) : NextSound (execEntryFire e at_ s) := by
  unfold execEntryFire
  exact sound_ite (sound_placeDue (sound_checkEntry (sound_advance h)))
    (sound_ite (sound_fireNow (sound_checkEntry (sound_advance h))) (sound_checkEntry (sound_advance h)))

theorem sound_execEntryDispatch {at_} {s : State} (h : Sound s) : NextSound (execEntryDispatch at_ s) := sound_dispatch (sound_advance h)

theorem sound_execEntryStage {e at_} {s : State} (h : Sound s) : NextSound (execEntryStage e at_ s) :=
  sound_stageEntry (sound_checkEntry (sound_advance h))

theorem sound_execCommitPoint {e at_} {s : State} (h : Sound s) : NextSound (execCommitPoint e at_ s) := sound_commitEntry (sound_advance h)
theorem sound_execEdgePlace {e at_} {s : State} (h : Sound s) : NextSound (execEdgePlace e at_ s) := sound_placeDue (sound_advance h)
theorem sound_execForceWrite {ten o v} {s : State} (h : Sound s) : NextSound (execForceWrite ten o v s) := sound_orSame h (sound_outWrite h)
theorem sound_execOcfgWrite {ten o v} {s : State} (h : Sound s) : NextSound (execOcfgWrite ten o v s) := sound_orSame h (sound_outWrite h)
theorem sound_execOwnWrite {ten o v} {s : State} (h : Sound s) : NextSound (execOwnWrite ten o v s) := sound_orSame h (sound_outWrite h)

/-! ### Modulators and wave engines -/

theorem sound_modRead {s : State} {i f} (h : Sound s) : Sound (s.modRead i f).2 := by
  unfold State.modRead
  extract_lets
  split
  · exact h
  · exact h
  · exact h
  · exact h
  · exact sound_setMod h
  · exact h

theorem sound_modWrite {s : State} {ten i f v} (h : Sound s) : OkSound (s.modWrite ten i f v) := by
  unfold State.modWrite
  extract_lets
  split
  · exact holds_ite trivial (holds_ite (sound_windowCheck (sound_setMod h)) trivial)
  · exact holds_ite (sound_setMod h) trivial
  · trivial
  · trivial
  · trivial
  · trivial

theorem sound_admitSample {s : State} {m} (h : Sound s) : Sound (s.admitSample m) := by
  unfold State.admitSample
  extract_lets
  split
  · exact h
  · split
    · exact h
    · extract_lets s1
      have hs1 : Sound s1 := sound_setMod h
      split
      next he2 =>
        exact sound_ite ((sound_ite_snd (sound_deposit hs1) hs1).of_snd he2)
          (sound_sampleDone (sound_setMod ((sound_ite_snd (sound_deposit hs1) hs1).of_snd he2)))

theorem sound_execModulatorSample {m bits at_} {s : State} (h : Sound s) : NextSound (execModulatorSample m bits at_ s) := by
  unfold execModulatorSample
  exact holds_ite (sound_advance h) (holds_ite (sound_setMod (sound_advance h))
    (holds_ite (sound_setMod (sound_advance h)) (sound_admitSample (sound_setMod (sound_advance h)))))

theorem sound_execModClockLost {m} {s : State} (h : Sound s) : NextSound (execModClockLost m s) :=
  sound_ite (sound_windowCheck (sound_setMod h)) h

theorem sound_execModClockReturn {m} {s : State} (h : Sound s) : NextSound (execModClockReturn m s) := sound_ite (sound_setMod h) h
theorem sound_execMcfgWrite {ten m v} {s : State} (h : Sound s) : NextSound (execMcfgWrite ten m v s) := sound_orSame h (sound_modWrite h)

theorem sound_waveRead {s : State} {i f} (h : Sound s) : Sound (s.waveRead i f).2 := by
  unfold State.waveRead
  extract_lets
  split
  · exact h
  · exact h
  · exact h
  · exact h
  · exact h
  · exact h
  · exact sound_setWave h
  · exact h
  · exact sound_ite_snd h h

theorem sound_putWave {s : State} {i w} (h : Sound s) : Sound (s.putWave i w) :=
  sound_foldl (sound_setWave h) fun _ ht _ => sound_ite (sound_ballEdge ht) ht

theorem sound_waveWrite {s : State} {ten i f v} (h : Sound s) : OkSound (s.waveWrite ten i f v) := by
  unfold State.waveWrite
  extract_lets
  split
  · exact holds_ite (sound_putWave h) trivial
  · exact holds_ite (sound_setWave h) trivial
  · split
    · exact holds_ite (sound_putWave h) trivial
    · exact holds_ite (sound_putWave h) trivial
    · exact holds_ite (sound_putWave h) trivial
    · exact holds_ite (sound_putWave h) trivial
    · trivial
  · trivial
  · trivial
  · trivial
  · exact holds_ite (sound_putWave h) trivial
  · exact holds_ite (sound_putWave h) trivial
  · exact holds_ite (holds_ite (sound_putWave h) trivial) trivial

theorem sound_execHalt {ten e} {s : State} (h : Sound s) : NextSound (execHalt ten e s) := sound_orSame h (sound_waveWrite h)
theorem sound_execWcmdResume {ten e} {s : State} (h : Sound s) : NextSound (execWcmdResume ten e s) := sound_orSame h (sound_waveWrite h)
theorem sound_execWcmdReset {ten e} {s : State} (h : Sound s) : NextSound (execWcmdReset ten e s) := sound_orSame h (sound_waveWrite h)
theorem sound_execTrigger {ten e} {s : State} (h : Sound s) : NextSound (execTrigger ten e s) := sound_orSame h (sound_waveWrite h)

theorem sound_execWaveProgWrite {ten e adr v} {s : State} (h : Sound s) : NextSound (execWaveProgWrite ten e adr v s) :=
  sound_orSame h (sound_waveWrite h)

theorem sound_execWaveRxRead {a e} {s : State} (h : Sound s) : NextSound (execWaveRxRead a e s) := sound_waveRead h
theorem sound_waveStep {s : State} {e op f} (h : Sound s) : Sound (s.waveStep e op f) := sound_ite (sound_putWave h) h
theorem sound_execWeHalt {e} {s : State} (h : Sound s) : NextSound (execWeHalt e s) := sound_waveStep h
theorem sound_execWeSet {e} {s : State} (h : Sound s) : NextSound (execWeSet e s) := sound_waveStep h
theorem sound_execWeDir {e} {s : State} (h : Sound s) : NextSound (execWeDir e s) := sound_waveStep h
theorem sound_execWaitp {e pins} {s : State} (h : Sound s) : NextSound (execWaitp e pins s) := sound_waveStep h
theorem sound_waveEvent {s : State} {e} (h : Sound s) : Sound (s.waveEvent e) := sound_raiseN h

theorem sound_execWaitpTimeout {e at_} {s : State} (h : Sound s) : NextSound (execWaitpTimeout e at_ s) :=
  sound_ite (sound_waveEvent (sound_setWave (sound_advance h))) (sound_advance h)

theorem sound_execShx {e run} {s : State} (h : Sound s) : NextSound (execShx e run s) :=
  sound_ite (sound_foldl (sound_setWave h) fun _ ht _ => sound_putWave ht) h

theorem sound_execDly {e} {s : State} (h : Sound s) : NextSound (execDly e s) := sound_waveStep h
theorem sound_execLdc {e} {s : State} (h : Sound s) : NextSound (execLdc e s) := sound_waveStep h
theorem sound_execDjnz {e} {s : State} (h : Sound s) : NextSound (execDjnz e s) := sound_waveStep h
theorem sound_execJmp {e} {s : State} (h : Sound s) : NextSound (execJmp e s) := sound_waveStep h
theorem sound_execJpin {e pins} {s : State} (h : Sound s) : NextSound (execJpin e pins s) := sound_waveStep h
theorem sound_execStamp {e at_} {s : State} (h : Sound s) : NextSound (execStamp e at_ s) := sound_waveStep (sound_advance h)
theorem sound_waveTide {s : State} {w i} (h : Sound s) : Sound (s.waveTide w i).2 := sound_ite_snd (sound_drawBelow h) h

theorem sound_execTide {e} {s : State} (h : Sound s) : NextSound (execTide e s) := by
  unfold execTide
  extract_lets
  split
  · split
    next he1 =>
      extract_lets s11 _ s2
      have hs11 : Sound s11 := sound_foldl ((sound_waveTide h).of_snd he1) fun _ ht _ => sound_lossInjection ht
      have hs2 : Sound s2 := sound_foldl hs11 fun _ ht _ => sound_turnMeasure ht
      exact sound_setWave hs2
  · exact h

theorem sound_execPush {e} {s : State} (h : Sound s) : NextSound (execPush e s) := sound_waveStep h
theorem sound_execPull {e} {s : State} (h : Sound s) : NextSound (execPull e s) := sound_waveStep h

theorem sound_execEvt {e at_} {s : State} (h : Sound s) : NextSound (execEvt e at_ s) :=
  sound_ite (sound_waveEvent (sound_setWave (sound_advance h))) (sound_advance h)

theorem sound_execClr {e} {s : State} (h : Sound s) : NextSound (execClr e s) := sound_waveStep h

/-! ### The Churn: descriptors -/

theorem sound_chReadCap {s : State} {ch va} (h : Sound s) : Sound (s.chReadCap ch va).2 := by
  unfold State.chReadCap
  split
  · exact h
  · extract_lets
    split
    next he1 => exact (sound_chReads h).of_snd_snd he1
    next he1 => exact (sound_chReads h).of_snd_snd he1

theorem sound_takeDesc {s : State} {ch} (h : Sound s) : Sound (s.takeDesc ch) := by
  unfold State.takeDesc
  extract_lets
  split
  next he => exact sound_chFault ((sound_chReadCap h).of_snd he)
  next he =>
    split
    next he1 => exact sound_chFault ((sound_chReads ((sound_chReadCap h).of_snd he)).of_snd_snd he1)
    next he1 =>
      split
      next he2 => exact sound_chFault ((sound_chReadCap ((sound_chReads ((sound_chReadCap h).of_snd he)).of_snd_snd he1)).of_snd he2)
      next he2 =>
        split
        next he3 =>
          exact sound_chFault ((sound_chReads ((sound_chReadCap ((sound_chReads ((sound_chReadCap h).of_snd he)).of_snd_snd he1)).of_snd
            he2)).of_snd_snd he3)
        next he3 =>
          extract_lets
          split
          · exact sound_chFault ((sound_chReads ((sound_chReadCap ((sound_chReads ((sound_chReadCap h).of_snd he)).of_snd_snd he1)).of_snd
              he2)).of_snd_snd he3)
          · exact sound_setChannel ((sound_chReads ((sound_chReadCap ((sound_chReads ((sound_chReadCap h).of_snd he)).of_snd_snd
              he1)).of_snd he2)).of_snd_snd he3)

theorem sound_chBegin {s : State} {ch} (h : Sound s) : Sound (s.chBegin ch) := sound_setChannel h
theorem sound_addDone {s : State} {ch n} (h : Sound s) : Sound (s.addDone ch n) := sound_setChannel h

theorem sound_moveM2m {s : State} {ch d n} (h : Sound s) : Sound (s.moveM2m ch d n) := by
  induction n generalizing s with
  | zero => exact sound_setChannel h
  | succ n ih =>
    unfold State.moveM2m
    extract_lets
    split
    next hread => exact sound_chFault ((sound_chRead h).of_snd hread)
    next hread =>
      have hs1 := (sound_chRead h).of_snd hread
      split
      next hwrite => exact sound_chFault ((sound_chWrite hs1).of_snd hwrite)
      next hwrite => exact ih (sound_addDone ((sound_chWrite hs1).of_snd hwrite))

theorem sound_takeOut {s : State} {ch} (h : Sound s) : Sound (s.takeOut ch) := sound_setChannel h

theorem sound_moveOut {s : State} {ch d n} (h : Sound s) : Sound (s.moveOut ch d n) := by
  unfold State.moveOut
  extract_lets
  split
  · exact sound_takeOut h
  · split
    next he1 =>
      extract_lets _ s21
      have hs21 : Sound s21 := sound_setChannel ((sound_chReads h).of_snd_snd he1)
      split
      · exact sound_chFault hs21
      · exact hs21

theorem sound_tlpWrite {s : State} {adr data} (h : Sound s) : Sound (s.tlpWrite adr data) := h.update

theorem sound_movePcie {s : State} {ch w d n} (h : Sound s) : Sound (s.movePcie ch w d n) := by
  unfold State.movePcie
  split
  · exact sound_setChannel h
  · extract_lets
    split
    next he1 =>
      extract_lets _ s21
      have hs21 : Sound s21 := sound_tlpWrite (sound_setChannel ((sound_chReads h).of_snd_snd he1))
      split
      · exact sound_chFault hs21
      · exact hs21

theorem sound_refill {s : State} {ch} (h : Sound s) : Sound (s.refill ch) := by
  unfold State.refill
  extract_lets
  split
  · split
    · exact sound_setChannel h
  · exact h

theorem sound_moveIn {s : State} {ch d n} (h : Sound s) : Sound (s.moveIn ch d n) := by
  induction n generalizing s with
  | zero => exact h
  | succ fuel ih =>
    unfold State.moveIn
    extract_lets
    split
    · exact h
    · split
      next hw => exact sound_chFault (sound_setChannel ((sound_chWrites h).of_snd_snd hw))
      next hw =>
        have hs1 := (sound_chWrites h).of_snd_snd hw
        split
        · extract_lets
          split
          · exact ih (sound_refill (sound_setChannel hs1))
          · exact sound_inputDone (sound_setChannel hs1)
        · extract_lets _ _ _ s2 s3
          have hs2 : Sound s2 := sound_setChannel hs1
          have hs3 : Sound s3 := by
            unfold s3
            split
            · exact sound_sampleDone hs2
            · exact hs2
          exact sound_ite hs3 (ih hs3)

theorem sound_moveDesc {s : State} {ch} (h : Sound s) : Sound (s.moveDesc ch) := by
  unfold State.moveDesc
  extract_lets
  split
  · exact h
  · split
    · exact h
    · extract_lets
      split
      · exact sound_moveM2m h
      · exact sound_ite (sound_movePcie h) (sound_moveOut h)
      · exact sound_ite (sound_setChannel h) (sound_moveIn h)
      · exact sound_ite (sound_setChannel h) (sound_moveIn h)
      · exact sound_ite (sound_setChannel h) (sound_moveIn h)
      · exact sound_ite (sound_setChannel h) (sound_moveIn h)
      · exact h

theorem sound_execDescriptorProcess {ch} {s : State} (h : Sound s) : NextSound (execDescriptorProcess ch s) := by
  unfold execDescriptorProcess
  exact holds_ite (holds_ite (sound_moveDesc (sound_ite (sound_setChannel h) h))
    (holds_ite (sound_ite (sound_setChannel h) h) (sound_moveDesc (sound_takeDesc (sound_chBegin (sound_ite (sound_setChannel h) h))))))
    (sound_ite (sound_setChannel h) h)

theorem sound_execDescriptorComplete {ch at_} {s : State} (h : Sound s) : NextSound (execDescriptorComplete ch at_ s) := by
  unfold execDescriptorComplete
  extract_lets s1
  have hs1 : Sound s1 := sound_advance h
  split
  · exact hs1
  · split
    · exact hs1
    · split
      next he2 => exact sound_ite hs1 (sound_chFault ((sound_chWrites hs1).of_snd_snd he2))
      next he2 =>
        exact sound_ite (sound_raiseN (sound_setChannel ((sound_chWrites hs1).of_snd_snd he2)))
          (sound_setChannel ((sound_chWrites hs1).of_snd_snd he2))

theorem sound_txSent {s : State} {ch cut} (h : Sound s) : Sound (s.txSent ch cut) := sound_setChannel h

theorem sound_execChStop {who ch} {s : State} (h : Sound s) : NextSound (execChStop who ch s) :=
  sound_ifOwner (sound_class0 h) (fun _ ht => (sound_chStop ht).update)

theorem sound_execFlush {who ch} {s : State} (h : Sound s) : NextSound (execFlush who ch s) :=
  sound_ifOwner (sound_class0 h) (fun _ ht => (sound_chFlush ht).update)

theorem sound_execChCmdUnknown {who code ch} {s : State} (h : Sound s) : NextSound (execChCmdUnknown who code ch s) :=
  sound_ifOwner (sound_class0 h) (fun _ ht => sound_ite ((sound_chStop ht).update) (sound_ite ((sound_chFlush ht).update) ht.update))

theorem sound_poolWrite {s : State} {v} (h : Sound s) : Sound (s.poolWrite v) := sound_ite h h.update

theorem sound_execChPoolWrite {who v} {s : State} (h : Sound s) : NextSound (execChPoolWrite who v s) :=
  sound_ifOwner h (fun _ ht => sound_poolWrite ht)

theorem sound_tcapWrite {s : State} {v} (h : Sound s) : Sound (s.tcapWrite v) := h.update

theorem sound_execTcapWrite {who v} {s : State} (h : Sound s) : NextSound (execTcapWrite who v s) :=
  sound_ifOwner h (fun _ ht => sound_tcapWrite ht)

theorem sound_execCbindWrite {ten ch v} {s : State} (h : Sound s) : NextSound (execCbindWrite ten ch v s) :=
  sound_orSame h (sound_chWriteField h)

theorem sound_execCctrlWrite {ten ch v} {s : State} (h : Sound s) : NextSound (execCctrlWrite ten ch v s) :=
  sound_orSame h (sound_chWriteField h)

theorem sound_execTailWrite {ten ch v} {s : State} (h : Sound s) : NextSound (execTailWrite ten ch v s) :=
  sound_orSame h (sound_chWriteField h)

theorem sound_execCxeWrite {ten ch second word v} {s : State} (h : Sound s) : NextSound (execCxeWrite ten ch second word v s) :=
  sound_orSame h (sound_chWriteField h)

theorem sound_execStartWrite {ten ch v} {s : State} (h : Sound s) : NextSound (execStartWrite ten ch v s) :=
  sound_orSame h (sound_chWriteField h)

theorem sound_flit {s : State} (h : Sound s) : Sound s.flit := by
  unfold State.flit
  split
  next he => exact sound_detect ((sound_takeInj h).of_snd he)
  next he => exact (sound_takeInj h).of_snd he

theorem sound_execUndertowPacket {port} {s : State} (h : Sound s) : NextSound (execUndertowPacket port s) := by
  unfold execUndertowPacket
  split
  next he =>
    extract_lets
    split
    · exact ((sound_drawBelow (sound_flit h)).of_snd he).update
    · exact holds_ite (((sound_drawBelow (sound_flit h)).of_snd he).update) (((sound_drawBelow (sound_flit h)).of_snd he).update)

/-! ### Links -/

theorem sound_modLink {s : State} {l f} (h : Sound s) : Sound (s.modLink l f) := sound_setLink h
theorem sound_modPos {s : State} {l p f} (h : Sound s) : Sound (s.modPos l p f) := sound_modLink h
theorem sound_lctrlPut {s : State} {l v} (h : Sound s) : Sound (s.lctrlPut l v) := sound_ite (sound_modLink h) (sound_modLink h)
theorem sound_lperiodPut {s : State} {l v} (h : Sound s) : Sound (s.lperiodPut l v) := sound_ite (sound_modLink h) (sound_modLink h)

theorem sound_execLctrlWrite {who l v} {s : State} (h : Sound s) : NextSound (execLctrlWrite who l v s) :=
  sound_ifOwner h (fun _ ht => sound_lctrlPut ht)

theorem sound_execLperiodWrite {who l v} {s : State} (h : Sound s) : NextSound (execLperiodWrite who l v s) :=
  sound_ifOwner h (fun _ ht => sound_lperiodPut ht)

theorem sound_lcmd {s : State} {l pos ok f} (h : Sound s) : Sound (s.lcmd l pos ok f) := sound_modLink h

theorem sound_execBind {who l pos} {s : State} (h : Sound s) : NextSound (execBind who l pos s) :=
  sound_ifOwner h (fun _ ht => sound_lcmd ht)

theorem sound_execUnbind {who l pos} {s : State} (h : Sound s) : NextSound (execUnbind who l pos s) :=
  sound_ifOwner h (fun _ ht => sound_lcmd ht)

theorem sound_execEvict {who l pos} {s : State} (h : Sound s) : NextSound (execEvict who l pos s) :=
  sound_ifOwner h (fun _ ht => sound_lcmd ht)

theorem sound_execQuarantine {who l pos} {s : State} (h : Sound s) : NextSound (execQuarantine who l pos s) :=
  sound_ifOwner h (fun _ ht => sound_lcmd ht)

theorem sound_execLinkRelease {who l pos} {s : State} (h : Sound s) : NextSound (execLinkRelease who l pos s) :=
  sound_ifOwner h (fun _ ht => sound_lcmd ht)

theorem sound_execKeyclr {who l pos} {s : State} (h : Sound s) : NextSound (execKeyclr who l pos s) :=
  sound_ifOwner h (fun _ ht => sound_lcmd ht)

theorem sound_execLcmdUnknown {who l code pos} {s : State} (h : Sound s) : NextSound (execLcmdUnknown who l code pos s) := by
  unfold execLcmdUnknown
  exact holds_ite (sound_execBind h) (holds_ite (sound_execUnbind h) (holds_ite (sound_execEvict h)
    (holds_ite (sound_execQuarantine h) (holds_ite (sound_execLinkRelease h)
    (holds_ite (sound_execKeyclr h) (sound_ifOwner h (fun _ ht => sound_modLink ht)))))))

theorem sound_akeyPut {s : State} {l k v} (h : Sound s) : Sound (s.akeyPut l k v) := sound_modLink h

theorem sound_execAkeyWrite {who l v} {s : State} (h : Sound s) : NextSound (execAkeyWrite who l v s) :=
  sound_ifOwner h (fun _ ht => sound_akeyPut ht)

theorem sound_vlogPut {s : State} {l pos kind answer off} (h : Sound s) : Sound (s.vlogPut l pos kind answer off) :=
  sound_ite (sound_modLink h) (sound_raiseN (sound_modLink h))

theorem sound_violation {s : State} {l pos kind answer off counts} (h : Sound s) : Sound (s.violation l pos kind answer off counts) := by
  unfold State.violation
  exact sound_ite (sound_ite (sound_raiseN (sound_vlogPut (sound_modPos (sound_ite (sound_detect h) h))))
    (sound_vlogPut (sound_modPos (sound_ite (sound_detect h) h)))) (sound_vlogPut (sound_ite (sound_detect h) h))

theorem sound_segTag {s : State} {x head key g} (h : Sound s) : Sound (s.segTag x head key g).2 := by
  unfold State.segTag
  split
  · exact h
  · split
    · exact h
    · split
      next he1 =>
        split
        next he2 => exact (sound_drawWord ((sound_drawWord h).of_snd he1)).of_snd he2

theorem sound_ackOf {s : State} {p} (h : Sound s) : Sound (s.ackOf p).2 := by
  unfold State.ackOf
  split
  · exact h
  · split
    next he1 => exact (sound_drawWord h).of_snd he1

theorem sound_segments {s : State} {x head l} (h : Sound s) : Sound (s.segments x head l).2 := by
  induction l generalizing s with
  | nil => exact h
  | cons n r ih => exact ih (sound_segTag (sound_ackOf h))

theorem sound_controlSeg {s : State} {l} (h : Sound s) : Sound (s.controlSeg l).2 := by
  unfold State.controlSeg
  split
  · exact h
  · split
    next he1 => exact (sound_drawWord h).of_snd he1

theorem sound_startCycle {s : State} {l} (h : Sound s) : Sound (s.startCycle l) := by
  unfold State.startCycle
  extract_lets
  split
  next he =>
    split
    next he1 =>
      split
      next he2 =>
        refine sound_setLink ?_
        refine Sound.of_snd ?_ he2
        refine sound_segments ?_
        refine Sound.of_snd ?_ he1
        refine sound_controlSeg ?_
        refine Sound.of_snd ?_ he
        split
        next he3 => exact (sound_takeInj h).of_snd he3
        next he3 => exact (sound_takeInj h).of_snd he3

theorem sound_execCycleStart {l at_} {s : State} (h : Sound s) : NextSound (execCycleStart l at_ s) := by
  unfold execCycleStart
  extract_lets s1
  have hs1 : Sound s1 := sound_advance h
  split
  · exact hs1
  · split
    · exact hs1
    · exact sound_modLink hs1
    · exact holds_ite (sound_modLink hs1) (holds_ite (sound_modLink hs1) (sound_startCycle hs1))

theorem sound_freezePos {s : State} {l p} (h : Sound s) : Sound (s.freezePos l p) := by
  unfold State.freezePos
  extract_lets
  split
  · exact sound_modPos h
  · extract_lets
    split
    · exact sound_modPos h
    · split
      · exact sound_modPos (sound_txSent h)
      · exact sound_modPos h

theorem sound_execFreezePoint {m} {s : State} (h : Sound s) : NextSound (execFreezePoint m s) :=
  holds_ite (sound_advance h) (sound_modLink (sound_foldl (sound_advance h) fun _ ht _ => sound_freezePos ht))

theorem sound_depositInput {s : State} {l p sseq stale data} (h : Sound s) : Sound (s.depositInput l p sseq stale data).2 := by
  unfold State.depositInput
  extract_lets
  split
  · exact h
  · split
    next he1 => exact sound_modPos ((sound_deposit h).of_snd he1)
    next he1 => exact (sound_deposit h).of_snd he1

theorem sound_acceptRecords {s : State} {l p rs} (h : Sound s) : Sound (s.acceptRecords l p rs).2 := by
  induction rs generalizing s with
  | nil => exact h
  | cons r rest ih =>
    unfold State.acceptRecords
    extract_lets
    split
    · exact ih h
    · split
      next he => exact ih (sound_modPos ((sound_depositInput h).of_snd he))
      next he => exact sound_modPos ((sound_depositInput h).of_snd he)

theorem sound_validAppend {s : State} {l p a} (h : Sound s) : Sound (s.validAppend l p a) :=
  sound_ite (sound_raiseN (sound_modPos h)) (sound_modPos h)

theorem sound_parseAppend {s : State} {l z a} (h : Sound s) : Sound (s.parseAppend l z a).1 := by
  unfold State.parseAppend
  refine sound_ite_fst h ?_
  extract_lets x p named attr
  split
  next inj s1 he =>
    have hs1 : Sound s1 := by
      split at he
      next hi =>
        cases he
        exact (sound_takeInj h).of_snd hi
      next hi =>
        cases he
        exact (sound_takeInj h).of_snd hi
    have hviol {p d c off dis} : Sound (s1.violation l p d c off dis) := sound_violation hs1
    refine sound_ite_fst hs1 (sound_ite_fst (sound_ite_fst (sound_modPos hviol) hviol) (sound_ite_fst ?join
      (sound_ite_fst hviol (sound_ite_fst hviol ?data))))
    case join => exact sound_ite_fst hviol (sound_ite_fst hviol (sound_ite_fst hviol hs1))
    case data =>
      exact sound_ite_fst hviol (sound_ite_fst (sound_modPos hviol) (sound_ite_fst (sound_modPos hviol)
        (sound_ite_fst (sound_modPos hviol) (sound_acceptRecords (sound_validAppend hs1)))))

theorem sound_parseAll {s : State} {l z as} (h : Sound s) : Sound (s.parseAll l z as).1 := by
  induction as generalizing s z with
  | nil => exact h
  | cons a r ih => exact ih (sound_parseAppend h)

theorem sound_assign {s : State} {l ident pos result} (h : Sound s) : Sound (s.assign l ident pos result) := sound_modLink h
theorem sound_letIn {s : State} {l p a} (h : Sound s) : Sound (s.letIn l p a) := sound_ite (sound_assign (sound_modPos h)) (sound_assign h)

theorem sound_answerJoin {s : State} {l z a} (h : Sound s) : Sound (s.answerJoin l z a) := by
  unfold State.answerJoin
  extract_lets _ _ _ bound _ _ _ s1
  have hs1 : Sound s1 := sound_foldl h fun _ ht _ => sound_modPos ht
  clear_value bound
  split
  · exact sound_assign h
  · split
    · exact sound_assign (sound_raiseN (sound_violation hs1))
    · split
      · exact sound_ite (sound_assign h) (sound_ite (sound_assign h) (sound_assign (sound_modPos h)))
      · split
        · exact sound_letIn h
        · split
          · exact sound_assign (sound_violation h)
          · split
            · exact sound_assign h
            · split
              · exact sound_assign h
              · exact sound_letIn h

theorem sound_setRanks {s : State} {l order} (h : Sound s) : Sound (s.setRanks l order) := sound_foldl h fun _ ht _ => sound_modPos ht

theorem sound_closePos {s : State} {l z p old} (h : Sound s) : Sound (s.closePos l z p old) :=
  sound_ite (sound_depositInput (sound_modPos h)) (sound_modPos h)

theorem sound_closeCycle {s : State} {l appends stop} (h : Sound s) : Sound (s.closeCycle l appends stop) := by
  unfold State.closeCycle
  extract_lets
  split
  next he =>
    extract_lets s2 s3 s4 s5
    have hs2 : Sound s2 := by
      unfold s2
      split
      · exact sound_ite ((sound_parseAll h).of_fst he) (sound_violation ((sound_parseAll h).of_fst he))
      · exact (sound_parseAll h).of_fst he
    have hs3 : Sound s3 := sound_foldl hs2 fun _ ht _ => sound_answerJoin ht
    have hs4 : Sound s4 := sound_ite (sound_setRanks hs3) hs3
    have hs5 : Sound s5 := sound_foldl hs4 fun _ ht _ => sound_closePos ht
    exact sound_linkWritten (sound_modLink hs5)

theorem sound_startBack {s : State} {l loop} (h : Sound s) : Sound (s.startBack l loop) := sound_modLink h
theorem sound_missDeadline {s : State} {l appends} (h : Sound s) : Sound (s.missDeadline l appends) := sound_closeCycle (sound_modLink h)

theorem sound_execFrameReturn {l loop devOk appends malformed at_} {s : State} (h : Sound s) :
    NextSound (execFrameReturn l loop devOk appends malformed at_ s) := by
  unfold execFrameReturn
  exact holds_ite (sound_advance h) (holds_ite (sound_startBack (sound_advance h))
    (holds_ite (sound_missDeadline (sound_startBack (sound_advance h)))
    (holds_ite (sound_closeCycle (sound_ite (sound_detect (sound_startBack (sound_advance h))) (sound_startBack (sound_advance h))))
    (sound_closeCycle (sound_startBack (sound_advance h))))))

theorem sound_execFrameDeadline {l back at_} {s : State} (h : Sound s) : NextSound (execFrameDeadline l back at_ s) := by
  unfold execFrameDeadline
  extract_lets s1 _ s2
  have hs1 : Sound s1 := sound_advance h
  have hs2 : Sound s2 := by
    unfold s2
    split
    · exact sound_startBack hs1
    · exact hs1
  exact holds_ite hs1 (sound_missDeadline hs2)

theorem sound_execJoiningTimeout {l pos} {s : State} (h : Sound s) : NextSound (execJoiningTimeout l pos s) :=
  sound_ite (sound_ite (sound_assign (sound_modPos h)) (sound_modPos h)) h

theorem sound_execPositionLeft {l pos at_} {s : State} (h : Sound s) : NextSound (execPositionLeft l pos at_ s) :=
  sound_ite (sound_raiseN (sound_modPos (sound_advance h))) (sound_advance h)

theorem sound_execLinkUp {l loop} {s : State} (h : Sound s) : NextSound (execLinkUp l loop s) := sound_ite (sound_modLink h) h

theorem sound_execLinkDown {l at_} {s : State} (h : Sound s) : NextSound (execLinkDown l at_ s) :=
  sound_ite (sound_raiseN (sound_modLink (sound_advance h))) (sound_advance h)

theorem sound_execUnsolicited {l byte} {s : State} (h : Sound s) : NextSound (execUnsolicited l byte s) :=
  sound_ite (sound_advance h) (sound_violation (sound_advance h))

/-! ### Interfaces -/

theorem sound_ifStamp {s : State} {stamp ref} (h : Sound s) : Sound (s.ifStamp stamp ref).2 := by
  unfold State.ifStamp
  extract_lets
  split
  · exact h
  · split
    next he1 => exact (sound_drawBelow h).of_snd he1

theorem sound_receive {s : State} {ty ep flags stamp ref ext payload} (h : Sound s) :
    Sound (s.receive ty ep flags stamp ref ext payload).2 := by
  unfold State.receive
  split
  next he => exact sound_depositAt ((sound_ifStamp h).of_snd he)

theorem sound_ifCheck {s : State} {page ok} (h : Sound s) : Sound (s.ifCheck page ok).2 := by
  unfold State.ifCheck
  split
  next he => exact sound_detect ((sound_takeInj h).of_snd he)
  next he => exact sound_ite ((sound_takeInj h).of_snd he) (sound_detect ((sound_takeInj h).of_snd he))

theorem sound_cutTx {s : State} {eps} (h : Sound s) : Sound (s.cutTx eps) := by
  unfold State.cutTx
  refine sound_foldl h fun _ ht _ => ?_
  split
  · exact sound_ite (sound_txSent ht) ht
  · exact ht

theorem sound_modEth {s : State} {p f} (h : Sound s) : Sound (s.modEth p f) := sound_setEth h

theorem sound_execEthernetFrameReceive {p f at_} {s : State} (h : Sound s) : NextSound (execEthernetFrameReceive p f at_ s) := by
  unfold execEthernetFrameReceive
  extract_lets s1
  have hs1 : Sound s1 := sound_advance h
  split
  · exact hs1
  · split
    next he1 =>
      split
      · exact sound_modEth ((sound_ifCheck hs1).of_snd he1)
      · split
        · exact sound_modEth ((sound_ifCheck hs1).of_snd he1)
        · split
          next he4 =>
            extract_lets
            show Sound _
            refine sound_receive ?_
            refine Sound.of_snd ?_ he4
            split
            · exact (sound_ifCheck hs1).of_snd he1
            · exact sound_drawBelow ((sound_ifCheck hs1).of_snd he1)

theorem sound_txStamp {s : State} {p seq} (h : Sound s) : Sound (s.txStamp p seq) := sound_raiseN (sound_modEth h)

theorem sound_execEthernetFrameTransmit {p at_} {s : State} (h : Sound s) : NextSound (execEthernetFrameTransmit p at_ s) := by
  unfold execEthernetFrameTransmit
  extract_lets s1
  have hs1 : Sound s1 := sound_advance h
  split
  next he =>
    extract_lets
    split
    · exact sound_cutTx ((sound_drawBelow hs1).of_snd he)
    · split
      · exact (sound_drawBelow hs1).of_snd he
      · extract_lets
        show Sound _
        split
        · exact sound_ite (sound_modEth (sound_txSent ((sound_drawBelow hs1).of_snd he)))
            (sound_txStamp (sound_modEth (sound_txSent ((sound_drawBelow hs1).of_snd he))))
        · exact sound_modEth (sound_txSent ((sound_drawBelow hs1).of_snd he))

theorem sound_execEthernetLinkChange {p up at_} {s : State} (h : Sound s) : NextSound (execEthernetLinkChange p up at_ s) := by
  unfold execEthernetLinkChange
  exact holds_ite (sound_advance h) (sound_ite (sound_raiseN (sound_modEth (sound_advance h)))
    (sound_cutTx (sound_raiseN (sound_modEth (sound_advance h)))))

theorem sound_ptpStep {s : State} {p v} (h : Sound s) : Sound (s.ptpStep p v) := sound_modEth h
theorem sound_ptpInc {s : State} {p v} (h : Sound s) : Sound (s.ptpInc p v) := sound_modEth h

theorem sound_execPtpStepWrite {who p v} {s : State} (h : Sound s) : NextSound (execPtpStepWrite who p v s) :=
  sound_ifOwner h (fun _ ht => sound_ptpStep ht)

theorem sound_ptpCapture {s : State} {p} (h : Sound s) : Sound (s.ptpCapture p) := sound_modEth h
theorem sound_execPtpNsRead {a p} {s : State} (h : Sound s) : NextSound (execPtpNsRead a p s) := sound_ptpCapture h
theorem sound_txtsRead {s : State} {p k} (h : Sound s) : Sound (s.txtsRead p k) := sound_modEth h
theorem sound_execTxtsRead {a p k} {s : State} (h : Sound s) : NextSound (execTxtsRead a p k s) := sound_txtsRead h
theorem sound_execPtpTargetTime {p at_} {s : State} (h : Sound s) : NextSound (execPtpTargetTime p at_ s) := sound_raiseN (sound_advance h)
theorem sound_modCan {s : State} {c f} (h : Sound s) : Sound (s.modCan c f) := sound_setCan h

theorem sound_execCanFrameReceive {c f at_} {s : State} (h : Sound s) : NextSound (execCanFrameReceive c f at_ s) := by
  unfold execCanFrameReceive
  extract_lets s1
  have hs1 : Sound s1 := sound_advance h
  split
  · exact hs1
  · split
    next he1 =>
      exact holds_ite (sound_modCan ((sound_ifCheck hs1).of_snd he1)) (holds_ite (sound_receive ((sound_ifCheck hs1).of_snd he1))
        ((sound_ifCheck hs1).of_snd he1))

theorem sound_execCanFrameTransmit {c at_} {s : State} (h : Sound s) : NextSound (execCanFrameTransmit c at_ s) := by
  unfold execCanFrameTransmit
  extract_lets s1
  have hs1 : Sound s1 := sound_advance h
  split
  · exact hs1
  · split
    · exact hs1
    · exact sound_modCan (sound_txSent hs1)

theorem sound_execCanErrorStateChange {c st at_} {s : State} (h : Sound s) : NextSound (execCanErrorStateChange c st at_ s) :=
  sound_ite (sound_advance h) (sound_raiseN (sound_modCan (sound_advance h)))

theorem sound_execBusOffRecovery {c at_} {s : State} (h : Sound s) : NextSound (execBusOffRecovery c at_ s) :=
  sound_ite (sound_raiseN (sound_modCan (sound_advance h))) (sound_advance h)

theorem sound_modUart {s : State} {u f} (h : Sound s) : Sound (s.modUart u f) := sound_setUart h
theorem sound_uartClose {s : State} {u brk} (h : Sound s) : Sound (s.uartClose u brk) := sound_depositAt (sound_modUart h)

theorem sound_uartChar {s : State} {u c} (h : Sound s) : Sound (s.uartChar u c) := by
  unfold State.uartChar
  extract_lets s1
  have hs1 : Sound s1 := sound_ite (sound_uartClose h) h
  split
  next he =>
    extract_lets s3
    have hs3 : Sound s3 := sound_ite (sound_raiseN ((sound_ifCheck hs1).of_snd he)) ((sound_ifCheck hs1).of_snd he)
    split
    next he1 =>
      extract_lets s5
      have hs5 : Sound s5 := sound_modUart ((sound_ite_snd (sound_ifStamp hs3) hs3).of_snd he1)
      split
      · exact sound_ite (sound_uartClose hs5) hs5
      · exact hs5

theorem sound_execUartRecordEnd {u chars parity framing brk at_} {s : State} (h : Sound s) :
    NextSound (execUartRecordEnd u chars parity framing brk at_ s) := by
  unfold execUartRecordEnd
  exact holds_ite (sound_advance h) (sound_ite (sound_raiseN (sound_modUart
    (sound_ite (sound_foldl (sound_advance h) fun _ ht _ => sound_uartChar ht)
    (sound_ite (sound_uartClose (sound_foldl (sound_advance h) fun _ ht _ => sound_uartChar ht))
    (sound_ite (sound_uartClose (sound_foldl (sound_advance h) fun _ ht _ => sound_uartChar ht))
    (sound_foldl (sound_advance h) fun _ ht _ => sound_uartChar ht))))))
    (sound_modUart (sound_ite (sound_foldl (sound_advance h) fun _ ht _ => sound_uartChar ht)
    (sound_ite (sound_uartClose (sound_foldl (sound_advance h) fun _ ht _ => sound_uartChar ht))
    (sound_ite (sound_uartClose (sound_foldl (sound_advance h) fun _ ht _ => sound_uartChar ht))
    (sound_foldl (sound_advance h) fun _ ht _ => sound_uartChar ht))))))

theorem sound_execUartTransmit {u at_} {s : State} (h : Sound s) : NextSound (execUartTransmit u at_ s) := by
  unfold execUartTransmit
  extract_lets s1
  have hs1 : Sound s1 := sound_advance h
  split
  · exact hs1
  · split
    · exact hs1
    · exact sound_modUart (sound_txSent hs1)

theorem sound_configWord {s : State} {reg} (h : Sound s) : Sound (s.configWord reg).2 :=
  sound_ite_snd h (sound_ite_snd h (sound_ite_snd h (sound_ite_snd h (sound_drawWord h))))

theorem sound_aerLog {s : State} {b} (h : Sound s) : Sound (s.aerLog b) := h.update
theorem sound_pcieUnsupported {s : State} (h : Sound s) : Sound s.pcieUnsupported := sound_aerLog h.update

theorem sound_pcieRecord {s : State} {w off data ep} (h : Sound s) : Sound (s.pcieRecord w off data ep) := by
  unfold State.pcieRecord
  split
  next he => exact sound_ite (sound_aerLog (sound_depositAt ((sound_ifStamp h).of_snd he))) (sound_depositAt ((sound_ifStamp h).of_snd he))

theorem sound_execPcieInboundWrite {t data ep check tick} {s : State} (h : Sound s) :
    NextSound (execPcieInboundWrite t data ep check tick s) := by
  unfold execPcieInboundWrite
  extract_lets s1
  have hs1 : Sound s1 := sound_advance h
  split
  · exact hs1
  · split
    next he1 =>
      split
      · exact sound_ite (sound_aerLog ((sound_ifCheck hs1).of_snd he1)) ((sound_ifCheck hs1).of_snd he1)
      · show Sound _
        split
        · exact sound_pcieUnsupported ((sound_ifCheck hs1).of_snd he1)
        · exact sound_ite (sound_pcieUnsupported ((sound_ifCheck hs1).of_snd he1)) (((sound_ifCheck hs1).of_snd he1).update)
        · split
          · exact sound_pcieRecord ((sound_ifCheck hs1).of_snd he1)
          · exact ((sound_ifCheck hs1).of_snd he1).update
          · exact sound_pcieUnsupported ((sound_ifCheck hs1).of_snd he1)

theorem sound_execPcieInboundRead {t at_} {s_ : State} (h : Sound s_) : NextSound (execPcieInboundRead t at_ s_) := by
  unfold execPcieInboundRead
  extract_lets s
  have hs : Sound s := sound_advance h
  show Sound _
  split
  · split
    · exact sound_pcieUnsupported hs
    · split
      · exact sound_pcieUnsupported hs
      · split
        next he2 => exact ((sound_configWord hs).of_snd he2).update
    · split
      · exact hs.update
      · exact sound_pcieUnsupported hs
  · exact hs

theorem sound_execPcieMsiReceive {data at_} {s : State} (h : Sound s) : NextSound (execPcieMsiReceive data at_ s) :=
  holds_ite (sound_advance h) (holds_ite (sound_raiseN ((sound_advance h).update)) (sound_raiseN (sound_advance h)))

theorem sound_execPcieLinkUp {at_} {s : State} (h : Sound s) : NextSound (execPcieLinkUp at_ s) :=
  holds_ite (sound_advance h) (sound_raiseN ((sound_advance h).update))

theorem sound_execXspiCommand {data strobe span} {s : State} (h : Sound s) : NextSound (execXspiCommand data strobe span s) := by
  unfold execXspiCommand
  extract_lets s1
  have hs1 : Sound s1 := sound_advance h
  split
  · exact hs1
  · split
    · exact hs1
    · extract_lets
      split
      next he2 =>
        split
        · split
          next he4 => exact (sound_raiseN (sound_txSent ((sound_receive ((sound_ifCheck hs1).of_snd he2)).of_snd he4))).update
          · exact hs1.update
        · exact (sound_raiseN (sound_txSent ((sound_ifCheck hs1).of_snd he2))).update

theorem sound_modI2c {s : State} {i f} (h : Sound s) : Sound (s.modI2c i f) := sound_setI2c h

theorem sound_i2cEnd {s : State} {i ch ws data lost error start} (h : Sound s) : Sound (s.i2cEnd i ch ws data lost error start) := by
  unfold State.i2cEnd
  extract_lets
  split
  next he =>
    extract_lets _ s2
    have hs2 : Sound s2 := sound_ite ((sound_ite_snd h (sound_ifCheck h)).of_snd he)
      (sound_raiseN ((sound_ite_snd h (sound_ifCheck h)).of_snd he))
    split
    · exact sound_modI2c (sound_txSent hs2)
    · split
      next he2 => exact sound_modI2c (sound_txSent ((sound_receive hs2).of_snd he2))
      · exact h.update

theorem sound_execI2cTransfer {i data run span} {s : State} (h : Sound s) : NextSound (execI2cTransfer i data run span s) := by
  unfold execI2cTransfer
  extract_lets s1
  have hs1 : Sound s1 := sound_advance h
  split
  · exact hs1
  · exact holds_ite hs1 (holds_ite (sound_i2cEnd hs1) (sound_i2cEnd hs1))

theorem sound_execI2cClockTimeout {i hold} {s : State} (h : Sound s) : NextSound (execI2cClockTimeout i hold s) := by
  unfold execI2cClockTimeout
  extract_lets s1
  have hs1 : Sound s1 := sound_advance h
  split
  · exact hs1
  · exact holds_ite hs1 (sound_i2cEnd hs1)

theorem sound_execSmbalert {i at_} {s : State} (h : Sound s) : NextSound (execSmbalert i at_ s) :=
  sound_ite (sound_raiseN (sound_advance h)) (sound_advance h)

theorem sound_execMemoryTrainingComplete {c ok} {s : State} (h : Sound s) : NextSound (execMemoryTrainingComplete c ok s) :=
  sound_ite h h.update

theorem sound_drawBits {s : State} {n} (h : Sound s) : Sound (s.drawBits n).2 := by
  induction n generalizing s with
  | zero => exact h
  | succ n ih => exact ih (sound_drawBelow (n := 2) h)

theorem sound_jtagBypass {s : State} {ir tdi} (h : Sound s) : Sound (s.jtagBypass ir tdi) := h.update

theorem sound_jtagBoundary {s : State} {ir tdi drives} (h : Sound s) : Sound (s.jtagBoundary ir tdi drives) := by
  unfold State.jtagBoundary
  split
  next he => exact ((sound_drawBits h).of_snd he).update

theorem sound_execBypass {tdi} {s : State} (h : Sound s) : NextSound (execBypass tdi s) := sound_jtagBypass h
theorem sound_execIdcode {tdi} {s : State} (h : Sound s) : NextSound (execIdcode tdi s) := h.update
theorem sound_execSamplePreload {tdi} {s : State} (h : Sound s) : NextSound (execSamplePreload tdi s) := sound_jtagBoundary h

theorem sound_execExtest {tdi} {s : State} (h : Sound s) : NextSound (execExtest tdi s) :=
  sound_ite (sound_jtagBoundary h) (sound_jtagBypass h)

theorem sound_execClamp {tdi} {s : State} (h : Sound s) : NextSound (execClamp tdi s) :=
  sound_ite ((sound_jtagBypass h).update) (sound_jtagBypass h)

theorem sound_execHighz {tdi} {s : State} (h : Sound s) : NextSound (execHighz tdi s) :=
  sound_ite ((sound_jtagBypass h).update) (sound_jtagBypass h)

/-! ### Tenants -/

theorem sound_tlbiSend {s : State} {form va ten headland core slot} (h : Sound s) : Sound (s.tlbiSend form va ten headland core slot) := by
  unfold State.tlbiSend
  extract_lets _ s0 _ s1
  have hs0 : Sound s0 := sound_foldl h fun _ ht _ => sound_modCore ht
  have hs1 : Sound s1 := sound_foldl hs0 fun _ ht _ => sound_undertowSend ht
  exact hs1.update

theorem sound_parkNow {s : State} {k sl why} (h : Sound s) : Sound (s.parkNow k sl why) := sound_modSlot (sound_modCore h)
theorem sound_parkSlot {s : State} {k sl why} (h : Sound s) : Sound (s.parkSlot k sl why) := sound_ite h (sound_parkNow (sound_logInput h))
theorem sound_unparkSlot {s : State} {k sl} (h : Sound s) : Sound (s.unparkSlot k sl) := sound_ite h (sound_modSlot (sound_logInput h))

theorem sound_tenantArrive {s : State} {k a} (h : Sound s) : Sound (s.tenantArrive k a) :=
  sound_ite (sound_foldl h fun _ ht _ => sound_ite (sound_parkSlot ht) ht) (sound_foldl h fun _ ht _ => sound_unparkSlot ht)

theorem sound_tenantSend {s : State} {a} (h : Sound s) : Sound (s.tenantSend a) :=
  sound_foldl h fun _ ht _ => sound_modCore (sound_undertowSend ht)

theorem sound_execTenantCommandArrive {core} {s : State} (h : Sound s) : NextSound (execTenantCommandArrive core s) := by
  unfold execTenantCommandArrive
  split
  · exact h
  · exact holds_ite (sound_tenantArrive (sound_modCore h)) h

theorem sound_retireBegin {s : State} {t} (h : Sound s) : Sound (s.retireBegin t) := by
  unfold State.retireBegin
  extract_lets
  split
  next he =>
    extract_lets s11 s2 s3 _ s4
    have hs11 : Sound s11 := sound_setTenant ((sound_nextGen h).of_snd he)
    have hs2 : Sound s2 := sound_foldl hs11 fun _ ht _ => sound_chRetire ht
    have hs3 : Sound s3 := sound_foldl hs2 fun _ ht _ => sound_entryRetire ht
    have hs4 : Sound s4 := sound_foldl hs3 fun _ ht _ => sound_nextSrcGen (sound_setSource ht)
    exact sound_tlbiSend hs4

theorem sound_tenAccept {s : State} {c t} (h : Sound s) : Sound (s.tenAccept c t) := by
  unfold State.tenAccept
  extract_lets _ s1 s2
  have hs1 : Sound s1 := sound_setTenant h
  have hs2 : Sound s2 := sound_ite (sound_tlbiSend hs1) hs1
  split
  · exact sound_setTenant h
  · exact sound_tenantSend (sound_tlbiSend (sound_setTenant h))
  · exact sound_tenantSend (sound_tlbiSend (sound_setTenant h))
  · exact sound_tenantSend hs2
  · exact sound_retireBegin h
  · exact h

theorem sound_tenAnswer {s : State} {hd} (h : Sound s) : Sound (s.tenAnswer hd) := by
  unfold State.tenAnswer
  split
  · exact sound_modSlot h
  · exact h

theorem sound_tenJudge {s : State} {hd} (h : Sound s) : Sound (s.tenJudge hd) := by
  unfold State.tenJudge
  split
  · split
    · exact sound_tenAnswer h
    · exact h.update
  · exact sound_tenAnswer (sound_tenAccept h.update)

theorem sound_tenDrain {s : State} {n} (h : Sound s) : Sound (s.tenDrain n) := by
  induction n generalizing s with
  | zero => exact h
  | succ n ih =>
    unfold State.tenDrain
    split
    · exact ih (sound_tenJudge h.update)
    · exact h

theorem sound_tenCommand {s : State} {c} (h : Sound s) : Sound (s.tenCommand c) :=
  sound_ite h.update (sound_ite h.update (sound_tenJudge h))

theorem sound_tenHandle {s : State} {c t th} (h : Sound s) : Sound (s.tenHandle c t th) :=
  sound_ite ((sound_modSlot h).update) (sound_tenJudge (sound_modSlot h))

theorem sound_execMint {who} {s : State} (h : Sound s) : NextSound (execMint who s) :=
  sound_ifOwner (sound_class0 h) (fun _ ht => sound_tenCommand ht)

theorem sound_execStart {who} {s : State} (h : Sound s) : NextSound (execStart who s) :=
  sound_ifOwner (sound_class0 h) (fun _ ht => sound_tenCommand ht)

theorem sound_execStop {who} {s : State} (h : Sound s) : NextSound (execStop who s) :=
  sound_ifOwner (sound_class0 h) (fun _ ht => sound_tenCommand ht)

theorem sound_execResume {who} {s : State} (h : Sound s) : NextSound (execResume who s) :=
  sound_ifOwner (sound_class0 h) (fun _ ht => sound_tenCommand ht)

theorem sound_execRetire {who} {s : State} (h : Sound s) : NextSound (execRetire who s) :=
  sound_ifOwner (sound_class0 h) (fun _ ht => sound_tenCommand ht)

theorem sound_execTenCmdUnknown {who code} {s : State} (h : Sound s) : NextSound (execTenCmdUnknown who code s) :=
  sound_ifOwner (sound_class0 h) (fun _ ht => sound_tenCommand ht)

theorem sound_tenPhys {s : State} {last v} (h : Sound s) : Sound (s.tenPhys last v) := by
  unfold State.tenPhys
  repeat' refine sound_ite ?_ ?_
  all_goals exact h.same

theorem sound_execTenPhysWrite {who last v} {s : State} (h : Sound s) : NextSound (execTenPhysWrite who last v s) :=
  sound_ifOwner h (fun _ ht => sound_tenPhys ht)

theorem sound_tenUnwrittenRead {s : State} (h : Sound s) : Sound s.tenUnwrittenRead.2 := sound_setTenant h
theorem sound_execTenUnwrittenRead {a} {s : State} (h : Sound s) : NextSound (execTenUnwrittenRead a s) := sound_tenUnwrittenRead h

/-! ### The Tidemark and the hand-overs -/

theorem sound_loadVector {s : State} {k adr n l} (h : Sound s) : Sound (s.loadVector k adr n l) := by
  induction n generalizing s l with
  | zero => exact sound_modCore h
  | succ n ih => exact ih (sound_checkParcel _ _ _ h)

theorem sound_reloadVector {s : State} {k} (h : Sound s) : Sound (s.reloadVector k) := by
  unfold State.reloadVector
  split
  · exact sound_loadVector h
  · exact h

theorem sound_rebuildCore {s : State} {k} (h : Sound s) : Sound (s.rebuildCore k) := sound_modCore h

theorem sound_coreBack {s : State} {n e} (h : Sound s) : Sound (s.coreBack n e) :=
  sound_ite h (sound_raiseN (sound_foldl h fun _ ht _ => sound_rebuildCore ht))

theorem sound_modRoles {s : State} {n f} (h : Sound s) : Sound (s.modRoles n f) :=
  sound_foldl (sound_ageAll (sound_setCove h)) fun _ ht _ => sound_coreBack ht

theorem sound_freshCore {s : State} {k} (h : Sound s) : Sound (s.freshCore k) := sound_modCore h

theorem sound_checkpoint {s : State} {k} (h : Sound s) : Sound (s.checkpoint k) :=
  sound_ite (sound_modCore (sound_logRecord (sound_flushIssues (sound_modCore h)))) h

theorem sound_splitGroup {s : State} {k} (h : Sound s) : Sound (s.splitGroup k) :=
  sound_modCove (sound_foldl h fun _ ht _ => sound_modRoles (sound_ite ht (sound_freshCore ht)))

theorem sound_startCopies {s : State} {k trial} (h : Sound s) : Sound (s.startCopies k trial) :=
  sound_ite h (sound_undertowSend (sound_undertowSend (sound_modCore (sound_modCove h))))

theorem sound_replaceFenced {s : State} {k} (h : Sound s) : Sound (s.replaceFenced k) := by
  unfold State.replaceFenced
  extract_lets
  split
  · exact h
  · split
    · exact h
    · exact sound_setCove h

theorem sound_commitGroup {s : State} {k} (h : Sound s) : Sound (s.commitGroup k) :=
  sound_ite (sound_startCopies (sound_replaceFenced (sound_ite (sound_splitGroup (sound_modCore h.update)) (sound_modCore h.update)))) h

theorem sound_unstartCopies {s : State} {k} (h : Sound s) : Sound (s.unstartCopies k) := sound_modCove h

theorem sound_undoAll {s : State} {k l n} (h : Sound s) : Sound (s.undoAll k l n).2 := by
  delta State.undoAll
  refine list_brecOn_holds (fun g : State → Nat → Bool × State => ∀ t n, Sound t → Sound (g t n).2)
    (fun _ _ ht => ht) (fun r rest f ih t n ht => ?_) l s n h
  have hread {a b} : Sound ((t.checkWord a false).checkWord b false) := sound_checkWord _ _ _ (sound_checkWord _ _ _ ht)
  refine sound_ite_snd hread ?_
  split
  · exact ih _ _ (sound_putWord _ _ _ _ hread)
  · exact ih _ _ hread

theorem sound_loseGroup {s : State} {k} (h : Sound s) : Sound (s.loseGroup k) := by
  unfold State.loseGroup
  extract_lets _ s1 s2
  have hs1 : Sound s1 := sound_foldl h fun _ ht _ => sound_modRoles ht
  have hs2 : Sound s2 := hs1.update
  exact sound_raiseN (sound_modCore hs2)

theorem sound_restoreArch {s : State} {k} (h : Sound s) : Sound (s.restoreArch k) :=
  sound_modCore (sound_foldl h fun _ ht _ => sound_writeImage ht)

theorem sound_restoreGroup {s : State} {k} (h : Sound s) : Sound (s.restoreGroup k) := by
  unfold State.restoreGroup
  extract_lets
  split
  next he => exact sound_loseGroup ((sound_undoAll h).of_snd he)
  next he => exact sound_modCore (sound_restoreArch ((sound_undoAll h).of_snd he))

theorem sound_stopGroup {s : State} {k} (h : Sound s) : Sound (s.stopGroup k) := by
  unfold State.stopGroup
  extract_lets _ s1 s2
  have hs1 : Sound s1 := sound_restoreGroup h
  have hs2 : Sound s2 := sound_modCore hs1
  exact sound_foldl hs2 fun _ ht _ => sound_modRoles ht

theorem sound_permanent {s : State} {k} (h : Sound s) : Sound (s.permanent k) := by
  unfold State.permanent
  extract_lets _ s1
  have hs1 : Sound s1 := sound_raiseN (sound_modCove h)
  split
  · exact sound_modCove hs1
  · exact sound_stopGroup hs1

theorem sound_rollback {s : State} {k cause} (h : Sound s) : Sound (s.rollback k cause) := by
  unfold State.rollback
  exact sound_ite h (sound_ite (sound_permanent (sound_undertowSend (sound_unstartCopies
    (sound_modCore (sound_ite h (sound_flushIssues h)))))) (sound_undertowSend
    (sound_unstartCopies (sound_modCore (sound_ite h (sound_flushIssues h))))))

theorem sound_glitchCove {s : State} {n} (h : Sound s) : Sound (s.glitchCove n) :=
  sound_foldl h fun _ ht _ => sound_rollback (sound_modCove ht)

theorem sound_glitch {s : State} {scope} (h : Sound s) : Sound (s.glitch scope) := sound_foldl h fun _ ht _ => sound_glitchCove ht

theorem sound_outvote {s : State} {k m} (h : Sound s) : Sound (s.outvote k m) := by
  unfold State.outvote
  extract_lets
  split <;> exact sound_modRoles h

theorem sound_compare {s : State} {k u injected} (h : Sound s) : Sound (s.compare k u injected).2 := by
  unfold State.compare
  extract_lets
  split
  · exact h
  · exact h
  · exact sound_ite_snd (sound_outvote (sound_detect h)) (sound_rollback (sound_detect h))
  · exact sound_ite_snd (sound_rollback (sound_detect h)) (sound_rollback (sound_detect h))

theorem sound_injectCompare {s : State} {k} (h : Sound s) : Sound (s.injectCompare k).2 := by
  unfold State.injectCompare
  extract_lets
  split
  · exact h
  · split
    next he1 => exact (sound_takeInj h).of_snd he1
    next he1 =>
      split
      next he2 => exact (sound_takeInj ((sound_takeInj h).of_snd he1)).of_snd he2
      next he2 => exact (sound_takeInj ((sound_takeInj h).of_snd he1)).of_snd he2

theorem sound_voted {s : State} {k} {f : State → State} (h : Sound s) (hf : ∀ t, Sound t → Sound (f t)) :
    Sound (s.voted k f) := by
  unfold State.voted
  split
  next he =>
    split
    next he1 =>
      exact sound_ite (hf _ ((sound_compare ((sound_injectCompare h).of_snd he)).of_snd he1))
        ((sound_compare ((sound_injectCompare h).of_snd he)).of_snd he1)
  next he => exact hf _ ((sound_injectCompare h).of_snd he)

theorem sound_commitPending {s : State} {k upset} (h : Sound s) : Sound (s.commitPending k upset) := by
  unfold State.commitPending
  split
  · exact h
  · extract_lets
    split
    next he1 => exact sound_rollback (sound_detect ((sound_takeInj h).of_snd he1))
    next he1 =>
      exact sound_ite (sound_rollback (sound_detect ((sound_takeInj h).of_snd he1))) (sound_commitGroup ((sound_takeInj h).of_snd he1))

theorem sound_commitNow {s : State} {k} (h : Sound s) : Sound (s.commitNow k) :=
  sound_commitPending (sound_checkpoint (sound_commitPending h))

theorem sound_commitAll {s : State} (h : Sound s) : Sound s.commitAll := sound_foldl h fun _ ht _ => sound_commitNow (sound_undertowSend ht)
theorem sound_checkpointIfDue {s : State} {k} (h : Sound s) : Sound (s.checkpointIfDue k) := sound_ite (sound_checkpoint h) h
theorem sound_endTrial {s : State} {k} (h : Sound s) : Sound (s.endTrial k) := sound_modCove h

theorem sound_endJob {s : State} {n j} (h : Sound s) : Sound (s.endJob n j) :=
  sound_releaseHeld (sound_undertowSend (sound_undertowSend (sound_modCore (sound_modRoles h))))

theorem sound_copyEnd {s : State} {n} (h : Sound s) : Sound (s.copyEnd n) := sound_modCove (sound_foldl h fun _ ht _ => sound_endJob ht)

theorem sound_changeFromSplit {s : State} {n m} (h : Sound s) : Sound (s.changeFromSplit n m) :=
  sound_ite (sound_modCove h) (sound_modRoles (sound_foldl h fun _ ht _ => sound_freshCore ht))

theorem sound_changeToSplit {s : State} {n} (h : Sound s) : Sound (s.changeToSplit n) :=
  sound_modCove (sound_foldl h fun _ ht _ => sound_modRoles (sound_freshCore ht))

theorem sound_pairToSpares {s : State} {n} (h : Sound s) : Sound (s.pairToSpares n) :=
  sound_ite (sound_modCove h) (sound_modRoles (sound_freshCore (sound_freshCore h)))

theorem sound_sparesToPair {s : State} {n} (h : Sound s) : Sound (s.sparesToPair n) :=
  sound_ite (sound_modCove h) (sound_modRoles (sound_freshCore (sound_freshCore h)))

theorem sound_changeMode {s : State} {n m} (h : Sound s) : Sound (s.changeMode n m) := by
  unfold State.changeMode
  split
  · exact sound_modCove h
  · extract_lets s1
    have hs1 : Sound s1 := sound_undertowSend h
    split
    · exact sound_changeFromSplit hs1
    · exact sound_changeFromSplit hs1
    · exact sound_changeFromSplit hs1
    · exact sound_changeToSplit hs1
    · exact sound_changeToSplit hs1
    · exact sound_changeToSplit hs1
    · exact sound_pairToSpares hs1
    · exact sound_sparesToPair hs1
    · exact sound_modCove h

theorem sound_rotateStart {s : State} {n i} (h : Sound s) : SomeSound (s.rotateStart n i) := by
  unfold State.rotateStart
  split
  · exact sound_modCove h
  · trivial

theorem sound_rotate {s : State} {n l} (h : Sound s) : Sound (s.rotate n l) := by
  unfold State.rotate
  split
  · exact sound_modCove h
  · split
    · exact sound_modCove h
    · split
      next he2 => exact sound_modCove (sound_undertowSend ((sound_rotateStart h).of_some he2))
      · exact sound_modCove h

theorem sound_parkAll {s : State} {k} (h : Sound s) : Sound (s.parkAll k) := sound_foldl h fun _ ht _ => sound_ite ht (sound_modCore ht)

theorem sound_restartGroup {s : State} {n l bad} (h : Sound s) : Sound (s.restartGroup n l bad) := by
  unfold State.restartGroup
  exact sound_ite (sound_modRoles (sound_modCore (sound_parkAll h))) (sound_ite
    (sound_ite (sound_raiseN (sound_modRoles (sound_modCore (sound_parkAll (sound_foldl h fun _ ht _ => sound_setCove ht)))))
    (sound_modCove (sound_foldl h fun _ ht _ => sound_setCove ht))) (sound_modCore
    (sound_modRoles (sound_modCore (sound_parkAll (sound_foldl h fun _ ht _ => sound_setCove ht))))))

theorem sound_retest {s : State} {n i pass} (h : Sound s) : Sound (s.retest n i pass) :=
  sound_ite h (sound_ite (sound_modRoles (sound_freshCore h)) (sound_modRoles h))

theorem sound_restart {s : State} {n l differ pass} (h : Sound s) : Sound (s.restart n l differ pass) := by
  unfold State.restart
  split
  · exact sound_modCove h
  · extract_lets
    split
    · exact sound_modCove h
    · split
      · exact sound_ite (sound_restartGroup (sound_undertowSend h)) (sound_modCove h)
      · exact sound_retest (sound_modCove h)
      · exact sound_modCove h

theorem sound_stepDone {s : State} {n pass} (h : Sound s) : Sound (s.stepDone n pass) := sound_raiseN (sound_modCove h)

theorem sound_selfTestStep {s : State} {n} (h : Sound s) : Sound (s.selfTestStep n) := by
  unfold State.selfTestStep
  extract_lets
  split
  · split
    next he2 => exact sound_modCove ((sound_rotateStart h).of_some he2)
    · exact h
  · split
    · exact sound_ite (sound_commitNow h) (sound_modCove (sound_modCore (sound_commitNow h)))
    · exact h

theorem sound_bankTestStep {s : State} {n} (h : Sound s) : Sound (s.bankTestStep n) := sound_modCove h

theorem sound_schedulePoint {s : State} {n} (h : Sound s) : Sound (s.schedulePoint n) := by
  unfold State.schedulePoint
  exact sound_ite h (sound_ite (sound_modCove h) (sound_ite (sound_modCove h)
    (sound_ite (sound_bankTestStep (sound_selfTestStep (sound_modCove h))) (sound_selfTestStep (sound_modCove h)))))

theorem sound_afterTests {s : State} {n i} (h : Sound s) : Sound (s.afterTests n i) := by
  unfold State.afterTests
  extract_lets _ _ _ passed
  clear_value passed
  split
  · exact h
  · split
    · exact sound_ite (sound_raiseN (sound_modCore (sound_modRoles h))) h
    · exact h

theorem sound_coreTested {s : State} {n phys pass} (h : Sound s) : Sound (s.coreTested n phys pass) := by
  unfold State.coreTested
  extract_lets
  split
  · exact h
  · extract_lets _ _ _ s1 s2
    have hs1 : Sound s1 := sound_modRoles h
    have hs2 : Sound s2 := sound_ite (sound_afterTests hs1) hs1
    exact sound_ite (sound_stepDone hs2) hs2

theorem sound_sliceDone {s : State} {n pass} (h : Sound s) : Sound (s.sliceDone n pass) := by
  unfold State.sliceDone
  split
  · extract_lets _ s1 s2
    have hs1 : Sound s1 := sound_modCore (sound_restoreArch h)
    have hs2 : Sound s2 := sound_stepDone hs1
    exact sound_ite hs2 (sound_raiseN hs2)
  · exact h

theorem sound_bankDone {s : State} {n pass} (h : Sound s) : Sound (s.bankDone n pass) := by
  unfold State.bankDone
  split
  · exact h
  · exact sound_ite (sound_raiseN (sound_modCove h)) (sound_raiseN (sound_raiseN (sound_modCove h)))

theorem sound_execCheckpoint {core} {s : State} (h : Sound s) : NextSound (execCheckpoint core s) := sound_checkpoint h

theorem sound_execCheckpointCommit {core upset} {s : State} (h : Sound s) : NextSound (execCheckpointCommit core upset s) :=
  sound_commitPending h

theorem sound_execRollback {core cause} {s : State} (h : Sound s) : NextSound (execRollback core cause s) := by
  unfold execRollback
  extract_lets
  show Sound _
  split
  · exact sound_ite (sound_rollback (sound_detect h)) h
  · exact sound_ite (sound_rollback (sound_detect h)) h
  · exact sound_rollback (sound_modCove h)
  · exact sound_ite (sound_rollback (sound_detect h)) h
  · exact h

theorem sound_execGlitchAlarm {scope} {s : State} (h : Sound s) : NextSound (execGlitchAlarm scope s) := sound_glitch h

theorem sound_execRestoreComplete {core} {s : State} (h : Sound s) : NextSound (execRestoreComplete core s) :=
  holds_ite (sound_startCopies (sound_restoreGroup h)) h

theorem sound_execChange {who cove mode} {s : State} (h : Sound s) : NextSound (execChange who cove mode s) :=
  sound_ifHeadland (sound_class0 h) (fun _ ht => sound_changeMode ht)

theorem sound_execRotate {who cove lcore} {s : State} (h : Sound s) : NextSound (execRotate who cove lcore s) :=
  sound_ifHeadland (sound_class0 h) (fun _ ht => sound_rotate ht)

theorem sound_execRestart {who cove lcore differ pass} {s : State} (h : Sound s) : NextSound (execRestart who cove lcore differ pass s) :=
  sound_ifHeadland (sound_class0 h) (fun _ ht => sound_restart ht)

theorem sound_execCmodeUnknown {who cove code} {s : State} (h : Sound s) : NextSound (execCmodeUnknown who cove code s) := by
  unfold execCmodeUnknown
  show Sound _
  refine sound_ifHeadland (sound_class0 h) (fun _ ht => ?_)
  split
  · exact sound_changeMode ht
  · exact sound_rotate ht
  · exact sound_restart ht
  · exact sound_modCove ht

theorem sound_execCopyEnd {cove} {s : State} (h : Sound s) : NextSound (execCopyEnd cove s) := sound_copyEnd h

theorem sound_execSelfTestSchedulePoint {cove} {s : State} (h : Sound s) : NextSound (execSelfTestSchedulePoint cove s) :=
  sound_schedulePoint h

theorem sound_execCoreTestComplete {cove phys pass} {s : State} (h : Sound s) : NextSound (execCoreTestComplete cove phys pass s) :=
  sound_coreTested h

theorem sound_execSliceComplete {cove pass} {s : State} (h : Sound s) : NextSound (execSliceComplete cove pass s) := sound_sliceDone h
theorem sound_execBankTestComplete {cove pass} {s : State} (h : Sound s) : NextSound (execBankTestComplete cove pass s) := sound_bankDone h

/-! ### Power and clocks -/

theorem sound_powerWrite {s : State} {who} {f : State → State} (h : Sound s) (hf : ∀ t, Sound t → Sound (f t)) :
    Sound (s.powerWrite who f) := by
  unfold State.powerWrite
  exact sound_ifHeadland h.update hf

theorem sound_profilePut {s : State} {v} (h : Sound s) : Sound (s.profilePut v) := by
  unfold State.profilePut
  repeat' refine sound_ite ?_ ?_
  all_goals exact h.same

theorem sound_execProfileWrite {who v} {s : State} (h : Sound s) : NextSound (execProfileWrite who v s) :=
  sound_powerWrite h (fun _ ht => sound_profilePut ht)

theorem sound_execProfileSwitch {s : State} (h : Sound s) : NextSound (execProfileSwitch s) := holds_ite ((sound_commitAll h).update) h
theorem sound_execProfileChangeComplete {s : State} (h : Sound s) : NextSound (execProfileChangeComplete s) := sound_ite h.update h
theorem sound_thermalCritical {s : State} {injected} (h : Sound s) : Sound (s.thermalCritical injected) := (sound_detect h).update
theorem sound_execThermalForcedNeap {s : State} (h : Sound s) : NextSound (execThermalForcedNeap s) := sound_thermalCritical h
theorem sound_execThermalAlarmClear {s : State} (h : Sound s) : NextSound (execThermalAlarmClear s) := h.update

theorem sound_spillAll {s : State} {k} (h : Sound s) : Sound (s.spillAll k) := by
  unfold State.spillAll
  refine sound_foldl h fun _ ht _ => ?_
  split
  · exact sound_spill ht
  · exact ht

theorem sound_ungateGroup {s : State} {k} (h : Sound s) : Sound (s.ungateGroup k) := by
  unfold State.ungateGroup
  extract_lets _ s1 s2
  have hs1 : Sound s1 := sound_ite (sound_reloadVector (sound_fill h)) h
  have hs2 : Sound s2 := sound_commitNow hs1
  exact sound_ite (sound_releaseHeld (sound_foldl (sound_modCore hs2) fun _ ht _ => sound_tenantArrive ht)) hs2

theorem sound_portDown {s : State} {d} (h : Sound s) : Sound (s.portDown d) :=
  sound_ite (sound_cutTx (sound_modLink h)) (sound_ite (sound_cutTx (sound_modEth h)) (sound_ite (sound_cutTx h.update) h))

theorem sound_portRetrain {s : State} {d} (h : Sound s) : Sound (s.portRetrain d) := sound_ite (sound_modLink h) h
theorem sound_gateCores {s : State} {n b} (h : Sound s) : Sound (s.gateCores n b) := sound_foldl h fun _ ht _ => sound_modCore ht

theorem sound_powerCove {s : State} {n} (h : Sound s) : Sound (s.powerCove n) :=
  sound_cacheFlush _ _ (sound_foldl h fun _ ht _ => sound_modCore (sound_spillAll ht))

theorem sound_leaveService {s : State} {d pwr} (h : Sound s) : Sound (s.leaveService d pwr) := by
  unfold State.leaveService
  exact sound_setGate (sound_ite (sound_ite (sound_powerCove (sound_gateCores (sound_foldl h fun _ ht _ => sound_commitNow ht)))
    (sound_gateCores (sound_foldl h fun _ ht _ => sound_commitNow ht))) (sound_portDown h))

theorem sound_enterService {s : State} {d} (h : Sound s) : Sound (s.enterService d) :=
  sound_setGate (sound_ite (sound_foldl (sound_gateCores h) fun _ ht _ => sound_ungateGroup ht) (sound_portRetrain h))

theorem sound_harbourEvent {s : State} (h : Sound s) : Sound s.harbourEvent := sound_raiseN h

theorem sound_gateGo {s : State} {d dest by_} (h : Sound s) : Sound (s.gateGo d dest by_) :=
  sound_setGate (sound_ite (sound_leaveService h) (sound_ite (sound_powerCove h) h))

theorem sound_applyHarbour {s : State} {d} (h : Sound s) : Sound (s.applyHarbour d) := sound_harbourEvent (sound_setGate (sound_gateGo h))
theorem sound_gdRefuse {s : State} {r} (h : Sound s) : Sound (s.gdRefuse r) := h.update
theorem sound_gdAccept {s : State} {busy} (h : Sound s) : Sound (s.gdAccept busy) := h.update

theorem sound_gdCommand {s : State} {why} {f : ℕ → State} (h : Sound s) (hf : ∀ (a : ℕ), Sound (f a)) : Sound (s.gdCommand why f) := by
  unfold State.gdCommand
  extract_lets
  split
  · exact sound_gdRefuse h
  · split
    · exact sound_gdRefuse h
    · exact hf _

theorem sound_gdUngate {s : State} (h : Sound s) : Sound s.gdUngate :=
  sound_gdCommand h (fun _ => sound_ite (sound_gdAccept (sound_setGate h)) (sound_gdAccept (sound_gateGo (sound_setGate h))))

theorem sound_gdGate {s : State} {pwr} (h : Sound s) : Sound (s.gdGate pwr) :=
  sound_gdCommand h (fun _ => sound_ite (sound_gdAccept (sound_setGate h)) (sound_gdAccept (sound_gateGo h)))

theorem sound_gdHoldCmd {s : State} (h : Sound s) : Sound s.gdHoldCmd := by
  unfold State.gdHoldCmd
  exact sound_gdCommand h (fun _ => sound_ite (sound_gdAccept (sound_harbourEvent (sound_setGate (sound_gateGo (sound_setGate h)))))
    (sound_gdAccept (sound_setGate h)))

theorem sound_gdUnholdCmd {s : State} (h : Sound s) : Sound s.gdUnholdCmd :=
  sound_gdCommand h (fun _ => sound_ite (sound_gdAccept (sound_applyHarbour (sound_setGate h))) (sound_gdAccept (sound_setGate h)))

theorem sound_gdResetCmd {s : State} (h : Sound s) : Sound s.gdResetCmd := sound_gdCommand h (fun _ => sound_gdAccept (sound_setGate h))

theorem sound_unitReset {s : State} {d} (h : Sound s) : Sound (s.unitReset d) := by
  unfold State.unitReset
  extract_lets _ _ _ s0 _ s1 _ s2
  have hs0 : Sound s0 := h.update
  have hs1 : Sound s1 := sound_setFrame hs0
  have hs2 : Sound s2 := sound_foldl hs1 fun _ ht _ => sound_chHalt ht
  repeat' refine sound_ite ?_ ?_
  all_goals exact hs2.same

theorem sound_execUngate {who} {s : State} (h : Sound s) : NextSound (execUngate who s) :=
  sound_powerWrite h (fun _ ht => sound_gdUngate ht)

theorem sound_execClkgate {who} {s : State} (h : Sound s) : NextSound (execClkgate who s) :=
  sound_powerWrite h (fun _ ht => sound_gdGate ht)

theorem sound_execPwrgate {who} {s : State} (h : Sound s) : NextSound (execPwrgate who s) :=
  sound_powerWrite h (fun _ ht => sound_gdGate ht)

theorem sound_execGdHold {who} {s : State} (h : Sound s) : NextSound (execGdHold who s) :=
  sound_powerWrite h (fun _ ht => sound_gdHoldCmd ht)

theorem sound_execUnhold {who} {s : State} (h : Sound s) : NextSound (execUnhold who s) :=
  sound_powerWrite h (fun _ ht => sound_gdUnholdCmd ht)

theorem sound_execGdReset {who} {s : State} (h : Sound s) : NextSound (execGdReset who s) :=
  sound_powerWrite h (fun _ ht => sound_gdResetCmd ht)

theorem sound_gdCode {s : State} {code} (h : Sound s) : Sound (s.gdCode code) := by
  unfold State.gdCode
  split
  · exact sound_gdUngate h
  · exact sound_gdGate h
  · exact sound_gdGate h
  · exact sound_gdHoldCmd h
  · exact sound_gdUnholdCmd h
  · exact sound_gdResetCmd h
  · exact sound_gdRefuse h

theorem sound_execGdCmdUnknown {who code} {s : State} (h : Sound s) : NextSound (execGdCmdUnknown who code s) :=
  sound_powerWrite h (fun _ ht => sound_gdCode ht)

theorem sound_gdDone {s : State} {d} (h : Sound s) : Sound (s.gdDone d) := sound_ite h.update h

theorem sound_gatingDone {s : State} {d} (h : Sound s) : Sound (s.gatingDone d) := by
  unfold State.gatingDone
  extract_lets _ s1
  have hs1 : Sound s1 := sound_unitReset h
  split
  · exact sound_gdDone (sound_setGate hs1)
  · exact sound_ite (sound_ite h (sound_gdDone (sound_enterService h))) (sound_gdDone (sound_setGate h))
  · exact h

theorem sound_execGatingComplete {dom} {s : State} (h : Sound s) : NextSound (execGatingComplete dom s) := sound_gatingDone h

theorem sound_liftHarbour {s : State} {d} (h : Sound s) : Sound (s.liftHarbour d) :=
  sound_ite (sound_gateGo (sound_setGate h)) (sound_setGate h)

theorem sound_ownerChanged {s : State} {page} (h : Sound s) : Sound (s.ownerChanged page) := by
  unfold State.ownerChanged
  split
  · exact sound_liftHarbour h
  · exact h

theorem sound_blkGate {s : State} {ten d v} (h : Sound s) : Sound (s.blkGate ten d v) := by
  unfold State.blkGate
  exact sound_ite (sound_ite (sound_setGate h) (sound_ite (sound_liftHarbour h) (sound_setGate h)))
    (sound_ite (sound_harbourEvent (sound_setGate h)) (sound_ite (sound_applyHarbour (sound_setGate h))
    (sound_harbourEvent (sound_setGate (sound_setGate h)))))

theorem sound_blkGateStore {s : State} {who d v} (h : Sound s) : Sound (s.blkGateStore who d v) :=
  sound_ite (sound_ifOwner h (fun _ ht => sound_blkGate ht)) h

theorem sound_execBlkGateWrite {who dom v tick} {s : State} (h : Sound s) : NextSound (execBlkGateWrite who dom v tick s) :=
  sound_blkGateStore (sound_advance h)

theorem sound_epochAdvance {s : State} (h : Sound s) : Sound s.epochAdvance := h.update

theorem sound_execEpochCmd {who v} {s : State} (h : Sound s) : NextSound (execEpochCmd who v s) :=
  sound_powerWrite h (fun _ ht => sound_ite (sound_epochAdvance ht) ht)

theorem sound_rebuild {s : State} {d} (h : Sound s) : Sound (s.rebuild d) := by
  unfold State.rebuild
  exact sound_ite (sound_modCove (sound_foldl h fun _ ht _ => sound_reloadVector (sound_rebuildCore ht)))
    (sound_foldl h fun _ ht _ => sound_setChannel ht)

theorem sound_epochRebuild {s : State} {d} (h : Sound s) : Sound (s.epochRebuild d) :=
  sound_ite (sound_raiseN (sound_gdDone (sound_enterService (sound_rebuild h)))) h

theorem sound_execEpochRebuild {dom tick} {s : State} (h : Sound s) : NextSound (execEpochRebuild dom tick s) :=
  sound_epochRebuild (sound_advance h)

theorem sound_portsDown {s : State} (h : Sound s) : Sound s.portsDown := sound_foldl h fun _ ht _ => sound_portDown ht

theorem sound_standbyGo {s : State} (h : Sound s) : Sound s.standbyGo :=
  (sound_portsDown (sound_foldl (sound_commitAll h) fun _ ht _ => sound_cacheClean _ _ ht)).update

theorem sound_standbyEnter {s : State} (h : Sound s) : Sound s.standbyEnter := by
  unfold State.standbyEnter
  split
  · exact h.update
  · exact sound_ite h.update (sound_standbyGo h)

theorem sound_enterIfDue {s : State} (h : Sound s) : Sound s.enterIfDue := sound_ite (sound_standbyGo h) h

theorem sound_execEnter {who} {s : State} (h : Sound s) : NextSound (execEnter who s) :=
  sound_powerWrite h (fun _ ht => sound_ite (sound_standbyEnter ht) ht)

theorem sound_standbyRestart {s : State} (h : Sound s) : Sound s.standbyRestart := by
  unfold State.standbyRestart
  extract_lets _ s1 s2 _ s3 s4
  have hs1 : Sound s1 := h.update
  have hs2 : Sound s2 := sound_foldl hs1 fun _ ht _ => sound_raise ht
  have hs3 : Sound s3 := sound_foldl hs2 fun _ ht _ => sound_raiseN ht
  have hs4 : Sound s4 := sound_foldl hs3 fun _ ht _ => sound_releaseWake ht
  exact sound_commitAll (sound_foldl hs4 fun _ ht _ => sound_ite (sound_portRetrain ht) ht)

theorem sound_execStandbyRestart {at_} {s : State} (h : Sound s) : NextSound (execStandbyRestart at_ s) :=
  sound_ite (sound_standbyRestart (sound_advance h)) (sound_advance h)

theorem sound_execSupplyWarning {at_} {s : State} (h : Sound s) : NextSound (execSupplyWarning at_ s) := sound_detect (sound_advance h)

theorem sound_supplyGlitch {s : State} {sram n injected} (h : Sound s) : Sound (s.supplyGlitch sram n injected) :=
  sound_glitchCove (sound_detect h)

theorem sound_execSupplyGlitch {sram cove at_} {s : State} (h : Sound s) : NextSound (execSupplyGlitch sram cove at_ s) :=
  sound_supplyGlitch (sound_advance h)

theorem sound_clockAlarm {s : State} {scope injected} (h : Sound s) : Sound (s.clockAlarm scope injected) := by
  unfold State.clockAlarm
  split
  · exact h
  · split
    · exact sound_glitchCove (sound_detect h)
    · exact sound_glitch (sound_detect h)

theorem sound_execClockMonitorAlarm {scope at_} {s : State} (h : Sound s) : NextSound (execClockMonitorAlarm scope at_ s) :=
  sound_clockAlarm (sound_advance h)

theorem sound_tidePllLost {s : State} {injected} (h : Sound s) : Sound (s.tidePllLost injected) := (sound_detect h).update
theorem sound_execTidePllLoss {at_} {s : State} (h : Sound s) : NextSound (execTidePllLoss at_ s) := sound_tidePllLost (sound_advance h)

theorem sound_slackAll {s : State} (h : Sound s) : Sound s.slackAll :=
  sound_foldl h fun _ ht _ => sound_ite (sound_restage (sound_enterSlack ht)) ht

theorem sound_execTidePllRelock {at_} {s : State} (h : Sound s) : NextSound (execTidePllRelock at_ s) :=
  sound_ite (sound_slackAll ((sound_advance h).update)) (sound_advance h)

theorem sound_crystalLost {s : State} {injected} (h : Sound s) : Sound (s.crystalLost injected) :=
  sound_ite (sound_detect h) ((sound_detect h).update)

theorem sound_execCrystalLoss {at_} {s : State} (h : Sound s) : NextSound (execCrystalLoss at_ s) := sound_crystalLost (sound_advance h)
theorem sound_execCrystalReturn {s : State} (h : Sound s) : NextSound (execCrystalReturn s) := h.update
theorem sound_execThermalWarning {at_} {s : State} (h : Sound s) : NextSound (execThermalWarning at_ s) := sound_detect (sound_advance h)
theorem sound_execAonKick {who} {s : State} (h : Sound s) : NextSound (execAonKick who s) := sound_ifHeadland h (fun _ ht => ht.update)

theorem sound_execWatchdogHalf {at_} {s : State} (h : Sound s) : NextSound (execWatchdogHalf at_ s) :=
  sound_ite (sound_detect ((sound_advance h).update)) (sound_advance h)

theorem sound_aonCount {s : State} (h : Sound s) : Sound s.aonCount.2 := by
  unfold State.aonCount
  split
  · split
    next he1 => exact ((sound_drawBelow h).of_snd he1).update

theorem sound_execAonAlarm {k at_} {s : State} (h : Sound s) : NextSound (execAonAlarm k at_ s) := by
  unfold execAonAlarm
  extract_lets s1
  have hs1 : Sound s1 := sound_advance h
  split
  · exact holds_ite (sound_raiseN hs1.update) hs1
  · exact hs1

theorem sound_aonLo {s : State} (h : Sound s) : Sound s.aonLo.2 := by
  unfold State.aonLo
  split
  next he => exact ((sound_aonCount h).of_snd he).update

theorem sound_execAonCntLoRead {a} {s : State} (h : Sound s) : NextSound (execAonCntLoRead a s) := sound_aonLo h

theorem sound_otpCommand {s : State} {v} (h : Sound s) : Sound (s.otpCommand v) := by
  unfold State.otpCommand
  split
  · exact h.update
  · exact h.update
  · exact h.update
  · exact h

theorem sound_execOtpRollback {who n} {s : State} (h : Sound s) : NextSound (execOtpRollback who n s) :=
  sound_powerWrite h (fun _ ht => sound_otpCommand ht)

theorem sound_execOtpRevoke {who k} {s : State} (h : Sound s) : NextSound (execOtpRevoke who k s) :=
  sound_powerWrite h (fun _ ht => sound_otpCommand ht)

theorem sound_execOtpBootcfg {who v} {s : State} (h : Sound s) : NextSound (execOtpBootcfg who v s) :=
  sound_powerWrite h (fun _ ht => sound_otpCommand ht)

/-! ### Resets, saving and boot -/

theorem sound_resetBy {s : State} {cause aonLost} (h : Sound s) : Sound (s.resetBy cause aonLost) := by
  obtain ⟨hmem, htags, hecc, -, -⟩ := h
  exact ⟨canonical_filter (t := ⟨s.mem⟩) _ hmem, canonical_filter _ htags, canonical_filter _ hecc, rfl, rfl⟩

theorem sound_execPowerOnReset {aonLost} {s : State} (h : Sound s) : NextSound (execPowerOnReset aonLost s) := (sound_resetBy h).update
theorem sound_execPoreset {s : State} (h : Sound s) : NextSound (execPoreset s) := sound_ite h ((sound_resetBy h).update)
theorem sound_watchdogExpired {s : State} (h : Sound s) : Sound s.watchdogExpired := sound_ite h (sound_resetBy h)
theorem sound_execWatchdogExpiry {s : State} (h : Sound s) : NextSound (execWatchdogExpiry s) := sound_ite (sound_watchdogExpired h) h
theorem sound_sysReset {s : State} {v} (h : Sound s) : Sound (s.sysReset v) := sound_ite h.update (sound_ite (sound_resetBy h) h.update)

theorem sound_execSysReset {who v} {s : State} (h : Sound s) : NextSound (execSysReset who v s) :=
  sound_ifHeadland h (fun _ ht => sound_sysReset ht)

theorem sound_loseUndurable {s : State} {l} (h : Sound s) : Sound (s.loseUndurable l) := by
  induction l generalizing s with
  | nil => exact h.update
  | cons e r ih =>
    have hdraw : Sound (s.drawBelow 2).2 := sound_drawBelow h
    exact ih (sound_ite (sound_putTag _ _ _ (sound_putBytes4 _ _ _ hdraw)) hdraw)

theorem sound_execPowerOff {s : State} (h : Sound s) : NextSound (execPowerOff s) := by
  unfold execPowerOff
  extract_lets s1 s2
  have hs1 : Sound s1 := sound_loseUndurable h
  have hs2 : Sound s2 := sound_resetBy hs1
  exact hs2.update

theorem sound_execVddIo33Fall {s : State} (h : Sound s) : NextSound (execVddIo33Fall s) := h.update

theorem sound_ebbArm {s : State} (h : Sound s) : Sound s.ebbArm := by
  unfold State.ebbArm
  split <;> exact h.update

theorem sound_execArm {who} {s : State} (h : Sound s) : NextSound (execArm who s) := sound_powerWrite h (fun _ ht => sound_ebbArm ht)
theorem sound_ebbDisarm {s : State} (h : Sound s) : Sound s.ebbDisarm := h.update

theorem sound_execDisarm {who} {s : State} (h : Sound s) : NextSound (execDisarm who s) :=
  sound_powerWrite h (fun _ ht => sound_ebbDisarm ht)

theorem sound_abandon {s : State} {k sl} (h : Sound s) : Sound (s.abandon k sl) := by
  unfold State.abandon
  split
  · exact sound_modCore h
  · exact h

theorem sound_haltGroup {s : State} {k} (h : Sound s) : Sound (s.haltGroup k) := by
  unfold State.haltGroup
  extract_lets _ s1 s2 s3
  have hs1 : Sound s1 := sound_ite (sound_restoreGroup h) h
  have hs2 : Sound s2 := sound_ite (sound_modCore hs1) hs1
  have hs3 : Sound s3 := sound_spillAll (sound_foldl hs2 fun _ ht _ => sound_abandon ht)
  exact sound_modCore hs3

theorem sound_settle {s : State} (h : Sound s) : Sound s.settle :=
  sound_foldl h.update fun _ ht _ => sound_ite (sound_epochRebuild (sound_gatingDone ht)) ht

theorem sound_ebbTrigger {s : State} (h : Sound s) : Sound s.ebbTrigger := by
  unfold State.ebbTrigger
  split
  · exact h
  · exact h
  · exact h
  · exact h
  · exact h.update
  · exact h.update
  · extract_lets s0 s1 s2 s3 s4 _ _ s5
    have hs0 : Sound s0 := sound_injClose (sound_ite (sound_standbyRestart h) h)
    have hs1 : Sound s1 := sound_portsDown (sound_settle hs0)
    have hs2 : Sound s2 := sound_foldl hs1 fun _ ht _ => sound_haltGroup ht
    have hs3 : Sound s3 := hs2.update
    have hs4 : Sound s4 := sound_aonCount hs3
    have hs5 : Sound s5 := hs4.update
    exact sound_ite hs5.update hs3
  · extract_lets s0 s1 s2 s3 s4 _ _ s5
    have hs0 : Sound s0 := sound_injClose (sound_ite (sound_standbyRestart h) h)
    have hs1 : Sound s1 := sound_portsDown (sound_settle hs0)
    have hs2 : Sound s2 := sound_foldl hs1 fun _ ht _ => sound_haltGroup ht
    have hs3 : Sound s3 := hs2.update
    have hs4 : Sound s4 := sound_aonCount hs3
    have hs5 : Sound s5 := hs4.update
    exact sound_ite hs5.update hs3

theorem sound_execEbbTrigger {cause} {s : State} (h : Sound s) : NextSound (execEbbTrigger cause s) := by
  unfold execEbbTrigger
  extract_lets s1 _ s2
  have hs1 : Sound s1 := sound_advance h
  have hs2 : Sound s2 := sound_ite hs1.update hs1
  exact sound_ite (sound_ebbTrigger hs2) hs2

theorem sound_execCrystalLossTimeout {at_} {s : State} (h : Sound s) : NextSound (execCrystalLossTimeout at_ s) :=
  sound_ite (sound_ebbTrigger (sound_advance h)) (sound_advance h)

theorem sound_execEbbSeal {s : State} (h : Sound s) : NextSound (execEbbSeal s) :=
  holds_ite h (sound_ite ((sound_resetBy h.update).update) h.update)

theorem sound_execSupplyReturn {s : State} (h : Sound s) : NextSound (execSupplyReturn s) := by
  unfold execSupplyReturn
  extract_lets _ _ x1
  have hx1 : Sound x1 := sound_resetBy h
  show Sound _
  split
  · exact h.update
  · exact hx1.update
  · exact h.update

theorem sound_writeCopy {s : State} {adr pa n} (h : Sound s) : Sound (s.writeCopy adr pa n) := by
  induction n generalizing s adr pa with
  | zero => exact h
  | succ n ih => exact ih (sound_putParcel _ _ _ h)

theorem sound_clearCode {s : State} (h : Sound s) : Sound s.clearCode := by
  obtain ⟨hmem, htags, hecc, -, -⟩ := h
  exact ⟨hmem, htags, hecc, rfl, rfl⟩

theorem sound_restoreWords {s : State} {l} (h : Sound s) : Sound (s.restoreWords l) :=
  sound_foldl h fun _ ht _ => sound_putTag _ _ _ (sound_putBytes4 _ _ _ ht)

theorem sound_returnGroup {s : State} {k} (h : Sound s) : Sound (s.returnGroup k) :=
  sound_commitNow (sound_ite (sound_reloadVector (sound_fill h)) h)

theorem sound_outage {s : State} {i} (h : Sound s) : Sound (s.outage i).2 := by
  unfold State.outage
  split
  · exact h
  · split
    next he1 => exact (sound_aonCount h).of_snd he1

theorem sound_restoreImage {s : State} {i aon} (h : Sound s) : Sound (s.restoreImage i aon) := by
  unfold State.restoreImage
  extract_lets s0 s1 he _ _ _ _ _ s2 s3 s4
  have hs0 : Sound s0 := sound_foldl (sound_clearCode h) fun _ ht _ => sound_writeCopy ht
  have hs1 : Sound s1 := sound_restoreWords hs0
  have hhe : Sound he := hs1.update
  have hs2 : Sound s2 := hs1.update
  have hs3 : Sound s3 := sound_foldl (sound_ageAll hs2) fun _ ht _ => sound_returnGroup ht
  have hs4 : Sound s4 := sound_foldl hs3 fun _ ht _ => sound_setEntry ht
  exact sound_raiseN hs4

theorem sound_ebbReturn {s : State} {i} (h : Sound s) : Sound (s.ebbReturn i) := by
  unfold State.ebbReturn
  split
  next he => exact sound_restoreImage ((sound_outage h).of_snd he)

theorem sound_execEbbReturn {restore at_} {s : State} (h : Sound s) : NextSound (execEbbReturn restore at_ s) := by
  unfold execEbbReturn
  extract_lets s1
  have hs1 : Sound s1 := sound_advance h
  split
  · exact sound_advance (sound_ite (sound_ebbReturn hs1) hs1)
  · exact sound_advance hs1

theorem sound_writeParcels {s : State} {adr l} (h : Sound s) : Sound (s.writeParcels adr l) := by
  induction l generalizing s adr with
  | nil => exact h
  | cons p r ih => exact ih (sound_putParcel _ _ _ h)

theorem sound_startHeadland {s : State} {b} (h : Sound s) : Sound (s.startHeadland b) := by
  unfold State.startHeadland
  extract_lets s1 s2 s3 _ s4
  have hs1 : Sound s1 := sound_writeParcels (sound_clearCode h)
  have hs2 : Sound s2 := sound_storeCaps (sound_storeWords hs1)
  have hs3 : Sound s3 := sound_foldl hs2 fun _ ht _ => sound_modCore ht
  have hs4 : Sound s4 := sound_modCore hs3
  exact hs4.update

theorem sound_tryBoot {s : State} {images l} (h : Sound s) : Sound (s.tryBoot images l) := by
  induction l generalizing s with
  | nil => exact h.update
  | cons j r ih =>
    unfold State.tryBoot
    split
    · exact ih h
    · split
      · exact ih h.update
      · split
        · exact ih h.update
        · exact sound_startHeadland h

theorem sound_startTraining {s : State} (h : Sound s) : Sound s.startTraining := sound_foldl h fun _ ht _ => ht.update

theorem sound_execBootRomRun {images} {s : State} (h : Sound s) : NextSound (execBootRomRun images s) :=
  sound_ite h.update (sound_ite (sound_ite (sound_startTraining h) (sound_tryBoot (sound_startTraining h))) h)

theorem sound_execBootRetry {s : State} (h : Sound s) : NextSound (execBootRetry s) := sound_ite h.update h

/-! ### The issue wheel and the bank window -/

theorem sound_wheelPut {s : State} {k v} (h : Sound s) : Sound (s.wheelPut k v) := sound_modCore h
theorem sound_wheelStore {s : State} {k v} (h : Sound s) : Sound (s.wheelStore k v) := sound_ite (sound_detect h) (sound_wheelPut h)

theorem sound_ifLeaderPage {s : State} {k} {f : State → State} (h : Sound s) (hf : ∀ t, Sound t → Sound (f t)) :
    Sound (s.ifLeaderPage k f) := by
  unfold State.ifLeaderPage
  exact sound_ite (hf _ h) h

theorem sound_execWheelWrite {who core v} {s : State} (h : Sound s) : NextSound (execWheelWrite who core v s) :=
  sound_ifLeaderPage h (fun _ ht => sound_ifOwner ht (fun _ ht1 => sound_wheelStore ht1))

theorem sound_bankResult {s : State} {k r} (h : Sound s) : Sound (s.bankResult k r) := sound_modCore h

theorem sound_bankHold {s : State} {k sl lv} (h : Sound s) : Sound (s.bankHold k sl lv) := by
  unfold State.bankHold
  exact sound_ite (sound_bankResult h) (sound_ite (sound_bankResult h) (sound_ite (sound_bankResult h)
    (sound_bankResult (sound_modSlot (sound_evict h)))))

theorem sound_releaseEvent {s : State} {k run} (h : Sound s) : Sound (s.releaseEvent k run) := sound_modCore h
theorem sound_runSlot {s : State} {k sl} (h : Sound s) : Sound (s.runSlot k sl) := sound_modSlot h

theorem sound_bankRelease {s : State} {k sl} (h : Sound s) : Sound (s.bankRelease k sl) :=
  sound_ite (sound_bankResult h) (sound_ite (sound_bankResult (sound_releaseEvent h)) (sound_bankResult (sound_modSlot h)))

theorem sound_bankRun {s : State} {k sl} (h : Sound s) : Sound (s.bankRun k sl) :=
  sound_ite (sound_bankResult h) (sound_ite (sound_bankResult (sound_releaseEvent h)) (sound_bankResult (sound_runSlot h)))

theorem sound_endRelease {s : State} {k} (h : Sound s) : Sound (s.endRelease k) := by
  unfold State.endRelease
  split
  · exact h
  · exact sound_ite (sound_modCore h) (sound_bankResult (sound_ite (sound_runSlot (sound_modCore h)) (sound_modSlot (sound_modCore h))))

theorem sound_bankCreate {s : State} {k sl lv} (h : Sound s) : Sound (s.bankCreate k sl lv) :=
  sound_ite (sound_bankResult h) (sound_bankResult (sound_modSlot (sound_writeImage h)))

theorem sound_dropSlot {s : State} {k sl} (h : Sound s) : Sound (s.dropSlot k sl) := sound_modSlot (sound_modCore h)

theorem sound_bankDiscard {s : State} {k sl} (h : Sound s) : Sound (s.bankDiscard k sl) :=
  sound_ite (sound_bankResult h) (sound_bankResult (sound_dropSlot h))

theorem sound_bankCommand {s : State} {k cmd lv sl} (h : Sound s) : Sound (s.bankCommand k cmd lv sl) := by
  unfold State.bankCommand
  extract_lets s1
  have hs1 : Sound s1 := sound_modCore h
  split
  · exact hs1
  · split
    · exact sound_bankResult hs1
    · split
      · split
        · exact sound_bankHold hs1
        · exact sound_bankRelease hs1
        · exact sound_bankRun hs1
        · exact sound_bankCreate hs1
        · exact sound_bankDiscard hs1
        · exact sound_bankResult hs1
      · exact sound_bankResult hs1

theorem sound_bankWrite {s : State} {k v} (h : Sound s) : Sound (s.bankWrite k v) := sound_bankCommand h

theorem sound_bankPage {s : State} {who k cmd lv sl} (h : Sound s) : Sound (s.bankPage who k cmd lv sl) :=
  sound_ifLeaderPage h (fun _ ht => sound_ifOwner ht (fun _ ht1 => sound_bankCommand ht1))

theorem sound_execHold {who core slot level} {s : State} (h : Sound s) : NextSound (execHold who core slot level s) :=
  sound_ite (sound_voted h (fun _ ht => sound_bankPage ht)) (sound_bankPage h)

theorem sound_execRelease {who core slot level} {s : State} (h : Sound s) : NextSound (execRelease who core slot level s) :=
  sound_bankPage h

theorem sound_execReleaseRun {who core slot level} {s : State} (h : Sound s) : NextSound (execReleaseRun who core slot level s) :=
  sound_bankPage h

theorem sound_execCreate {who core slot level} {s : State} (h : Sound s) : NextSound (execCreate who core slot level s) := sound_bankPage h

theorem sound_execDiscard {who core slot level} {s : State} (h : Sound s) : NextSound (execDiscard who core slot level s) :=
  sound_bankPage h

/-! ### Features -/

theorem sound_headerWrite {s : State} {who page} {f : State → State} (h : Sound s) (hf : ∀ t, Sound t → Sound (f t)) :
    Sound (s.headerWrite who page f) := by
  unfold State.headerWrite
  exact sound_ite (sound_ifHeadland h hf) h

theorem sound_featAccept {s : State} {page v} (h : Sound s) : Sound (s.featAccept page v) := sound_ite (sound_detect h) (sound_setFrame h)

theorem sound_execFeatAcceptWrite {who page v} {s : State} (h : Sound s) : NextSound (execFeatAcceptWrite who page v s) :=
  sound_headerWrite h (fun _ ht => sound_featAccept ht)

theorem sound_featSend {s : State} (h : Sound s) : Sound s.featSend :=
  sound_epochAdvance ((sound_foldl h fun _ ht _ => sound_undertowSend ht).update)

theorem sound_flockSet {s : State} {page} (h : Sound s) : Sound (s.flockSet page) :=
  sound_ite h (sound_ite (sound_featSend (sound_setFrame h)) (sound_ite (sound_modLink (sound_setFrame h)) (sound_setFrame h)))

theorem sound_execFlock {who page} {s : State} (h : Sound s) : NextSound (execFlock who page s) :=
  sound_headerWrite (sound_ite (sound_class0 h) h) (fun _ ht => sound_flockSet ht)

theorem sound_featApplied {s : State} {k} (h : Sound s) : Sound (s.featApplied k) := sound_ite (sound_setFrame h.update) h.update

theorem sound_execFeatureSetApply {core} {s : State} (h : Sound s) : NextSound (execFeatureSetApply core s) := by
  unfold execFeatureSetApply
  exact holds_ite h (holds_ite (holds_ite (sound_commitPending h) (sound_ite (sound_commitNow (sound_modCore (sound_commitPending h)))
    (sound_featApplied (sound_commitNow (sound_modCore (sound_commitPending h)))))) (sound_featApplied (sound_modCore h)))

theorem sound_pageOwn {s : State} {page v} (h : Sound s) : Sound (s.pageOwn page v) :=
  sound_ite h (sound_setFrame (sound_ite h (sound_ownerChanged h)))

theorem sound_execPageOwnWrite {who page v} {s : State} (h : Sound s) : NextSound (execPageOwnWrite who page v s) :=
  sound_headerWrite h (fun _ ht => sound_pageOwn ht)

theorem sound_frameWrite {s : State} {who page f} (h : Sound s) : Sound (s.frameWrite who page f) :=
  sound_ite (sound_headerWrite h (fun _ ht => sound_setFrame ht)) h

theorem sound_execErrStatusClear {who page v} {s : State} (h : Sound s) : NextSound (execErrStatusClear who page v s) := sound_frameWrite h
theorem sound_execInjHitClear {who page v} {s : State} (h : Sound s) : NextSound (execInjHitClear who page v s) := sound_frameWrite h
theorem sound_execErrEventSet {who page v} {s : State} (h : Sound s) : NextSound (execErrEventSet who page v s) := sound_frameWrite h
theorem sound_execErrEventClr {who page v} {s : State} (h : Sound s) : NextSound (execErrEventClr who page v s) := sound_frameWrite h

theorem sound_injTouch {s : State} {who} (h : Sound s) : Sound (s.injTouch who) := by
  unfold State.injTouch
  split
  · exact sound_ite h.update h
  · exact h

theorem sound_injUnlock {s : State} {who v} (h : Sound s) : Sound (s.injUnlock who v) :=
  sound_ite h.update (sound_ite h.update ((sound_detect h).update))

theorem sound_execInjUnlock {who v at_} {s : State} (h : Sound s) : NextSound (execInjUnlock who v at_ s) :=
  sound_ifOwner (sound_advance h) (fun _ ht => sound_injUnlock ht)

theorem sound_execInjLock {who} {s : State} (h : Sound s) : NextSound (execInjLock who s) := sound_ifOwner h (fun _ ht => sound_injClose ht)

theorem sound_execInjectionWindowExpiry {at_} {s : State} (h : Sound s) : NextSound (execInjectionWindowExpiry at_ s) :=
  sound_ite (sound_injClose (sound_advance h)) (sound_advance h)

theorem sound_setInjCtrl {s : State} {page d v} (h : Sound s) : Sound (s.setInjCtrl page d v) := sound_setFrame h

theorem sound_injCtrlWrite {s : State} {who page d v} (h : Sound s) : Sound (s.injCtrlWrite who page d v) :=
  sound_ite h (sound_ifHeadland h (fun _ ht => sound_ite ((sound_setInjCtrl ht).update) (sound_detect ht)))

theorem sound_execInjCtrlWrite {who page d v} {s : State} (h : Sound s) : NextSound (execInjCtrlWrite who page d v s) :=
  sound_injCtrlWrite h

theorem sound_injectMonitor {s : State} {d w} (h : Sound s) : Sound (s.injectMonitor d w) := by
  unfold State.injectMonitor
  extract_lets
  split
  · exact sound_detect h
  · exact sound_supplyGlitch h
  · exact sound_supplyGlitch h
  · exact sound_clockAlarm h
  · exact sound_clockAlarm h
  · exact sound_tidePllLost h
  · exact sound_crystalLost h
  · exact sound_detect h
  · exact sound_thermalCritical h

theorem sound_injected {s : State} {page d w} (h : Sound s) : Sound (s.injected page d w) :=
  sound_ite (sound_injectMonitor h) (sound_ite (sound_ite (sound_detect h) (sound_watchdogExpired (sound_detect h))) h.update)

theorem sound_injFire {s : State} {page d} (h : Sound s) : Sound (s.injFire page d) :=
  sound_ite h (sound_ite (sound_ite h (sound_ite h.update (sound_injected h.update))) (sound_injected (sound_setInjCtrl h)))

theorem sound_execInjectionFire {page d at_} {s : State} (h : Sound s) : NextSound (execInjectionFire page d at_ s) :=
  sound_injFire (sound_advance h)

theorem sound_hykEnPut {s : State} {v} (h : Sound s) : Sound (s.hykEnPut v) := sound_ite h h.update

theorem sound_execHykEnWrite {who v} {s : State} (h : Sound s) : NextSound (execHykEnWrite who v s) :=
  sound_ifHeadland h (fun _ ht => sound_hykEnPut ht)

/-! ### Register pages -/

theorem sound_outState {s : State} {a : Host.Outcome State Fault Refusal} (h : Sound s) (ha : NextSound a) : Sound (outState s a) := by
  unfold outState
  split
  · exact ha
  · exact h

theorem sound_detRead {s : State} {page off} (h : Sound s) : Sound (s.detRead page off).2 := by
  unfold State.detRead
  repeat' refine sound_ite_snd ?_ ?_
  all_goals exact h.same

theorem sound_tenPageRead {s : State} {off} (h : Sound s) : Sound (s.tenPageRead off).2 := by
  unfold State.tenPageRead
  extract_lets
  split
  · exact h
  · exact h
  · exact h
  · exact h
  · exact h
  · exact sound_tenUnwrittenRead h
  · exact h
  · exact h

theorem sound_aonPageRead {s : State} {off} (h : Sound s) : Sound (s.aonPageRead off).2 := by
  unfold State.aonPageRead
  extract_lets
  split
  · exact sound_aonLo h
  · exact h
  · exact h
  · exact h
  · exact h
  · exact h
  · exact h
  · exact h
  · exact h.update
  · exact h
  · exact h
  · exact h

theorem sound_churnPageRead {s : State} {off} (h : Sound s) : Sound (s.churnPageRead off).2 := by
  unfold State.churnPageRead
  extract_lets
  split
  · exact h
  · split
    · exact h
    · split
      · exact h
      · split
        · split
          next he4 => exact (sound_chReadField h).of_snd he4
        · repeat' refine sound_ite_snd ?_ ?_
          all_goals exact h.same

theorem sound_evcPageRead {s : State} {off} (h : Sound s) : Sound (s.evcPageRead off).2 := by
  unfold State.evcPageRead
  repeat' refine sound_ite_snd ?_ ?_
  all_goals exact h.same

theorem sound_linkPageRead {s : State} {l off} (h : Sound s) : Sound (s.linkPageRead l off).2 := by
  unfold State.linkPageRead
  repeat' refine sound_ite_snd ?_ ?_
  all_goals exact h.same

theorem sound_ethPageRead {s : State} {p off} (h : Sound s) : Sound (s.ethPageRead p off).2 := by
  unfold State.ethPageRead
  repeat' refine sound_ite_snd ?_ ?_
  all_goals exact h.same

theorem sound_cfgRead {s : State} (h : Sound s) : Sound s.cfgRead.2 := by
  unfold State.cfgRead
  split
  · exact sound_configWord h
  · exact sound_drawWord h.update

theorem sound_pciePageRead {s : State} {off} (h : Sound s) : Sound (s.pciePageRead off).2 := by
  unfold State.pciePageRead
  exact sound_ite_snd h (sound_ite_snd h (sound_ite_snd h.update (sound_ite_snd h.update
    (sound_ite_snd h.update (sound_ite_snd (sound_cfgRead h) h)))))

theorem sound_memcPageRead {s : State} {c off} (h : Sound s) : Sound (s.memcPageRead c off).2 := by
  unfold State.memcPageRead
  repeat' refine sound_ite_snd ?_ ?_
  all_goals exact h.same

theorem sound_coveMemRead {s : State} {n off} (h : Sound s) : Sound (s.coveMemRead n off).2 := by
  unfold State.coveMemRead
  extract_lets
  split
  · exact h
  · exact h
  · exact h
  · exact sound_setCove h
  · exact sound_setCove h
  · exact sound_setCove h
  · exact sound_setCove h
  · exact sound_setCove h
  · exact sound_setCove h
  · exact sound_setCove h
  · exact h

theorem sound_redRead {s : State} {n off} (h : Sound s) : Sound (s.redRead n off).2 := by
  unfold State.redRead
  extract_lets
  split
  · exact h
  · exact h
  · exact h
  · exact h
  · exact sound_setCove h
  · exact sound_setCove h
  · exact sound_setCove h
  · exact h
  · exact h
  · exact h
  · exact sound_setCove h
  · exact h

theorem sound_coreRead {s : State} {k off} (h : Sound s) : Sound (s.coreRead k off).2 := by
  unfold State.coreRead
  repeat' refine sound_ite_snd ?_ ?_
  all_goals exact h.same

theorem sound_blockRead {s : State} {who page off} (h : Sound s) : Sound (s.blockRead who page off).2 := by
  unfold State.blockRead
  split
  · exact h
  · exact sound_tenPageRead h
  · exact h
  · exact sound_aonPageRead h
  · exact sound_injTouch h
  · exact h
  · exact h
  · exact h
  · exact h
  · exact h
  · exact sound_churnPageRead h
  · exact sound_evcPageRead h
  · exact sound_memcPageRead h
  · exact sound_linkPageRead h
  · exact sound_ethPageRead h
  · exact h
  · exact h
  · exact sound_pciePageRead h
  · exact h
  · exact h
  · exact sound_coveMemRead h
  · exact sound_redRead h
  · split
    · exact sound_coreRead h
    · exact h
  · exact sound_ite_snd (sound_claim h) h

theorem sound_pageRead {s : State} {who page off} (h : Sound s) : Sound (s.pageRead who page off).2 := by
  unfold State.pageRead
  split
  · exact sound_ite (sound_injTouch h) h
  · split
    · exact sound_blockRead h
    · split
      next he2 => exact sound_ite (sound_injTouch ((sound_detRead h).of_snd he2)) ((sound_detRead h).of_snd he2)

theorem sound_headerStore {s : State} {who page off v} (h : Sound s) : Sound (s.headerStore who page off v) := by
  unfold State.headerStore
  split
  · exact sound_headerWrite h (fun _ ht => sound_featAccept ht)
  · exact sound_headerWrite h (fun _ ht => sound_ite (sound_flockSet ht) ht)
  · exact sound_headerWrite h (fun _ ht => ht)
  · exact sound_headerWrite h (fun _ ht => ht)
  · exact sound_headerWrite h (fun _ ht => ht)
  · exact sound_headerWrite h (fun _ ht => ht)
  · exact sound_headerWrite h (fun _ ht => ht)
  · split
    · exact sound_blkGateStore h
    · exact h
  · exact h

theorem sound_detStore {s : State} {who page off v} (h : Sound s) : Sound (s.detStore who page off v) := by
  unfold State.detStore
  split
  · exact sound_frameWrite h
  · exact sound_frameWrite h
  · exact sound_frameWrite h
  · exact sound_frameWrite h
  · exact sound_frameWrite h
  · exact sound_headerWrite h (fun _ ht => sound_pageOwn ht)
  · exact sound_ite (sound_injCtrlWrite h) h

theorem sound_tenPageWrite {s : State} {off v} (h : Sound s) : Sound (s.tenPageWrite off v) := by
  unfold State.tenPageWrite
  split
  · exact h.update
  · exact sound_tenPhys h
  · exact sound_tenPhys h
  · exact sound_tenCommand h
  · exact h

theorem sound_powerPageWrite {s : State} {off v} (h : Sound s) : Sound (s.powerPageWrite off v) := by
  unfold State.powerPageWrite
  split
  · exact sound_profilePut h
  · exact h.update
  · exact sound_gdCode h
  · exact sound_ite (sound_ebbArm h) (sound_ite (sound_ebbDisarm h) h)
  · exact h.update
  · exact h.update
  · exact h.update
  · exact h.update
  · exact sound_ite (sound_epochAdvance h) h
  · exact sound_otpCommand h
  · exact sound_ite (sound_standbyEnter h) h
  · exact h

theorem sound_aonPageWrite {s : State} {off v} (h : Sound s) : Sound (s.aonPageWrite off v) := by
  unfold State.aonPageWrite
  split
  · exact h.update
  · exact h.update
  · exact h.update
  · exact h.update
  · exact h.update
  · exact h

theorem sound_injPageWrite {s : State} {who off v} (h : Sound s) : Sound (s.injPageWrite who off v) := by
  unfold State.injPageWrite
  split
  · exact sound_injUnlock h
  · exact sound_injTouch h.update
  · exact sound_injClose h
  · exact sound_injTouch h

theorem sound_churnPageWrite {s : State} {who off v} (h : Sound s) : Sound (s.churnPageWrite who off v) := by
  unfold State.churnPageWrite
  exact sound_ite (sound_poolWrite h) (sound_ite h.update (sound_ite (sound_orSame h (sound_chWriteField h))
    (sound_ite (sound_outState h (sound_execChCmdUnknown h)) (sound_ite h.update (sound_ite (sound_tcapWrite h) h)))))

theorem sound_wakeEnPut {s : State} {hi v} (h : Sound s) : Sound (s.wakeEnPut hi v) := h.update

theorem sound_evcPageWrite {s : State} {who off v} (h : Sound s) : Sound (s.evcPageWrite who off v) := by
  unfold State.evcPageWrite
  exact sound_ite h.update (sound_ite (sound_orSame h (sound_srcWrite h))
    (sound_ite (sound_evcDirect h) (sound_ite (sound_evcDirect h) (sound_ite (sound_wakeEnPut h)
    (sound_ite (sound_wakeEnPut h) (sound_ite (sound_latchClear h) (sound_ite (sound_latchClear h)
    (sound_ite (sound_evcAlias h) (sound_ite (sound_evcAlias h) (sound_ite (sound_wakeEnPut h)
    (sound_ite (sound_wakeEnPut h) (sound_ite (sound_evcAlias h) (sound_ite (sound_evcAlias h)
    (sound_ite (sound_wakeEnPut h) (sound_ite (sound_wakeEnPut h) h)))))))))))))))

theorem sound_linkPageWrite {s : State} {who l off v} (h : Sound s) : Sound (s.linkPageWrite who l off v) := by
  unfold State.linkPageWrite
  exact sound_ite (sound_lctrlPut h) (sound_ite (sound_lperiodPut h) (sound_ite (sound_ite (sound_modLink h) h)
    (sound_ite (sound_modLink h) (sound_ite (sound_modLink h) (sound_ite (sound_outState h (sound_execLcmdUnknown h))
    (sound_ite (sound_akeyPut h) (sound_ite (sound_modLink h) h)))))))

theorem sound_ethPageWrite {s : State} {p off v} (h : Sound s) : Sound (s.ethPageWrite p off v) := by
  unfold State.ethPageWrite
  split
  · exact sound_modEth h
  · exact sound_ptpInc h
  · exact sound_ptpStep h
  · exact sound_modEth h

theorem sound_redWrite {s : State} {n off v} (h : Sound s) : Sound (s.redWrite n off v) := by
  unfold State.redWrite
  split
  · split
    · exact sound_changeMode h
    · exact sound_rotate h
    · split
      next he1 =>
        split
        next he2 => exact sound_restart ((sound_drawBelow ((sound_drawBelow h).of_snd he1)).of_snd he2)
    · exact sound_ite (sound_modCove h) (sound_modCove h)
  · exact sound_modCove h
  · exact sound_modCove h
  · exact sound_modCove h
  · exact h

theorem sound_coreHeadlandWrite {s : State} {k off v} (h : Sound s) : Sound (s.coreHeadlandWrite k off v) := sound_modCore h

theorem sound_blockStore {s : State} {who page off v} (h : Sound s) : Sound (s.blockStore who page off v) := by
  unfold State.blockStore
  extract_lets
  split
  · exact sound_ifOwner h (fun _ ht => ht)
  · exact sound_ifOwner h (fun _ ht => ht)
  · exact sound_ifOwner h (fun _ ht => ht)
  · exact sound_ifOwner h (fun _ ht => ht)
  · exact sound_ifOwner h (fun _ ht => ht)
  · exact sound_ifOwner h (fun _ ht => sound_ite ht.update ht)
  · exact sound_ifOwner h (fun _ ht => sound_tenPageWrite ht)
  · exact sound_ite (sound_ifHeadland h (fun _ ht => sound_sysReset ht)) (sound_powerWrite h (fun _ ht => sound_powerPageWrite ht))
  · exact sound_ifHeadland h (fun _ ht => sound_aonPageWrite ht)
  · exact sound_ifOwner h (fun _ ht => sound_injPageWrite ht)
  · exact sound_ifHeadland h (fun _ ht => sound_hykEnPut ht)
  · exact sound_ite (sound_churnPageWrite h) (sound_ifOwner h (fun _ ht => sound_churnPageWrite ht))
  · exact sound_ifOwner h (fun _ ht => sound_evcPageWrite ht)
  · exact sound_ite (sound_linkPageWrite h) (sound_ifOwner h (fun _ ht => sound_linkPageWrite ht))
  · exact sound_ite (sound_ifHeadland h (fun _ ht => sound_modEth ht)) (sound_ifOwner h (fun _ ht => sound_ethPageWrite ht))
  · exact sound_ite (sound_ifHeadland h (fun _ ht => sound_modCan ht)) (sound_ifOwner h (fun _ ht => sound_modCan ht))
  · exact sound_ite (sound_ifHeadland h (fun _ ht => sound_modUart ht)) (sound_ifOwner h (fun _ ht => sound_modUart ht))
  · exact sound_ite (sound_ifHeadland h (fun _ ht => ht.update)) (sound_ifOwner h (fun _ ht => ht.update))
  · exact sound_ifHeadland h (fun _ ht => ht.update)
  · exact sound_ifHeadland h (fun _ ht => sound_modI2c ht)
  · exact sound_ifOwner h (fun _ ht => sound_ite (sound_modCove ht) ht)
  · exact sound_ifHeadland h (fun _ ht => sound_redWrite ht)
  · exact sound_ifLeaderPage h (fun _ ht => sound_ite (sound_ifHeadland ht (fun _ ht1 => sound_coreHeadlandWrite ht1))
      (sound_ite (sound_ifOwner ht (fun _ ht1 => sound_wheelStore ht1))
      (sound_ite (sound_ifOwner ht (fun _ ht1 => sound_bankWrite ht1)) (sound_ifOwner ht (fun _ ht1 => ht1)))))
  · exact sound_ite (sound_ifOwner h (fun _ ht => sound_ite (sound_done ht) ht)) h

theorem sound_pageWrite {s : State} {who page off v} (h : Sound s) : Sound (s.pageWrite who page off v) := by
  unfold State.pageWrite
  extract_lets _ s1 s2 s21
  have hs1 : Sound s1 := sound_ite h.update h
  have hs2 : Sound s2 := sound_ite (sound_injTouch hs1) hs1
  have hs21 : Sound s21 := by
    unfold s21
    split
    · exact sound_class0 hs2
    · split
      · exact sound_ite (sound_class0 hs2) hs2
      · exact hs2
  exact sound_ite (sound_headerStore hs21) (sound_ite (sound_ite (sound_blockStore hs21) hs21) (sound_detStore hs21))

theorem sound_execRegisterWrite {who page off v} {s : State} (h : Sound s) : NextSound (execRegisterWrite who page off v s) :=
  sound_pageWrite h

theorem sound_execCounterRcRead {who page off} {s : State} (h : Sound s) : NextSound (execCounterRcRead who page off s) := sound_pageRead h

/-! ### Accesses of a thread -/

theorem sound_diverge {s : State} {k} (h : Sound s) : Sound (s.diverge k) :=
  sound_releaseHeld (sound_endTrial (sound_undertowSend (sound_raiseN (sound_modCore h))))

theorem sound_takeValue {s t : State} {k sl v} (h : Sound s) (he : s.takeValue k sl = some (v, t)) : Sound t := by
  unfold State.takeValue at he
  split at he
  · obtain ⟨q, -, hq⟩ := Option.map_eq_some_iff.1 he
    cases hq
    exact sound_modCore h
  · contradiction

theorem sound_respond {s : State} {k sl second} {live : State → Except Nat (Word × Tag) × State} (h : Sound s)
    (hlive : ∀ t, Sound t → Sound (live t).2) : Sound (s.respond k sl second live).2 := by
  unfold State.respond
  split
  next he => exact sound_takeValue h he
  next =>
    split
    next he => exact sound_logValue ((hlive s h).of_snd he)
    next he => exact sound_logValue ((hlive s h).of_snd he)

theorem sound_emit {s : State} {k kind pa be data} {act : State → State} (h : Sound s) (hact : ∀ t, Sound t → Sound (act t)) :
    Sound (s.emit k kind pa be data act) := by
  unfold State.emit
  split
  · split
    · exact sound_ite (sound_modCore h) (hact _ (sound_logRelease (sound_diverge h)))
    · exact hact _ (sound_logRelease (sound_diverge h))
  · exact hact _ (sound_logRelease h)

theorem sound_asks {s : State} {k n data} (h : Sound s) : Sound (s.asks k n data) := sound_emit h (fun _ ht => ht)
theorem sound_passWords {s : State} {k pas} (h : Sound s) : Sound (s.passWords k pas) := sound_modCore h

theorem sound_outStore {s : State} {k kind pa be data} {act : State → State} (h : Sound s) (hact : ∀ t, Sound t → Sound (act t)) :
    Sound (s.outStore k kind pa be data act) := by
  unfold State.outStore
  exact sound_ite (sound_passWords (hact _ (sound_logStore h))) (sound_emit h hact)

theorem sound_tlbParity {s : State} {k j} (h : Sound s) : Sound (s.tlbParity k j) := by
  unfold State.tlbParity
  split
  · exact h
  · exact sound_ite (sound_modCore (sound_detect (sound_takeInj h))) (sound_detect (sound_takeInj h))

theorem sound_translate {s : State} {i q va} (h : Sound s) : Sound (s.translate i q va).2 := by
  unfold State.translate
  extract_lets s1
  have hs1 : Sound s1 := by
    unfold s1
    split
    · exact sound_tlbParity h
    · exact h
  split
  · exact h
  · split
    · exact hs1
    · extract_lets s2
      have hs2 : Sound s2 := sound_modCore hs1
      split
      · exact hs2
      · split <;> exact hs2

theorem sound_locate {s : State} {i q} (h : Sound s) : Sound (s.locate i q).2 := by
  unfold State.locate
  split
  · exact h
  · split
    · exact h
    · split
      next he2 => exact sound_ite_snd ((sound_translate h).of_snd he2) ((sound_translate h).of_snd he2)
      next he2 => exact (sound_translate h).of_snd he2

theorem sound_outsideLoad {s : State} {i pcie p size} (h : Sound s) : Sound (s.outsideLoad i pcie p size).2 := by
  unfold State.outsideLoad
  split
  · exact sound_modSlot h
  · exact h

theorem sound_targetLoad {s : State} {i p size} (h : Sound s) : Sound (s.targetLoad i p size).2 := by
  unfold State.targetLoad
  extract_lets
  split
  · split
    · split
      next he2 => exact (sound_pageRead h).of_snd he2
    · exact h
  · exact h
  · exact sound_outsideLoad h
  · exact sound_outsideLoad h
  · exact h
  · split
    · exact h
    · split
      next he1 => exact (sound_memLoad h).of_snd he1
      next he1 => exact (sound_memLoad h).of_snd he1

theorem sound_groupLoad {s : State} {i p size second} (h : Sound s) : Sound (s.groupLoad i p size second).2 := by
  unfold State.groupLoad
  exact sound_ite_snd (sound_targetLoad h) (sound_respond (sound_ite h (sound_asks h))
    (fun _ ht => sound_targetLoad (sound_ite ht (sound_flit ht))))

theorem sound_dataLoad {s : State} {i q} (h : Sound s) : Sound (s.dataLoad i q).2 := by
  unfold State.dataLoad
  split
  next he => exact (sound_locate h).of_snd he
  next he =>
    split
    · exact (sound_locate h).of_snd he
    · split
      next he2 => exact (sound_groupLoad ((sound_locate h).of_snd he)).of_snd he2
      next he2 => exact (sound_groupLoad ((sound_locate h).of_snd he)).of_snd he2

theorem sound_capFrom {s : State} {i p} (h : Sound s) : Sound (s.capFrom i p).2 := by
  unfold State.capFrom
  split
  · exact h
  · split
    next he =>
      split
      next he1 => exact (sound_groupLoad ((sound_groupLoad h).of_snd he)).of_snd he1

theorem sound_capLoad {s : State} {i q} (h : Sound s) : Sound (s.capLoad i q).2 := by
  unfold State.capLoad
  split
  next he => exact (sound_locate h).of_snd he
  next he =>
    split
    · exact (sound_locate h).of_snd he
    · split
      next he2 => exact (sound_capFrom ((sound_locate h).of_snd he)).of_snd he2
      next he2 => exact (sound_capFrom ((sound_locate h).of_snd he)).of_snd he2

theorem sound_foreignWrite {s : State} {k pa} (h : Sound s) : Sound (s.foreignWrite k pa).2 := by
  unfold State.foreignWrite
  split
  · extract_lets
    split
    next he1 => exact (sound_takeInj h).of_snd he1
    next he1 => exact (sound_takeInj h).of_snd he1
  · exact h

theorem sound_postedKind {s : State} {i p} (h : Sound s) : Sound (s.postedKind i p).2 := by
  unfold State.postedKind
  extract_lets
  split
  · split
    · exact h
    · split
      next he2 => exact (sound_takeInj h).of_snd he2
      next he2 => exact (sound_takeInj h).of_snd he2
  · split
    next he1 => exact (sound_foreignWrite h).of_snd he1
  · exact h
  · exact h
  · exact h

theorem sound_post {s : State} {i p kind inj data} (h : Sound s) : Sound (s.post i p kind inj data) := sound_modCore h

theorem sound_targetStore {s : State} {i p w} (h : Sound s) : Sound (s.targetStore i p w) := by
  unfold State.targetStore
  split
  · exact sound_pageWrite h
  · exact sound_tlpWrite h
  · exact sound_memStore _ _ _ _ h

theorem sound_targetCap {s : State} {i p c} (h : Sound s) : Sound (s.targetCap i p c) :=
  sound_ite (sound_memCap _ _ _ _ h) (sound_targetStore (sound_targetStore h))

theorem sound_postedPut {s : State} {i q p data tagged} {act : State → State} (h : Sound s) (hact : ∀ t, Sound t → Sound (act t))
    :
    Sound (s.postedPut i q p data tagged act).2 := by
  unfold State.postedPut
  extract_lets
  split
  · exact h
  · split
    · exact h
    · split
      next he2 => exact sound_outStore ((sound_postedKind h).of_snd he2) (fun _ ht => sound_post (sound_ite (hact _ ht) ht))

theorem sound_wordStore {s : State} {i q w} (h : Sound s) : Sound (s.wordStore i q w).2 := by
  unfold State.wordStore
  split
  next he => exact (sound_locate h).of_snd he
  next he => exact sound_postedPut ((sound_locate h).of_snd he) (fun _ ht => sound_targetStore ht)

theorem sound_capStore {s : State} {i q c} (h : Sound s) : Sound (s.capStore i q c).2 := by
  unfold State.capStore
  split
  next he => exact (sound_locate h).of_snd he
  next he => exact sound_postedPut ((sound_locate h).of_snd he) (fun _ ht => sound_targetCap ht)

theorem sound_mergeStore {s : State} {n p size v} (h : Sound s) : Sound (s.mergeStore n p size v).2 := by
  unfold State.mergeStore
  split
  next he =>
    extract_lets
    split
    · exact (sound_peek _ _ _ h).of_snd he
    · exact sound_memStore _ _ _ _ ((sound_peek _ _ _ h).of_snd he)
    · exact sound_memStore _ _ _ _ ((sound_peek _ _ _ h).of_snd he)

theorem sound_waitedBar {s : State} {i p} (h : Sound s) : Sound (s.waitedBar i p).2 := by
  unfold State.waitedBar
  extract_lets
  split
  · split
    next he1 =>
      exact sound_ite_snd (sound_ite (sound_detect ((sound_foreignWrite h).of_snd he1)) ((sound_foreignWrite h).of_snd he1))
        ((sound_foreignWrite h).of_snd he1)
  · exact h

theorem sound_targetMerge {s : State} {i p size v} (h : Sound s) : Sound (s.targetMerge i p size v).2 := by
  unfold State.targetMerge
  split
  · exact sound_tlpWrite h
  · split
    next he1 => exact (sound_waitedBar h).of_snd he1
    next he1 =>
      split
      next he2 => exact (sound_mergeStore ((sound_waitedBar h).of_snd he1)).of_snd he2
      next he2 => exact (sound_mergeStore ((sound_waitedBar h).of_snd he1)).of_snd he2

theorem sound_subStore {s : State} {i q v} (h : Sound s) : Sound (s.subStore i q v).2 := by
  unfold State.subStore
  split
  next he => exact (sound_locate h).of_snd he
  next he =>
    split
    · exact (sound_locate h).of_snd he
    · split
      · exact (sound_locate h).of_snd he
      · split
        · split
          next he4 => exact (sound_targetMerge ((sound_locate h).of_snd he)).of_snd he4
          · exact sound_outStore ((sound_locate h).of_snd he) (fun _ ht => sound_targetMerge ht)
        · extract_lets s2
          have hs2 : Sound s2 := sound_emit ((sound_locate h).of_snd he) (fun _ ht => ht)
          split
          next he4 => exact (sound_respond hs2 (fun _ ht => sound_targetMerge ht)).of_snd he4
          next he4 => exact (sound_respond hs2 (fun _ ht => sound_targetMerge ht)).of_snd he4

theorem sound_targetAtomic {s : State} {i p f} (h : Sound s) : Sound (s.targetAtomic i p f).2 := by
  unfold State.targetAtomic
  extract_lets
  split
  next he => exact (sound_waitedBar h).of_snd he
  next he =>
    split
    next he1 => exact (sound_memLoad ((sound_waitedBar h).of_snd he)).of_snd he1
    next he1 =>
      split
      · exact sound_memStore _ _ _ _ ((sound_memLoad ((sound_waitedBar h).of_snd he)).of_snd he1)
      · exact (sound_memLoad ((sound_waitedBar h).of_snd he)).of_snd he1

theorem sound_atomic {s : State} {i q data f} (h : Sound s) : Sound (s.atomic i q data f).2 := by
  unfold State.atomic
  split
  next he => exact (sound_locate h).of_snd he
  next he =>
    split
    · exact (sound_locate h).of_snd he
    · split
      · exact (sound_locate h).of_snd he
      · split
        · split
          next he4 => exact (sound_targetAtomic ((sound_locate h).of_snd he)).of_snd he4
          next he4 =>
            exact sound_ite_snd (sound_outStore ((sound_locate h).of_snd he) (fun _ ht => sound_targetAtomic ht))
              ((sound_targetAtomic ((sound_locate h).of_snd he)).of_snd he4)
        · extract_lets s2
          have hs2 : Sound s2 := sound_emit ((sound_locate h).of_snd he) (fun _ ht => ht)
          split
          next he4 => exact (sound_respond hs2 (fun _ ht => sound_targetAtomic ht)).of_snd he4
          next he4 => exact (sound_respond hs2 (fun _ ht => sound_targetAtomic ht)).of_snd he4

theorem sound_postedError {s : State} {x} (h : Sound s) : Sound (s.postedError x) := by
  unfold State.postedError
  split
  · exact sound_ite (sound_raiseN (sound_detect h)) (sound_detect h)
  · exact h

theorem sound_execPostedStoreError {core} {s : State} (h : Sound s) : NextSound (execPostedStoreError core s) := by
  unfold execPostedStoreError
  split
  · exact h
  · exact holds_ite h (sound_postedError (sound_modCore h))

theorem sound_pcieWrites {s : State} {pa l} (h : Sound s) : Sound (s.pcieWrites pa l) := by
  induction l generalizing s pa with
  | nil => exact h
  | cons w r ih => exact ih (sound_tlpWrite h)

theorem sound_execPostedStoreDrain {core} {s : State} (h : Sound s) : NextSound (execPostedStoreDrain core s) := by
  unfold execPostedStoreDrain
  split
  · exact h
  · exact sound_ite (sound_pcieWrites (sound_modCore h)) h

/-! ### Handlers, and how an operation settles -/

theorem sound_readCaps {s : State} {i c l} (h : Sound s) : Sound (s.readCaps i c l).2 := by
  induction l generalizing s with
  | nil => exact h
  | cons o r ih =>
    unfold State.readCaps
    split
    next he => exact (sound_capLoad h).of_snd he
    next he =>
      have hrest := ih ((sound_capLoad h).of_snd he)
      split
      next hr => exact hrest.of_snd hr
      next hr => exact hrest.of_snd hr

theorem sound_ownCaps {s : State} {i l} (h : Sound s) : Sound (s.ownCaps i l).2 := by
  delta State.ownCaps
  refine list_brecOn_holds (fun g : State → Except Nat (List Cap) × State => ∀ t, Sound t → Sound (g t).2)
    (fun _ ht => ht) (fun o r f ih t ht => ?_) l s h
  refine sound_ite_snd ht ?_
  split
  next he => exact (sound_capFrom ht).of_snd he
  next he =>
    have hrest := ih _ ((sound_capFrom ht).of_snd he)
    split
    next hr => exact hrest.of_snd hr
    next hr => exact hrest.of_snd hr

theorem sound_ownWords {s : State} {i l} (h : Sound s) : Sound (s.ownWords i l).2 := by
  delta State.ownWords
  refine list_brecOn_holds (fun g : State → Except Nat (List Word) × State => ∀ t, Sound t → Sound (g t).2)
    (fun _ ht => ht) (fun o r f ih t ht => ?_) l s h
  refine sound_ite_snd ht ?_
  split
  next he => exact (sound_groupLoad ht).of_snd he
  next he =>
    have hrest := ih _ ((sound_groupLoad ht).of_snd he)
    split
    next hr => exact hrest.of_snd hr
    next hr => exact hrest.of_snd hr

theorem sound_deviceStore {s : State} {i p kind be data} {act : State → State} (h : Sound s)
    (hact : ∀ t, Sound t → Sound (act t)) :
    Sound (s.deviceStore i p kind be data act) := by
  unfold State.deviceStore
  split
  next he =>
    exact sound_ite (sound_outStore ((sound_postedKind h).of_snd he) hact)
      (sound_postedError (sound_outStore ((sound_postedKind h).of_snd he) (fun _ ht => ht)))

theorem sound_deviceWords {s : State} {i l} (h : Sound s) : Sound (s.deviceWords i l) := by
  induction l generalizing s with
  | nil => exact h
  | cons e r ih => exact ih (sound_deviceStore h fun _ ht => sound_targetStore ht)

theorem sound_deviceCaps {s : State} {i l} (h : Sound s) : Sound (s.deviceCaps i l) := by
  induction l generalizing s with
  | nil => exact h
  | cons e r ih => exact ih (sound_deviceStore h fun _ ht => sound_targetCap ht)

theorem sound_orFree {s : State} {v} (h : Sound s) : Sound (s.orFree v).2 := by
  unfold State.orFree
  split
  · exact h
  · exact sound_drawWord h

theorem sound_accessWord {s : State} {a} (h : Sound s) : Sound (s.accessWord a).2 := by
  unfold State.accessWord
  split
  · split
    next he => exact (sound_drawWord h).of_snd he
  · split
    next he =>
      split
      next he1 => exact (sound_orFree ((sound_orFree h).of_snd he)).of_snd he1

theorem sound_recordOf {s : State} {x kind trapno code2 f} (h : Sound s) : Sound (s.recordOf x kind trapno code2 f).2 := by
  unfold State.recordOf
  split
  next he =>
    split
    next he1 =>
      split
      next he2 => exact (sound_accessWord ((sound_orFree ((sound_orFree h).of_snd he)).of_snd he1)).of_snd he2

theorem sound_freshProg {s : State} {th} (h : Sound s) : Sound (s.freshProg th) := by
  unfold State.freshProg
  split
  · refine sound_modSlot ?_
    split
    · exact sound_setTop h
    · exact h
  · exact h

theorem sound_stackCtx {s : State} {th b from_ lv x} (h : Sound s) : Sound (s.stackCtx th b from_ lv x) :=
  sound_modCore (sound_placeCtx (sound_freshProg h))

theorem sound_loseCore {s : State} {th r} (h : Sound s) : Sound (s.loseCore th r) := sound_loseGroup (sound_storeWords h)

theorem sound_recordTaken {s : State} {i l} (h : Sound s) : Sound (s.recordTaken i l).2 := by
  induction l generalizing s with
  | nil => exact h
  | cons e r ih =>
    exact sound_ite_snd (ih (sound_postedKind h)) (sound_postedError (sound_postedKind h))

theorem sound_enterLevel2 {s : State} {th x f trapno code2} (h : Sound s) : OkSound (s.enterLevel2 th x f trapno code2) := by
  unfold State.enterLevel2
  extract_lets
  split
  next he =>
    split
    · exact sound_loseCore ((sound_recordOf h).of_snd he)
    · split
      next he2 => exact holds_ite trivial (sound_loseCore ((sound_ownCaps ((sound_recordOf h).of_snd he)).of_snd he2))
      next he2 =>
        extract_lets
        split
        · trivial
        next he4 => exact sound_loseCore ((sound_recordTaken ((sound_ownCaps ((sound_recordOf h).of_snd he)).of_snd he2)).of_snd he4)
        next he3 _ =>
          exact sound_stackCtx (sound_deviceWords ((sound_takeBank ((sound_ownCaps ((sound_recordOf h).of_snd he)).of_snd he2)).of_snd he3))

theorem sound_escalate {s : State} {th x f trapno code2} (h : Sound s) : OkSound (s.escalate th x f trapno code2) :=
  holds_ite (sound_modSlot h) (sound_enterLevel2 h)

theorem sound_recordPlaces {s : State} {i c l} (h : Sound s) : Sound (s.recordPlaces i c l).2 := by
  induction l generalizing s with
  | nil => exact h
  | cons n r ih =>
    unfold State.recordPlaces
    extract_lets
    split
    next he => exact (sound_locate h).of_snd he
    next he =>
      have hs1 := (sound_locate h).of_snd he
      have hrest := ih hs1
      refine sound_ite_snd hs1 (sound_ite_snd hs1 ?_)
      split
      next hr => exact hrest.of_snd hr
      next hr => exact hrest.of_snd hr

theorem sound_enterLevel1 {s : State} {th x f trapno target} (h : Sound s) : OkSound (s.enterLevel1 th x f trapno target) := by
  unfold State.enterLevel1
  extract_lets
  split
  next he =>
    split
    next he1 => exact holds_ite trivial (sound_escalate ((sound_readCaps ((sound_recordOf h).of_snd he)).of_snd he1))
    next he1 =>
      split
      next he2 =>
        exact holds_ite trivial (sound_escalate ((sound_recordPlaces ((sound_readCaps ((sound_recordOf h).of_snd he)).of_snd he1)).of_snd
          he2))
      next he2 =>
        split
        · trivial
        next he3 =>
          exact sound_stackCtx (sound_deviceWords ((sound_takeBank ((sound_recordPlaces
            ((sound_readCaps ((sound_recordOf h).of_snd he)).of_snd he1)).of_snd he2)).of_snd he3))

theorem sound_takeFault {s : State} {th f keepProg} (h : Sound s) : OkSound (s.takeFault th f keepProg) := by
  unfold State.takeFault
  split
  · exact h
  · split
    · exact sound_modSlot (sound_setTop h)
    · split
      · exact sound_enterLevel1 h
      · exact sound_escalate h
      · split
        next he2 => exact sound_loseCore ((sound_recordOf h).of_snd he2)

theorem sound_execEscalationEntry {core} {s : State} (h : Sound s) : NextSound (execEscalationEntry core s) := by
  unfold execEscalationEntry
  extract_lets _ pick
  clear_value pick
  split
  · exact h
  · split
    · exact h
    · extract_lets
      split
      · show Sound _
        split
        next he3 => exact sound_unparkSlot ((sound_enterLevel2 h).of_ok he3)
        · exact h
      · exact h

theorem sound_stepOver {s : State} {th} (h : Sound s) : Sound (s.stepOver th) := by
  unfold State.stepOver
  extract_lets s1
  have hs1 : Sound s1 := by
    unfold s1
    split
    · exact sound_setTop h
    · exact h
  exact sound_modSlot hs1

theorem sound_jumped {s : State} {th} (h : Sound s) : Sound (s.jumped th) := by
  unfold State.jumped
  extract_lets s1
  have hs1 : Sound s1 := by
    unfold s1
    split
    · exact sound_setTop h
    · exact h
  exact sound_modSlot hs1

theorem sound_keepPlace {s : State} {th f} (h : Sound s) : Sound (s.keepPlace th f) := by
  unfold State.keepPlace
  split
  · split
    · exact h
    · extract_lets s1
      have hs1 : Sound s1 := by
        unfold s1
        split
        · exact sound_modCore h
        · exact h
      exact sound_modSlot hs1
  · exact h

theorem sound_waitFor {s : State} {th f ops} (h : Sound s) : Sound (s.waitFor th f ops) := sound_ite h (sound_modSlot (sound_keepPlace h))

theorem sound_settled {s : State} {th parcel op block ops} {out : OpOut} (h : Sound s) (hout : OutSound out) :
    Sound (s.settled th parcel op block ops out) := by
  unfold State.settled
  extract_lets orWait
  split
  · exact sound_stepOver hout
  · exact sound_jumped hout
  · exact hout
  · split
    · dsimp only [orWait]
      split
      next he1 => exact (sound_enterLevel1 hout).of_ok he1
      · exact sound_waitFor h
    · exact h
  · split
    · exact sound_waitFor h
    · dsimp only [orWait]
      split
      next he1 => exact (sound_takeFault hout).of_ok he1
      · exact sound_waitFor h
  · split
    · dsimp only [orWait]
      split
      next he1 => exact (sound_escalate hout).of_ok he1
      · exact sound_waitFor h
    · exact h

theorem sound_keepBefore {s t : State} {th} (ht : Sound t) : Sound (s.keepBefore t th) := sound_ite (sound_modSlot ht) ht

theorem sound_settleOp {s : State} {th parcel op block ops} {out : OpOut} (h : Sound s) (hout : OutSound out) :
    Sound (s.settleOp th parcel op block ops out) := by
  unfold State.settleOp
  exact sound_keepBefore (sound_settled h hout)

theorem sound_checked {o th} {s : State} (ho : OpKeeps o) (h : Sound s) : OutSound (o.checked th s) := by
  unfold Operation.checked
  split
  · exact h
  · exact holds_ite h (holds_ite h (ho _ _ h))

theorem sound_issue {s : State} {th i o} (ho : OpKeeps o) (h : Sound s) : Sound (s.issue th i o) := by
  unfold State.issue
  split
  · exact h
  · exact sound_settleOp (sound_modCore h) (sound_checked ho (sound_modCore h))

theorem sound_regOp {f th} {s : State} (h : Sound s) : OutSound (regOp f th s) := by
  unfold regOp
  split
  · exact sound_setTop h
  · exact h

theorem sound_regOrFault {f th} {s : State} (h : Sound s) : OutSound (regOrFault f th s) := by
  unfold regOrFault
  split
  · split
    · exact sound_setTop h
    · exact h
  · exact h

/-! ### Memory operations -/

theorem sound_awaits {s : State} {th} (h : Sound s) : Sound (s.awaits th) := sound_modSlot h

theorem sound_loadOp {c disp size signed d short th} {s : State} (h : Sound s) : OutSound (loadOp c disp size signed d short th s) := by
  unfold loadOp
  split
  · exact h
  · split
    next he1 => exact (sound_dataLoad h).of_snd he1
    next he1 => exact sound_awaits (sound_setTop ((sound_dataLoad h).of_snd he1))

theorem sound_subStoreOp {c disp size d th} {s : State} (h : Sound s) : OutSound (subStoreOp c disp size d th s) := by
  unfold subStoreOp
  split
  · exact h
  · split
    next he1 => exact (sound_subStore h).of_snd he1
    next he1 => exact sound_awaits ((sound_subStore h).of_snd he1)

theorem sound_storeOp {c disp d short th} {s : State} (h : Sound s) : OutSound (storeOp c disp d short th s) := by
  unfold storeOp
  split
  · exact h
  · split
    next he1 => exact (sound_wordStore h).of_snd he1
    next he1 => exact (sound_wordStore h).of_snd he1

theorem sound_atomicOp {c d data f th} {s : State} (h : Sound s) : OutSound (atomicOp c d data f th s) := by
  unfold atomicOp
  split
  · exact h
  · split
    next he1 => exact (sound_atomic h).of_snd he1
    next he1 => exact sound_awaits (sound_setTop ((sound_atomic h).of_snd he1))

theorem sound_capLoadOp {c cd disp th} {s : State} (h : Sound s) : OutSound (capLoadOp c cd disp th s) := by
  unfold capLoadOp
  split
  · exact h
  · split
    next he1 => exact (sound_capLoad h).of_snd he1
    next he1 => exact sound_awaits (sound_setTop ((sound_capLoad h).of_snd he1))

theorem sound_capStoreOp {c cd disp th} {s : State} (h : Sound s) : OutSound (capStoreOp c cd disp th s) := by
  unfold capStoreOp
  split
  · exact h
  · split
    next he1 => exact (sound_capStore h).of_snd he1
    next he1 => exact (sound_capStore h).of_snd he1

theorem keeps_opPld {d a b} : OpKeeps (opPld d a b) := by
  unfold opPld
  refine keeps_plainOp fun _ _ ht => ?_
  split
  · exact ht
  · split
    · exact ht
    · split
      next he2 =>
        split
        · show Sound _
          refine Sound.of_snd ?_ he2
          refine sound_respond (sound_asks ht) (fun _ ht1 => ?_)
          split
          next he3 => exact (sound_checkParcel _ _ _ ht1).of_snd he3
          next he3 => exact (sound_checkParcel _ _ _ ht1).of_snd he3
        · show Sound _
          refine sound_awaits ?_
          refine sound_setTop ?_
          refine Sound.of_snd ?_ he2
          refine sound_respond (sound_asks ht) (fun _ ht1 => ?_)
          split
          next he3 => exact (sound_checkParcel _ _ _ ht1).of_snd he3
          next he3 => exact (sound_checkParcel _ _ _ ht1).of_snd he3

/-! ### Block instructions -/

theorem sound_unitsFrom {total unit n k} {s : State} (hunit : ∀ k t, Sound t → Sound (unit k t).2) (h : Sound s) :
    Sound (unitsFrom total unit n k s).2.2 := by
  induction n generalizing s k with
  | zero => exact h
  | succ n ih =>
    unfold unitsFrom
    split
    · exact h
    · split
      next he => exact (hunit k s h).of_snd he
      next he => exact ih ((hunit k s h).of_snd he)

theorem sound_setProg {s : State} {th k} (h : Sound s) : Sound (s.setProg th k) := by
  unfold State.setProg
  split
  · exact sound_modSlot (sound_setTop h)
  · exact h

theorem sound_runBlock {th x total units} {unit : ℕ → State → Except FaultInfo Unit × State} {s : State}
    (hunit : ∀ k t, Sound t → Sound (unit k t).2) (h : Sound s) :
    OutSound (runBlock th x total units unit s) := by
  unfold runBlock
  extract_lets
  split
  next he =>
    exact holds_ite (sound_setProg ((sound_unitsFrom hunit h).of_snd_snd he)) (sound_setProg ((sound_unitsFrom hunit h).of_snd_snd he))
  next he =>
    exact holds_ite (sound_setProg ((sound_unitsFrom hunit h).of_snd_snd he)) (sound_setProg ((sound_unitsFrom hunit h).of_snd_snd he))

theorem sound_blockRun {units total before} {unit : ThreadId → Ctx → ℕ → State → Except FaultInfo Unit × State} {th} {s : State}
    (hunit : ∀ th x k t, Sound t → Sound (unit th x k t).2) (h : Sound s) :
    OutSound (blockRun units total before unit th s) := by
  unfold blockRun
  extract_lets s1
  have hs1 : Sound s1 := sound_freshProg h
  split
  · exact hs1
  · split
    · exact hs1
    · split
      · exact hs1
      · exact sound_runBlock (fun _ _ ht => hunit _ _ _ _ ht) hs1

theorem sound_waitedPut {s : State} {i p} {act : State → State} (h : Sound s) (hact : ∀ t, Sound t → Sound (act t)) :
    Sound (s.waitedPut i p act).2 := by
  unfold State.waitedPut
  split
  · exact hact _ h
  · exact hact _ h
  · split
    next he => exact (sound_waitedBar h).of_snd he
    next he => exact hact _ ((sound_waitedBar h).of_snd he)

theorem sound_blockPut {s : State} {i q p kind data} {act : State → State} (h : Sound s) (hact : ∀ t, Sound t → Sound (act t)) :
    Sound (s.blockPut i q p kind data act).2 := by
  unfold State.blockPut
  split
  · exact h
  · split
    · exact sound_outStore h hact
    · split
      next he2 => exact (sound_respond (sound_emit h (fun _ ht => ht)) (fun _ ht => sound_waitedPut ht hact)).of_snd he2
      next he2 => exact (sound_respond (sound_emit h (fun _ ht => ht)) (fun _ ht => sound_waitedPut ht hact)).of_snd he2

theorem sound_blockWord {s : State} {i q w} (h : Sound s) : Sound (s.blockWord i q w).2 := by
  unfold State.blockWord
  split
  next he => exact (sound_locate h).of_snd he
  next he =>
    exact sound_ite_snd ((sound_locate h).of_snd he) (sound_blockPut ((sound_locate h).of_snd he) (fun _ ht => sound_targetStore ht))

theorem sound_movbUnit {ca cd th x k} {s : State} (h : Sound s) : Sound (movbUnit ca cd th x k s).2 := by
  unfold movbUnit
  extract_lets
  split
  next he => exact (sound_dataLoad h).of_snd he
  next he =>
    split
    next he1 => exact sound_ite h ((sound_blockWord ((sound_dataLoad h).of_snd he)).of_snd he1)
    next he1 => exact (sound_blockWord ((sound_dataLoad h).of_snd he)).of_snd he1

theorem sound_crcPlace {s : State} {i q lo hi wa} (h : Sound s) : Sound (s.crcPlace i q lo hi wa).2 := by
  unfold State.crcPlace
  split
  · exact h
  · exact sound_ite_snd h (sound_translate h)

theorem sound_crcbUnit {d ca b th x k} {s : State} (h : Sound s) : Sound (crcbUnit d ca b th x k s).2 := by
  unfold crcbUnit
  extract_lets
  split
  next he => exact (sound_crcPlace h).of_snd he
  next he =>
    split
    · exact (sound_crcPlace h).of_snd he
    · split
      next he2 => exact (sound_groupLoad ((sound_crcPlace h).of_snd he)).of_snd he2
      next he2 =>
        split
        · exact sound_setTop ((sound_groupLoad ((sound_crcPlace h).of_snd he)).of_snd he2)
        · exact (sound_groupLoad ((sound_crcPlace h).of_snd he)).of_snd he2

theorem sound_tagzUnit {cd th x k} {s : State} (h : Sound s) : Sound (tagzUnit cd th x k s).2 := by
  unfold tagzUnit
  extract_lets
  split
  next he => exact (sound_locate h).of_snd he
  next he =>
    exact sound_ite_snd ((sound_locate h).of_snd he) (sound_ite_snd ((sound_locate h).of_snd he)
      (sound_blockPut ((sound_locate h).of_snd he) (fun _ ht => sound_memUnwrite _ _ _ ht)))

theorem sound_storeParcel {s : State} {th adr p} (h : Sound s) : Sound (s.storeParcel th adr p) := sound_modCove (sound_putParcel _ _ _ h)

theorem sound_pstoreUnit {cd ca th x k} {s : State} (h : Sound s) : Sound (pstoreUnit cd ca th x k s).2 := by
  unfold pstoreUnit
  split
  next he => exact (sound_dataLoad h).of_snd he
  next he => exact sound_emit ((sound_dataLoad h).of_snd he) (fun _ ht => sound_storeParcel ht)

/-! ### Phase operations -/

theorem sound_answered {ask : State → Except ℕ Word × State} {put th} {s : State} (hask : ∀ t, Sound t → Sound (ask t).2)
    (h : Sound s) :
    OutSound (answered ask put th s) := by
  unfold answered
  split
  next he =>
    split
    · show Sound _
      refine sound_modSlot ?_
      refine sound_setTop ?_
      refine Sound.of_snd ?_ he
      refine sound_respond h (fun _ ht => ?_)
      split
      next he2 => exact (hask _ (sound_flit ht)).of_snd he2
      next he2 => exact (hask _ (sound_flit ht)).of_snd he2
    · show Sound _
      refine Sound.of_snd ?_ he
      refine sound_respond h (fun _ ht => ?_)
      split
      next he1 => exact (hask _ (sound_flit ht)).of_snd he1
      next he1 => exact (hask _ (sound_flit ht)).of_snd he1
    · exact h

theorem sound_requested {n data} {ask : State → Except ℕ Word × State} {put th} {s : State}
    (hask : ∀ t, Sound t → Sound (ask t).2) (h : Sound s) :
    OutSound (requested n data ask put th s) := by
  unfold requested
  exact sound_answered hask (sound_asks h)

theorem sound_pcvt {s : State} {a b} (h : Sound s) : Sound (s.pcvt a b).2 := by
  unfold State.pcvt
  extract_lets
  split
  · split
    · exact h
    · split
      · exact h
      · split
        · split
          · split
            · exact sound_drawWord h
            · split
              · exact h

theorem keeps_opPcvt {d a b} : OpKeeps (opPcvt d a b) := by
  unfold opPcvt
  refine keeps_groupOp fun _ _ ht => ?_
  split
  · exact ht
  · split
    · exact ht
    · refine sound_requested (fun _ ht1 => ?_) ht
      split
      next he2 => exact (sound_pcvt ht1).of_snd he2

theorem keeps_opPnow {d b} : OpKeeps (opPnow d b) := by
  unfold opPnow
  refine keeps_plainOp fun _ _ ht => ?_
  split
  · exact ht
  · extract_lets
    split
    · exact ht
    · exact sound_requested (fun _ ht1 => ht1) ht

/-! ### Capability operations -/

theorem sound_derive {cd f th} {s : State} (h : Sound s) : OutSound (derive cd f th s) := sound_regOrFault h

theorem sound_capAddOp {cd ca v th} {s : State} (h : Sound s) : OutSound (capAddOp cd ca v th s) := by
  unfold capAddOp
  split
  · exact h
  · split
    next he1 =>
      split
      · exact sound_setTop ((sound_ite_snd (sound_drawWord h) h).of_snd he1)
      · exact h

theorem keeps_opCmint {cd ca b rights} : OpKeeps (opCmint cd ca b rights) := by
  unfold opCmint
  refine keeps_plainOp fun _ _ ht => ?_
  split
  · exact ht
  · extract_lets
    split
    · exact ht
    · exact sound_requested (fun _ ht1 => ht1) ht

theorem sound_objRead {s : State} {hd f} (h : Sound s) : Sound (s.objRead hd f).2 := by
  unfold State.objRead
  extract_lets
  split
  next he =>
    split
    · exact h
    · split
      · refine Sound.of_snd ?_ he
        split
        · exact sound_chReadField h
        · exact sound_entryRead h
        · exact h
      · exact h

theorem sound_objWrite {s : State} {ten hd f v} (h : Sound s) : Sound (s.objWrite ten hd f v).2 := by
  unfold State.objWrite
  extract_lets n r
  have hr : OkSound r := by
    unfold r
    split
    · exact sound_chWriteField h
    · exact sound_entryWrite h
    · split
      · exact sound_srcWrite h
      · trivial
  clear_value r
  refine sound_ite_snd h ?_
  split
  next => exact hr
  next => exact h

theorem sound_spaceRead {s : State} {space n f} (h : Sound s) : Sound (s.spaceRead space n f).2 := by
  unfold State.spaceRead
  split
  next he =>
    split
    · refine Sound.of_snd ?_ he
      split
      · exact sound_tideRead h
      · exact sound_outRead h
      · exact sound_modRead h
      · exact sound_waveRead h
    · exact h

theorem sound_spaceWrite {s : State} {ten space n f v} (h : Sound s) : Sound (s.spaceWrite ten space n f v).2 := by
  unfold State.spaceWrite
  extract_lets r
  have hr : OkSound r := by
    unfold r
    split
    · exact sound_tideWrite h
    · exact sound_outWrite h
    · exact sound_modWrite h
    · exact sound_waveWrite h
  clear_value r
  split
  next => exact hr
  next => exact h

theorem sound_told {kind pa data} {act : State → Except ℕ Word × State} {th} {s : State} (hact : ∀ t, Sound t → Sound (act t).2)
    (h : Sound s) :
    OutSound (told kind pa data act th s) := by
  unfold told
  exact sound_answered hact (sound_emit h (fun _ ht => ht))

theorem keeps_opHld {d ca b} : OpKeeps (opHld d ca b) := by
  unfold opHld
  refine keeps_plainOp fun _ _ ht => ?_
  split
  · exact ht
  · split
    · exact ht
    · exact sound_requested (fun _ ht1 => sound_objRead ht1) ht

theorem keeps_opHst {ca b d} : OpKeeps (opHst ca b d) := by
  unfold opHst
  refine keeps_plainOp fun _ _ ht => ?_
  split
  · exact ht
  · extract_lets
    split
    · exact ht
    · split
      · exact ht
      · split
        next he4 => exact sound_modSlot ((sound_told (fun _ ht1 => sound_objWrite ht1) ht).of_done he4)
        · exact sound_told (fun _ ht1 => sound_objWrite ht1) ht

theorem keeps_opSld {d ca b} : OpKeeps (opSld d ca b) := by
  unfold opSld
  refine keeps_plainOp fun _ _ ht => ?_
  split
  · exact ht
  · extract_lets
    split
    · exact ht
    · exact sound_requested (fun _ ht1 => sound_spaceRead ht1) ht

theorem keeps_opSst {ca b d} : OpKeeps (opSst ca b d) := by
  unfold opSst
  refine keeps_plainOp fun _ _ ht => ?_
  split
  · exact ht
  · extract_lets
    split
    · exact ht
    · exact sound_told (fun _ ht1 => sound_spaceWrite ht1) ht

theorem keeps_opCoalWrite {src v} : OpKeeps (opCoalWrite src v) := by
  unfold opCoalWrite
  refine keeps_plainOp fun _ _ ht => ?_
  split
  · exact ht
  · split
    · exact ht
    · refine sound_told (fun _ ht1 => ?_) ht
      split
      next he2 => exact (sound_srcWrite ht1).of_ok he2
      · exact ht1

theorem keeps_opTstat {d ca} : OpKeeps (opTstat d ca) := by
  unfold opTstat
  refine keeps_plainOp fun _ _ ht => ?_
  split
  · exact ht
  · extract_lets
    split
    · exact ht
    · exact sound_requested (fun _ ht1 => ht1) ht

theorem sound_stillHeld {s : State} {th} (h : Sound s) : Sound (s.stillHeld th) := sound_ite (sound_modSlot h) h

theorem sound_tenantOp {cmd code ca th} {s : State} (h : Sound s) : OutSound (tenantOp cmd code ca th s) := by
  unfold tenantOp
  split
  · exact h
  · extract_lets
    split
    · exact h
    · split
      next he3 => exact (sound_respond (sound_asks h) (fun _ ht => sound_flit ht)).of_snd he3
      next he3 =>
        exact sound_ite (sound_stillHeld (sound_emit ((sound_respond (sound_asks h) (fun _ ht => sound_flit ht)).of_snd he3)
          (fun _ ht => sound_tenHandle ht))) (sound_emit ((sound_respond (sound_asks h) (fun _ ht => sound_flit ht)).of_snd he3)
          (fun _ ht => sound_tenHandle ht))

/-! ### Control transfers -/

theorem keeps_opB {cond off} : OpKeeps (opB cond off) := by
  unfold opB
  refine keeps_plainOp fun _ _ ht => ?_
  split
  · exact ht
  · split
    · split
      · exact sound_setTop ht
      · exact ht
    · exact ht

theorem keeps_opBl {cond off} : OpKeeps (opBl cond off) := by
  unfold opBl
  refine keeps_plainOp fun _ _ ht => ?_
  split
  · exact ht
  · split
    · split
      · exact sound_setTop ht
      · exact ht
    · exact ht

theorem keeps_opJr {ca} : OpKeeps (opJr ca) := by
  unfold opJr
  refine keeps_plainOp fun _ _ ht => ?_
  split
  · exact ht
  · split
    · exact sound_setTop ht
    · exact ht

theorem keeps_opJrl {ca} : OpKeeps (opJrl ca) := by
  unfold opJrl
  refine keeps_plainOp fun _ _ ht => ?_
  split
  · exact ht
  · split
    · exact sound_setTop ht
    · exact ht

theorem keeps_opTrap {n} : OpKeeps (opTrap n) := by
  unfold opTrap
  refine keeps_plainOp fun _ _ ht => ?_
  split
  · exact ht
  · split
    · exact ht
    · split
      next he2 => exact (sound_capLoad ht).of_snd he2
      next he2 =>
        exact holds_ite ((sound_capLoad ht).of_snd he2) (holds_ite ((sound_capLoad ht).of_snd he2)
          (holds_ite ((sound_capLoad ht).of_snd he2) ((sound_capLoad ht).of_snd he2)))

theorem sound_parkStopped {s : State} {th} (h : Sound s) : Sound (s.parkStopped th) := sound_ite (sound_parkSlot h) h

theorem keeps_opRfe : OpKeeps opRfe := by
  unfold opRfe
  refine keeps_supOp fun _ _ ht => ?_
  split
  · exact ht
  · split
    · exact ht
    · split
      · exact ht
      · extract_lets _ _ s1
        have hs1 : Sound s1 := sound_ite ht (sound_fill (sound_modCore ht))
        split
        · exact sound_fill ht
        · exact sound_ite (sound_parkStopped (sound_modCore hs1)) (sound_modCore hs1)

theorem sound_dropHandlers {s : State} {k sl} (h : Sound s) : Sound (s.dropHandlers k sl) := sound_modCore h

theorem sound_endHandler {s : State} {th} (h : Sound s) : Sound (s.endHandler th) := by
  unfold State.endHandler
  extract_lets s0 s1 s2
  have hs0 : Sound s0 := sound_ite h (sound_dropHandlers h)
  have hs1 : Sound s1 := by
    unfold s1
    split
    · exact sound_setTop hs0
    · exact hs0
  have hs2 : Sound s2 := sound_modSlot hs1
  exact sound_emit hs2 (fun _ ht => sound_endService ht)

theorem keeps_opSleep : OpKeeps opSleep := by
  unfold opSleep
  refine keeps_plainOp fun _ _ ht => ?_
  split
  · exact ht
  · exact holds_ite (sound_endHandler ht) (sound_ite (sound_threadWp (sound_setTop ht)) (sound_modSlot (sound_setTop ht)))

theorem keeps_opWake {a} : OpKeeps (opWake a) := by
  unfold opWake
  refine keeps_plainOp fun _ _ ht => ?_
  split
  · exact ht
  · exact sound_wakeBy ht

theorem keeps_opTmark : OpKeeps opTmark := by
  unfold opTmark
  refine keeps_supOp fun _ _ ht => ?_
  split
  · exact ht
  · exact holds_ite (sound_checkpoint (sound_modSlot (sound_setTop ht))) ht

theorem sound_waitOp {tideFrac th} {s : State} (h : Sound s) : OutSound (waitOp tideFrac th s) := by
  unfold waitOp
  split
  · exact h
  · split
    · extract_lets
      split
      · exact h
      · split
        · exact h
        · exact sound_modSlot h

theorem sound_execWaitComplete {th at_} {s : State} (h : Sound s) : NextSound (execWaitComplete th at_ s) := by
  unfold execWaitComplete
  extract_lets s1
  have hs1 : Sound s1 := sound_advance h
  split
  · exact hs1
  · exact holds_ite hs1 (holds_ite (sound_waitEnds hs1) (sound_holdWake (sound_modSlot hs1)))

/-! ### Fences -/

theorem sound_awaitFence {s : State} {th k} (h : Sound s) : Sound (s.awaitFence th k) := sound_modSlot h
theorem sound_fenceOp {k th} {s : State} (h : Sound s) : OutSound (fenceOp k th s) := sound_awaitFence h

theorem sound_refetchCove {s : State} {th n} (h : Sound s) : Sound (s.refetchCove th n) :=
  sound_ite h (sound_foldl h fun _ ht _ => sound_modCore ht)

theorem sound_fenceEffect {s : State} {th k} (h : Sound s) : Sound (s.fenceEffect th k) := by
  unfold State.fenceEffect
  split
  · exact (sound_cacheFlush _ _ h).update
  · exact sound_ite (sound_foldl h fun _ ht _ => sound_modCove ht) (sound_epochAdvance (sound_foldl h fun _ ht _ => sound_modCove ht))
  · exact h

theorem sound_execFenceComplete {th} {s : State} (h : Sound s) : NextSound (execFenceComplete th s) := by
  unfold execFenceComplete
  split
  · exact sound_ite (sound_modSlot (sound_fenceEffect h)) h
  · exact h

/-! ### Gates -/

theorem sound_gateCap {s : State} {i ca va} (h : Sound s) : Sound (s.gateCap i ca va).2 := by
  unfold State.gateCap
  extract_lets
  split
  next he => exact (sound_translate h).of_snd he
  next he =>
    split
    · exact (sound_translate h).of_snd he
    · split
      next he2 => exact (sound_capFrom ((sound_translate h).of_snd he)).of_snd he2
      next he2 => exact (sound_capFrom ((sound_translate h).of_snd he)).of_snd he2

theorem sound_gateWord {s : State} {i ca va} (h : Sound s) : Sound (s.gateWord i ca va).2 := by
  unfold State.gateWord
  extract_lets
  split
  next he => exact (sound_translate h).of_snd he
  next he =>
    split
    · exact (sound_translate h).of_snd he
    · split
      next he2 => exact (sound_groupLoad ((sound_translate h).of_snd he)).of_snd he2
      next he2 => exact (sound_groupLoad ((sound_translate h).of_snd he)).of_snd he2

theorem sound_gateCaps {s : State} {i ca l} (h : Sound s) : Sound (s.gateCaps i ca l).2 := by
  induction l generalizing s with
  | nil => exact h
  | cons a r ih =>
    unfold State.gateCaps
    split
    next he => exact (sound_gateCap h).of_snd he
    next he =>
      have hrest := ih ((sound_gateCap h).of_snd he)
      split
      next hr => exact hrest.of_snd hr
      next hr => exact hrest.of_snd hr

theorem sound_gateWords {s : State} {i ca l} (h : Sound s) : Sound (s.gateWords i ca l).2 := by
  induction l generalizing s with
  | nil => exact h
  | cons a r ih =>
    unfold State.gateWords
    split
    next he => exact (sound_gateWord h).of_snd he
    next he =>
      have hrest := ih ((sound_gateWord h).of_snd he)
      split
      next hr => exact hrest.of_snd hr
      next hr => exact hrest.of_snd hr

theorem sound_gateRead {s : State} {i ca a} (h : Sound s) : Sound (s.gateRead i ca a).2 := by
  unfold State.gateRead
  split
  next he => exact (sound_gateCaps h).of_snd he
  next he =>
    split
    next he1 => exact (sound_gateWords ((sound_gateCaps h).of_snd he)).of_snd he1
    next he1 => exact (sound_gateWords ((sound_gateCaps h).of_snd he)).of_snd he1

theorem sound_frameAt {s : State} {i o} (h : Sound s) : Sound (s.frameAt i o).2 := by
  -- the reads are abstracted before the definition is opened: the kernel would evaluate them to compare the two sides
  obtain ⟨caps, hcapsDef⟩ : ∃ caps, State.ownCaps = caps := ⟨_, rfl⟩
  obtain ⟨words, hwordsDef⟩ : ∃ words, State.ownWords = words := ⟨_, rfl⟩
  obtain ⟨frame, hframe⟩ : ∃ frame, State.frameAt = frame := ⟨_, rfl⟩
  have hcaps {l} : Sound (caps s i l).2 := hcapsDef ▸ sound_ownCaps h
  have hwords {t l} (ht : Sound t) : Sound (words t i l).2 := hwordsDef ▸ sound_ownWords ht
  rw [hframe]
  delta State.frameAt at hframe
  rw [hcapsDef, hwordsDef] at hframe
  subst hframe
  beta_reduce
  split
  next he => exact hcaps.of_snd he
  next he =>
    have hs2 {l} := hwords (l := l) (hcaps.of_snd he)
    split
    next hw => exact hs2.of_snd hw
    next hw =>
      extract_lets p
      exact sound_ite_snd (hs2.of_snd hw) (hs2.of_snd hw)

theorem sound_unwind {s : State} {i x n} (h : Sound s) : Sound (s.unwind i x n).2 := by
  delta State.unwind
  refine nat_brecOn_holds (fun g : State → Ctx → Unwound × State => ∀ t x, Sound t → Sound (g t x).2)
    (fun _ _ ht => ht) (fun n f ih t x ht => ?_) n s x h
  refine sound_ite_snd ht ?_
  split
  next he => exact (sound_frameAt ht).of_snd he
  next he =>
    have hs1 := (sound_frameAt ht).of_snd he
    split
    next s2 he2 =>
      have hs2 : Sound s2 := (sound_respond (sound_asks hs1) fun _ hu => hu).of_snd he2
      split
      · exact sound_ite_snd (ih _ _ hs2) hs2
      · exact hs2

theorem sound_unwoundOut {th u} {s : State} (h : Sound s) : OutSound (unwoundOut th u s) := by
  unfold unwoundOut
  split
  · exact sound_setTop h
  · exact sound_setTop h
  · exact h

theorem sound_frameStore {s : State} {i x g} (h : Sound s) : Sound (s.frameStore i x g) := sound_deviceWords (sound_deviceCaps h)

theorem sound_gateCross {th x g} {s : State} (h : Sound s) : OutSound (gateCross th x g s) := by
  unfold gateCross
  split
  · exact h
  · split
    · exact h
    · split
      · exact h
      · exact sound_setTop (sound_frameStore h)

theorem keeps_opGcall {ca} : OpKeeps (opGcall ca) := by
  unfold opGcall
  refine keeps_plainOp fun _ _ ht => ?_
  split
  · exact ht
  · extract_lets
    split
    · exact ht
    · split
      · exact ht
      · split
        next he3 => exact (sound_gateRead ht).of_snd he3
        next he3 =>
          split
          next he4 => exact (sound_respond (sound_asks ((sound_gateRead ht).of_snd he3)) (fun _ ht1 => ht1)).of_snd he4
          next he4 =>
            exact holds_ite (sound_parkSlot ht) (sound_gateCross ((sound_respond (sound_asks ((sound_gateRead ht).of_snd he3))
              (fun _ ht1 => ht1)).of_snd he4))

theorem keeps_opGret : OpKeeps opGret := by
  unfold opGret
  refine keeps_plainOp fun _ _ ht => ?_
  split
  · exact ht
  · extract_lets
    split
    · exact ht
    · split
      · exact ht
      · split
        · exact ht
        · split
          next he4 => exact holds_ite ((sound_frameAt ht).of_snd he4) ((sound_frameAt ht).of_snd he4)
          next he4 =>
            split
            · exact sound_parkSlot ht
            · split
              next he6 =>
                split
                · split
                  next he8 =>
                    exact holds_ite (sound_parkSlot ht) (sound_unwoundOut
                      ((sound_unwind ((sound_respond (sound_asks ((sound_frameAt ht).of_snd he4)) (fun _ ht1 => ht1)).of_snd he6)).of_snd
                      he8))
                  next he8 =>
                    exact sound_unwoundOut ((sound_unwind ((sound_respond (sound_asks ((sound_frameAt ht).of_snd he4))
                      (fun _ ht1 => ht1)).of_snd he6)).of_snd he8)
                · exact sound_setTop ((sound_respond (sound_asks ((sound_frameAt ht).of_snd he4)) (fun _ ht1 => ht1)).of_snd he6)
              next he6 => exact (sound_respond (sound_asks ((sound_frameAt ht).of_snd he4)) (fun _ ht1 => ht1)).of_snd he6

theorem sound_unwindParked {s : State} {k sl} (h : Sound s) : Sound (s.unwindParked k sl) := by
  unfold State.unwindParked
  extract_lets _ s1 s2
  have hs1 : Sound s1 := sound_dropHandlers h
  have hs2 : Sound s2 := sound_ite hs1 (sound_fill hs1)
  split
  · exact hs2
  · split
    next he1 =>
      exact sound_unparkSlot (sound_modSlot (sound_settleOp ((sound_unwind hs2).of_snd he1)
        (sound_unwoundOut ((sound_unwind hs2).of_snd he1))))

theorem sound_retireThreads {s : State} {t} (h : Sound s) : Sound (s.retireThreads t) :=
  sound_foldl (sound_foldl h fun _ ht _ => sound_ite (sound_dropSlot ht) ht) fun _ ht _ => sound_ite (sound_unwindParked ht) ht

theorem sound_unparkCrossings {s : State} {t} (h : Sound s) : Sound (s.unparkCrossings t) :=
  sound_foldl h fun _ ht _ => sound_ite (sound_unparkSlot ht) ht

theorem sound_tenComplete {s : State} (h : Sound s) : Sound s.tenComplete := by
  unfold State.tenComplete
  split
  · exact h
  · split
    · exact h
    · extract_lets s2 _ s1 _ s3
      have hs2 : Sound s2 := sound_retireThreads h
      have hs1 : Sound s1 := by
        unfold s1
        split
        · exact sound_unparkCrossings (sound_setTenant hs2)
        · exact sound_unparkCrossings h
        · exact sound_unparkCrossings h
        · exact h
      have hs3 : Sound s3 := hs1.update
      exact sound_tenDrain hs3

theorem sound_execTenCmdComplete {s : State} (h : Sound s) : NextSound (execTenCmdComplete s) := sound_tenComplete h

/-! ### System registers -/

theorem sound_writeData {s : State} {th x n v} (h : Sound s) : OkSound (s.writeData th x n v) := by
  unfold State.writeData
  split
  · exact sound_setTop h
  · exact sound_setTop h
  · exact holds_ite trivial (holds_ite trivial (sound_setTop h))
  · exact holds_ite trivial (holds_ite trivial (sound_wheelPut h))
  · exact holds_ite trivial (sound_bankWrite h)
  · trivial

theorem keeps_opMfs {d n} : OpKeeps (opMfs d n) := by
  unfold opMfs
  refine keeps_plainOp fun _ _ ht => ?_
  split
  · exact ht
  · split
    · exact sound_setTop ht
    · exact ht

theorem keeps_opMts {n a} : OpKeeps (opMts n a) := by
  unfold opMts
  refine keeps_plainOp fun _ _ ht => ?_
  split
  · exact ht
  · split
    next he1 => exact (sound_writeData ht).of_ok he1
    · exact ht

theorem sound_writeCapReg {s : State} {th x n v} (h : Sound s) : OkSound (s.writeCapReg th x n v) := by
  unfold State.writeCapReg
  split
  · trivial
  · split
    · exact sound_setTop h
    · exact holds_ite (sound_modCore h) trivial
    · exact holds_ite (sound_setTop h) trivial
    · exact sound_setTop h
    · trivial

theorem sound_icOp {act : State → ThreadId → Ctx → Fin 3 → Ctx → State} {th} {s : State}
    (hact : ∀ t, Sound t → ∀ th x n y, Sound (act t th x n y)) (h : Sound s)
    :
    OutSound (icOp act th s) := by
  unfold icOp
  split
  · exact h
  · split
    · exact h
    · split
      · exact h
      · extract_lets _ s1
        have hs1 : Sound s1 := sound_ite h (sound_fill h)
        split
        · exact hs1
        · exact hact _ hs1 _ _ _ _

theorem keeps_opMfsc {cd n} : OpKeeps (opMfsc cd n) := by
  unfold opMfsc
  refine keeps_plainOp fun _ _ ht => ?_
  split
  · exact sound_icOp (fun _ ht1 _ _ _ _ => sound_setTop ht1) ht
  · split
    · exact ht
    · split
      · exact sound_setTop ht
      · exact ht

theorem keeps_opMtsc {n ca} : OpKeeps (opMtsc n ca) := by
  unfold opMtsc
  refine keeps_plainOp fun _ _ ht => ?_
  split
  · exact sound_icOp (fun _ ht1 _ _ _ _ => sound_modCore ht1) ht
  · split
    · exact ht
    · split
      next he2 => exact (sound_writeCapReg ht).of_ok he2
      · exact ht

/-! ### Translation entries -/

theorem sound_fieldThenSup {ok} {run : Op} {th} {s : State} (hrun : ∀ th t, Sound t → OutSound (run th t))
    (h : Sound s) :
    OutSound (fieldThenSup ok run th s) := by
  unfold fieldThenSup
  split
  · exact h
  · exact holds_ite h (holds_ite h (hrun _ _ h))

theorem keeps_opTlbw {a b} : OpKeeps (opTlbw a b) := by
  unfold opTlbw
  refine keeps_plainOp fun _ _ ht => ?_
  refine sound_fieldThenSup (fun _ _ ht1 => ?_) ht
  split
  · exact ht1
  · extract_lets
    split
    · exact ht1
    · exact sound_modCore ht1

theorem keeps_opTlbr {d a} : OpKeeps (opTlbr d a) := by
  unfold opTlbr
  refine keeps_plainOp fun _ _ ht => ?_
  refine sound_fieldThenSup (fun _ _ ht1 => ?_) ht
  split
  · exact ht1
  · exact holds_ite ht1 (sound_setTop ht1)

theorem sound_tlbiOp {form cd ten va th} {s : State} (h : Sound s) : OutSound (tlbiOp form cd ten va th s) := by
  unfold tlbiOp
  split
  · exact h
  · split
    · exact h
    · exact sound_emit (sound_modCore h) (fun _ ht => sound_tlbiSend ht)

theorem sound_tlbiAtCore {s : State} {k b} (h : Sound s) : Sound (s.tlbiAtCore k b) :=
  sound_ite (sound_modCore h) (sound_ite (sound_modCore (sound_logRecord h)) (sound_modCore (sound_logInput h)))

theorem sound_execTlbiReceive {core} {s : State} (h : Sound s) : NextSound (execTlbiReceive core s) := by
  unfold execTlbiReceive
  extract_lets
  split
  · exact h
  · extract_lets s1
    have hs1 : Sound s1 := sound_undertowSend h.update
    show Sound _
    split
    · exact sound_tlbiAtCore hs1
    · exact sound_churnTlbi hs1

theorem sound_walk {s : State} {i pa} (h : Sound s) : Sound (s.walk i pa).2 := by
  unfold State.walk
  split
  · exact h
  · split
    · exact h
    · split
      · exact h
      · split
        · exact h
        · split
          next he4 => exact (sound_groupLoad h).of_snd he4
          next he4 => exact (sound_groupLoad h).of_snd he4

theorem keeps_opWld {d a b} : OpKeeps (opWld d a b) := by
  unfold opWld
  refine keeps_supOp fun _ _ ht => ?_
  split
  · exact ht
  · split
    next he1 => exact (sound_walk ht).of_snd he1
    next he1 => exact sound_awaits (sound_setTop ((sound_walk ht).of_snd he1))

/-! ### Parcels -/

/-- Every operation of the table leaves a canonical state canonical. -/
theorem keeps_operationOf {i o} (h : operationOf i = some o) : OpKeeps o := by
  cases i
  case mov | movs | movi | add | addi | sub | adc | sbc | neg | cmp | cmpi | and | andi | or | ori | xor | xori | andn | tst | tsti |
      not | min | max | minu | maxu | shl | shr | sar | ror | shli | shri | sari | rori | mul | mulh | mulhu | mulq | muli | padd |
      psub | pdiff | ldp | sel | ldiLo | ldiHi | nop | cmov | cgetC | cgetB | cgetLast | cgetR | cgetOt | cgetTag | cgetE | cgran | cpcc =>
    cases h
    exact keeps_plainOp fun _ _ ht => sound_regOp ht
  case mac | msub | macQ | msubQ | sqrt | sqrtQ | psin | pcos =>
    cases h
    exact keeps_groupOp fun _ _ ht => sound_regOp ht
  case macL | msubL | div | divu | rem | remu =>
    cases h
    exact keeps_groupOp fun _ _ ht => sound_regOrFault ht
  case pcvt =>
    cases h
    exact keeps_opPcvt
  case pnow =>
    cases h
    exact keeps_opPnow
  case b =>
    cases h
    exact keeps_opB
  case bl =>
    cases h
    exact keeps_opBl
  case ldB | ldBu | ldH | ldHu | ldW | ldAcq | ldxB | ldxBu | ldxH | ldxHu | ldxW | ldWS =>
    cases h
    exact keeps_plainOp fun _ _ ht => sound_loadOp ht
  case stB | stH | stxB | stxH =>
    cases h
    exact keeps_plainOp fun _ _ ht => sound_subStoreOp ht
  case stW | stRel | stxW | stWS =>
    cases h
    exact keeps_plainOp fun _ _ ht => sound_storeOp ht
  case ldC =>
    cases h
    exact keeps_plainOp fun _ _ ht => sound_capLoadOp ht
  case stC =>
    cases h
    exact keeps_plainOp fun _ _ ht => sound_capStoreOp ht
  case cas | amoAdd =>
    cases h
    exact keeps_plainOp fun _ _ ht => sound_atomicOp ht
  case pld =>
    cases h
    exact keeps_opPld
  case cadd | caddi =>
    cases h
    exact keeps_plainOp fun _ _ ht => sound_capAddOp ht
  case csetc | csetbnd | csetbndX | candr | cspan | cseal | cunseal =>
    cases h
    exact keeps_plainOp fun _ _ ht => sound_derive ht
  case cmint =>
    cases h
    exact keeps_opCmint
  case hld =>
    cases h
    exact keeps_opHld
  case hst =>
    cases h
    exact keeps_opHst
  case sld =>
    cases h
    exact keeps_opSld
  case sst =>
    cases h
    exact keeps_opSst
  case tstat =>
    cases h
    exact keeps_opTstat
  case tstop | tresume =>
    cases h
    exact keeps_plainOp fun _ _ ht => sound_tenantOp ht
  case jr =>
    cases h
    exact keeps_opJr
  case jrl =>
    cases h
    exact keeps_opJrl
  case gcall =>
    cases h
    exact keeps_opGcall
  case gret =>
    cases h
    exact keeps_opGret
  case rfe =>
    cases h
    exact keeps_opRfe
  case trap =>
    cases h
    exact keeps_opTrap
  case sleep =>
    cases h
    exact keeps_opSleep
  case wake =>
    cases h
    exact keeps_opWake
  case tmark =>
    cases h
    exact keeps_opTmark
  case waitTide | waitTideR =>
    cases h
    exact keeps_plainOp fun _ _ ht => sound_waitOp ht
  case mfs =>
    cases h
    exact keeps_opMfs
  case mts =>
    cases h
    exact keeps_opMts
  case mfsc =>
    cases h
    exact keeps_opMfsc
  case mtsc =>
    cases h
    exact keeps_opMtsc
  case tlbw =>
    cases h
    exact keeps_opTlbw
  case tlbr =>
    cases h
    exact keeps_opTlbr
  case tlbiVa | tlbiT | tlbiAll =>
    cases h
    exact keeps_supOp fun _ _ ht => sound_tlbiOp ht
  case wld =>
    cases h
    exact keeps_opWld
  case fenceL | fenceM | fenceIo | fenceT =>
    cases h
    exact keeps_plainOp fun _ _ ht => sound_fenceOp ht
  case fenceC =>
    cases h
    exact keeps_plainOp fun _ _ ht => sound_awaitFence (sound_foldl ht fun _ ht1 _ => sound_refetchCove ht1)
  case movb =>
    cases h
    exact keeps_blockOp fun _ _ ht => sound_blockRun (fun _ _ _ _ ht1 => sound_movbUnit ht1) ht
  case fillb =>
    cases h
    exact keeps_blockOp fun _ _ ht => sound_blockRun (fun _ _ _ _ ht1 => sound_blockWord ht1) ht
  case crcb =>
    cases h
    exact keeps_blockOp fun _ _ ht => sound_blockRun (fun _ _ _ _ ht1 => sound_crcbUnit ht1) ht
  case tagz =>
    cases h
    exact keeps_blockOp fun _ _ ht => sound_blockRun (fun _ _ _ _ ht1 => sound_tagzUnit ht1) ht
  case pstoreN =>
    cases h
    exact keeps_blockOp fun _ _ ht => sound_blockRun (fun _ _ _ _ ht1 => sound_pstoreUnit ht1) ht
  case coalWrite =>
    cases h
    exact keeps_opCoalWrite
  all_goals contradiction

theorem sound_issueOf {s : State} {th i o} (hop : operationOf i = some o) (h : Sound s) : Sound (s.issue th i o) :=
  sound_issue (keeps_operationOf hop) h

theorem sound_runNth {l n th} {s : State} (h : Sound s) : OutSound (runNth l n th s) := by
  unfold runNth
  split
  next he =>
    obtain ⟨i, -, hop⟩ := Option.bind_eq_some_iff.1 he
    exact sound_checked (keeps_operationOf hop) h
  next => exact h

theorem sound_undoParcel {s : State} {th x} (h : Sound s) : Sound (s.undoParcel th x) := sound_setTop h

theorem sound_runOps {l th} {s : State} (h : Sound s) : OutSound (runOps l th s).1 := by
  unfold runOps
  split
  · exact sound_runNth h
  · split
    next he _ =>
      have hsecond {n} : OutSound (runNth l n th _) := sound_runNth ((sound_runNth h).of_done he)
      dsimp only
      split
      next he2 => exact sound_undoParcel (hsecond.of_fault he2)
      · exact hsecond
    next => exact sound_runNth h

theorem sound_settleOps {s : State} {th parcel l} (h : Sound s) : Sound (s.settleOps th parcel l) :=
  sound_settleOp h (sound_runOps h)

theorem sound_parcelFault {s : State} {th parcel code n} (h : Sound s) : Sound (s.parcelFault th parcel code n) := sound_settleOp h h

theorem sound_runParcel {s : State} {th p} (h : Sound s) : Sound (s.runParcel th p) := by
  unfold State.runParcel
  extract_lets
  split
  · exact sound_parcelFault h
  · exact sound_settleOps h
  · exact sound_parcelFault h
  · exact sound_parcelFault h
  · exact sound_ite (sound_settleOps h) (sound_parcelFault h)

/-! ### Issue -/

theorem sound_execParcelFetch {core} {s : State} (h : Sound s) : NextSound (execParcelFetch core s) := by
  unfold execParcelFetch
  split
  · exact h
  · split
    · exact h
    · split
      next he2 => exact sound_modSlot ((sound_checkParcel _ _ _ h).of_snd he2)

theorem sound_fetchFault {s : State} {th x code} (h : Sound s) : Sound (s.fetchFault th x code) := sound_settleOp h h

theorem sound_issueParcel {s : State} {th r} (h : Sound s) : Sound (s.issueParcel th r) := by
  unfold State.issueParcel
  split
  · split
    · exact sound_fetchFault h
    · exact h
  · exact sound_ite (sound_fetchFault h) (sound_ite (sound_modSlot h) (sound_runParcel (sound_modSlot h)))

theorem sound_cycleOver {s : State} {k} (h : Sound s) : Sound (s.cycleOver k) := sound_modCore h

theorem sound_tlbUpset {s t u : State} {k m} (h : Sound s) (he : s.tlbUpset k t = some (m, u)) : Sound u := by
  unfold State.tlbUpset at he
  split at he
  · contradiction
  · extract_lets at he
    split at he
    · contradiction
    · extract_lets at he
      split at he
      · cases he
        exact sound_detect h.update
      · contradiction

theorem sound_liveTurn {s : State} {k upset} (h : Sound s) : Sound (s.liveTurn k upset) := by
  unfold State.liveTurn
  extract_lets s0 c p owner run t
  have hs0 : Sound s0 := sound_modCore h
  have hrun (t : State) (ht : Sound t) : Sound (run t) := by
    unfold run
    extract_lets t1 t2
    have ht1 : Sound t1 := sound_modCore (sound_traceIssue ht)
    have ht2 : Sound t2 := by
      unfold t2
      split
      · exact ht1
      · split
        · exact sound_issueParcel ht1
        · exact ht1
    exact sound_cycleOver ht2
  split
  next go s2 he =>
    have hs2 : Sound s2 := by
      refine Sound.of_snd ?_ he
      split
      next hu => exact sound_compare (sound_tlbUpset hs0 hu)
      next =>
        have hinj : Sound (if s0.putOut k t then s0.injectCompare k else (none, s0)).2 := sound_ite_snd (sound_injectCompare hs0) hs0
        split
        next he2 =>
          split <;> exact sound_compare (hinj.of_snd he2)
    exact sound_ite (sound_checkpointIfDue (hrun s2 hs2)) hs2

theorem sound_applyInput {s : State} {k r} (h : Sound s) : Sound (s.applyInput k r) := by
  unfold State.applyInput
  split
  · exact sound_modCore h
  · extract_lets
    split
    · exact sound_wakeThread h
    · exact sound_modSlot h
    · exact sound_parkNow h
    · exact sound_modSlot h
  · exact sound_modCore h

theorem sound_applyInputs {s : State} {k pos} (h : Sound s) : Sound (s.applyInputs k pos) :=
  sound_foldl (sound_modCore h) fun _ ht _ => sound_applyInput ht

theorem sound_replayTurn {s : State} {k upset} (h : Sound s) : Sound (s.replayTurn k upset) := by
  unfold State.replayTurn
  extract_lets _ s0
  have hs0 : Sound s0 := sound_applyInputs (sound_modCore h)
  split
  · exact h
  · split
    next he1 =>
      split
      · exact (sound_compare hs0).of_snd he1
      · split
        · exact sound_cycleOver ((sound_compare hs0).of_snd he1)
        · split
          · exact sound_cycleOver ((sound_compare hs0).of_snd he1)
          · split
            · exact (sound_compare hs0).of_snd he1
            · exact sound_cycleOver (sound_issueParcel (sound_modCore ((sound_compare hs0).of_snd he1)))

theorem sound_execIssueTurn {core upset tick} {s : State} (h : Sound s) : NextSound (execIssueTurn core upset tick s) := by
  unfold execIssueTurn
  exact holds_ite (sound_enterIfDue (sound_advance h)) (holds_ite (sound_replayTurn (sound_enterIfDue (sound_advance h)))
    (sound_liveTurn (sound_enterIfDue (sound_advance h))))

theorem sound_unparkWaiting {s : State} {k} (h : Sound s) : Sound (s.unparkWaiting k) :=
  sound_foldl h fun _ ht _ => sound_ite (sound_unparkSlot ht) ht

theorem sound_execReplayCatchUp {core} {s : State} (h : Sound s) : NextSound (execReplayCatchUp core s) :=
  holds_ite (sound_endTrial (sound_unparkWaiting (sound_releaseHeld (sound_undertowSend (sound_modCore (sound_applyInputs h)))))) h

theorem sound_bankWork {s : State} {k} {f : State → State} (h : Sound s) (hf : ∀ t, Sound t → Sound (f t)) :
    Sound (s.bankWork k f) := by
  unfold State.bankWork
  exact sound_ite (hf _ h) (sound_voted h hf)

theorem sound_execBankSpill {core} {s : State} (h : Sound s) : NextSound (execBankSpill core s) :=
  sound_ite (sound_bankWork h (fun _ ht => sound_takeBank ht)) h

theorem sound_fillTop {s : State} {th lv} (h : Sound s) : Sound (s.fillTop th lv) := by
  unfold State.fillTop
  extract_lets s1
  have hs1 : Sound s1 := sound_fill h
  split
  · split
    next he1 => exact sound_loseCore ((sound_recordOf hs1).of_snd he1)
  · exact hs1

theorem sound_execBankFill {core slot} {s : State} (h : Sound s) : NextSound (execBankFill core slot s) :=
  holds_ite (sound_bankWork h (fun _ ht => sound_fillTop ht)) (holds_ite (sound_ite (sound_fill h) (sound_modCore (sound_fill h))) h)

theorem sound_execVectorBufferReload {core} {s : State} (h : Sound s) : NextSound (execVectorBufferReload core s) :=
  holds_ite h (sound_endRelease (sound_ite (sound_modCore (sound_reloadVector h)) (sound_reloadVector h)))

theorem sound_answerOutside {s : State} {th pcie a} (h : Sound s) : Sound (s.answerOutside th pcie a) := by
  unfold State.answerOutside
  split
  · exact sound_ite h (sound_modSlot (sound_settleOps (sound_modSlot h)))
  · exact h

theorem sound_execAccessResponse {th answer} {s : State} (h : Sound s) : NextSound (execAccessResponse th answer s) := by
  unfold execAccessResponse
  split
  · exact sound_modSlot h
  · exact sound_ite h (sound_modSlot h)
  · exact sound_answerOutside h
  · exact h

theorem sound_execPcieOutboundCompletion {th answer} {s : State} (h : Sound s) : NextSound (execPcieOutboundCompletion th answer s) :=
  sound_answerOutside h

theorem sound_execPcieCompletionTimeout {th} {s : State} (h : Sound s) : NextSound (execPcieCompletionTimeout th s) := sound_answerOutside h
theorem sound_execXspiWindowRead {th answer} {s : State} (h : Sound s) : NextSound (execXspiWindowRead th answer s) := sound_answerOutside h

theorem sound_linkLost {s : State} (h : Sound s) : Sound s.linkLost := by
  unfold State.linkLost
  extract_lets _ s0 _ _ s1
  have hs0 : Sound s0 := h.update
  have hs1 : Sound s1 := hs0.update
  exact sound_foldl hs1 fun _ ht _ => sound_answerOutside ht

theorem sound_execPcieLinkDown {tick} {s : State} (h : Sound s) : NextSound (execPcieLinkDown tick s) :=
  sound_ite (sound_raiseN (sound_linkLost (sound_advance h))) (sound_advance h)

/-! ### The scrubber and Hykiow -/

theorem sound_scrubStep {s : State} {n} (h : Sound s) : Sound (s.scrubStep n) :=
  sound_ite h (sound_modCove (sound_checkParcel _ _ _ (sound_foldl h fun _ ht _ => sound_checkWord _ _ _ ht)))

theorem sound_patrolStep {s : State} {c} (h : Sound s) : Sound (s.patrolStep c) :=
  sound_ite h ((sound_ite (sound_checkBits _ _ _ h) (sound_checkCarve _ _ h)).update)

theorem sound_execScrubStep {unit} {s : State} (h : Sound s) : NextSound (execScrubStep unit s) := by
  unfold execScrubStep
  split
  · exact sound_scrubStep h
  · exact sound_patrolStep h

theorem sound_repairWord {s : State} {pa} (h : Sound s) : Sound (s.repairWord pa) :=
  sound_ite (sound_checkWord _ _ _ h) (sound_ite h (sound_putEcc _ _ _ h))

theorem sound_repairParcel {s : State} {i} (h : Sound s) : Sound (s.repairParcel i) := by
  unfold State.repairParcel
  refine sound_ite (sound_checkParcel _ _ _ h) (sound_ite h ?_)
  obtain ⟨hmem, htags, hecc, hcode, hcodeEcc⟩ := h
  exact ⟨hmem, htags, hecc, hcode, canonical_set _ _ _ _ hcodeEcc⟩

theorem sound_execRepairQueueRewrite {cove} {s : State} (h : Sound s) : NextSound (execRepairQueueRewrite cove s) := by
  unfold execRepairQueueRewrite
  split
  · exact h
  · split
    · exact h
    · extract_lets s1
      have hs1 : Sound s1 := sound_modCove h
      show Sound _
      split
      · exact sound_repairWord hs1
      · exact sound_repairParcel hs1

theorem sound_hykResult {s : State} {r} (h : Sound s) : Sound (s.hykResult r) := by
  unfold State.hykResult
  split <;> exact h.update

theorem sound_hykBusy {s : State} (h : Sound s) : Sound s.hykBusy := h.update

theorem sound_hykOutside {s : State} (h : Sound s) : Sound s.hykOutside.2 := by
  unfold State.hykOutside
  split
  next he =>
    split
    next he1 => exact (sound_drawWord ((sound_drawBelow h).of_snd he)).of_snd he1

theorem sound_hykLoad {s : State} {pa} (h : Sound s) : Sound (s.hykLoad pa).2 := by
  unfold State.hykLoad
  split
  next he => exact (sound_targetLoad h).of_snd he
  next he => exact sound_ite_snd (sound_hykOutside ((sound_targetLoad h).of_snd he)) ((sound_targetLoad h).of_snd he)

theorem sound_hykStore {s : State} {pa v} (h : Sound s) : Sound (s.hykStore pa v).2 := by
  unfold State.hykStore
  split
  · exact h
  · split
    · exact sound_targetStore h
    · exact sound_targetStore h
    · exact sound_ite_snd (sound_targetStore h) h

theorem sound_hykAccess {s : State} {pa store} (h : Sound s) : Sound (s.hykAccess pa store) := by
  unfold State.hykAccess
  split
  · exact sound_hykResult h
  · split
    · exact (sound_hykBusy h).update
    · split
      next he2 =>
        refine sound_hykResult ?_
        refine Sound.of_snd ?_ he2
        split
        · exact sound_hykStore h
        · exact sound_hykLoad h

theorem sound_hykRetry {s : State} (h : Sound s) : Sound s.hykRetry := by
  unfold State.hykRetry
  split
  · exact sound_ite h (sound_hykAccess h.update)
  · exact h

theorem sound_hykScan {s : State} {cmd} {act : State → State} (h : Sound s) (hact : ∀ t, Sound t → Sound (act t)) :
    Sound (s.hykScan cmd act) := by
  unfold State.hykScan
  exact sound_ite (sound_ite ((sound_hykRetry h).update) (hact _ ((sound_hykRetry h).update))) h.update

theorem sound_execHykiowReadWord {adr} {s : State} (h : Sound s) : NextSound (execHykiowReadWord adr s) := by
  unfold execHykiowReadWord
  show Sound _
  split
  · exact sound_hykScan h (fun _ ht => sound_hykAccess ht)
  · exact sound_hykScan h (fun _ ht => ht)

theorem sound_execHykiowWriteWord {adr v} {s : State} (h : Sound s) : NextSound (execHykiowWriteWord adr v s) :=
  sound_hykScan h (fun _ ht => sound_hykAccess ht)

theorem sound_execHykiowStatus {s : State} (h : Sound s) : NextSound (execHykiowStatus s) := sound_hykScan h (fun _ ht => ht)

/-! ### Every command -/

theorem sound_exec {i} {s : State} (h : Sound s) : NextSound (exec i s) := by
  cases i
  case mov | movs | movi | add | addi | sub | adc | sbc | neg | cmp | cmpi | and | andi | or | ori | xor | xori | andn | tst | tsti |
      not | min | max | minu | maxu | shl | shr | sar | ror | shli | shri | sari | rori | mul | mulh | mulhu | mulq | muli | mac |
      msub | macQ | msubQ | macL | msubL | div | divu | rem | remu | sqrt | sqrtQ | padd | psub | pdiff | psin | pcos | pcvt | pnow |
      ldp | sel | b | bl | ldiLo | ldiHi | nop | ldB | ldBu | ldH | ldHu | ldW | stB | stH | stW | ldC | stC | ldAcq | stRel | ldxB |
      ldxBu | ldxH | ldxHu | ldxW | stxB | stxH | stxW | ldWS | stWS | cas | amoAdd | pld | cmov | cadd | caddi | csetc | csetbnd |
      csetbndX | candr | cspan | cseal | cunseal | cgetC | cgetB | cgetLast | cgetR | cgetOt | cgetTag | cgetE | cgran | cpcc | cmint |
      hld | hst | sld | sst | tstat | tstop | tresume | jr | jrl | gcall | gret | rfe | trap | sleep | wake | tmark | waitTide |
      waitTideR | mfs | mts | mfsc | mtsc | tlbw | tlbr | tlbiVa | tlbiT | tlbiAll | wld | fenceL | fenceM | fenceIo | fenceT |
      fenceC | movb | fillb | crcb | tagz | pstoreN | coalWrite =>
    exact sound_issueOf rfl h
  case issueTurn => exact sound_execIssueTurn h
  case parcelFetch => exact sound_execParcelFetch h
  case escalationEntry => exact sound_execEscalationEntry h
  case accessResponse => exact sound_execAccessResponse h
  case postedStoreError => exact sound_execPostedStoreError h
  case postedStoreDrain => exact sound_execPostedStoreDrain h
  case waitComplete => exact sound_execWaitComplete h
  case wheelWrite => exact sound_execWheelWrite h
  case hold => exact sound_execHold h
  case release => exact sound_execRelease h
  case releaseRun => exact sound_execReleaseRun h
  case create => exact sound_execCreate h
  case discard => exact sound_execDiscard h
  case bankSpill => exact sound_execBankSpill h
  case bankFill => exact sound_execBankFill h
  case vectorBufferReload => exact sound_execVectorBufferReload h
  case eventDispatch => exact sound_execEventDispatch h
  case tlbiReceive => exact sound_execTlbiReceive h
  case fenceComplete => exact sound_execFenceComplete h
  case scrubStep => exact sound_execScrubStep h
  case repairQueueRewrite => exact sound_execRepairQueueRewrite h
  case mint => exact sound_execMint h
  case start => exact sound_execStart h
  case stop => exact sound_execStop h
  case resume => exact sound_execResume h
  case retire => exact sound_execRetire h
  case tenCmdUnknown => exact sound_execTenCmdUnknown h
  case tenCmdComplete => exact sound_execTenCmdComplete h
  case tenantCommandArrive => exact sound_execTenantCommandArrive h
  case tenPhysWrite => exact sound_execTenPhysWrite h
  case tenUnwrittenRead who => exact sound_execTenUnwrittenRead (a := who) h
  case checkpoint => exact sound_execCheckpoint h
  case checkpointCommit => exact sound_execCheckpointCommit h
  case rollback => exact sound_execRollback h
  case glitchAlarm => exact sound_execGlitchAlarm h
  case restoreComplete => exact sound_execRestoreComplete h
  case replayCatchUp => exact sound_execReplayCatchUp h
  case change => exact sound_execChange h
  case rotate => exact sound_execRotate h
  case restart => exact sound_execRestart h
  case cmodeUnknown => exact sound_execCmodeUnknown h
  case copyEnd => exact sound_execCopyEnd h
  case selfTestSchedulePoint => exact sound_execSelfTestSchedulePoint h
  case coreTestComplete => exact sound_execCoreTestComplete h
  case sliceComplete => exact sound_execSliceComplete h
  case bankTestComplete => exact sound_execBankTestComplete h
  case eventArrival => exact sound_execEventArrival h
  case coalesceTimeout => exact sound_execCoalesceTimeout h
  case evcSelect => exact sound_execEvcSelect h
  case urgentEntry => exact sound_execUrgentEntry h
  case enSet => exact sound_execEnSet h
  case enClr => exact sound_execEnClr h
  case enClrEffect => exact sound_execEnClrEffect h
  case pendSet => exact sound_execPendSet h
  case pendClr => exact sound_execPendClr h
  case evcBindWrite => exact sound_execEvcBindWrite h
  case maskWrite => exact sound_execMaskWrite h
  case enablePendingDirectWrite => exact sound_execEnablePendingDirectWrite h
  case enablePendingAliasWrite => exact sound_execEnablePendingAliasWrite h
  case evcClaimRead => exact sound_execEvcClaimRead h
  case evcDoneWrite => exact sound_execEvcDoneWrite h
  case wakeLatchCatch => exact sound_execWakeLatchCatch h
  case wakeLatchClear => exact sound_execWakeLatchClear h
  case wakeBallEdge => exact sound_execWakeBallEdge h
  case tideMeasurement => exact sound_execTideMeasurement h
  case encoderReversal => exact sound_execEncoderReversal h
  case slackWaterEntry => exact sound_execSlackWaterEntry h
  case fallbackApply => exact sound_execFallbackApply h
  case tsrcWrite => exact sound_execTsrcWrite h
  case entryPhaseWrite => exact sound_execEntryPhaseWrite h
  case entryCtrlWrite => exact sound_execEntryCtrlWrite h
  case entryArgWrite => exact sound_execEntryArgWrite h
  case entryBindWrite => exact sound_execEntryBindWrite h
  case entryFire => exact sound_execEntryFire h
  case entryDispatch => exact sound_execEntryDispatch h
  case entryStage => exact sound_execEntryStage h
  case commitPoint => exact sound_execCommitPoint h
  case edgePlace => exact sound_execEdgePlace h
  case forceWrite => exact sound_execForceWrite h
  case ocfgWrite => exact sound_execOcfgWrite h
  case ownWrite => exact sound_execOwnWrite h
  case modulatorSample => exact sound_execModulatorSample h
  case modClockLost => exact sound_execModClockLost h
  case mcfgWrite => exact sound_execMcfgWrite h
  case halt => exact sound_execHalt h
  case wcmdResume => exact sound_execWcmdResume h
  case wcmdReset => exact sound_execWcmdReset h
  case trigger => exact sound_execTrigger h
  case waveProgWrite => exact sound_execWaveProgWrite h
  case waveRxRead who _ => exact sound_execWaveRxRead (a := who) h
  case weHalt => exact sound_execWeHalt h
  case weSet => exact sound_execWeSet h
  case weDir => exact sound_execWeDir h
  case waitp => exact sound_execWaitp h
  case waitpTimeout => exact sound_execWaitpTimeout h
  case shx => exact sound_execShx h
  case dly => exact sound_execDly h
  case ldc => exact sound_execLdc h
  case djnz => exact sound_execDjnz h
  case jmp => exact sound_execJmp h
  case jpin => exact sound_execJpin h
  case stamp => exact sound_execStamp h
  case tide => exact sound_execTide h
  case push => exact sound_execPush h
  case pull => exact sound_execPull h
  case evt => exact sound_execEvt h
  case clr => exact sound_execClr h
  case undertowPacket => exact sound_execUndertowPacket h
  case chStop => exact sound_execChStop h
  case flush => exact sound_execFlush h
  case chCmdUnknown => exact sound_execChCmdUnknown h
  case chPoolWrite => exact sound_execChPoolWrite h
  case tcapWrite => exact sound_execTcapWrite h
  case cbindWrite => exact sound_execCbindWrite h
  case cctrlWrite => exact sound_execCctrlWrite h
  case tailWrite => exact sound_execTailWrite h
  case cxeWrite => exact sound_execCxeWrite h
  case startWrite => exact sound_execStartWrite h
  case descriptorProcess => exact sound_execDescriptorProcess h
  case descriptorComplete => exact sound_execDescriptorComplete h
  case cycleStart => exact sound_execCycleStart h
  case freezePoint => exact sound_execFreezePoint h
  case frameReturn => exact sound_execFrameReturn h
  case frameDeadline => exact sound_execFrameDeadline h
  case joiningTimeout => exact sound_execJoiningTimeout h
  case positionLeft => exact sound_execPositionLeft h
  case linkUp => exact sound_execLinkUp h
  case linkDown => exact sound_execLinkDown h
  case lctrlWrite => exact sound_execLctrlWrite h
  case lperiodWrite => exact sound_execLperiodWrite h
  case bind => exact sound_execBind h
  case unbind => exact sound_execUnbind h
  case evict => exact sound_execEvict h
  case quarantine => exact sound_execQuarantine h
  case linkRelease => exact sound_execLinkRelease h
  case keyclr => exact sound_execKeyclr h
  case lcmdUnknown => exact sound_execLcmdUnknown h
  case akeyWrite => exact sound_execAkeyWrite h
  case ethernetFrameReceive => exact sound_execEthernetFrameReceive h
  case ethernetFrameTransmit => exact sound_execEthernetFrameTransmit h
  case ethernetLinkChange => exact sound_execEthernetLinkChange h
  case ptpStepWrite => exact sound_execPtpStepWrite h
  case ptpNsRead who _ => exact sound_execPtpNsRead (a := who) h
  case txtsRead who _ _ => exact sound_execTxtsRead (a := who) h
  case ptpTargetTime => exact sound_execPtpTargetTime h
  case canFrameReceive => exact sound_execCanFrameReceive h
  case canFrameTransmit => exact sound_execCanFrameTransmit h
  case canErrorStateChange => exact sound_execCanErrorStateChange h
  case busOffRecovery => exact sound_execBusOffRecovery h
  case uartRecordEnd => exact sound_execUartRecordEnd h
  case uartTransmit => exact sound_execUartTransmit h
  case pcieInboundWrite => exact sound_execPcieInboundWrite h
  case pcieInboundRead => exact sound_execPcieInboundRead h
  case pcieMsiReceive => exact sound_execPcieMsiReceive h
  case pcieOutboundCompletion => exact sound_execPcieOutboundCompletion h
  case pcieCompletionTimeout => exact sound_execPcieCompletionTimeout h
  case pcieLinkDown => exact sound_execPcieLinkDown h
  case pcieLinkUp => exact sound_execPcieLinkUp h
  case xspiCommand => exact sound_execXspiCommand h
  case xspiWindowRead => exact sound_execXspiWindowRead h
  case i2cTransfer => exact sound_execI2cTransfer h
  case i2cClockTimeout => exact sound_execI2cClockTimeout h
  case smbalert => exact sound_execSmbalert h
  case memoryTrainingComplete => exact sound_execMemoryTrainingComplete h
  case bypass => exact sound_execBypass h
  case idcode => exact sound_execIdcode h
  case samplePreload => exact sound_execSamplePreload h
  case extest => exact sound_execExtest h
  case clamp => exact sound_execClamp h
  case highz => exact sound_execHighz h
  case hykiowReadWord => exact sound_execHykiowReadWord h
  case hykiowWriteWord => exact sound_execHykiowWriteWord h
  case hykiowStatus => exact sound_execHykiowStatus h
  case profileWrite => exact sound_execProfileWrite h
  case profileSwitch => exact sound_execProfileSwitch h
  case profileChangeComplete => exact sound_execProfileChangeComplete h
  case thermalForcedNeap => exact sound_execThermalForcedNeap h
  case ungate => exact sound_execUngate h
  case clkgate => exact sound_execClkgate h
  case pwrgate => exact sound_execPwrgate h
  case gdHold => exact sound_execGdHold h
  case unhold => exact sound_execUnhold h
  case gdReset => exact sound_execGdReset h
  case gdCmdUnknown => exact sound_execGdCmdUnknown h
  case gatingComplete => exact sound_execGatingComplete h
  case blkGateWrite => exact sound_execBlkGateWrite h
  case enter => exact sound_execEnter h
  case standbyRestart => exact sound_execStandbyRestart h
  case arm => exact sound_execArm h
  case disarm => exact sound_execDisarm h
  case ebbTrigger => exact sound_execEbbTrigger h
  case ebbSeal => exact sound_execEbbSeal h
  case ebbReturn => exact sound_execEbbReturn h
  case epochCmd => exact sound_execEpochCmd h
  case epochRebuild => exact sound_execEpochRebuild h
  case sysReset => exact sound_execSysReset h
  case otpRollback => exact sound_execOtpRollback h
  case otpRevoke => exact sound_execOtpRevoke h
  case otpBootcfg => exact sound_execOtpBootcfg h
  case powerOnReset => exact sound_execPowerOnReset h
  case poreset => exact sound_execPoreset h
  case watchdogExpiry => exact sound_execWatchdogExpiry h
  case watchdogHalf => exact sound_execWatchdogHalf h
  case aonKick => exact sound_execAonKick h
  case aonAlarm => exact sound_execAonAlarm h
  case aonCntLoRead who => exact sound_execAonCntLoRead (a := who) h
  case supplyWarning => exact sound_execSupplyWarning h
  case supplyGlitch => exact sound_execSupplyGlitch h
  case clockMonitorAlarm => exact sound_execClockMonitorAlarm h
  case tidePllLoss => exact sound_execTidePllLoss h
  case crystalLoss => exact sound_execCrystalLoss h
  case crystalLossTimeout => exact sound_execCrystalLossTimeout h
  case thermalWarning => exact sound_execThermalWarning h
  case bootRomRun => exact sound_execBootRomRun h
  case bootRetry => exact sound_execBootRetry h
  case featAcceptWrite => exact sound_execFeatAcceptWrite h
  case flock => exact sound_execFlock h
  case featureSetApply => exact sound_execFeatureSetApply h
  case pageOwnWrite => exact sound_execPageOwnWrite h
  case errStatusClear => exact sound_execErrStatusClear h
  case injHitClear => exact sound_execInjHitClear h
  case errEventSet => exact sound_execErrEventSet h
  case errEventClr => exact sound_execErrEventClr h
  case injUnlock => exact sound_execInjUnlock h
  case injLock => exact sound_execInjLock h
  case injectionWindowExpiry => exact sound_execInjectionWindowExpiry h
  case injCtrlWrite => exact sound_execInjCtrlWrite h
  case injectionFire => exact sound_execInjectionFire h
  case hykEnWrite => exact sound_execHykEnWrite h
  case counterRcRead => exact sound_execCounterRcRead h
  case registerWrite => exact sound_execRegisterWrite h
  case supplyReturn => exact sound_execSupplyReturn h
  case powerOff => exact sound_execPowerOff h
  case vddIo33Fall => exact sound_execVddIo33Fall h
  case crystalReturn => exact sound_execCrystalReturn h
  case tidePllRelock => exact sound_execTidePllRelock h
  case thermalAlarmClear => exact sound_execThermalAlarmClear h
  case modClockReturn => exact sound_execModClockReturn h
  case unsolicited => exact sound_execUnsolicited h

/-! ### The step -/

theorem sound_step {s : State} (h : Sound s) : NextSound (step s) := by
  unfold step
  split
  · exact h
  · exact sound_exec h.update

/-- Settles O60: the command at the front of the queue is one of those whose rules keep the contents canonical. -/
theorem soundKept : Obligations.SoundKept := by
  intro s t h hstep
  have hnext : NextSound (step s) := sound_step h
  rwa [hstep] at hnext

end Sys2Proof.Proofs
end

section
/-! PROOFS. Responses, and the posted stores that leave a core's queue (R87, R129, R234). -/

namespace Sys2Proof.Proofs

open Sys2Proof.Machine Sys2Proof.Claims

/-! ## What an event and a detector leave -/

/-- An arrival at a source is no change of a register page or a core. -/
theorem raise_rest (s : State) (i : Fin 2048) : (s.raise i).frames = s.frames ∧ (s.raise i).cores = s.cores := by
  unfold State.raise
  split
  · exact ⟨rfl, rfl⟩
  · split <;> exact ⟨rfl, rfl⟩

theorem raiseN_rest (s : State) (n : Nat) : (s.raiseN n).frames = s.frames ∧ (s.raiseN n).cores = s.cores := by
  unfold State.raiseN
  split
  · exact raise_rest s _
  · exact ⟨rfl, rfl⟩

/-- A detection sets its bit of ERR_STATUS and changes no core (R333). -/
theorem detect_errStatus (s : State) (page d : Nat) (injected : Bool) :
    ((s.detect page d injected).frame page).errStatus = (s.frame page).errStatus ||| bitMask d
      ∧ (s.detect page d injected).cores = s.cores := by
  unfold State.detect
  dsimp only
  have hset (f : Frame) : (s.setFrame page f).frame page = f := Laws.frame_setFrame_self s page f
  split
  · split
    next n _ =>
      obtain ⟨hframes, hcores⟩ := raiseN_rest (s.setFrame page _) n
      rw [State.frame, hframes]
      exact ⟨congrArg Frame.errStatus (hset _), hcores⟩
    · exact ⟨congrArg Frame.errStatus (hset _), rfl⟩
  · exact ⟨congrArg Frame.errStatus (hset _), rfl⟩

theorem bit_or_bitMask (w : Word) {d : Nat} (hd : d < 32) : bit (w ||| bitMask d) d = true := by
  change (w ||| bitMask d).getLsbD d = true
  simp [bitMask, hd, BitVec.getLsbD_ofNat, Nat.testBit_shiftLeft]

/-- A posted store that failed at an SRAM is counted by the cove's page, and changes no core (R87, R208). -/
theorem postedError_sram (s : State) (p : Posted) {n : Nat} (hn : region p.pa = .sram n) (hk : p.kind = .refused ∨ p.kind = .privRegion) :
    bit ((s.postedError p).frame (covePage n)).errStatus (if p.kind = .privRegion then 3 else 0) = true
      ∧ (s.postedError p).cores = s.cores := by
  have herr : s.postedError p = s.detect (covePage n) (if p.kind = .privRegion then 3 else 0) p.inj := by
    rcases hk with h | h <;> simp [State.postedError, servingPage, hn, h]
  obtain ⟨hstatus, hcores⟩ := detect_errStatus s (covePage n) (if p.kind = .privRegion then 3 else 0) p.inj
  rw [herr, hstatus]
  exact ⟨bit_or_bitMask _ (by split <;> decide), hcores⟩

/-! ## Responses and the queue -/

theorem answered_slot (s : State) (th : ThreadId) :
    let t := s.modSlot th.core th.slot Slot.answered
    ((t.core th.core).slot th.slot).wait = .none ∧ OnlyCore s t th.core ∧ t.topCtx th = s.topCtx th :=
  ⟨by simp [Slot.answered], onlyCore_modSlot s _ _ _, topCtx_modSlot s th _ fun _ => rfl⟩

theorem exec_accessResponse_access {s : State} {th : ThreadId} (h : Awaits s th) (a : Answer) :
    exec (.accessResponse th a) s = .next (s.modSlot th.core th.slot Slot.answered) := by
  simp only [Awaits] at h
  simp only [exec, execAccessResponse, h]

theorem evcOwesFor_iff (s : State) (src : Fin 2048) :
    s.evcOwesFor src = true ↔ ¬((s.source src).enClrAt = [] ∧ (s.source src).maskClr = []) := by
  rw [State.evcOwesFor, not_and_or, Bool.or_eq_true, decide_eq_true_iff, decide_eq_true_iff]

theorem exec_accessResponse_event {s : State} {th : ThreadId} {src : Fin 2048} (h : ((s.core th.core).slot th.slot).wait = .event src)
    (a : Answer) : exec (.accessResponse th a) s
      = .next (if (s.source src).enClrAt = [] ∧ (s.source src).maskClr = [] then s.modSlot th.core th.slot Slot.answered else s) := by
  simp only [exec, execAccessResponse, h, evcOwesFor_iff, ite_not]

theorem exec_postedStoreDrain_accepted {s : State} {k : Fin 128} {p : Posted} {r : List Posted} (h : (s.core k).posted = p :: r)
    (hk : p.kind = .accepted) (hd : p.data = []) :
    exec (.postedStoreDrain k) s = .next (s.modCore k fun c => { c with posted := r }) := by
  simp [exec, execPostedStoreDrain, h, hk, hd, State.pcieWrites]

theorem exec_postedStoreError_refused {s : State} {k : Fin 128} {p : Posted} {r : List Posted} (h : (s.core k).posted = p :: r)
    (hk : p.kind ≠ .accepted) :
    exec (.postedStoreError k) s = .next ((s.modCore k fun c => { c with posted := r }).postedError p) := by
  simp [exec, execPostedStoreError, h, hk]

/-- Settles O9: the response ends the wait, and the oldest posted store leaves the queue for its target or for the page that counts
its error. -/
theorem responsesArrive : Obligations.ResponsesArrive := by
  intro s th a k p r
  refine ⟨fun hw => ⟨_, exec_accessResponse_access hw a, answered_slot s th⟩, fun src hw => ⟨_, exec_accessResponse_event hw a, ?_⟩,
    fun hp hk hd => ⟨_, exec_postedStoreDrain_accepted hp hk hd, ?_⟩, fun hp hk n hn => ?_⟩
  · split
    · exact answered_slot s th
    · rfl
  · exact ⟨by simp, onlyCore_modCore s k _⟩
  · have hne : p.kind ≠ .accepted := by rcases hk with h | h <;> simp [h]
    obtain ⟨hbit, hcores⟩ := postedError_sram (s.modCore k fun c => { c with posted := r }) p hn hk
    refine ⟨_, exec_postedStoreError_refused hp hne, ?_, hbit⟩
    rw [State.core, hcores]
    exact congrArg Core.posted (Laws.core_modCore_self s k _)

end Sys2Proof.Proofs
end

section
/-! PROOFS. Word accesses to a group's own region (R39, R42, R55): forming the address changes no memory, a load reads what is there,
and a store changes its word and the log. -/

namespace Sys2Proof.Proofs

open Sys2Proof.Machine Sys2Proof.Claims

/-! ## Forming an address -/

/-- A lookup of an address touches no memory and no context: only the victim hint, an injection and what counts it (R162, R167). -/
structure Looked (s t : State) : Prop where
  mem : Laws.SameMem s t
  topCtx : ∀ th, t.topCtx th = s.topCtx th

theorem looked_refl (s : State) : Looked s s := ⟨.refl s, fun _ => rfl⟩

theorem looked_trans {s t u : State} (h : Looked s t) (g : Looked t u) : Looked s u :=
  ⟨h.mem.trans g.mem, fun th => (g.topCtx th).trans (h.topCtx th)⟩

theorem looked_of_cores {s t : State} (hm : Laws.SameMem s t) (hc : t.cores = s.cores) : Looked s t :=
  ⟨hm, fun th => by simp only [State.topCtx, State.core, hc]⟩

/-- A change of a core's entries is none of its contexts. -/
theorem looked_modCore (s : State) (k : Nat) (f : Core → Core)
    (hf : ∀ c, (f c).arch.banks = c.arch.banks ∧ (f c).arch.slots = c.arch.slots) : Looked s (s.modCore k f) := by
  refine ⟨Laws.sameMem_modCore s k f, fun th => ?_⟩
  obtain ⟨hbanks, hslots⟩ := hf (s.core th.core)
  have hcore : ((s.modCore k f).core th.core).arch.banks = (s.core th.core).arch.banks
      ∧ ((s.modCore k f).core th.core).arch.slots = (s.core th.core).arch.slots := by
    rw [Laws.core_modCore]
    split
    next hk => subst hk; exact ⟨hbanks, hslots⟩
    · exact ⟨rfl, rfl⟩
  simp only [State.topCtx, Core.ctx, Core.slot, hcore]

theorem looked_issuing (s : State) (th : ThreadId) : Looked s (issuing s th) := by
  refine ⟨Laws.sameMem_modCore s _ _, fun u => ?_⟩
  simp only [State.topCtx, issuing, Laws.core_modCore]
  split
  next hk => rw [hk, Laws.ctx_touchBank, Laws.slot_touchBank]
  · rfl

theorem looked_tlbParity (s : State) (k j : Nat) : Looked s (s.tlbParity k j) := by
  unfold State.tlbParity
  split
  · exact looked_refl s
  next m _ =>
    extract_lets s1
    have htaken := Laws.sameMem_takeInj s (corePage m) 1 (parityOf j)
    have hinj := congrArg State.cores (takeInj_rest s (corePage m) 1 (parityOf j))
    have hinj : (s.takeInj (corePage m) 1 (parityOf j)).2.cores = s.cores := hinj
    have hcores : s1.cores = s.cores := (detect_errStatus _ _ _ _).2.trans hinj
    have h1 : Looked s s1 := looked_of_cores (htaken.trans (Laws.sameMem_detect _ _ _ _)) hcores
    split
    · exact looked_trans h1 (looked_modCore s1 k _ fun _ => ⟨rfl, rfl⟩)
    · exact h1

theorem looked_translate (s : State) (i : Issuer) (q : Query) (va : Nat) : Looked s (s.translate i q va).2 := by
  unfold State.translate
  extract_lets s1 c vw
  have h1 : Looked s s1 := by
    unfold s1
    split
    · exact looked_tlbParity s _ _
    · exact looked_refl s
  split
  · exact looked_refl s
  · split
    · exact h1
    next j e _ =>
      have h2 : Looked s (s1.modCore i.core fun c => c.touchTlb j) :=
        looked_trans h1 (looked_modCore s1 i.core _ fun _ => ⟨rfl, rfl⟩)
      extract_lets s2 pa
      split
      · exact h2
      · split <;> exact h2

theorem looked_locate (s : State) (i : Issuer) (q : Query) : Looked s (s.locate i q).2 := by
  unfold State.locate
  split
  · exact looked_refl s
  · split
    · exact looked_refl s
    next va _ =>
      have h := looked_translate s i q va
      split
      next he =>
        rw [he] at h
        split <;> exact h
      next he =>
        rw [he] at h
        exact h

/-- The state in which an access of a parcel that issues has formed its address. -/
theorem looked_of_locate {s s1 : State} {th : ThreadId} {i : Issuer} {q : Query} {p : Place}
    (h : (issuing s th).locate i q = (.ok p, s1)) : Looked s s1 := by
  have hl := looked_locate (issuing s th) i q
  rw [h] at hl
  exact looked_trans (looked_issuing s th) hl

theorem sameMem_of_onlyCore {s t : State} {k : Nat} (h : OnlyCore s t k) : Laws.SameMem s t := by
  have hrest := h.1
  have hmem := congrArg State.mem hrest
  have htags := congrArg State.tags hrest
  have hecc := congrArg State.ecc hrest
  have hcode := congrArg State.code hrest
  have hcodeEcc := congrArg State.codeEcc hrest
  exact ⟨hmem, htags, hecc, hcode, hcodeEcc⟩

/-! ## A plain place of the region -/

/-- A place of the group's own region is in its own cove's SRAM (R208). -/
theorem region_of_inPrivate {s : State} {k pa : Nat} (h : s.inPrivate k pa = true) : region pa = .sram (k / 8) := by
  unfold State.inPrivate at h
  split at h
  next n hr =>
    simp only [Bool.and_eq_true, decide_eq_true_eq] at h
    rw [hr, h.1]
  · cases h

/-- A word whose check bits are in order passes its check. -/
theorem checkWord_clean {s : State} {pa n : Nat} (hr : region pa = .sram n) (h : s.eccAt pa = Ecc.clean) (scrub : Bool) :
    s.checkWord pa scrub = s := by
  simp [State.checkWord, hr, State.checkBits, h, Ecc.clean, Ecc.cls]

section PlainPlace

variable {s : State} {i : Issuer} {p : Place} {n : Nat} (hr : region p.pa = .sram n) (ha : p.pa % 4 = 0)
include hr

theorem not_viaCache_of_sram : p.viaCache = false := by simp [Place.viaCache, hr]

theorem pastCache_of_sram (m : Nat) : s.pastCache m p = s := by simp [State.pastCache, hr]

include ha

/-- A load of a Written word in order. -/
theorem targetLoad_written (ht : s.tagAt p.pa = .written) (hecc : s.eccAt p.pa = Ecc.clean) :
    s.targetLoad i p 4 = (.ok (s.wordAt p.pa, .written), s) := by
  have ha4 : p.pa / 4 * 4 = p.pa := by omega
  have hpeek : s.peek (i.core.val / 8) p = ((s.wordAt p.pa, .written), s) := by
    simp [State.peek, not_viaCache_of_sram hr, pastCache_of_sram hr, ha4, checkWord_clean hr hecc, ht]
  have hload : s.memLoad (i.core.val / 8) p i.cur = (.ok (s.wordAt p.pa, .written), s) := by
    simp [State.memLoad, hpeek, State.judgeTag]
  have hlane : lane (s.wordAt p.pa) p.pa 4 = s.wordAt p.pa := by
    simp only [lane, ha, word]
    exact BitVec.eq_of_toNat_eq (by simpa using (s.wordAt p.pa).isLt)
  simp [State.targetLoad, hr, State.taggedTarget, State.poolBarred, hload, hlane]

end PlainPlace

/-! ## The load -/

/-- A word load where its access answers (R98). -/
theorem responds_ldW {s s1 : State} {th : ThreadId} {x : Ctx} {d : DReg} {c : CReg} {disp : BitVec 14} {w : Word} {i : Instr}
    (h : s.ready th = some x) (hi : i = .ldW th d c disp ∨ i = .ldAcq th d c disp)
    (ha : (issuing s th).dataLoad (issuerOf th x) (query x c disp.toInt 4 loads) = (.ok w, s1)) (ht : s1.topCtx th = some x) :
    Responds s s1 th i { x with d := x.d.set d.val w } := by
  have hx := topCtx_issuing_of_ready h
  have hrun : loadOp c (fun _ => disp.toInt) 4 false d false th (issuing s th) = .done ((s1.setTop th (x.setD d w)).awaits th) := by
    have ha' : (issuing s th).dataLoad (issuerOf th x) { regQuery x c disp.toInt 4 loads none with short := false } = (.ok w, s1) := ha
    simp only [loadOp, hx, ha', Bool.false_eq_true, if_false]
  rcases hi with rfl | rfl
  · exact responds_of_run h rfl ht hrun
  · exact responds_of_run h rfl ht hrun

/-- Settles O8: forming the address changes no memory, and the target's word is what the four bytes hold. -/
theorem privateWordLoad : Obligations.PrivateWordLoad := by
  intro s s1 th x d c disp p h hloc ht hp i hi
  obtain ⟨hpriv, -, hheld, ha, hecc⟩ := hp
  have hlook := looked_of_locate hloc
  obtain ⟨hmem, htags, -, -, -⟩ := hlook.mem
  have hbyte (a : Nat) : s1.byteAt a = s.byteAt a := by simp only [State.byteAt, hmem]
  have hload : (issuing s th).dataLoad (issuerOf th x) (query x c disp.toInt 4 loads) = (.ok (s1.wordAt p.pa), s1) := by
    have hgroup : s1.groupLoad (issuerOf th x) p 4 false = (.ok (s1.wordAt p.pa, .written), s1) := by
      have hpriv' : s1.inPrivate (issuerOf th x).core p.pa = true := hpriv
      rw [State.groupLoad, if_pos hpriv', targetLoad_written (region_of_inPrivate hpriv) ha ht hecc]
    have hheld' : s1.heldBack (issuerOf th x).core p.pa = false := hheld
    simp only [State.dataLoad, hloc, hheld']
    rw [show (query x c disp.toInt 4 loads).size = 4 from rfl, hgroup]
    rfl
  obtain ⟨t, hexec, htop, -, hcore⟩ := responds_ldW h hi hload ((hlook.topCtx th).trans (Laws.topCtx_of_ready h))
  obtain ⟨htmem, httags, -, -, -⟩ := sameMem_of_onlyCore hcore
  refine ⟨t, hexec, ?_, fun a => ?_, fun a => ?_⟩
  · rw [htop]
    simp only [State.wordAt, hbyte]
  · rw [← hbyte a]
    simp only [State.byteAt, htmem]
  · simp only [State.tagAt, httags, htags]

/-! ## Stores into the group's own region -/

/-- What is put under a key that is not what an unlisted key reads as is read back, whatever the table's order. -/
theorem get_set_of_ne {α : Type} [DecidableEq α] (dflt : Nat → α) (t : Tbl α) (k : Nat) {v : α} (h : v ≠ dflt k) :
    (t.set dflt k v).get dflt k = v := by
  simp [Tbl.set, h, Tbl.get, Laws.cellsFind_cellsPut_self]

theorem mem_injectStore (s : State) (pa : Nat) : (s.injectStore pa).mem = s.mem := by
  have h := congrArg State.mem (injectStore_rest s pa)
  exact h

theorem wf_putWord_of_ring {s : State} {pa : Nat} (hr : (∃ n, region pa = .sram n) ∨ region pa = .nowhere) (w : Word) (t : Tag)
    (h : Memory.wf s.mem = true) : Memory.wf (s.putWord pa w t).mem = true := by
  rw [putWord_of_ring hr, mem_injectStore]
  exact Laws.wf_putBytes4 s pa w h

/-- A record's two words keep memory in order. -/
theorem wf_putWord2 {s : State} {a : Nat} (ha : (∃ n, region a = .sram n) ∨ region a = .nowhere)
    (hb : (∃ n, region (a + 4) = .sram n) ∨ region (a + 4) = .nowhere) (w : Word × Word) (h : Memory.wf s.mem = true) :
    Memory.wf ((s.putWord a w.1 .written).putWord (a + 4) w.2 .written).mem = true :=
  wf_putWord_of_ring hb w.2 .written (wf_putWord_of_ring ha w.1 .written h)

/-- A record keeps memory in order. -/
theorem wf_putRecord {s : State} {k : Nat} (hk : k < 128) (r : LogRec) (w : Word × Word) (h : Memory.wf s.mem = true) :
    Memory.wf (s.putRecord k r w).mem = true := by
  have hring (a : Nat) (h1 : recordPlace s k ≤ a) (h2 : a < recordPlace s k + 8) := region_of_ring hk (recordPlace_in_ring s k h1 h2)
  have hwf := wf_putWord2 (hring (recordPlace s k) (by omega) (by omega)) (hring (recordPlace s k + 4) (by omega) (by omega)) w h
  unfold recordPlace at hwf
  unfold State.putRecord
  dsimp only
  rwa [Laws.modCore_mem]

theorem wf_logRecord {s : State} {k : Nat} (hk : k < 128) (r : LogRec) (h : Memory.wf s.mem = true) :
    Memory.wf (s.logRecord k r).mem = true := by
  unfold State.logRecord
  dsimp only
  split
  · exact wf_putRecord hk _ _ h
  · rw [Laws.modCore_mem]
    refine wf_putRecord hk _ _ ?_
    split
    · exact wf_putRecord hk _ _ h
    · exact h

/-- What a store into the group's own region logs: undo records in the ring (R207). -/
theorem logStore_private {s : State} {k : Nat} (hk : k < 128) {pa : Nat} (hp : s.inPrivate k pa = true) (be : Nat) (data : List Word)
    (h : Memory.wf s.mem = true) : Recorded s (s.logStore k pa be data) k ∧ Memory.wf (s.logStore k pa be data).mem = true := by
  rw [State.logStore, if_pos hp]
  have hfold (l : List Nat) : ∀ t : State, Memory.wf t.mem = true →
      Recorded t (l.foldl (fun u a => u.logUndo k a) t) k ∧ Memory.wf (l.foldl (fun u a => u.logUndo k a) t).mem = true := by
    induction l with
    | nil => exact fun t ht => ⟨recorded_refl t k, ht⟩
    | cons a r ih =>
      intro t ht
      obtain ⟨hrec, hwf⟩ := ih (t.logUndo k a) (wf_logRecord hk _ ht)
      exact ⟨recorded_trans (recorded_logRecord t hk _) hrec, hwf⟩
  exact hfold _ s h

/-- A word store into SRAM with no injection waiting: its word is Written with the value, and no other byte has changed. -/
theorem storeWord_sram {s : State} {pa n : Nat} (hr : region pa = .sram n) (hq : quiet s) (h : Memory.wf s.mem = true) (w : Word) :
    (s.storeWord pa w).wordAt pa = w ∧ (s.storeWord pa w).tagAt pa = .written ∧ (s.storeWord pa w).cores = s.cores
      ∧ ∀ a, ¬(pa ≤ a ∧ a < pa + 4) → (s.storeWord pa w).byteAt a = s.byteAt a := by
  obtain ⟨s1, hs1, hmem, hcores, hinj⟩ : ∃ s1 : State, s.storeWord pa w = s1.putWord pa w .written
      ∧ s1.mem = s.mem ∧ s1.cores = s.cores ∧ s1.inj = s.inj := by
    refine ⟨_, rfl, ?_⟩
    simp only [hr, reduceCtorEq, if_false]
    split <;> exact ⟨rfl, rfl, rfl⟩
  have hq1 : quiet s1 := by simpa only [quiet, hinj] using hq
  have hwf : Memory.wf s1.mem = true := by rwa [hmem]
  rw [hs1, putWord_of_ring (.inl ⟨n, hr⟩), injectStore_quiet (s := ((s1.putBytes4 pa w).putTag pa .written).putEcc pa Ecc.clean) pa hq1]
  refine ⟨Laws.wordAt_putBytes4_self s1 pa w hwf, get_set_of_ne tagDefault _ _ (by simp [tagDefault]), hcores, fun a ha => ?_⟩
  refine (Laws.byteAt_putBytes4_ne s1 pa w a ha).trans ?_
  simp only [State.byteAt, hmem]

/-- A posted word store into the group's own region: what it logs, the store, and its place in the queue (R87, R207). -/
theorem postedPut_private {s : State} {i : Issuer} {q : Query} {p : Place} {w : Word} (hp : plainPlace s i.core p.pa)
    (hf : (s.core i.core).postedFull = false) (hq : quiet s) :
    s.postedPut i q p [w] false (fun t => t.targetStore i p w)
      = (.ok (), ((((s.logStore i.core p.pa 0xF [w]).storeWord p.pa w).post i p .accepted false [w]).passWords i.core
          (s.storedWords p.pa false))) := by
  obtain ⟨hpriv, hforeign, hheld, -, -⟩ := hp
  have hr := region_of_inPrivate hpriv
  have hkind : s.postedKind i p = ((.accepted, false), s) := by
    simp [State.postedKind, State.foreignWrite, hr, Laws.takeInj_quiet _ _ _ _ hq, hforeign]
  have hstore (t : State) : t.targetStore i p w = t.storeWord p.pa w := by
    simp [State.targetStore, hr, State.memStore, not_viaCache_of_sram hr, pastCache_of_sram hr]
  simp [State.postedPut, State.storeRefused, hr, hheld, hf, hkind, State.outStore, hpriv, hstore]

/-- A store's place in the queue, and the words it passes, are the core's own (R87, R213). -/
theorem looked_queued (s : State) (i : Issuer) (p : Place) (kind : PostedKind) (data : List Word) (k : Nat) (pas : List Nat) :
    Looked s ((s.post i p kind false data).passWords k pas) :=
  have hpost : Looked s (s.post i p kind false data) := looked_modCore s i.core _ fun _ => ⟨rfl, rfl⟩
  looked_trans hpost (looked_modCore _ k _ fun _ => ⟨rfl, rfl⟩)

/-- A posted word store of a thread, as an operation (R98). -/
theorem posts_stW {s s1 : State} {th : ThreadId} {x : Ctx} {d : DReg} {c : CReg} {disp : BitVec 14} {i : Instr}
    (h : s.ready th = some x) (hi : i = .stW th d c disp ∨ i = .stRel th d c disp)
    (ha : (issuing s th).wordStore (issuerOf th x) (query x c disp.toInt 4 stores) x.d[d.val] = (.ok (), s1)) (ht : s1.topCtx th = some x) :
    Posts s s1 th i x := by
  have hx := topCtx_issuing_of_ready h
  have ha' : (issuing s th).wordStore (issuerOf th x) { regQuery x c disp.toInt 4 stores none with short := false } (x.getD d)
      = (.ok (), s1) := ha
  have hrun : storeOp c (fun _ => disp.toInt) d false th (issuing s th) = .done s1 := by simp only [storeOp, hx, ha']
  rcases hi with rfl | rfl
  · exact posts_of_run h rfl ht hrun
  · exact posts_of_run h rfl ht hrun

/-- Settles O7: the undo record goes into the ring, the target stores the word, and the queue and the log's place are the core's own. -/
theorem privateWordStore : Obligations.PrivateWordStore := by
  intro s s1 th x d c disp p h hloc hwf hp hf hq i hi
  have hlook := looked_of_locate hloc
  have hk : th.core.val < 128 := th.core.isLt
  have hpriv := hp.1
  obtain ⟨hrec, hwf2⟩ := logStore_private hk hpriv 0xF [x.d[d.val]] hwf
  obtain ⟨hword, htag, hcores, hbytes⟩ :=
    storeWord_sram (region_of_inPrivate hpriv) (quiet_of_recorded hrec hq) hwf2 x.d[d.val]
  generalize hs3 : (s1.logStore th.core p.pa 0xF [x.d[d.val]]).storeWord p.pa x.d[d.val] = s3 at hword htag hcores hbytes
  have hstore : (issuing s th).wordStore (issuerOf th x) (query x c disp.toInt 4 stores) x.d[d.val]
      = (.ok (), ((s3.post (issuerOf th x) p .accepted false [x.d[d.val]]).passWords th.core (s1.storedWords p.pa false))) := by
    have hput := postedPut_private (s := s1) (i := issuerOf th x) (q := query x c disp.toInt 4 stores) (w := x.d[d.val]) hp hf hq
    simp only [State.wordStore, hloc]
    rw [hput, ← hs3]
    rfl
  have htop3 : s3.topCtx th = some x := by
    have h3 : s3.topCtx th = (s1.logStore th.core p.pa 0xF [x.d[d.val]]).topCtx th := by simp only [State.topCtx, State.core, hcores]
    rw [h3, topCtx_of_recorded hrec, hlook.topCtx, Laws.topCtx_of_ready h]
  have hpost := looked_queued s3 (issuerOf th x) p .accepted [x.d[d.val]] th.core (s1.storedWords p.pa false)
  obtain ⟨t, hexec, htop, hcore, -⟩ := posts_stW h hi hstore ((hpost.topCtx th).trans htop3)
  obtain ⟨htmem, httags, -, -, -⟩ := hpost.mem.trans (sameMem_of_onlyCore hcore)
  refine ⟨t, hexec, ?_, ?_, htop, fun a ha hlog => ?_⟩
  · rw [← hword]; simp only [State.wordAt, State.byteAt, htmem]
  · rw [← htag]; simp only [State.tagAt, httags]
  · have h0 : t.byteAt a = s3.byteAt a := by simp only [State.byteAt, htmem]
    obtain ⟨hmem, -⟩ := hlook.mem
    rw [h0, hbytes a ha, hrec.bytes a hlog]
    simp only [State.byteAt, hmem]

end Sys2Proof.Proofs
end

section
/-! PROOFS. Fences (R59, R108): what a fence that issues leaves, and what its completion does. -/

namespace Sys2Proof.Proofs

open Sys2Proof.Machine Sys2Proof.Claims

/-! ## Memory and its check bits are no core's -/

theorem cores_detect (s : State) (page d : Nat) (injected : Bool) : (s.detect page d injected).cores = s.cores :=
  (detect_errStatus s page d injected).2

theorem cores_poison (s : State) (pa n : Nat) : (s.poison pa n).cores = s.cores := by
  induction n generalizing s pa with
  | zero => rfl
  | succ n ih => exact ih ((s.putTag pa .poisoned).putEcc pa Ecc.clean) (pa + 4)

theorem cores_poisonTags (s : State) (pa n : Nat) : (s.poisonTags pa n).cores = s.cores := by
  induction n generalizing s pa with
  | zero => rfl
  | succ n ih => exact ih (s.putTag pa .poisoned) (pa + 4)

theorem cores_poisonFor (s : State) (pa : Nat) : (s.poisonFor pa).cores = s.cores := by
  unfold State.poisonFor
  split <;> exact cores_poison s _ _

theorem cores_countBeat (s : State) (pa cls : Nat) : (s.countBeat pa cls).cores = s.cores := rfl

theorem cores_checkCarve (s : State) (pa : Nat) : (s.checkCarve pa).cores = s.cores := by
  have hput (n : Nat) : ((s.countBeat pa n).putCarve pa Ecc.clean).cores = s.cores := rfl
  unfold State.checkCarve
  dsimp only
  split
  · rfl
  · split
    · rw [cores_detect, cores_poisonTags, hput]
    · exact hput _

/-- What a check of a word counts: on a cove's page, on a memory controller's, or nowhere. -/
def counted (s : State) (pa cls : Nat) (scrub : Bool) : State :=
  match region pa with
  | .sram n =>
    let c := (s.cove n).recordEcc cls ((pa - coveBase n) / 4) scrub
    s.setCove n (if cls = 3 || scrub then c else c.enqueue (.word ((pa - coveBase n) / 4)))
  | .ext => s.countBeat pa cls
  | _ => s

theorem cores_counted (s : State) (pa cls : Nat) (scrub : Bool) : (counted s pa cls scrub).cores = s.cores := by
  unfold counted
  split <;> rfl

theorem cores_checkBits (s : State) (pa : Nat) (scrub : Bool) : (s.checkBits pa scrub).cores = s.cores := by
  have hcounted := cores_counted s pa ((s.eccAt pa).cls pa) scrub
  unfold State.checkBits
  dsimp only
  split
  · rfl
  · change State.cores (if _ then (match eccDetector pa with
      | some (page, d, _) => ((counted s pa ((s.eccAt pa).cls pa) scrub).poisonFor pa).detect page d (s.eccAt pa).inj
      | none => (counted s pa ((s.eccAt pa).cls pa) scrub).poisonFor pa) else _) = s.cores
    split
    · split
      · rw [cores_detect, cores_poisonFor, hcounted]
      · rw [cores_poisonFor, hcounted]
    · split
      · exact hcounted
      · split <;> exact hcounted

theorem cores_checkWord (s : State) (pa : Nat) (scrub : Bool) : (s.checkWord pa scrub).cores = s.cores := by
  unfold State.checkWord
  split
  · rw [cores_checkCarve, cores_checkBits]
  · exact cores_checkBits s pa scrub

theorem cores_injectStore (s : State) (pa : Nat) : (s.injectStore pa).cores = s.cores := by
  have h := congrArg State.cores (injectStore_rest s pa)
  exact h

theorem cores_putWord (s : State) (pa : Nat) (w : Word) (t : Tag) : (s.putWord pa w t).cores = s.cores := by
  unfold State.putWord
  extract_lets s0
  have h0 : s0.cores = s.cores := by
    unfold s0
    split
    · rfl
    · exact cores_checkWord s pa false
    · rfl
  rw [cores_injectStore]
  exact h0

theorem cores_putPair (s : State) (pa : Nat) (w0 w1 : Word) (t0 t1 : Tag) : (s.putPair pa w0 w1 t0 t1).cores = s.cores := by
  unfold State.putPair
  split
  · rw [cores_injectStore]
    exact cores_checkCarve s pa
  · rw [cores_putWord, cores_putWord]

theorem cores_writePairs (s : State) (pa : Nat) (l : CacheLine) (all : Bool) (n : Nat) : (s.writePairs pa l all n).cores = s.cores := by
  induction n generalizing s with
  | zero => rfl
  | succ n ih =>
    unfold State.writePairs
    rw [ih]
    split
    · exact cores_putPair ..
    · split
      · exact cores_putWord ..
      · split
        · exact cores_putWord ..
        · rfl

theorem cores_writeLine (s : State) (pa : Nat) (l : CacheLine) : (s.writeLine pa l).cores = s.cores := by
  unfold State.writeLine
  split
  · rfl
  · split
    · exact cores_detect ..
    · exact cores_writePairs { s with free := s.free + 1 } pa l _ 8

theorem cores_writeLines (s : State) (ls : List (Nat × CacheLine)) : (s.writeLines ls).cores = s.cores := by
  induction ls generalizing s with
  | nil => rfl
  | cons e r ih => exact (ih _).trans (cores_writeLine s _ _)

theorem cores_cacheFlush (s : State) (n : Nat) : (s.cacheFlush n).cores = s.cores := cores_writeLines s _

/-! ## Fetch buffers that FENCE.C discards -/

/-- What FENCE.C does to the cores: a fetch buffer is as it was or empty, and a vector buffer may be no longer in order. -/
structure Refetched (s t : State) : Prop where
  rest : { t with cores := s.cores } = s
  banks : ∀ k, (t.core k).arch.banks = (s.core k).arch.banks
  slot : ∀ k sl, (t.core k).slot sl = (s.core k).slot sl ∨ (t.core k).slot sl = { (s.core k).slot sl with buf := [] }

/-- A core holds no parcel of a list in its fetch buffers. -/
def Unheld (l : List Nat) (c : Core) : Prop := ∀ sl f, f ∈ (c.slot sl).buf → codeIndex f.adr ∉ l

theorem refetched_refl (s : State) : Refetched s s := ⟨rfl, fun _ => rfl, fun _ _ => .inl rfl⟩

theorem slot_refetch (c : Core) (l : List Nat) (sl : Fin 8) :
    (c.refetch l).slot sl = if holdsAny l (c.slot sl).buf then { c.slot sl with buf := [] } else c.slot sl := by
  unfold Core.refetch Core.slot
  simp only [Vector.getElem_map]

theorem unheld_refetch (c : Core) (l : List Nat) : Unheld l (c.refetch l) := by
  intro sl f hf
  rw [slot_refetch] at hf
  split at hf
  · cases hf
  next h => exact fun hl => h (List.any_eq_true.mpr ⟨f, hf, List.contains_iff_mem.mpr hl⟩)

theorem unheld_modCore {s : State} {l l' : List Nat} {j k : Nat} (h : Unheld l (s.core j)) :
    Unheld l ((s.modCore k fun c => c.refetch l').core j) := by
  rw [Laws.core_modCore]
  split
  next hj =>
    subst hj
    intro sl f hf
    rw [slot_refetch] at hf
    split at hf
    · cases hf
    · exact h sl f hf
  · exact h

theorem refetched_modCore {s t : State} (h : Refetched s t) (k : Nat) (l : List Nat) : Refetched s (t.modCore k fun c => c.refetch l) := by
  refine ⟨h.rest, fun j => ?_, fun j sl => ?_⟩
  · rw [Laws.core_modCore]
    split
    next hj => subst hj; exact h.banks j
    · exact h.banks j
  · rw [Laws.core_modCore]
    split
    next hj =>
      subst hj
      rw [slot_refetch]
      split
      · rcases h.slot j sl with hs | hs <;> exact .inr (by rw [hs])
      · exact h.slot j sl
    · exact h.slot j sl

theorem cove_of_refetched {s t : State} (h : Refetched s t) (n : Nat) : t.cove n = s.cove n := by
  have hcoves := congrArg State.coves h.rest
  have hcoves : t.coves = s.coves := hcoves
  simp only [State.cove, hcoves]

theorem leaders_of_refetched {s t : State} (h : Refetched s t) (n : Nat) : t.leaders n = s.leaders n := by
  have hrole (k : Nat) : t.role k = s.role k := by simp only [State.role, cove_of_refetched h]
  have hleader (k : Nat) : t.isLeader k = s.isLeader k := by unfold State.isLeader; rw [hrole]
  simp only [State.leaders, hleader]

/-- A pass over a list whose every turn keeps `I`, and gives its own element `Q`, which later turns keep. -/
theorem foldl_each {α σ : Type} {I : σ → Prop} {Q : α → σ → Prop} {f : σ → α → σ} (hI : ∀ t a, I t → I (f t a))
    (hgive : ∀ t a, I t → Q a (f t a)) (hkeep : ∀ t a b, I t → Q b t → Q b (f t a)) (l : List α) :
    ∀ t, I t → I (l.foldl f t) ∧ (∀ b, Q b t → Q b (l.foldl f t)) ∧ ∀ a ∈ l, Q a (l.foldl f t) := by
  induction l with
  | nil => exact fun t ht => ⟨ht, fun b hb => hb, fun a ha => by cases ha⟩
  | cons c r ih =>
    intro t ht
    obtain ⟨hinv, hstays, hall⟩ := ih (f t c) (hI t c ht)
    refine ⟨hinv, fun b hb => hstays b (hkeep t c b ht hb), fun a ha => ?_⟩
    rcases List.mem_cons.mp ha with rfl | ha
    · exact hstays _ (hgive t _ ht)
    · exact hall a ha

/-- The cores of a cove that a FENCE.C goes through. -/
theorem refetchCove_core {s t : State} (h : Refetched s t) (th : ThreadId) (n : Nat) :
    Refetched s (t.refetchCove th n) ∧ (∀ l j, Unheld l (t.core j) → Unheld l ((t.refetchCove th n).core j))
      ∧ ∀ k ∈ s.leaders n, Unheld ((s.cove n).written th) ((t.refetchCove th n).core k) := by
  have hpass := foldl_each (I := Refetched s) (Q := fun k u => Unheld ((s.cove n).written th) (u.core k))
    (f := fun u k => u.modCore k fun c => c.refetch ((s.cove n).written th)) (fun u k hu => refetched_modCore hu k _)
    (fun u k _ => by rw [Laws.core_modCore_self]; exact unheld_refetch _ _) (fun u k j _ hj => unheld_modCore hj) (s.leaders n) t h
  have hothers (l : List Nat) (j : Nat) := foldl_each (I := fun u : State => Unheld l (u.core j)) (Q := fun (_ : Nat) _ => True)
    (f := fun u k => u.modCore k fun c => c.refetch ((s.cove n).written th)) (fun u k hu => unheld_modCore hu)
    (fun _ _ _ => trivial) (fun _ _ _ _ _ => trivial) (s.leaders n) t
  unfold State.refetchCove
  rw [cove_of_refetched h, leaders_of_refetched h]
  dsimp only
  split
  next hnil => exact ⟨h, fun _ _ hl => hl, fun k _ sl f _ => by rw [hnil]; exact List.not_mem_nil⟩
  · exact ⟨hpass.1, fun l j hl => (hothers l j hl).1, hpass.2.2⟩

/-- FENCE.C leaves no fetch buffer of any group with a parcel that the thread overwrote. -/
theorem refetched_all (s : State) (th : ThreadId) :
    let t := (List.range 16).foldl (fun t n => t.refetchCove th n) s
    Refetched s t ∧ ∀ n < 16, ∀ k ∈ s.leaders n, Unheld ((s.cove n).written th) (t.core k) := by
  have hpass := foldl_each (I := Refetched s) (Q := fun n u => ∀ k ∈ s.leaders n, Unheld ((s.cove n).written th) (u.core k))
    (f := fun u n => u.refetchCove th n) (fun u n hu => (refetchCove_core hu th n).1) (fun u n hu => (refetchCove_core hu th n).2.2)
    (fun u n m hu hm k hk => (refetchCove_core hu th n).2.1 _ k (hm k hk)) (List.range 16) s (refetched_refl s)
  exact ⟨hpass.1, fun n hn => hpass.2.2 n (List.mem_range.mpr hn)⟩

theorem topCtx_of_refetched {s t : State} (h : Refetched s t) (th : ThreadId) : t.topCtx th = s.topCtx th := by
  have htop : ((t.core th.core).slot th.slot).top = ((s.core th.core).slot th.slot).top := by
    rcases h.slot th.core th.slot with hs | hs <;> rw [hs]
  simp only [State.topCtx, Core.ctx, h.banks, htop]

theorem mem_leaders {s : State} {k : Nat} (h : s.isLeader k = true) : k ∈ s.leaders (k / 8) := by
  refine List.mem_filter.mpr ⟨List.mem_map.mpr ⟨k % 8, List.mem_range.mpr (by omega), by omega⟩, h⟩

/-! ## A fence that issues -/

/-- A thread's slot changed in nothing of its fetch buffer. -/
theorem buf_modSlot (s : State) (j k : Nat) (sl i : Fin 8) (f : Slot → Slot) (h : ∀ y, (f y).buf = y.buf) :
    (((s.modSlot k sl f).core j).slot i).buf = ((s.core j).slot i).buf := by
  unfold State.modSlot
  rw [Laws.core_modCore]
  split
  next hj =>
    subst hj
    rw [Laws.slot_setSlot]
    split
    next hi => subst hi; exact h _
    · rfl
  · rfl

theorem buf_setTop (s : State) (th : ThreadId) (x : Ctx) (j : Nat) (i : Fin 8) :
    (((s.setTop th x).core j).slot i).buf = ((s.core j).slot i).buf := by
  unfold State.setTop
  rw [Laws.core_modCore]
  split
  next hj => subst hj; rfl
  · rfl

theorem buf_stepOver (s : State) (th : ThreadId) (j : Nat) (i : Fin 8) :
    (((s.stepOver th).core j).slot i).buf = ((s.core j).slot i).buf := by
  unfold State.stepOver
  refine (buf_modSlot _ j th.core th.slot i (fun y => { y with answers := [], given := [], stale := false }) fun _ => rfl).trans ?_
  cases s.topCtx th with
  | none => rfl
  | some x => exact buf_setTop s th _ j i

theorem buf_keepBefore (s t : State) (th : ThreadId) (j : Nat) (i : Fin 8) :
    (((s.keepBefore t th).core j).slot i).buf = ((t.core j).slot i).buf := by
  rcases keepBefore_cases s t th with h | h <;> rw [h]
  exact buf_modSlot t _ _ _ _ _ fun _ => rfl

/-- The end of a parcel of a fence, whatever it did to the cores before. -/
theorem awaits_fence {s u : State} {th : ThreadId} {x : Ctx} {i : Instr} {run : Op} {kind : FenceKind} (h : s.ready th = some x)
    (hr : run th (issuing s th) = .done (u.awaitFence th kind)) (hu : u.topCtx th = some x) :
    let t := s.issue th i (plainOp run)
    ((t.core th.core).slot th.slot).wait = .fence kind ∧ t.topCtx th = some (nextParcel x) ∧ OnlyCore u t th.core
      ∧ ∀ j sl, ((t.core j).slot sl).buf = ((u.core j).slot sl).buf := by
  intro t
  have htop : (u.awaitFence th kind).topCtx th = some x := 
    (topCtx_modSlot u th (fun y => { y with wait := .fence kind }) fun _ => rfl).trans hu
  have ht : t = (issuing s th).keepBefore ((u.awaitFence th kind).stepOver th) th := issue_plainOp_done h hr
  rw [ht]
  refine ⟨?_, ?_, ?_, fun j sl => ?_⟩
  · simp [State.awaitFence]
  · simp [Laws.topCtx_stepOver, htop, nextParcel]
  · exact onlyCore_trans (onlyCore_modSlot u _ _ _) (onlyCore_trans (onlyCore_stepOver _ th) (onlyCore_keepBefore _ _ th))
  · rw [buf_keepBefore, buf_stepOver]
    exact buf_modSlot u _ _ _ _ _ fun _ => rfl

/-- What a fence that issues leaves. -/
def FenceIssued (s : State) (th : ThreadId) (x : Ctx) (kind : FenceKind) (t : State) : Prop :=
  ((t.core th.core).slot th.slot).wait = .fence kind ∧ t.topCtx th = some (nextParcel x) ∧ { t with cores := s.cores } = s
    ∧ (kind ≠ .c → OnlyCore s t th.core)
    ∧ (kind = .c → ∀ k, k < 128 → s.isLeader k = true → ∀ sl f, f ∈ ((t.core k).slot sl).buf →
        (th, codeIndex f.adr) ∉ (s.cove (k / 8)).dirty)

theorem fenceIssued_plain {s : State} {th : ThreadId} {x : Ctx} (i : Instr) {kind : FenceKind} (h : s.ready th = some x)
    (hkind : kind ≠ .c) : FenceIssued s th x kind (s.issue th i (plainOp (fenceOp kind))) := by
  obtain ⟨hwait, htop, hcore, -⟩ := awaits_fence (i := i) (run := fenceOp kind) (kind := kind) h rfl (topCtx_issuing_of_ready h)
  have hcore' := onlyCore_trans (onlyCore_issuing s th) hcore
  exact ⟨hwait, htop, hcore'.1, fun _ => hcore', fun hc => absurd hc hkind⟩

/-- Nothing but cores has changed where buffers were discarded and then one core went on. -/
theorem rest_of_refetched {s u t : State} {th : ThreadId} {k : Nat} (h : Refetched (issuing s th) u) (g : OnlyCore u t k) :
    { t with cores := s.cores } = s := by
  have hrest := congrArg (fun r : State => { r with cores := s.cores }) g.1
  have href := congrArg (fun r : State => { r with cores := s.cores }) h.rest
  exact hrest.trans href

theorem fenceIssued_c {s : State} {th : ThreadId} {x : Ctx} (h : s.ready th = some x) :
    FenceIssued s th x .c (s.issue th (.fenceC th) opFenceC) := by
  obtain ⟨href, hclear⟩ := refetched_all (issuing s th) th
  have hrun : opFenceC.run th (issuing s th)
      = .done (((List.range 16).foldl (fun t n => t.refetchCove th n) (issuing s th)).awaitFence th .c) := rfl
  generalize (List.range 16).foldl (fun t n => t.refetchCove th n) (issuing s th) = u at href hclear hrun
  obtain ⟨hwait, htop, hcore, hbuf⟩ := awaits_fence (i := .fenceC th) h hrun
    ((topCtx_of_refetched href th).trans (topCtx_issuing_of_ready h))
  refine ⟨hwait, htop, rest_of_refetched href hcore, fun hc => absurd rfl hc, fun _ k hk hleader sl f hf hdirty => ?_⟩
  rw [show s.issue th (.fenceC th) opFenceC = s.issue th (.fenceC th) (plainOp opFenceC.run) from rfl, hbuf] at hf
  refine hclear (k / 8) (by omega) k (mem_leaders hleader) sl f hf ?_
  exact List.mem_map.mpr ⟨_, List.mem_filter.mpr ⟨hdirty, by simp⟩, rfl⟩

/-! ## A fence that completes -/

theorem exec_fenceComplete {s : State} {th : ThreadId} {k : FenceKind} (h : ((s.core th.core).slot th.slot).wait = .fence k) :
    exec (.fenceComplete th) s
      = .next (if s.fenceDone th k then (s.fenceEffect th k).modSlot th.core th.slot fun y => { y with wait := .none } else s) := by
  change execFenceComplete th s = _
  simp only [execFenceComplete, h]

/-- A fence that has only its thread wait. -/
theorem fenceComplete_plain {s : State} {th : ThreadId} {k : FenceKind} (h : ((s.core th.core).slot th.slot).wait = .fence k)
    (hd : s.fenceDone th k = true) (he : s.fenceEffect th k = s) :
    Answers (.fenceComplete th) s fun t => ((t.core th.core).slot th.slot).wait = .none ∧ OnlyCore s t th.core := by
  refine ⟨_, exec_fenceComplete h, ?_⟩
  rw [if_pos hd, he]
  exact ⟨by simp, onlyCore_modSlot s _ _ _⟩

/-- FENCE.M's effect (R59, R312). -/
theorem fenceComplete_m {s : State} {th : ThreadId} (h : ((s.core th.core).slot th.slot).wait = .fence .m)
    (hd : s.fenceDone th .m = true) :
    Answers (.fenceComplete th) s fun t => ((t.core th.core).slot th.slot).wait = .none
        ∧ (t.cove (th.core / 8)).cache = Tbl.empty ∧ t.undurable = []
        ∧ ({ s.cacheFlush (th.core / 8) with undurable := [], cores := t.cores } : State) = t
        ∧ ∀ j, j ≠ th.core.val → t.core j = s.core j := by
  refine ⟨_, exec_fenceComplete h, ?_⟩
  rw [if_pos hd]
  have hcores : (s.fenceEffect th .m).cores = s.cores := cores_cacheFlush s (th.core / 8)
  have hcache : ((s.fenceEffect th .m).cove (th.core / 8)).cache = Tbl.empty := by
    change (((s.writeLines _).setCove _ _).cove _).cache = _
    rw [Laws.cove_setCove_self]
  refine ⟨by simp, hcache, rfl, rfl, fun j hj => ?_⟩
  rw [(onlyCore_modSlot _ _ _ _).2 j hj]
  simp only [State.core, hcores]

/-- The entries of a thread leave a cove's list of overwritten parcels, and no core changes. -/
theorem undirty_all (s : State) (th : ThreadId) (l : List Nat) :
    let t := l.foldl (fun t n => t.modCove n fun c => { c with dirty := c.dirty.filter fun e => decide (e.1 ≠ th) }) s
    t.cores = s.cores ∧ ∀ n, (t.cove n).dirty = if n ∈ l then (s.cove n).dirty.filter fun e => decide (e.1 ≠ th) else (s.cove n).dirty := by
  induction l generalizing s with
  | nil => exact ⟨rfl, fun n => by simp⟩
  | cons m r ih =>
    obtain ⟨hcores, hdirty⟩ := ih (s.modCove m fun c => { c with dirty := c.dirty.filter fun e => decide (e.1 ≠ th) })
    refine ⟨hcores, fun n => ?_⟩
    rw [List.foldl_cons, hdirty, Laws.cove_modCove]
    by_cases hn : n = m
    · subst hn; simp
    · simp [hn]

/-- FENCE.C's completion forgets the thread's overwritten parcels (R119). -/
theorem fenceComplete_c {s : State} {th : ThreadId} (h : ((s.core th.core).slot th.slot).wait = .fence .c)
    (hd : s.fenceDone th .c = true) :
    Answers (.fenceComplete th) s fun t => ((t.core th.core).slot th.slot).wait = .none
      ∧ (∀ n, n < 16 → ∀ e, e ∈ (t.cove n).dirty → e.1 ≠ th) ∧ ∀ j, j ≠ th.core.val → t.core j = s.core j := by
  refine ⟨_, exec_fenceComplete h, ?_⟩
  rw [if_pos hd]
  have heffect : (s.fenceEffect th .c).cores = s.cores ∧ ∀ n < 16, ∀ e ∈ ((s.fenceEffect th .c).cove n).dirty, e.1 ≠ th := by
    obtain ⟨hcores, hdirty⟩ := undirty_all s th ((List.range 16).filter fun n => decide ((s.cove n).written th ≠ []))
    generalize hu : ((List.range 16).filter fun n => decide ((s.cove n).written th ≠ [])).foldl (fun t n =>
      t.modCove n fun c => { c with dirty := c.dirty.filter fun e => decide (e.1 ≠ th) }) s = u at hcores hdirty
    have hclear : ∀ n < 16, ∀ e ∈ (u.cove n).dirty, e.1 ≠ th := by
      intro n hn e he hth
      rw [hdirty] at he
      by_cases hw : (s.cove n).written th = []
      · have hmem : e ∈ (s.cove n).dirty := by simpa [hw] using he
        have : e.2 ∈ (s.cove n).written th := List.mem_map.mpr ⟨e, List.mem_filter.mpr ⟨hmem, by simp [hth]⟩, rfl⟩
        rw [hw] at this
        cases this
      · simp [hn, hw, hth] at he
    unfold State.fenceEffect
    dsimp only
    rw [hu]
    split
    · exact ⟨hcores, hclear⟩
    · exact ⟨hcores, hclear⟩
  obtain ⟨hcores, hclear⟩ := heffect
  refine ⟨by simp, hclear, fun j hj => ?_⟩
  rw [(onlyCore_modSlot _ _ _ _).2 j hj]
  simp only [State.core, hcores]

/-- Settles O35: what issues is one of two cases, FENCE.C and the others, and what completes is judged kind by kind. -/
theorem fenceResult : Obligations.FenceResult := by
  intro s th x kind waits own
  refine ⟨fun h i hi => ?_, fun h => ⟨?_, ?_, ?_, ?_, ?_, ?_⟩⟩
  · subst hi
    cases kind with
    | l => exact ⟨_, rfl, fenceIssued_plain _ h (by simp)⟩
    | m => exact ⟨_, rfl, fenceIssued_plain _ h (by simp)⟩
    | io => exact ⟨_, rfl, fenceIssued_plain _ h (by simp)⟩
    | t => exact ⟨_, rfl, fenceIssued_plain _ h (by simp)⟩
    | c => exact ⟨_, rfl, fenceIssued_c h⟩
  · rintro rfl hp
    refine fenceComplete_plain h ?_ rfl
    simpa [State.fenceDone, own] using fun p hp' hs => hp p ⟨hp', hs⟩
  · rintro rfl hp
    refine fenceComplete_m h ?_
    simpa [State.fenceDone, own] using fun p hp' hs => hp p ⟨hp', hs⟩
  · rintro rfl hp hevc
    refine fenceComplete_plain h ?_ rfl
    simpa [State.fenceDone, hevc, own] using fun p hp' hs => hp p ⟨hp', hs⟩
  · rintro rfl hb
    refine fenceComplete_plain h ?_ rfl
    simpa [State.fenceDone] using hb
  · rintro rfl hv
    refine fenceComplete_c h ?_
    simpa [State.fenceDone] using hv
  · rintro hk ⟨p, ⟨hp, hslot⟩, hdev⟩
    refine ⟨_, exec_fenceComplete h, if_neg ?_⟩
    rcases hk with rfl | rfl
    · simpa [State.fenceDone] using ⟨p, hp, hslot⟩
    · have hdevice : p.device = true := hdev.resolve_left (by simp)
      simpa [State.fenceDone] using fun hnone => absurd hdevice (by simp [hnone p hp hslot])

end Sys2Proof.Proofs
end

section
/-! PROOFS. TLB entries and walks (R107, R156 to R163): TLBW, TLBR and WLD, and where the entry that a lookup gives sends an access. -/

namespace Sys2Proof.Proofs

open Sys2Proof.Machine Sys2Proof.Claims

/-! ## A core's entries -/

theorem tlbEntry_setTlb (c : Core) (j m : Nat) (e : TlbEntry) : (c.setTlb j e).tlbEntry m = if m = j then e else c.tlbEntry m :=
  Laws.get_put _ c.arch.tlb m j e

/-- An entry that matched is the latest to have done so (R162). -/
theorem tlbEntry_touchTlb (c : Core) (j m : Nat) :
    (c.touchTlb j).tlbEntry m = if m = j then { c.tlbEntry j with last := c.arch.tlbSeq + 1 } else c.tlbEntry m :=
  tlbEntry_setTlb c j m _

/-- An entry written reads as the words written (R160). -/
theorem tlbWords_written (s : State) (k j m : Nat) (n : EntryWords) :
    let t := s.modCore k fun c => (c.setTlb j { w0 := n.w0, w1 := n.w1, w2 := n.w2, w3 := n.w3, last := 0 }).touchTlb j
    tlbWords t k m = if m = j then n else tlbWords s k m := by
  simp only [tlbWords, Laws.core_modCore_self, tlbEntry_touchTlb, tlbEntry_setTlb]
  split <;> rfl

/-- A core with the same entries as before. -/
theorem tlbWords_of_tlb {s t : State} {k : Nat} (h : (t.core k).arch.tlb = (s.core k).arch.tlb) (j : Nat) :
    tlbWords t k j = tlbWords s k j := by
  simp only [tlbWords, Core.tlbEntry, h]

theorem tlb_modCore (s : State) (k j : Nat) (f : Core → Core) (h : ∀ c, (f c).arch.tlb = c.arch.tlb) :
    ((s.modCore k f).core j).arch.tlb = (s.core j).arch.tlb := by
  rw [Laws.core_modCore]
  split
  next hj => subst hj; exact h _
  · rfl

/-- A change of a slot is none of the core's entries. -/
theorem tlb_modSlot (s : State) (k j : Nat) (sl : Fin 8) (f : Slot → Slot) : ((s.modSlot k sl f).core j).arch.tlb = (s.core j).arch.tlb :=
  tlb_modCore s k j _ fun _ => rfl

theorem tlb_setTop (s : State) (th : ThreadId) (x : Ctx) (j : Nat) : ((s.setTop th x).core j).arch.tlb = (s.core j).arch.tlb :=
  tlb_modCore s _ j _ fun _ => rfl

theorem tlb_issuing (s : State) (th : ThreadId) (j : Nat) : ((issuing s th).core j).arch.tlb = (s.core j).arch.tlb :=
  tlb_modCore s _ j _ fun _ => rfl

theorem tlb_stepOver (s : State) (th : ThreadId) (j : Nat) : ((s.stepOver th).core j).arch.tlb = (s.core j).arch.tlb := by
  unfold State.stepOver
  refine (tlb_modSlot _ _ j _ _).trans ?_
  cases s.topCtx th with
  | none => rfl
  | some x => exact tlb_setTop s th _ j

theorem tlb_keepBefore (s t : State) (th : ThreadId) (j : Nat) : ((s.keepBefore t th).core j).arch.tlb = (t.core j).arch.tlb := by
  rcases keepBefore_cases s t th with h | h <;> rw [h]
  exact tlb_modSlot t _ _ _ _

/-! ## TLBW and TLBR -/

theorem fld_low6 (w : Word) : fld w 5 0 = w.toNat % 64 := by rw [fld_eq_div_mod]; simp

theorem fieldThenSup_passed {s : State} {th : ThreadId} {x : Ctx} {ok : Bool} {run : Op} (h : s.topCtx th = some x) (hok : ok = true)
    (hm : x.ts.m = true) : fieldThenSup ok run th s = run th s := by
  simp [fieldThenSup, h, hok, hm]

theorem indexOpen_issuing (s : State) (th : ThreadId) (k : Nat) (cur : TenantId) (j : Nat) :
    ((issuing s th).core k).indexOpen cur j = (s.core k).indexOpen cur j := by
  unfold issuing
  rw [Laws.core_modCore]
  split
  next hk => subst hk; rfl
  · rfl

theorem tlbwEntry_issuing (s : State) (th : ThreadId) (k : Nat) (cur : TenantId) (j : Nat) (e : EntryWords) :
    (issuing s th).tlbwEntry k cur j e = s.tlbwEntry k cur j e := by
  simp only [State.tlbwEntry, indexOpen_issuing]
  rfl

/-- A change of a core's entries is none of its contexts. -/
theorem topCtx_putTlb (s : State) (k j : Nat) (e : TlbEntry) (th : ThreadId) :
    (s.modCore k fun c => (c.setTlb j e).touchTlb j).topCtx th = s.topCtx th := by
  unfold State.topCtx
  rw [Laws.core_modCore]
  split
  next hk => rw [hk]; rfl
  · rfl

/-- The data registers of a context with four written. -/
theorem dAt_setQuad (x : Ctx) (n m : Nat) (e : EntryWords) (hn : n + 3 < 16) :
    (x.setQuad n e).dAt m = if m = n then e.w0 else if m = n + 1 then e.w1 else if m = n + 2 then e.w2 else if m = n + 3 then e.w3
      else x.dAt m := by
  simp only [Ctx.dAt, Ctx.setQuad, List.getD_eq_getElem?_getD, Vector.getElem?_toList, Vector.getElem?_setIfInBounds]
  grind

theorem setQuad_rest (x : Ctx) (n : Nat) (e : EntryWords) : { x.setQuad n e with d := x.d } = x := by
  simp only [Ctx.setQuad]

section

variable {s : State} {th : ThreadId} {x : Ctx} (h : s.ready th = some x) (hm : x.ts.m = true)
include h hm

/-- TLBW as it runs, where its field, its mode and its entry pass (R107, R160). -/
theorem run_tlbw {a b : DReg} (hb : b.val % 4 = 0) {n : EntryWords}
    (hn : s.tlbwEntry th.core x.cur (x.d[a.val].toNat % 64) (x.quad b.val) = .ok n) :
    (opTlbw a b).run th (issuing s th) = .done ((issuing s th).modCore th.core fun c =>
      (c.setTlb (x.d[a.val].toNat % 64) { w0 := n.w0, w1 := n.w1, w2 := n.w2, w3 := n.w3, last := 0 }).touchTlb
        (x.d[a.val].toNat % 64)) := by
  have hx := topCtx_issuing_of_ready h
  have hj : fld (x.getD a) 5 0 = x.d[a.val].toNat % 64 := fld_low6 _
  simp only [opTlbw, plainOp, fieldThenSup_passed hx (decide_eq_true hb) hm, hx, hj, tlbwEntry_issuing, hn]

theorem tlbwWrites {a b : DReg} (hb : b.val % 4 = 0) {n : EntryWords}
    (hn : s.tlbwEntry th.core x.cur (x.d[a.val].toNat % 64) (x.quad b.val) = .ok n) :
    Answers (.tlbw th a b) s fun t => tlbWords t th.core (x.d[a.val].toNat % 64) = n
      ∧ (∀ i, i ≠ x.d[a.val].toNat % 64 → tlbWords t th.core i = tlbWords s th.core i)
      ∧ t.topCtx th = some (nextParcel x) ∧ OnlyCore s t th.core := by
  have hx := topCtx_issuing_of_ready h
  have hrun := run_tlbw h hm hb hn
  generalize x.d[a.val].toNat % 64 = j at hrun
  have hwords (m : Nat) := tlbWords_written (issuing s th) th.core j m n
  have htop := (topCtx_putTlb (issuing s th) th.core j { w0 := n.w0, w1 := n.w1, w2 := n.w2, w3 := n.w3, last := 0 } th).trans hx
  have hcore := onlyCore_trans (onlyCore_issuing s th) (onlyCore_modCore (issuing s th) th.core fun c =>
    (c.setTlb j { w0 := n.w0, w1 := n.w1, w2 := n.w2, w3 := n.w3, last := 0 }).touchTlb j)
  generalize (issuing s th).modCore th.core (fun c =>
    (c.setTlb j { w0 := n.w0, w1 := n.w1, w2 := n.w2, w3 := n.w3, last := 0 }).touchTlb j) = u at hrun hwords htop hcore
  obtain ⟨t, hexec, hctx, hcore', -⟩ := posts_of_run (i := .tlbw th a b) h rfl htop hrun
  have ht : t = (issuing s th).keepBefore (u.stepOver th) th :=
    Host.Outcome.next.inj (hexec.symm.trans (congrArg Host.Outcome.next (issue_plainOp_done h hrun)))
  have htlb : (t.core th.core).arch.tlb = (u.core th.core).arch.tlb := by rw [ht, tlb_keepBefore, tlb_stepOver]
  have hold (m : Nat) : tlbWords (issuing s th) th.core m = tlbWords s th.core m := tlbWords_of_tlb (tlb_issuing s th th.core) m
  refine ⟨t, hexec, ?_, fun i hi => ?_, hctx, onlyCore_trans hcore hcore'⟩
  · rw [tlbWords_of_tlb htlb, hwords, if_pos rfl]
  · rw [tlbWords_of_tlb htlb, hwords, if_neg hi, hold]

theorem tlbrReads {d a : DReg} (hd : d.val % 4 = 0) (hopen : (s.core th.core).indexOpen x.cur (x.d[a.val].toNat % 64) = true) :
    Answers (.tlbr th d a) s fun t =>
      OnlyTop s t th (nextParcel (x.setQuad d.val (tlbWords s th.core (x.d[a.val].toNat % 64)))) := by
  have hx := topCtx_issuing_of_ready h
  have hj : fld (x.getD a) 5 0 = x.d[a.val].toNat % 64 := fld_low6 _
  refine ⟨_, rfl, onlyTop_of_run (i := .tlbr th d a) (run := (opTlbr d a).run) h ?_⟩
  have hentry (j : Nat) : ((issuing s th).core th.core).tlbEntry j = (s.core th.core).tlbEntry j := by
    simp only [Core.tlbEntry, tlb_issuing]
  simp only [opTlbr, plainOp, fieldThenSup_passed hx (decide_eq_true hd) hm, hx, hj, indexOpen_issuing, hentry, hopen, Bool.not_true,
    Bool.false_eq_true, if_false, tlbWords]

end

theorem tlbReadWrite : TlbReadWrite := by
  intro s th x d a b h hm j k
  refine ⟨fun n hb hn => tlbwWrites h hm hb hn, fun hd hopen => ?_⟩
  obtain ⟨t, hexec, htop⟩ := tlbrReads h hm hd hopen
  have hq : d.val + 3 < 16 := by have := d.isLt; omega
  generalize tlbWords s k j = e at htop
  have hread (m : Nat) := dAt_setQuad x d.val m e hq
  refine ⟨t, hexec, x.setQuad d.val e, htop, setQuad_rest _ _ _, ?_⟩
  simp only [hread]
  refine ⟨by simp, by simp, by simp, by simp, fun m _ hout => ?_⟩
  rw [if_neg (by omega), if_neg (by omega), if_neg (by omega), if_neg (by omega)]

/-! ## The entry that an access uses -/

theorem tlbParity_quiet {s : State} (h : quiet s) (k j : Nat) : s.tlbParity k j = s := by
  have hnone : (s.members k).find? (fun m => (s.takeInj (corePage m) 1 (parityOf j)).1.isSome) = none := by
    simp [Laws.takeInj_quiet _ _ _ _ h]
  simp only [State.tlbParity, hnone]

theorem givenPlace_none {s : State} {i : Issuer} {va : Nat}
    (h : ∀ g, g ∈ ((s.core i.core).slot i.slot).given → g.1 ≠ BitVec.ofNat 32 va) :
    s.givenPlace i va = none := by
  simp only [State.givenPlace, Option.map_eq_none_iff, List.find?_eq_none, decide_eq_true_eq]
  exact h

theorem entryUsed : EntryUsed := by
  intro s i q va j e hq hs hgiven hcap hform hlook hperm hmpu c paged place
  have hplace : s.translate i q va = (.ok place, s.modCore i.core fun c => c.touchTlb j) := by
    simp only [State.translate, hlook, tlbParity_quiet hq, givenPlace_none hgiven, hperm, hmpu]
    rfl
  have hlocate : s.locate i q = (if q.shut place.pa then .error (q.at_ place fBUS_ERROR) else .ok place,
      s.modCore i.core fun c => c.touchTlb j) := by
    simp only [State.locate, hcap, hform, hplace]
    split <;> rfl
  have hentries (m : Nat) : ((s.modCore i.core fun c => c.touchTlb j).core i.core).tlbEntry m
      = if m = j then { c.tlbEntry j with last := c.arch.tlbSeq + 1 } else c.tlbEntry m := by
    rw [Laws.core_modCore_self, tlbEntry_touchTlb]
  have hshut : q.shut place.pa = true ↔ paged := by
    unfold Query.shut
    cases hr : region place.pa <;> simp_all [paged, place]
  refine ⟨_, _, hlocate, onlyCore_modCore s _ _, hentries, fun m hm hne => ?_, fun hp => ?_, fun hp => ?_⟩
  · rw [hentries, hentries, if_neg hne, if_pos rfl]
    exact Nat.lt_succ_of_le hm
  · exact ⟨_, if_pos (hshut.mpr hp), rfl⟩
  · exact if_neg fun h => hp (hshut.mp h)

/-! ## Walks -/

/-- A supervisor operation of a thread in supervisor mode runs like a plain one (R72). -/
theorem issue_supOp {s : State} {th : ThreadId} {x : Ctx} (h : s.ready th = some x) (hm : x.ts.m = true) (i : Instr) (run : Op) :
    s.issue th i (supOp run) = s.issue th i (plainOp run) := by
  have ht := topCtx_issuing_of_ready h
  have hsup : (supOp run).checked th (issuing s th) = run th (issuing s th) := by
    simp [Operation.checked, ht, supOp, Core.accepts, hm]
  have hplain : (plainOp run).checked th (issuing s th) = run th (issuing s th) := by
    simp [Operation.checked, ht, plainOp, Core.accepts]
  have hissue (o : Operation) : s.issue th i o
      = (issuing s th).settleOp th ((issuing s th).parcelNow x) 0 o.block [i] (o.checked th (issuing s th)) := by
    simp only [State.issue, h]
    rfl
  rw [hissue, hissue, hsup, hplain]
  rfl

theorem walkLoad : WalkLoad := by
  intro s s1 th x d a b w h hm hwalk htop
  have hx := topCtx_issuing_of_ready h
  have hlow : fld (x.getD b) 7 0 = x.d[b.val].toNat % 256 := by rw [fld_eq_div_mod]; simp [Ctx.getD]
  refine responds_of_run h (congrArg Host.Outcome.next (issue_supOp h hm _ _)) htop ?_
  have hwalk' : (issuing s th).walk (issuerOf th x) (fld (x.getD b) 7 0 * 2 ^ 32 + (x.getD a).toNat) = (.ok w, s1) := by
    rw [hlow]; exact hwalk
  simp only [hx, hwalk']
  rfl

/-- Settles O34: the entries read and written, the one that an access uses, and the walk. -/
theorem tlbAndWalk : Obligations.TlbAndWalk := ⟨tlbReadWrite, entryUsed, walkLoad⟩

end Sys2Proof.Proofs
end

section
/-! PROOFS. Instruction fetch (R50, R118, R119), and the issue cycle of a group whose members agree (R65, R72, R113, R114, R207). -/

namespace Sys2Proof.Proofs

open Sys2Proof.Machine Sys2Proof.Claims

/-! ## Fetch -/

/-- The best of a list, as a pass finds it, is in the list. -/
theorem mem_of_best {α : Type} {f : Option α → α → Option α} (hf : ∀ b q, f b q = some q ∨ f b q = b) (l : List α) :
    ∀ {b : Option α} {r : α}, l.foldl f b = some r → r ∈ l ∨ b = some r := by
  induction l with
  | nil => exact fun h => .inr h
  | cons q l ih =>
    intro b r h
    rcases ih h with hr | hr
    · exact .inl (List.mem_cons_of_mem q hr)
    · rcases hf b q with hq | hq <;> rw [hq] at hr
      · exact .inl (by simp [Option.some.inj hr])
      · exact .inr hr

/-- Fetch serves a slot of the core, at the address that its buffer wants next (R118). -/
theorem nextFetch_of_fetchSlot {c : Core} {cove : Nat} {sl : Fin 8} {adr : Nat} {l : List Fetched}
    (h : c.fetchSlot cove = some (sl, adr, l)) : c.nextFetch cove sl = some (adr, l) := by
  unfold Core.fetchSlot at h
  dsimp only at h
  rcases mem_of_best (fun b q => by
    cases b with
    | none => exact .inl rfl
    | some p => exact ite_eq_or_eq _ _ _) _ h with hm | hm
  · obtain ⟨sl', -, hsl⟩ := List.mem_filterMap.mp hm
    obtain ⟨q, hq, he⟩ := Option.map_eq_some_iff.mp hsl
    simp only [Prod.mk.injEq] at he
    obtain ⟨rfl, rfl, rfl⟩ := he
    exact hq
  · cases hm

/-- A buffer that wants a parcel has room, and holds what it keeps (R118). -/
theorem room_of_nextFetch {c : Core} {cove : Nat} {sl : Fin 8} {adr : Nat} {l : List Fetched} (h : c.nextFetch cove sl = some (adr, l)) :
    l.length < 4 ∧ ∀ f ∈ l, f ∈ (c.slot sl).buf := by
  unfold Core.nextFetch at h
  dsimp only at h
  split at h
  · cases h
  next y _ =>
    split at h
    next hroom =>
      obtain ⟨-, hl⟩ := Prod.mk.inj (Option.some.inj h)
      obtain ⟨-, -, -, hlen, -⟩ := hroom
      rw [← hl]
      exact ⟨hlen, fun f hf => (List.dropWhile_sublist _).subset hf⟩
    · cases h

theorem fetchResult : FetchResult := by
  intro s k sl adr l hexec hfetch hecc
  obtain ⟨hlen, hbuf⟩ := room_of_nextFetch (nextFetch_of_fetchSlot hfetch)
  let fetched := l ++ [{ adr := adr, bits := s.parcelAt adr, bad := false }]
  refine ⟨hlen, hbuf, _, ?_, onlyCore_modSlot s k sl fun y => { y with buf := fetched }, ?_, ?_, fun j hj => ?_⟩
  · change execParcelFetch k s = _
    simp only [execParcelFetch, hexec, hfetch, checkParcel_clean hecc, Bool.not_true, Bool.false_eq_true, if_false, fetched]
  · rw [slot_modSlot_self]
  · rw [State.modSlot, Laws.core_modCore_self]; rfl
  · rw [State.modSlot, Laws.core_modCore_self, Laws.slot_setSlot, if_neg hj]

/-! ## What a cycle keeps until it is over -/

/-- The cycle count, the position and the time stand, and no other core has changed. -/
structure SameCycle (s t : State) (k : Nat) : Prop where
  now : t.now = s.now
  cyc : (t.core k).cyc = (s.core k).cyc
  pos : (t.core k).tm.pos = (s.core k).tm.pos
  others : ∀ j, j ≠ k → t.core j = s.core j

/-- Besides, the core has its contexts and slots as before: it has only counted, traced or logged. -/
structure Booked (s t : State) (k : Nat) : Prop extends SameCycle s t k where
  ctx : ∀ j lv, (t.core k).ctx j lv = (s.core k).ctx j lv
  slot : ∀ j, (t.core k).slot j = (s.core k).slot j

theorem sameCycle_refl (s : State) (k : Nat) : SameCycle s s k := ⟨rfl, rfl, rfl, fun _ _ => rfl⟩

theorem sameCycle_trans {s t u : State} {k : Nat} (h : SameCycle s t k) (g : SameCycle t u k) : SameCycle s u k :=
  ⟨g.now.trans h.now, g.cyc.trans h.cyc, g.pos.trans h.pos, fun j hj => (g.others j hj).trans (h.others j hj)⟩

theorem booked_refl (s : State) (k : Nat) : Booked s s k := ⟨sameCycle_refl s k, fun _ _ => rfl, fun _ => rfl⟩

theorem booked_trans {s t u : State} {k : Nat} (h : Booked s t k) (g : Booked t u k) : Booked s u k :=
  ⟨sameCycle_trans h.toSameCycle g.toSameCycle, fun j lv => (g.ctx j lv).trans (h.ctx j lv), fun j => (g.slot j).trans (h.slot j)⟩

theorem sameCycle_modCore (s : State) (k : Nat) {f : Core → Core} (hcyc : ∀ c, (f c).cyc = c.cyc)
    (hpos : ∀ c, (f c).tm.pos = c.tm.pos) :
    SameCycle s (s.modCore k f) k := by
  refine ⟨rfl, ?_, ?_, fun j hj => by rw [Laws.core_modCore, if_neg hj]⟩ <;> rw [Laws.core_modCore_self]
  · exact hcyc _
  · exact hpos _

theorem booked_modCore (s : State) (k : Nat) {f : Core → Core} (hcyc : ∀ c, (f c).cyc = c.cyc) (hpos : ∀ c, (f c).tm.pos = c.tm.pos)
    (hctx : ∀ c j lv, (f c).ctx j lv = c.ctx j lv) (hslot : ∀ c j, (f c).slot j = c.slot j) : Booked s (s.modCore k f) k := by
  refine ⟨sameCycle_modCore s k hcyc hpos, fun j lv => ?_, fun j => ?_⟩ <;> rw [Laws.core_modCore_self]
  · exact hctx _ j lv
  · exact hslot _ j

/-- Bookkeeping of the group's Tidemark. -/
theorem booked_modTm (s : State) (k : Nat) (f : Core → Tidemark) (h : ∀ c, (f c).pos = c.tm.pos) :
    Booked s (s.modCore k fun c => { c with tm := f c }) k :=
  booked_modCore s k (fun _ => rfl) h (fun _ _ _ => rfl) fun _ _ => rfl

theorem sameCycle_modSlot (s : State) (k : Nat) (sl : Fin 8) (f : Slot → Slot) : SameCycle s (s.modSlot k sl f) k :=
  sameCycle_modCore s k (fun _ => rfl) fun _ => rfl

theorem sameCycle_setTop (s : State) (th : ThreadId) (x : Ctx) : SameCycle s (s.setTop th x) th.core :=
  sameCycle_modCore s th.core (fun _ => rfl) fun _ => rfl

theorem sameCycle_stepOver (s : State) (th : ThreadId) : SameCycle s (s.stepOver th) th.core := by
  unfold State.stepOver
  refine sameCycle_trans ?_ (sameCycle_modSlot _ _ _ _)
  cases s.topCtx th with
  | none => exact sameCycle_refl s _
  | some x => exact sameCycle_setTop s th _

theorem sameCycle_keepBefore (s t : State) (th : ThreadId) : SameCycle t (s.keepBefore t th) th.core := by
  rcases keepBefore_cases s t th with h | h <;> rw [h]
  · exact sameCycle_refl t _
  · exact sameCycle_modSlot t _ _ _

/-- What is logged is no context's, and no part of the cycle. -/
theorem booked_of_recorded {s t : State} {k : Nat} (h : Recorded s t k) : Booked s t k := by
  have harch := arch_of_recorded h k
  have hcore := h.core
  unfold CoreLogged at hcore
  have hcyc := congrArg Core.cyc hcore
  have hpos := congrArg (fun c : Core => c.tm.pos) hcore
  have hnow := congrArg State.now h.rest
  exact ⟨⟨hnow, hcyc, hpos, h.others⟩, fun j lv => by simp only [Core.ctx, harch], fun j => by simp only [Core.slot, harch]⟩

theorem booked_flushIssues (s : State) {k : Nat} (hk : k < 128) : Booked s (s.flushIssues k) k := by
  unfold State.flushIssues
  dsimp only
  split
  · exact booked_refl s k
  · exact booked_trans (booked_of_recorded (recorded_logRecord s hk _)) (booked_modTm _ k _ fun _ => rfl)

/-- The trace of a cycle (R210). -/
theorem booked_traceIssue (s : State) {k : Nat} (hk : k < 128) (regular : Bool) (issuer : Nat) :
    Booked s (s.traceIssue k regular issuer) k := by
  unfold State.traceIssue
  split
  · extract_lets s1 t s2
    have h1 : Booked s s1 k := booked_flushIssues s hk
    have h2 : Booked s1 s2 k := by
      unfold s2
      split
      · exact booked_of_recorded (recorded_logRecord s1 hk _)
      · exact booked_refl s1 k
    exact booked_trans (booked_trans h1 h2) (booked_modTm s2 k _ fun _ => rfl)
  · extract_lets s1
    have h1 : Booked s s1 k := booked_modTm s k _ fun _ => rfl
    split
    · exact booked_trans h1 (booked_flushIssues s1 hk)
    · exact h1

theorem booked_checkpoint (s : State) {k : Nat} (hk : k < 128) : Booked s (s.checkpoint k) k := by
  unfold State.checkpoint
  extract_lets c s1
  split
  · have h1 : Booked s s1 k := booked_modCore s k (fun _ => rfl) (fun _ => rfl) (fun _ _ _ => rfl) fun _ _ => rfl
    have h2 := booked_trans h1 (booked_flushIssues s1 hk)
    have h3 := booked_trans h2 (booked_of_recorded (recorded_logRecord (s1.flushIssues k) hk (.mark (c.tm.seq + 1) c.tm.pos)))
    exact booked_trans h3 (booked_modTm _ k _ fun _ => rfl)
  · exact booked_refl s k

/-- A checkpoint as the cycle ends (R206). -/
theorem booked_checkpointIfDue (s : State) {k : Nat} (hk : k < 128) : Booked s (s.checkpointIfDue k) k := by
  unfold State.checkpointIfDue
  dsimp only
  split
  · exact booked_checkpoint s hk
  · exact booked_refl s k

/-- The counters and the bank of a pick (R114, R123, R127). -/
theorem booked_picked (s : State) (k : Nat) (p : Pick) : Booked s (s.modCore k fun c => c.picked p) k := by
  obtain ⟨slot, free, stolen⟩ := p
  cases slot with
  | none => exact booked_modCore s k (fun _ => rfl) (fun _ => rfl) (fun _ _ _ => rfl) fun _ _ => rfl
  | some sl =>
    refine booked_modCore s k (fun _ => rfl) (fun _ => rfl) (fun c j lv => ?_) fun c j => rfl
    exact Laws.ctx_touchBank _ sl j lv

theorem topCtx_of_booked {s t : State} {th : ThreadId} (h : Booked s t th.core) : t.topCtx th = s.topCtx th := by
  simp only [State.topCtx, h.slot, h.ctx]

/-! ## The cycle in which the members agree -/

/-- What a turn books before its parcel runs: the trace of its cycle, and the pick (R114, R210). -/
def bookedTurn (s0 : State) (k : Fin 128) (p : Pick) : State :=
  let c := s0.core k
  let owner := c.arch.owners.getD (c.cyc % 16) none
  (s0.traceIssue k (decide (owner ≠ none) && decide (owner = p.slot)) (match p.slot with
    | some sl => sl.val
    | none => 8)).modCore k fun x => x.picked p

/-- A cycle of a group whose outputs nothing disturbs (R114): the trace, the pick, the parcel, and the end of the cycle. -/
def turnOf (s : State) (k : Fin 128) : State :=
  let s0 := s.modCore k Core.place
  let p := pickSlot (s0.core k) fun sl => (s0.eligible k sl).isSome
  let t1 := bookedTurn s0 k p
  let t2 := match p.slot with
    | none => t1
    | some sl => match s0.eligible k sl with
      | some r => t1.issueParcel { core := k, slot := sl } r
      | none => t1
  t2.cycleOver k

theorem tlbUpset_quiet {s : State} (h : quiet s) (k : Nat) (t : State) : s.tlbUpset k t = none := by
  have hnone : s.inj.waiting = [] := h
  unfold State.tlbUpset
  split
  · rfl
  · simp only [hnone, List.find?_nil]

theorem injectCompare_quiet {s : State} (h : quiet s) (k : Nat) : s.injectCompare k = (none, s) := by
  unfold State.injectCompare
  dsimp only
  split
  · rfl
  · rw [Laws.takeInj_quiet _ _ _ _ h]
    dsimp only
    rw [Laws.takeInj_quiet _ _ _ _ h]

theorem compare_agree (s : State) (k : Nat) (injected : Bool) : s.compare k .agree injected = (true, s) := rfl

theorem liveTurn_agree {s : State} (h : quiet s) (k : Fin 128) : s.liveTurn k .agree = (turnOf s k).checkpointIfDue k := by
  have h0 : quiet (s.modCore k Core.place) := h
  unfold State.liveTurn turnOf
  generalize s.modCore k Core.place = s0 at h0
  extract_lets c p run t
  rw [tlbUpset_quiet h0]
  dsimp only
  rw [injectCompare_quiet h0, ite_self]
  dsimp only
  rw [compare_agree]
  rfl

theorem not_replaying_of_runs {s : State} {k : Nat} (h : s.coreRuns k = true) : s.replaying k = false := by
  simp only [State.coreRuns, Bool.and_eq_true, Bool.or_eq_true, decide_eq_true_eq] at h
  rcases h.2 with hst | hst <;> simp [State.replaying, hst]

/-- An issue cycle of a group that runs, where no standby waits to be entered. -/
theorem exec_issueTurn {s : State} {k : Fin 128} {at_ : Nat} (hp : s.power.entering = false) (hr : (s.advance at_).coreRuns k = true)
    (hq : quiet s) : exec (.issueTurn k .agree at_) s = .next ((turnOf (s.advance at_) k).checkpointIfDue k) := by
  have henter : (s.advance at_).enterIfDue = s.advance at_ := by simp [State.enterIfDue, hp]
  have hexec : (s.advance at_).executes k = true := by simp [State.executes, hr]
  change execIssueTurn k .agree at_ s = _
  simp only [execIssueTurn, henter, hexec, not_replaying_of_runs hr, Bool.not_true, Bool.false_eq_true, if_false]
  rw [liveTurn_agree (s := s.advance at_) hq]

/-- Away from position 0 the shares stand (R115). -/
theorem core_place {s : State} {k : Nat} (h : (s.core k).cyc % 16 ≠ 0) : (s.modCore k Core.place).core k = s.core k := by
  rw [Laws.core_modCore_self, Core.place, if_neg h]

theorem eligible_of_core {s t : State} {k : Fin 128} (h : t.core k = s.core k) (sl : Fin 8) : t.eligible k sl = s.eligible k sl := by
  simp only [State.eligible, h]

theorem booked_of_core {s t : State} {k : Nat} (hn : t.now = s.now) (h : ∀ j, t.core j = s.core j) : Booked s t k :=
  ⟨⟨hn, by rw [h], by rw [h], fun j _ => h j⟩, fun j lv => by rw [h], fun j => by rw [h]⟩

/-- What a slot would issue is of its top context. -/
theorem topCtx_of_eligible {s : State} {k : Fin 128} {sl : Fin 8} {r : Ready} (h : s.eligible k sl = some r) :
    s.topCtx { core := k, slot := sl } = some r.ctx := by
  unfold State.eligible at h
  extract_lets c y late at h
  split at h
  · cases h
  · split at h
    · cases h
    next z hz =>
      have hr : r.ctx = z := by
        split at h
        · split at h
          · cases h
          · dsimp only at h
            split at h
            · cases h
            · exact (congrArg Ready.ctx (Option.some.inj h)).symm
        · exact (congrArg Ready.ctx (Option.some.inj h)).symm
      rw [hr]
      exact hz

/-- Where no slot can issue, none is picked. -/
theorem pickSlot_none (c : Core) : (pickSlot c fun _ => false).slot = none := by
  have hnone (l : List (Fin 8)) : l.find? (fun _ => false) = none := List.find?_eq_none.mpr fun _ _ => Bool.false_ne_true
  unfold pickSlot
  dsimp only
  cases c.arch.owners.getD (c.cyc % 16) none <;> simp [hnone]

/-- What a cycle has done once its parcel has run: the count and the position go on, whatever the checkpoint does. -/
theorem ticks_of_cycle {s t : State} {k : Nat} (hk : k < 128) (h : SameCycle s t k) :
    let u := (t.cycleOver k).checkpointIfDue k
    (u.core k).cyc = (s.core k).cyc + 1 ∧ (u.core k).tm.pos = (s.core k).tm.pos + 1 ∧ (∀ j, j ≠ k → u.core j = s.core j)
      ∧ u.now = s.now := by
  intro u
  have hbook := booked_checkpointIfDue (t.cycleOver k) hk
  refine ⟨?_, ?_, fun j hj => ?_, hbook.now.trans h.now⟩
  · rw [hbook.cyc, State.cycleOver, Laws.core_modCore_self, ← h.cyc]; rfl
  · rw [hbook.pos, State.cycleOver, Laws.core_modCore_self, ← h.pos]; rfl
  · rw [hbook.others j hj, State.cycleOver, Laws.core_modCore, if_neg hj, h.others j hj]

/-- A cycle's contexts are those that its parcel left. -/
theorem ctx_of_cycle (t : State) {k : Nat} (hk : k < 128) (j : Fin 8) (lv : Fin 3) :
    (((t.cycleOver k).checkpointIfDue k).core k).ctx j lv = (t.core k).ctx j lv := by
  rw [(booked_checkpointIfDue (t.cycleOver k) hk).ctx, State.cycleOver, Laws.core_modCore_self]
  rfl

theorem topCtx_of_cycle (t : State) (th : ThreadId) : ((t.cycleOver th.core).checkpointIfDue th.core).topCtx th = t.topCtx th := by
  rw [topCtx_of_booked (booked_checkpointIfDue (t.cycleOver th.core) th.core.isLt)]
  simp only [State.topCtx, State.cycleOver, Laws.core_modCore_self]
  rfl

/-! ## The sum and its flags -/

theorem mkFlg_eq_flg (n z c v : Bool) : mkFlg n z c v = flg n z c v := by
  cases n <;> cases z <;> cases c <;> cases v <;> rfl

/-- A sum overflows where the exact sum is no signed word (R74). -/
theorem toInt_add_ne_iff (a b : Word) :
    (a + b).toInt ≠ a.toInt + b.toInt ↔ a.toInt + b.toInt < -2 ^ 31 ∨ 2 ^ 31 ≤ a.toInt + b.toInt := by
  rw [BitVec.toInt_add, Int.bmod_def]
  split <;> omega

theorem addRes_eq_add (a b : Word) : addRes a b false = a + b := BitVec.eq_of_toNat_eq (by simp [addRes, sumNat])

theorem addFlags_eq_sumFlg (a b : Word) : addFlags a b false = sumFlg a b 0 (a + b) := by
  simp only [addFlags, sumFlg, mkFlg_eq_flg, addRes_eq_add, negBit, BitVec.msb_eq_getLsbD_last, sumNat, sumInt, Bool.toNat_false,
    add_zero, toInt_add_ne_iff, CharP.cast_eq_zero]

/-- ADDI's write and flags, as the spec's table has them (R74, R91). -/
theorem arith_eq_written (x : Ctx) (nf : Bool) (d : DReg) (a b : Word) :
    x.arith d nf a b false = written x (withNf x nf d (a + b) (sumFlg a b 0 (a + b))) := by
  rw [Ctx.arith, addRes_eq_add, addFlags_eq_sumFlg]
  cases nf <;> rfl

/-! ## The parcel of a long ADDI -/

/-- A long ADDI among the operations of a parcel. -/
theorem runOps_addi {t : State} {th : ThreadId} {x : Ctx} (htop : t.topCtx th = some x) (d a : DReg) (imm : BitVec 13) (nf : Bool) :
    runOps [.addi th d a imm nf] th t = (.done (t.setTop th (x.arith d nf x.d[a.val] (imm.signExtend 32) false)), 0) := by
  have hchecked : (opAddi d a imm nf).checked th t = .done (t.setTop th (x.arith d nf x.d[a.val] (imm.signExtend 32) false)) := by
    simp only [Operation.checked, htop]
    simp [opAddi, plainOp, Core.accepts, Laws.regOp_done _ htop, Ctx.getD]
  exact congrArg (·, 0) hchecked

/-- A long ADDI as it runs in an issue cycle (R72, R91). -/
theorem issueParcel_addi {t : State} {th : ThreadId} {x : Ctx} {f : Fetched} {dec : Dec} {d a : DReg} {imm : BitVec 13} {nf : Bool}
    (htop : t.topCtx th = some x) (hf : f.bad = false) (hdec : decodeParcel th f.bits = .long (some dec))
    (hi : dec.instr = .addi th d a imm nf) :
    let u := t.issueParcel th { ctx := x, parcel := some f }
    SameCycle t u th.core ∧ u.topCtx th = some (nextParcel (x.arith d nf x.d[a.val] (imm.signExtend 32) false)) := by
  intro u
  let g : Slot → Slot := fun y =>
    { y with spent := 0, busy := dec.results y.busy (t.core th.core).cyc, buf := bufferFrom f.adr y.buf }
  have htop' : (t.modSlot th.core th.slot g).topCtx th = some x := (topCtx_modSlot t th g fun _ => rfl).trans htop
  have hneeds (stale : Bool) (spent : Nat) : stillNeeds x stale spent [dec] = false := by simp [stillNeeds, hi, blockLength]
  have hu : u = (t.modSlot th.core th.slot g).keepBefore
      (((t.modSlot th.core th.slot g).setTop th (x.arith d nf x.d[a.val] (imm.signExtend 32) false)).stepOver th) th := by
    have hrun : (t.modSlot th.core th.slot g).runParcel th f.bits = (t.modSlot th.core th.slot g).settleOps th (f.bits.setWidth 32)
        [dec.instr] := by simp only [State.runParcel, hdec]
    have hset := runOps_addi htop' d a imm nf
    have hops : (decodeParcel th f.bits).ops = [dec] := by rw [hdec]; rfl
    simp only [u, State.issueParcel, hf, hops, hneeds, Bool.false_eq_true, if_false]
    refine hrun.trans ?_
    rw [State.settleOps, hi, hset]
    rfl
  have hset := sameCycle_trans (sameCycle_modSlot t th.core th.slot g) (sameCycle_setTop (t.modSlot th.core th.slot g) th
    (x.arith d nf x.d[a.val] (imm.signExtend 32) false))
  rw [hu]
  refine ⟨sameCycle_trans (sameCycle_trans hset (sameCycle_stepOver _ th)) (sameCycle_keepBefore _ _ th), ?_⟩
  simp [Laws.topCtx_stepOver, htop', nextParcel]

/-- What the turn does before the parcel, where the count is not at position 0. -/
theorem booked_turnBegins (s : State) (k : Fin 128) (p : Pick) : Booked s (bookedTurn (s.modCore k Core.place) k p) k := by
  have hplace : Booked s (s.modCore k Core.place) k := by
    refine booked_modCore s k (fun c => ?_) (fun c => ?_) (fun c _ _ => ?_) fun c _ => ?_ <;> unfold Core.place <;> split <;> rfl
  exact booked_trans hplace (booked_trans (booked_traceIssue _ k.isLt _ _) (booked_picked _ k p))

section Turn

variable {s : State} {k : Fin 128} (hcyc : (s.core k).cyc % 16 ≠ 0)
include hcyc

theorem pick_place : (pickSlot ((s.modCore k Core.place).core k) fun sl => ((s.modCore k Core.place).eligible k sl).isSome)
    = pickSlot (s.core k) fun sl => (s.eligible k sl).isSome := by
  rw [core_place hcyc]
  congr 1
  exact funext fun sl => by rw [eligible_of_core (core_place hcyc)]

/-- The turn of a slot that is picked: its parcel runs once the trace and the pick are booked. -/
theorem turnOf_picked {sl : Fin 8} {r : Ready} (hslot : (pickSlot (s.core k) fun j => (s.eligible k j).isSome).slot = some sl)
    (helig : s.eligible k sl = some r) :
    ∃ t, Booked s t k ∧ turnOf s k = (t.issueParcel { core := k, slot := sl } r).cycleOver k := by
  refine ⟨_, booked_turnBegins s k (pickSlot (s.core k) fun j => (s.eligible k j).isSome), ?_⟩
  unfold turnOf
  dsimp only
  rw [pick_place hcyc, hslot]
  dsimp only
  rw [eligible_of_core (core_place hcyc), helig]

/-- The turn in which no slot can issue. -/
theorem turnOf_idle (hnone : ∀ j, s.eligible k j = none) : ∃ t, Booked s t k ∧ turnOf s k = t.cycleOver k := by
  have hslot : (pickSlot (s.core k) fun j => (s.eligible k j).isSome).slot = none := by
    simp only [hnone]
    exact pickSlot_none _
  refine ⟨_, booked_turnBegins s k (pickSlot (s.core k) fun j => (s.eligible k j).isSome), ?_⟩
  unfold turnOf
  dsimp only
  rw [pick_place hcyc, hslot]

end Turn

theorem issueTurnResult : IssueTurnResult := by
  intro s k sl at_ s1 hp ticks
  refine ⟨fun x f dec d a imm nf hpicks hf hdec hi => ?_, fun hruns hcyc hq hnone => ?_⟩
  · obtain ⟨hruns, hcyc, hq, hslot, helig⟩ := hpicks
    refine ⟨_, exec_issueTurn hp hruns hq, ?_⟩
    obtain ⟨t, hbook, hturn⟩ := turnOf_picked hcyc hslot helig
    have htop : t.topCtx { core := k, slot := sl } = some x := by
      rw [topCtx_of_booked (th := { core := k, slot := sl }) hbook]; exact topCtx_of_eligible helig
    obtain ⟨hcycle, hctx⟩ := issueParcel_addi htop hf hdec hi
    rw [hturn]
    refine ⟨ticks_of_cycle k.isLt (sameCycle_trans hbook.toSameCycle hcycle), ?_⟩
    refine (topCtx_of_cycle _ { core := k, slot := sl }).trans ?_
    rw [hctx, arith_eq_written]
  · refine ⟨_, exec_issueTurn hp hruns hq, ?_⟩
    obtain ⟨t, hbook, hturn⟩ := turnOf_idle (s := s1) hcyc hnone
    rw [hturn]
    refine ⟨ticks_of_cycle k.isLt hbook.toSameCycle, fun j lv => ?_⟩
    rw [ctx_of_cycle t k.isLt, hbook.ctx]
    rfl

/-- Settles O37: the fetch, and the cycle as its bookkeeping, its parcel and its end. -/
theorem fetchAndIssue : Obligations.FetchAndIssue := ⟨fetchResult, issueTurnResult⟩

end Sys2Proof.Proofs
end

section
/-! PROOFS. Block instructions (R46, R47, R109, R110, R143): a unit at a time, a length of 0, and what TAGZ and PSTORE.N leave. -/

namespace Sys2Proof.Proofs

open Sys2Proof.Machine Sys2Proof.Claims

/-! ## PROG as a block instruction begins -/

/-- The context in which a block instruction begins: PROG of an earlier parcel counts for none (R143). -/
def freshCtx (s : State) (th : ThreadId) (x : Ctx) : Ctx :=
  if ((s.core th.core).slot th.slot).stale then { x with progValid := false } else x

/-- PROG is all that may differ. -/
theorem freshCtx_rest (s : State) (th : ThreadId) (x : Ctx) : { freshCtx s th x with progValid := x.progValid } = x := by
  unfold freshCtx
  split <;> rfl

theorem topCtx_freshProg {s : State} {th : ThreadId} {x : Ctx} (h : s.topCtx th = some x) :
    (s.freshProg th).topCtx th = some (freshCtx s th x) := by
  unfold State.freshProg freshCtx
  split
  · simp only [h]
    refine (topCtx_modSlot _ th (fun y => { y with stale := false }) fun _ => rfl).trans ?_
    rw [Laws.topCtx_setTop, h]
    rfl
  · exact h

theorem onlyCore_freshProg (s : State) (th : ThreadId) : OnlyCore s (s.freshProg th) th.core := by
  unfold State.freshProg
  split
  · refine onlyCore_trans ?_ (onlyCore_modSlot _ _ _ _)
    split
    · exact onlyCore_setTop s th _
    · exact onlyCore_refl s _
  · exact onlyCore_refl s _

theorem setCtx_setCtx (c : Core) (sl : Fin 8) (lv : Fin 3) (x y : Ctx) : (c.setCtx sl lv x).setCtx sl lv y = c.setCtx sl lv y := by
  have hbank (b : Bank) : Bank.withCtx sl lv y (Bank.withCtx sl lv x b) = Bank.withCtx sl lv y b := by
    by_cases hb : b.slot = sl ∧ b.level = lv <;> simp [Bank.withCtx, hb]
  simp [Core.setCtx, Option.map_map, Function.comp_def, hbank]

theorem setSlot_setSlot (c : Core) (sl : Fin 8) (x y : Slot) : (c.setSlot sl x).setSlot sl y = c.setSlot sl y := by
  simp [Core.setSlot]

theorem modCore_congr {s : State} {k : Nat} {f g : Core → Core} (h : f (s.core k) = g (s.core k)) : s.modCore k f = s.modCore k g :=
  congrArg (s.setCore k) h

/-- A slot's context and then the slot itself, written twice. -/
theorem putThread_putThread (c : Core) (sl : Fin 8) (lv : Fin 3) (x y : Ctx) (a b : Slot) :
    (((c.setCtx sl lv x).setSlot sl a).setCtx sl lv y).setSlot sl b = (c.setCtx sl lv y).setSlot sl b := by
  rw [show ((c.setCtx sl lv x).setSlot sl a).setCtx sl lv y = ((c.setCtx sl lv x).setCtx sl lv y).setSlot sl a from rfl,
    setCtx_setCtx, setSlot_setSlot]

/-- The end of a parcel writes what freshening PROG would have. -/
theorem stepOver_freshProg {s : State} {th : ThreadId} {x : Ctx} (h : s.topCtx th = some x) :
    (s.freshProg th).stepOver th = s.stepOver th := by
  have hfresh := topCtx_freshProg h
  unfold State.freshProg freshCtx at *
  split
  next hst =>
    rw [if_pos hst, if_pos hst] at hfresh
    simp only [h] at hfresh
    simp only [State.stepOver, h, hfresh]
    simp only [State.setTop, State.modSlot, Laws.modCore_modCore]
    refine modCore_congr ?_
    simp only [Laws.slot_setCtx, Laws.slot_setSlot_self]
    exact putThread_putThread _ _ _ _ _ _ _
  · rfl

/-! ## Issue of a block instruction -/

/-- An operation of an accepted group that needs no supervisor runs, and its outcome ends the parcel (R72). -/
theorem issue_op {s : State} {th : ThreadId} {x : Ctx} {o : Operation} (h : s.ready th = some x)
    (hg : (s.core th.core).accepts o.grp = true) (hs : o.sup = false) (i : Instr) :
    s.issue th i o = (issuing s th).settleOp th ((issuing s th).parcelNow x) 0 o.block [i] (o.run th (issuing s th)) := by
  have ht := topCtx_issuing_of_ready h
  have hgroups : ((issuing s th).core th.core).arch.groups = (s.core th.core).arch.groups := by simp [issuing, Core.touchBank]
  have hg' : ((issuing s th).core th.core).accepts o.grp = true := by
    unfold Core.accepts at hg ⊢
    rw [hgroups]
    exact hg
  have hrun : o.checked th (issuing s th) = o.run th (issuing s th) := by simp [Operation.checked, ht, hg', hs]
  rw [← hrun]
  simp only [State.issue, h]
  rfl

/-- What one unit comes to. -/
def unitOut (s1 : State) (th : ThreadId) (k total : Nat) : OpOut :=
  if total ≤ k + 1 then .done (s1.setProg th (k + 1)) else .stay (s1.setProg th (k + 1))

/-- One unit that succeeds, where PROG says (R110, R143). -/
theorem run_unit {s s1 : State} {th : ThreadId} {z : Ctx} {total : Ctx → Nat} {before : Ctx → Except FaultInfo Unit}
    {unit : ThreadId → Ctx → Nat → State → Except FaultInfo Unit × State} (hz : (s.freshProg th).topCtx th = some z)
    (hk : z.doneUnits < total z) (hb : before z = .ok ()) (hu : unit th z z.doneUnits (s.freshProg th) = (.ok (), s1)) :
    blockRun 1 total before unit th s = unitOut s1 th z.doneUnits (total z) := by
  have hne : total z ≠ 0 := by omega
  have hle : ¬total z ≤ z.doneUnits := by omega
  simp only [blockRun, hz, if_neg hne, hb, runBlock, unitsFrom, if_neg hle, hu]
  rfl

/-- A length of 0 touches nothing (R110). -/
theorem run_empty {s : State} {th : ThreadId} {x : Ctx} {units : Nat} {total : Ctx → Nat} {before : Ctx → Except FaultInfo Unit}
    {unit : ThreadId → Ctx → Nat → State → Except FaultInfo Unit × State} (hx : s.topCtx th = some x)
    (h0 : total (freshCtx s th x) = 0) : blockRun units total before unit th s = .done (s.freshProg th) := by
  simp only [blockRun, topCtx_freshProg hx, h0, if_true]

theorem topCtx_setProg {s : State} {th : ThreadId} {y : Ctx} (h : s.topCtx th = some y) (k : Nat) :
    (s.setProg th k).topCtx th = some { y with progValid := true, progDone := BitVec.ofNat 30 k } := by
  simp only [State.setProg, h]
  refine (topCtx_modSlot _ th (fun y => { y with stale := false }) fun _ => rfl).trans ?_
  rw [Laws.topCtx_setTop, h]
  rfl

theorem onlyCore_setProg (s : State) (th : ThreadId) (k : Nat) : OnlyCore s (s.setProg th k) th.core := by
  unfold State.setProg
  split
  · exact onlyCore_trans (onlyCore_setTop s th _) (onlyCore_modSlot _ _ _ _)
  · exact onlyCore_refl s _

/-- The parcel after a unit: abandoned at the next one, or at its end (R143). -/
theorem unitDone_of_out {s s1 : State} {th : ThreadId} {y x : Ctx} {i : Instr} {o : Operation} {k total : Nat} (h : s.ready th = some x)
    (hx : exec i s = .next (s.issue th i o)) (hg : (s.core th.core).accepts o.grp = true) (hs : o.sup = false)
    (hr : o.run th (issuing s th) = unitOut s1 th k total) : UnitDone s s1 th y i k total := by
  intro hy
  refine ⟨_, hx, ?_⟩
  have hprog := topCtx_setProg hy (k + 1)
  rw [issue_op h hg hs, hr, unitOut]
  split
  next hle =>
    rw [if_neg (by omega)]
    refine ⟨onlyCore_trans (onlyCore_setProg s1 th _) (onlyCore_trans (onlyCore_stepOver _ th) (onlyCore_keepBefore _ _ th)), ?_⟩
    change (State.keepBefore _ ((s1.setProg th (k + 1)).stepOver th) th).topCtx th = _
    rw [topCtx_keepBefore, Laws.topCtx_stepOver, hprog]
    rfl
  next hlt =>
    rw [if_pos (by omega)]
    refine ⟨onlyCore_trans (onlyCore_setProg s1 th _) (onlyCore_keepBefore _ _ th), ?_⟩
    change (State.keepBefore _ (s1.setProg th (k + 1)) th).topCtx th = _
    rw [topCtx_keepBefore, hprog]

/-- A block instruction of length 0. -/
theorem leaves_empty {s : State} {th : ThreadId} {x : Ctx} {i : Instr} {o : Operation} (h : s.ready th = some x)
    (hx : exec i s = .next (s.issue th i o)) (hg : (s.core th.core).accepts o.grp = true) (hs : o.sup = false)
    (hr : o.run th (issuing s th) = .done ((issuing s th).freshProg th)) : Leaves s th x i (none, x.flg) := by
  refine ⟨_, hx, ?_⟩
  have hidle : OnlyTop s (s.issue th i (plainOp fun _ t => .done t)) th (nextParcel x) := onlyTop_of_run_idle h rfl
  have hsame : s.issue th i o = s.issue th i (plainOp fun _ t => .done t) := by
    rw [issue_op h hg hs, issue_op h rfl rfl, hr]
    change State.keepBefore _ (((issuing s th).freshProg th).stepOver th) th = State.keepBefore _ ((issuing s th).stepOver th) th
    rw [stepOver_freshProg (topCtx_issuing_of_ready h)]
  rw [hsame]
  exact hidle

/-! ## The instructions, a unit at a time -/

theorem topCtx_begin {s : State} {th : ThreadId} {x : Ctx} (h : s.ready th = some x) :
    ((issuing s th).freshProg th).topCtx th = some (freshCtx s th x) := by
  have hfresh := topCtx_freshProg (topCtx_issuing_of_ready h)
  rw [hfresh]
  simp only [freshCtx, slot_issuing]

theorem freshCtx_regs (s : State) (th : ThreadId) (x : Ctx) :
    (freshCtx s th x).d = x.d ∧ (freshCtx s th x).c = x.c ∧ (freshCtx s th x).flg = x.flg
      ∧ issuerOf th (freshCtx s th x) = issuerOf th x := by
  unfold freshCtx
  split <;> exact ⟨rfl, rfl, rfl, rfl⟩

/-- A block instruction whose unit succeeds where PROG says. -/
theorem unitDone_block {s s1 : State} {th : ThreadId} {x y : Ctx} {i : Instr} {g : Group} {total : Ctx → Nat} {n : Nat}
    {before : Ctx → Except FaultInfo Unit} {unit : ThreadId → Ctx → Nat → State → Except FaultInfo Unit × State}
    (h : s.ready th = some x) (hx : exec i s = .next (s.issue th i (blockOp g (blockRun 1 total before unit))))
    (hg : (s.core th.core).accepts g = true) (htotal : total (freshCtx s th x) = n) (hk : (freshCtx s th x).doneUnits < n)
    (hb : before (freshCtx s th x) = .ok ())
    (hu : unit th (freshCtx s th x) (freshCtx s th x).doneUnits ((issuing s th).freshProg th) = (.ok (), s1)) :
    UnitDone s s1 th y i (freshCtx s th x).doneUnits n := by
  subst htotal
  exact unitDone_of_out h hx hg rfl (run_unit (topCtx_begin h) hk hb hu)

theorem blockQuery_fresh (s : State) (th : ThreadId) (x : Ctx) (c : CReg) : blockQuery (freshCtx s th x) c = blockQuery x c := by
  obtain ⟨-, hc, -, -⟩ := freshCtx_regs s th x
  unfold blockQuery Ctx.getC
  rw [hc]

section Units

variable {s s1 : State} {th : ThreadId} {x : Ctx} (h : s.ready th = some x)
include h

/-- FILLB's unit is a store (R109). -/
theorem fillb_unit {cd : CReg} {a b : DReg} (hg : accepted s th 2)
    (hcd : x.c[cd.val].w0.toNat % 4 = 0) (hlen : x.d[b.val].toNat % 4 = 0) (hk : (freshCtx s th x).doneUnits < x.d[b.val].toNat / 4)
    (hu : ((issuing s th).freshProg th).blockWord (issuerOf th x) (blockQuery x cd (4 * (freshCtx s th x).doneUnits) 4 stores) x.d[a.val]
      = (.ok (), s1)) : UnitDone s s1 th x (.fillb th cd a b 1) (freshCtx s th x).doneUnits (x.d[b.val].toNat / 4) := by
  obtain ⟨hd, hc, -, hi⟩ := freshCtx_regs s th x
  refine unitDone_block h rfl hg ?_ hk ?_ ?_
  · simp only [Ctx.getD, hd]; omega
  · simp [alignFirst, Cap.cursorAt, Ctx.getD, Ctx.getC, hd, hc, hcd, hlen]
  · simp only [hi, Ctx.getD, hd, blockQuery_fresh]
    exact hu

/-- MOVB's unit is a load and then a store (R47). -/
theorem movb_unit {cd ca : CReg} {b : DReg} {w : Word} {s2 : State} (hg : accepted s th 2)
    (hcd : x.c[cd.val].w0.toNat % 4 = 0) (hca : x.c[ca.val].w0.toNat % 4 = 0) (hlen : x.d[b.val].toNat % 4 = 0)
    (hk : (freshCtx s th x).doneUnits < x.d[b.val].toNat / 4)
    (hl : ((issuing s th).freshProg th).dataLoad (issuerOf th x) (blockQuery x ca (4 * (freshCtx s th x).doneUnits) 4 loads) = (.ok w, s1))
    (hu : s1.blockWord (issuerOf th x) (blockQuery x cd (4 * (freshCtx s th x).doneUnits) 4 stores) w = (.ok (), s2)) :
    UnitDone s s2 th x (.movb th cd ca b 1) (freshCtx s th x).doneUnits (x.d[b.val].toNat / 4) := by
  obtain ⟨hd, hc, -, hi⟩ := freshCtx_regs s th x
  refine unitDone_block h rfl hg ?_ hk ?_ ?_
  · simp only [Ctx.getD, hd]; omega
  · simp [alignFirst, Cap.cursorAt, Ctx.getD, Ctx.getC, hd, hc, hcd, hca, hlen]
  · simp only [movbUnit, hi, blockQuery_fresh, hl, hu]

theorem tagz_unit {cd : CReg} {b : DReg} (hcd : x.c[cd.val].w0.toNat % 8 = 0) (hlen : x.d[b.val].toNat % 8 = 0)
    (hk : (freshCtx s th x).doneUnits < x.d[b.val].toNat / 8)
    (hu : tagzUnit cd th (freshCtx s th x) (freshCtx s th x).doneUnits ((issuing s th).freshProg th) = (.ok (), s1)) :
    UnitDone s s1 th x (.tagz th cd b 1) (freshCtx s th x).doneUnits (x.d[b.val].toNat / 8) := by
  obtain ⟨hd, hc, -, -⟩ := freshCtx_regs s th x
  refine unitDone_block h rfl rfl ?_ hk ?_ hu
  · simp only [Ctx.getD, hd]; omega
  · simp [alignFirst, Cap.cursorAt, Ctx.getD, Ctx.getC, hd, hc, hcd, hlen]

theorem pstoreN_unit {cd ca : CReg} {b : DReg} (hca : x.c[ca.val].w0.toNat % 4 = 0)
    (hcheck : pstoreCheck x.c[cd.val] x.d[b.val].toNat = .ok ()) (hk : (freshCtx s th x).doneUnits < x.d[b.val].toNat)
    (hu : pstoreUnit cd ca th (freshCtx s th x) (freshCtx s th x).doneUnits ((issuing s th).freshProg th) = (.ok (), s1)) :
    UnitDone s s1 th x (.pstoreN th cd ca b 1) (freshCtx s th x).doneUnits x.d[b.val].toNat := by
  obtain ⟨hd, hc, -, -⟩ := freshCtx_regs s th x
  refine unitDone_block h rfl rfl ?_ hk ?_ hu
  · simp only [Ctx.getD, hd]
  · simp [alignFirst, Cap.cursorAt, Ctx.getD, Ctx.getC, hd, hc, hca, hcheck]

/-- CRCB's unit folds the bytes of one word into its register (R109). -/
theorem crcb_unit {d : DReg} {ca : CReg} {b : DReg} {p : Place} {w : Word} {g : Tag} {s2 : State} (hg : accepted s th 2)
    (hlen : 0 < x.d[b.val].toNat) (hk : (freshCtx s th x).doneUnits < (x.c[ca.val].w0.toNat % 4 + x.d[b.val].toNat + 3) / 4) :
    let cur := x.c[ca.val].w0.toNat
    let wa := cur / 4 * 4 + 4 * (freshCtx s th x).doneUnits
    let lo := max cur wa
    let hi := min (cur + x.d[b.val].toNat) (wa + 4)
    ((issuing s th).freshProg th).crcPlace (issuerOf th x) (blockQuery x ca 0 4 loads) lo hi wa = (.ok p, s1) →
      s1.heldBack th.core p.pa = false → s1.groupLoad (issuerOf th x) p 4 false = (.ok (w, g), s2) →
      s2.topCtx th = some (freshCtx s th x) → ∀ y,
      UnitDone s (s2.setTop th ((freshCtx s th x).setD d (crcWord x.d[d.val] w (lo - wa) (hi - wa)))) th y (.crcb th d ca b 1)
        (freshCtx s th x).doneUnits ((cur % 4 + x.d[b.val].toNat + 3) / 4) := by
  intro cur wa lo hi hplace hheld hload htop y
  obtain ⟨hd, hc, -, hiss⟩ := freshCtx_regs s th x
  have hb : x.d[b.val] ≠ 0 := by
    intro h0
    rw [h0] at hlen
    cases hlen
  refine unitDone_block h rfl hg ?_ hk rfl ?_
  · simp only [Ctx.getD, Ctx.getC, hd, hc, if_neg hb, cur]
  · have hheld' : s1.heldBack (issuerOf th x).core p.pa = false := hheld
    simp only [crcbUnit, hiss, blockQuery_fresh, Ctx.getD, Ctx.getC, hd, hc]
    simp only [cur, wa, lo, hi] at hplace
    simp only [hplace, hheld', hload, htop, hd]
    rfl

end Units

/-- A block instruction of length 0, whatever its units are. -/
theorem leaves_noUnits {s : State} {th : ThreadId} {x : Ctx} {i : Instr} {g : Group} {units : Nat} {total : Ctx → Nat}
    {before : Ctx → Except FaultInfo Unit} {unit : ThreadId → Ctx → Nat → State → Except FaultInfo Unit × State}
    (h : s.ready th = some x) (hx : exec i s = .next (s.issue th i (blockOp g (blockRun units total before unit))))
    (hg : (s.core th.core).accepts g = true) (h0 : total (freshCtx (issuing s th) th x) = 0) : Leaves s th x i (none, x.flg) :=
  leaves_empty h hx hg rfl (run_empty (topCtx_issuing_of_ready h) h0)

theorem blockUnits : BlockUnits := by
  intro s th x cd ca d a b h len s0 z k i aligned
  refine ⟨fun hlen n => ?_, fun hg hcd hlen hk => ⟨fun s1 hu => fillb_unit h hg hcd hlen hk hu,
    fun hca w s1 s2 hl hu => movb_unit h hg hcd hca hlen hk hl hu⟩, ?_, fun hcd hlen hk s1 hu => tagz_unit h hcd hlen hk hu,
    fun hca hcheck hk s1 hu => pstoreN_unit h hca hcheck hk hu⟩
  · obtain ⟨hd, -, -, -⟩ := freshCtx_regs (issuing s th) th x
    have hb : x.d[b.val] = 0 := BitVec.eq_of_toNat_eq hlen
    have hlen' : ((freshCtx (issuing s th) th x).getD b).toNat = 0 := by rw [Ctx.getD, hd]; exact hlen
    have hb' : (freshCtx (issuing s th) th x).getD b = 0 := by rw [Ctx.getD, hd]; exact hb
    refine ⟨fun hg => ⟨leaves_noUnits h rfl hg ?_, leaves_noUnits h rfl hg ?_, leaves_noUnits h rfl hg (if_pos hb')⟩,
      leaves_noUnits h rfl rfl ?_, leaves_noUnits h rfl rfl hlen'⟩ <;> rw [hlen']
  · intro hg cur total wa lo hi hlen hk p w g s1 s2 hplace hheld hload htop
    obtain ⟨hd, hc, hflg, -⟩ := freshCtx_regs s th x
    obtain ⟨t, hexec, hcore, hctx⟩ := crcb_unit (d := d) h hg hlen hk hplace hheld hload htop
      ((freshCtx s th x).setD d (crcWord x.d[d.val] w (lo - wa) (hi - wa))) (by rw [Laws.topCtx_setTop, htop]; rfl)
    refine ⟨t, hexec, onlyCore_trans (onlyCore_setTop s2 th _) hcore, _, hctx, ?_⟩
    split
    next hlt => exact ⟨by simp only [Ctx.setD, hd], rfl, ⟨fun _ => hlt, fun _ => rfl⟩, hc, hflg⟩
    next hge => exact ⟨by simp only [nextParcel, Ctx.setD, hd], rfl, ⟨fun hv => absurd hv Bool.false_ne_true, fun hlt => absurd hlt hge⟩,
      hc, hflg⟩

/-! ## What TAGZ and PSTORE.N leave -/

/-- The bytes of a word, little-endian (R362). -/
theorem extract_wordAt (s : State) (pa : Nat) {i : Nat} (hi : i < 4) : (s.wordAt pa).extractLsb' (8 * i) 8 = s.byteAt (pa + i) := by
  refine BitVec.eq_of_getLsbD_eq fun j hj => ?_
  simp only [BitVec.getLsbD_extractLsb', State.wordAt, BitVec.getLsbD_append, hj, decide_true, Bool.true_and]
  obtain rfl | rfl | rfl | rfl : i = 0 ∨ i = 1 ∨ i = 2 ∨ i = 3 := by omega
  · simp [hj]
  · simp [show ¬8 + j < 8 by omega, hj]
  · simp [show ¬16 + j < 8 by omega, show 16 + j - 8 = 8 + j by omega, show ¬8 + j < 8 by omega, hj]
  · simp [show ¬24 + j < 8 by omega, show 24 + j - 8 = 16 + j by omega, show ¬16 + j < 8 by omega, show 16 + j - 8 = 8 + j by omega,
      show ¬8 + j < 8 by omega, hj]

theorem wordAt_of_byteAt {s t : State} (h : ∀ a, t.byteAt a = s.byteAt a) (pa : Nat) : t.wordAt pa = s.wordAt pa := by
  simp only [State.wordAt, h]

/-- A word put where it stands changes no byte. -/
theorem byteAt_putBytes4_same {s : State} (h : Memory.wf s.mem = true) (pa a : Nat) :
    (s.putBytes4 pa (s.wordAt pa)).byteAt a = s.byteAt a := by
  by_cases ha : pa ≤ a ∧ a < pa + 4
  · obtain ⟨i, hi, rfl⟩ : ∃ i, i < 4 ∧ a = pa + i := ⟨a - pa, by omega, by omega⟩
    rw [← extract_wordAt _ pa hi, Laws.wordAt_putBytes4_self s pa _ h, extract_wordAt s pa hi]
  · exact Laws.byteAt_putBytes4_ne s pa _ a ha

/-- A word of SRAM given a tag, with its value as it stands and no injection waiting. -/
theorem retagged {s : State} {pa : Nat} (hr : (∃ n, region pa = .sram n) ∨ region pa = .nowhere) (hq : quiet s) (hs : Sound s) (t : Tag) :
    let u := s.putWord pa (s.wordAt pa) t
    (∀ a, u.byteAt a = s.byteAt a) ∧ u.tagAt pa = t ∧ (∀ a, a / 4 ≠ pa / 4 → u.tagAt a = s.tagAt a) ∧ quiet u ∧ Sound u := by
  intro u
  obtain ⟨hwf, htags, -, -, -⟩ := id hs
  have htags : s.tags.sorted = true := by
    simp only [Tbl.canonical, Bool.and_eq_true] at htags
    exact htags.1
  have hu : u = ((s.putBytes4 pa (s.wordAt pa)).putTag pa t).putEcc pa Ecc.clean := by
    refine (putWord_of_ring hr s (s.wordAt pa) t).trans (injectStore_quiet pa ?_)
    exact hq
  refine ⟨fun a => ?_, ?_, fun a ha => ?_, ?_, Laws.sound_putWord s pa _ t hs⟩
  · rw [hu]; exact byteAt_putBytes4_same hwf pa a
  · rw [hu]; exact Laws.tagAt_putTag_self (s.putBytes4 pa (s.wordAt pa)) pa t htags
  · rw [hu]; exact Laws.tagAt_putTag_ne (s.putBytes4 pa (s.wordAt pa)) t ha
  · rw [hu]; exact hq

/-- Next to SRAM is SRAM, or nothing (R39). -/
theorem region_next_of_sram {pa n : Nat} (h : region pa = .sram n) : (∃ m, region (pa + 4) = .sram m) ∨ region (pa + 4) = .nowhere := by
  have hpa : 0xE000000000 ≤ pa ∧ pa < 0xE002000000 := by
    unfold region at h
    split_ifs at h
    assumption
  unfold region
  rw [if_neg (by omega)]
  by_cases htop : pa + 4 < 0xE002000000
  · exact .inl ⟨_, if_pos ⟨by omega, htop⟩⟩
  · right
    rw [if_neg (by omega), if_neg (by omega), if_neg (by omega), if_neg (by omega), if_neg (by omega), if_neg (by omega), if_neg (by omega)]

/-- A doubleword of SRAM becomes Unwritten, and no byte changes (R46). -/
theorem memUnwrite_sram {s : State} {p : Place} {m : Nat} (hr : region p.pa = .sram m) (ha : p.pa % 4 = 0) (hq : quiet s) (hs : Sound s)
    (n : Nat) : (s.memUnwrite n p).tagAt p.pa = .unwritten ∧ (s.memUnwrite n p).tagAt (p.pa + 4) = .unwritten
      ∧ ∀ a, (s.memUnwrite n p).byteAt a = s.byteAt a := by
  have hr4 : (∃ n, region (p.pa + 4) = .sram n) ∨ region (p.pa + 4) = .nowhere :=
    region_next_of_sram hr
  obtain ⟨hbytes, htag, -, hq1, hs1⟩ := retagged (.inl ⟨m, hr⟩) hq hs .unwritten
  obtain ⟨hbytes2, htag2, hothers2, -, -⟩ := retagged hr4 hq1 hs1 .unwritten
  have hword : (s.putWord p.pa (s.wordAt p.pa) .unwritten).wordAt (p.pa + 4) = s.wordAt (p.pa + 4) :=
    wordAt_of_byteAt hbytes _
  have hun : s.memUnwrite n p = (s.putWord p.pa (s.wordAt p.pa) .unwritten).putWord (p.pa + 4) (s.wordAt (p.pa + 4)) .unwritten := by
    simp only [State.memUnwrite, not_viaCache_of_sram hr, Bool.false_eq_true, if_false, pastCache_of_sram hr, State.putPair, hr]
  rw [hun, ← hword]
  exact ⟨(hothers2 p.pa (by omega)).trans htag, htag2, fun a => (hbytes2 a).trans (hbytes a)⟩

/-- TAGZ's unit, where it succeeds in a place of the group's own region: undo records, and the doubleword (R46, R207). -/
theorem tagzUnit_private {s s0 s1 : State} {th : ThreadId} {x : Ctx} {cd : CReg} {k : Nat} {p : Place}
    (hloc : s.locate (issuerOf th x) (blockQuery x cd (8 * k) 8 stores) = (.ok p, s0)) (hp : plainPlace s0 th.core p.pa)
    (hu : tagzUnit cd th x k s = (.ok (), s1)) :
    s1 = ((s0.logStore th.core p.pa 0xF [0, 0]).memUnwrite (th.core / 8) p).passWords th.core (s0.storedWords p.pa true) := by
  obtain ⟨hpriv, -, hheld, -, -⟩ := hp
  have hpriv' : s0.inPrivate (issuerOf th x).core p.pa = true := hpriv
  have hheld' : s0.heldBack (issuerOf th x).core p.pa = false := hheld
  simp only [tagzUnit, hloc] at hu
  split at hu
  · cases hu
  · split at hu
    · cases hu
    · rw [State.blockPut, if_neg (by rw [hheld']; simp), if_pos hpriv', State.outStore, if_pos hpriv'] at hu
      exact (Prod.mk.inj hu).2.symm

/-- PSTORE.N's parcel stands in the code store (R110). -/
theorem parcelAt_storeParcel {s : State} (hq : quiet s) (hs : Sound s) (th : ThreadId) (adr : Nat) (p : Parcel) :
    (s.storeParcel th adr p).parcelAt adr = p := by
  obtain ⟨-, -, -, hcode, -⟩ := id hs
  have hcode : s.code.sorted = true := by
    simp only [Tbl.canonical, Bool.and_eq_true] at hcode
    exact hcode.1
  have hput : (s.putParcel adr p).code = s.code.set (fun _ => 0) (codeIndex adr) p := by
    unfold State.putParcel
    extract_lets s1
    have hq1 : quiet s1 := hq
    rw [Laws.takeInj_quiet _ _ _ _ hq1]
  change (s.putParcel adr p).code.get _ _ = p
  rw [hput]
  exact Laws.get_set_self _ _ _ _ hcode

theorem blockEffects : BlockEffects := by
  intro s s1 th x cd ca k h hq
  refine ⟨fun p s0 hloc hq0 hp hs hu => ?_, fun w s0 hload hq0 hs hlive hu => ?_⟩
  · obtain ⟨hpriv, -, -, ha, -⟩ := id hp
    have hlook := looked_locate s (issuerOf th x) (blockQuery x cd (8 * k) 8 stores)
    rw [hloc] at hlook
    have hmem : s0.mem = s.mem := hlook.mem.1
    obtain ⟨hrec, -⟩ := logStore_private th.core.isLt hpriv 0xF [0, 0] hs.1
    obtain ⟨htag, htag4, hbytes⟩ := memUnwrite_sram (region_of_inPrivate hpriv) ha (quiet_of_recorded hrec hq0)
      (sound_logStore hs) (th.core / 8)
    rw [tagzUnit_private hloc hp hu]
    refine ⟨htag, htag4, fun a hlog => (hbytes a).trans ((hrec.bytes a hlog).trans ?_)⟩
    simp only [State.byteAt, hmem]
  · simp only [pstoreUnit, hload] at hu
    rw [← (Prod.mk.inj hu).2, emit_live hlive]
    have hrec := recorded_logRelease s0 th.core.isLt 11 (x.c[cd.val].w0.toNat + k) 0xF [w]
    exact parcelAt_storeParcel (quiet_of_recorded hrec hq0) (sound_logRelease hs) th _ _

/-- Settles O36: the units, and what they leave. -/
theorem blockInstructions : Obligations.BlockInstructions := ⟨blockUnits, blockEffects⟩

end Sys2Proof.Proofs
end

section
/-! PROOFS. Entry to level 1 by a fault at level 0 (R135 to R139). -/

namespace Sys2Proof.Proofs

open Sys2Proof.Machine Sys2Proof.Claims

/-! ## A context that the device stacks -/

/-- A bank that takes a slot's level, which no other holds, is where the level is found (R121). -/
theorem findCtx_setBank {l : List (Option Bank)} {sl : Fin 8} {lv : Fin 3} (hnone : findCtx l sl lv = none) {b : Nat} (hb : b < l.length)
    (used : Nat) (y : Ctx) : findCtx (l.set b (some { slot := sl, level := lv, used := used, ctx := y })) sl lv = some y := by
  induction l generalizing b with
  | nil => cases hb
  | cons a r ih =>
    cases b with
    | zero => simp [findCtx]
    | succ b =>
      cases a with
      | none => exact ih hnone (by simpa using hb)
      | some v =>
        by_cases hv : v.slot = sl ∧ v.level = lv
        · simp [findCtx, hv] at hnone
        · simp only [findCtx, if_neg hv] at hnone
          simp only [List.set_cons_succ, findCtx, if_neg hv]
          exact ih hnone (by simpa using hb)

theorem ctx_putBank {c : Core} {sl : Fin 8} {lv : Fin 3} (hnone : c.ctx sl lv = none) {b : Nat} (hb : b < 12) (used : Nat) (y : Ctx) :
    (c.putBank b (some { slot := sl, level := lv, used := used, ctx := y })).ctx sl lv = some y := by
  unfold Core.ctx Core.putBank at *
  rw [Vector.toList_setIfInBounds]
  exact findCtx_setBank hnone (by simpa using hb) used y

/-- Freshening PROG makes no context resident. -/
theorem ctx_freshProg_none {s : State} {th : ThreadId} {lv : Fin 3} (h : (s.core th.core).ctx th.slot lv = none) :
    ((s.freshProg th).core th.core).ctx th.slot lv = none := by
  unfold State.freshProg
  split
  · rw [State.modSlot, Laws.core_modCore_self, Laws.ctx_setSlot]
    split
    · rw [State.setTop, Laws.core_modCore_self, Laws.ctx_setCtx, h]
      split <;> rfl
    · exact h
  · exact h

/-- The slot and the top context once a handler's context is stacked (R123, R135). -/
theorem stackCtx_top {s : State} {th : ThreadId} {b from_ : Nat} {lv : Fin 3} (y : Ctx) (hb : b < 12)
    (hnone : (s.core th.core).ctx th.slot lv = none) :
    let t := s.stackCtx th b from_ lv y
    t.topCtx th = some y ∧ ((t.core th.core).slot th.slot).top = lv ∧ ((t.core th.core).slot th.slot).buf = [] := by
  intro t
  have hslot : ((t.core th.core).slot th.slot).top = lv ∧ ((t.core th.core).slot th.slot).buf = [] := by
    simp [t, State.stackCtx]
  refine ⟨?_, hslot⟩
  rw [State.topCtx, hslot.1]
  simp only [t, State.stackCtx, State.placeCtx, Laws.core_modCore_self]
  exact ctx_putBank (ctx_freshProg_none hnone) hb _ y

/-! ## Entry to level 1 -/

/-- An entry to level 1 for which everything is in order (R135 to R138). -/
theorem enterLevel1_ready {s : State} {th : ThreadId} {x : Ctx} {f : FaultInfo} {r : Vector Word 16} {l : List Cap}
    (h : EntryReady s th x 1 0 f r l) : ∃ t, s.enterLevel1 th x f 0 none = .ok t
      ∧ t.topCtx th = some (x.handler 1 (l.getD 0 Cap.null) (l.getD 1 Cap.null) (l.getD 3 Cap.null) (resumeAt x f.code) r)
      ∧ ((t.core th.core).slot th.slot).top = 1 ∧ ((t.core th.core).slot th.slot).buf = [] := by
  obtain ⟨s1, s2, s3, s4, pas, b, hrec, hcaps, hplaces, hbank, hb, hnone⟩ := h
  refine ⟨_, ?_, stackCtx_top (from_ := 0) _ hb hnone⟩
  simp only [State.enterLevel1, Option.isSome_none, Bool.false_eq_true, if_false, hrec, hcaps, hplaces, hbank, Option.getD_none]

/-- The handler's context stands above the interrupted one as the rules have it (R135). -/
theorem entered_handler {t : State} {th : ThreadId} {x : Ctx} (c0 c6 pcc : Cap) (resume : Word) (r : Vector Word 16)
    (htop : t.topCtx th = some (x.handler 1 c0 c6 pcc resume r)) (hslot : ((t.core th.core).slot th.slot).top = 1)
    (hbuf : ((t.core th.core).slot th.slot).buf = []) : Entered t th x (x.handler 1 c0 c6 pcc resume r) 1 c0 c6 pcc resume := by
  refine ⟨htop, hslot, hbuf, rfl, rfl, rfl, rfl, rfl, ?_, ?_, ?_, fun n h1 h5 => ?_, rfl, rfl, rfl, rfl, rfl, rfl, rfl⟩
  · simp [Ctx.handler]
  · simp [Ctx.handler]
  · simp [Ctx.handler]
  · have h0 : n.val ≠ 0 := by omega
    have h6 : n.val ≠ 6 := by omega
    have h7 : n.val ≠ 7 := by omega
    simp [Ctx.handler, h0.symm, h6.symm, h7.symm]

/-- The codes of the plain faults at hand: none is a fetch's, and none is an access that must wait. -/
def PlainCode (code : Nat) : Prop := code = 0x18 ∨ code = 0x0F ∨ code = 0x13

theorem ofParcel_plainFault {code : Nat} (hc : PlainCode code) (parcel : Word) :
    (plainFault code).ofParcel parcel 0 = { plainFault code with parcel := parcel } := by
  rcases hc with rfl | rfl | rfl <;> rfl

/-- The words of a record that R136 fills whatever the fault is. -/
theorem recordOf_words {s s1 : State} {x : Ctx} {kind trapno c2 : Nat} {f : FaultInfo} {r : Vector Word 16}
    (h : s.recordOf x kind trapno c2 f = (r, s1)) :
    r[0] = (at_ trapno 24 ||| at_ kind 22 ||| at_ (f.op % 4) 20 ||| at_ x.ts.level.toNat 18 ||| at_ (c2 % 64) 12 ||| at_ (f.code % 64) 0)
      ∧ r[1] = f.parcel ∧ r[5] = x.addrmode.setWidth 32 ∧ r[6] = x.ts.toWord ∧ r[8] = tenantWord x.home x.cur := by
  unfold State.recordOf at h
  split at h
  split at h
  split at h
  obtain ⟨rfl, -⟩ := Prod.mk.inj h
  exact ⟨rfl, rfl, rfl, rfl, rfl⟩

/-- The record of a plain fault at level 0 (R136). -/
theorem recorded_plainFault {s s1 : State} {x : Ctx} {code : Nat} {parcel : Word} {r : Vector Word 16} (hl : x.ts.level = 0)
    (hc : PlainCode code) (h : s.recordOf x 1 0 0 { plainFault code with parcel := parcel } = (r, s1)) :
    Claims.Recorded r x 1 0 code parcel := by
  obtain ⟨hword, hparcel, hmode, hstatus, htenant⟩ := recordOf_words h
  have hlevel : x.ts.level.toNat = 0 := by rw [hl]; rfl
  refine ⟨?_, ?_, ?_, ?_, hparcel, hmode, hstatus, htenant⟩ <;> rw [hword, hlevel] <;> dsimp only [plainFault] <;>
    rcases hc with rfl | rfl | rfl <;> decide

/-- Where a plain fault goes at level 0 (R139): to level 1, PF or not, for it is no probe's. -/
theorem takeFault_level0 {s : State} {th : ThreadId} {x : Ctx} {f : FaultInfo} (ht : s.topCtx th = some x) (hl : x.ts.level = 0)
    (hprobe : f.probe = false) (keep : Bool) : s.takeFault th f keep = s.enterLevel1 th x f 0 none := by
  have hlevel : x.ts.level.toNat = 0 := by rw [hl]; rfl
  simp [State.takeFault, ht, FaultInfo.suppressible, hprobe, hlevel]

/-- The end of a parcel that faults plainly at level 0 with its handler's entry in order. -/
theorem settleOp_fault {s t : State} {th : ThreadId} {x : Ctx} {code : Nat} {parcel : Word} (ops : List Instr) (block : Bool)
    (ht : s.topCtx th = some x) (hl : x.ts.level = 0) (hc : PlainCode code)
    (he : s.enterLevel1 th x ((plainFault code).ofParcel parcel 0) 0 none = .ok t) :
    s.settleOp th parcel 0 block ops (.fault (plainFault code) s) = s.keepBefore t th := by
  have hlow : ¬notYet ≤ (plainFault code).code := by rcases hc with rfl | rfl | rfl <;> decide
  have hprobe : ((plainFault code).ofParcel parcel 0).probe = false := by rw [ofParcel_plainFault hc]; rfl
  simp only [State.settleOp, State.settled, if_neg hlow, takeFault_level0 ht hl hprobe, he]

theorem top_keepBefore (s t : State) (th : ThreadId) :
    (((s.keepBefore t th).core th.core).slot th.slot).top = ((t.core th.core).slot th.slot).top := by
  rcases keepBefore_cases s t th with h | h <;> rw [h]
  simp

/-- A fault of an operation at level 0, whose handler's entry is ready. -/
theorem faults_enter {s : State} {th : ThreadId} {x : Ctx} {i : Instr} {o : Operation} {code : Nat} {r : Vector Word 16} {l : List Cap}
    (h : s.ready th = some x) (hl : x.ts.level = 0) (hc : PlainCode code) (hx : exec i s = .next (s.issue th i o))
    (hr : o.checked th (issuing s th) = .fault (plainFault code) (issuing s th))
    (hready : EntryReady (issuing s th) th x 1 0 ((plainFault code).ofParcel (s.parcelNow x) 0) r l) :
    Answers i s fun t => ∃ y, Entered t th x y 1 (l.getD 0 Cap.null) (l.getD 1 Cap.null) (l.getD 3 Cap.null) x.pcc.w0
      ∧ y.record = r ∧ y.cur = x.cur ∧ Claims.Recorded r x 1 0 code (s.parcelNow x) := by
  have hrecord : Claims.Recorded r x 1 0 code (s.parcelNow x) := by
    obtain ⟨s1, -, -, -, -, -, hrec, -⟩ := hready
    rw [ofParcel_plainFault hc] at hrec
    exact recorded_plainFault hl hc hrec
  have hpcode : ((plainFault code).ofParcel (s.parcelNow x) 0).code = code := by rw [ofParcel_plainFault hc]; rfl
  have hresume : resumeAt x code = x.pcc.w0 := by rcases hc with rfl | rfl | rfl <;> rfl
  obtain ⟨t, henter, htop, hslot, hbuf⟩ := enterLevel1_ready hready
  rw [hpcode, hresume] at htop
  have hissue : s.issue th i o = (issuing s th).keepBefore t th := by
    have hsettle := settleOp_fault (parcel := s.parcelNow x) [i] o.block (topCtx_issuing_of_ready h) hl hc henter
    rw [← hsettle, ← hr]
    simp only [State.issue, h]
    rfl
  refine ⟨_, hx, x.handler 1 (l.getD 0 Cap.null) (l.getD 1 Cap.null) (l.getD 3 Cap.null) x.pcc.w0 r, ?_, rfl, rfl, hrecord⟩
  rw [hissue]
  exact entered_handler _ _ _ _ _ ((topCtx_keepBefore _ t th).trans htop) ((top_keepBefore _ t th).trans hslot)
    ((buf_keepBefore _ t th th.core th.slot).trans hbuf)

/-! ## The operations that fault -/

section Checks

variable {s : State} {th : ThreadId} {x : Ctx} (h : s.ready th = some x)
include h

/-- A group that the core has not accepted (R83). -/
theorem checked_reserved {o : Operation} (hg : (s.core th.core).accepts o.grp = false) :
    o.checked th (issuing s th) = .fault (plainFault 0x0F) (issuing s th) := by
  have hg' : ((issuing s th).core th.core).accepts o.grp = false := by
    unfold issuing
    rw [Laws.core_modCore_self]
    exact hg
  simp [Operation.checked, topCtx_issuing_of_ready h, hg', fRESERVED_OP]

/-- A supervisor operation in user mode (R88). -/
theorem checked_priv (hm : x.ts.m = false) (run : Op) :
    (supOp run).checked th (issuing s th) = .fault (plainFault 0x13) (issuing s th) := by
  simp [Operation.checked, topCtx_issuing_of_ready h, supOp, Core.accepts, hm, fPRIV]

/-- A division by zero (R94). -/
theorem checked_divided {d b : DReg} {f : Ctx → Word} (hg : accepted s th 1) (hb : x.d[b.val] = 0) :
    (groupOp .divsq (regOrFault (divided d b f))).checked th (issuing s th) = .fault (plainFault 0x18) (issuing s th) := by
  have hg' : ((issuing s th).core th.core).accepts .divsq = true := by
    unfold issuing
    rw [Laws.core_modCore_self]
    exact hg
  have hb' : x.getD b = 0 := hb
  simp [Operation.checked, topCtx_issuing_of_ready h, groupOp, hg', regOrFault, divided, hb', fDIV_ZERO]

end Checks

/-- Settles O18: each operation's check is a plain fault, and that fault enters level 1. -/
theorem faultEntry : Obligations.FaultEntry := by
  intro s th x d a b code i r l h hl hcases hready
  rcases hcases with ⟨rfl, hg, hb, hi⟩ | ⟨rfl, hg, hi⟩ | ⟨rfl, hg, hi⟩ | ⟨rfl, hm, hi⟩
  · rcases hi with rfl | rfl | rfl | rfl <;> exact faults_enter h hl (.inl rfl) rfl (checked_divided h hg hb) hready
  · have hg' : (s.core th.core).accepts .divsq = false := Bool.eq_false_iff.mpr hg
    rcases hi with rfl | rfl | rfl <;> exact faults_enter h hl (.inr (.inl rfl)) rfl (checked_reserved h hg') hready
  · have hg' : (s.core th.core).accepts .phase = false := Bool.eq_false_iff.mpr hg
    rcases hi with rfl | rfl <;> exact faults_enter h hl (.inr (.inl rfl)) rfl (checked_reserved h hg') hready
  · rcases hi with rfl | rfl <;> exact faults_enter h hl (.inr (.inr rfl)) rfl (checked_priv h hm _) hready

end Sys2Proof.Proofs
end

section
/-! PROOFS. The register pages: where the repair of a word is not what R52 asks, and O56. -/

namespace Sys2Proof.Proofs

open Sys2Proof.Machine Sys2Proof.Claims

/-! ## The oldest entry of the repair queue -/

/-- Where the queue's oldest entry is a word and the cove runs, the scrubber repairs that word. -/
theorem exec_repairQueueRewrite_word {s : State} {n : Fin 16} {idx : Nat} {rest : List Repair}
    (hq : (s.cove n).repairs = .word idx :: rest) (hruns : s.coveRuns n = true) :
    exec (.repairQueueRewrite n) s = .next ((s.modCove n fun c => { c with repairs := rest }).repairWord (sramWord n idx)) := by
  change execRepairQueueRewrite n s = _
  unfold execRepairQueueRewrite
  rw [hq]
  simp [hruns]

/-- A single data error is rewritten with check bits that agree. -/
theorem repairWord_of_data {s : State} {pa : Nat} (h : (s.eccAt pa).cls pa = 1) : s.repairWord pa = s.putEcc pa Ecc.clean := by
  simp [State.repairWord, h]

/-! ## A table of check bits that lists a word twice

O56 asks of every state, also of one whose check bits are not in canonical form (`Sound`), that a repaired word reads as clean. A
table that lists the word twice loses only its first entry to the repair, so the word reads as its second. -/

/-- The check bits of a word with an error in one data bit. -/
def dataError : Ecc := { kind := .dataBit, inj := false }

/-- The device out of reset, running, with the first word of cove 0 in its repair queue, and two entries for that word's check bits. -/
def doubledEcc : State :=
  ({ State.reset with phase := .run, ecc := ⟨[(eccKey 0xE000000000, dataError), (eccKey 0xE000000000, dataError)]⟩ } : State).setCove 0
    { Cove.reset 0 with repairs := [.word 0] }

theorem cove_doubledEcc : doubledEcc.cove 0 = { Cove.reset 0 with repairs := [.word 0] } :=
  Laws.cove_setCove_self _ _ _

theorem gate_doubledEcc : (doubledEcc.gate 0).st = .on := rfl

theorem phase_doubledEcc : doubledEcc.phase = .run := rfl

theorem coveRuns_doubledEcc : doubledEcc.coveRuns 0 = true := by
  simp [State.coveRuns, gate_doubledEcc, phase_doubledEcc]

/-- The word reads as one with a data error. -/
theorem eccAt_doubledEcc : doubledEcc.eccAt 0xE000000000 = dataError := by
  simp [doubledEcc, State.setCove, State.eccAt, Tbl.get, cellsFind]

/-- What the scrubber leaves of the queue's only entry: the word still reads as one with a data error. -/
theorem eccAt_repaired_doubledEcc (f : Cove → Cove) :
    ((doubledEcc.modCove 0 f).putEcc 0xE000000000 Ecc.clean).eccAt 0xE000000000 = dataError := by
  simp [doubledEcc, State.modCove, State.setCove, State.putEcc, State.eccAt, Tbl.set, Tbl.get, cellsErase, cellsFind]

/-- The scrubber's step on the queue of `doubledEcc` leaves the word's error in place. -/
theorem repair_doubledEcc {P : State → Prop} (h : Answers (.repairQueueRewrite 0) doubledEcc P) :
    ∃ t, P t ∧ t.eccAt 0xE000000000 = dataError := by
  obtain ⟨t, ht, hP⟩ := h
  have hq : (doubledEcc.cove (0 : Fin 16)).repairs = [.word 0] := congrArg Cove.repairs cove_doubledEcc
  have hcls : ((doubledEcc.modCove (0 : Fin 16) fun c => { c with repairs := [] }).eccAt (sramWord (0 : Fin 16) 0)).cls
      (sramWord (0 : Fin 16) 0) = 1 := congrArg (Ecc.cls · 0xE000000000) eccAt_doubledEcc
  rw [exec_repairQueueRewrite_word hq coveRuns_doubledEcc, repairWord_of_data hcls] at ht
  cases ht
  exact ⟨_, hP, eccAt_repaired_doubledEcc _⟩

/-- Refutes O56: the repair of a word is claimed of every state, not only of those that `Sound` describes. Where the table of check
bits lists the word twice, the rewritten word reads as the second entry, which holds the error. -/
theorem not_pageResult : ¬ Obligations.PageResult := by
  intro h
  obtain ⟨-, -, hscan⟩ := h
  obtain ⟨-, -, -, -, -, hrepair, -⟩ := hscan doubledEcc 0 0 0 [] ⟨0, 0, 0⟩ 0 0 0 .written doubledEcc 0 0 none
  have hq : (doubledEcc.cove (0 : Fin 16)).repairs = [.word 0] := congrArg Cove.repairs cove_doubledEcc
  have hcls : (doubledEcc.eccAt 0xE000000000).cls 0xE000000000 = 1 := congrArg (Ecc.cls · 0xE000000000) eccAt_doubledEcc
  obtain ⟨t, ⟨-, hclean, -⟩, hkept⟩ := repair_doubledEcc
    (hrepair (by decide) hq ⟨gate_doubledEcc, by simp [phase_doubledEcc], by simp [phase_doubledEcc]⟩ (.inl hcls))
  exact absurd (hclean.symm.trans hkept) (by decide)

end Sys2Proof.Proofs
end

section
/-! PROOFS. Operations on registers (R65, R72, R83): what a thread's operation leaves where its group is accepted, and what the
writes of a result to a context are by the classes of R74. -/

namespace Sys2Proof.Proofs

open Sys2Proof.Machine Sys2Proof.Claims

/-! ## Operations of a group -/

@[simp] theorem accepts_issuing (s : State) (th : ThreadId) (g : Group) :
    ((issuing s th).core th.core).accepts g = (s.core th.core).accepts g := by
  unfold issuing
  rw [Laws.core_modCore_self]
  rfl

section Leaves

variable {s : State} {th : ThreadId} {x : Ctx} {i : Instr} {r : Result} (h : s.ready th = some x)
include h

/-- An operation of an accepted group issues as one of no group does (R72, R83). -/
theorem issue_groupOp {g : Group} (hg : (s.core th.core).accepts g = true) (i : Instr) (run : Op) :
    s.issue th i (groupOp g run) = s.issue th i (plainOp run) := by
  have hchecked : (groupOp g run).checked th (issuing s th) = (plainOp run).checked th (issuing s th) := by
    have halways : ((issuing s th).core th.core).accepts .always = true := rfl
    simp [Operation.checked, topCtx_issuing_of_ready h, groupOp, plainOp, hg, halways]
  have hissue (o : Operation) :
      s.issue th i o = (issuing s th).settleOp th ((issuing s th).parcelNow x) 0 o.block [i] (o.checked th (issuing s th)) := by
    simp only [State.issue, h]
    rfl
  rw [hissue, hissue, hchecked]
  rfl

theorem exec_of_groupOp {g : Group} {run : Op} (hg : (s.core th.core).accepts g = true)
    (hx : exec i s = .next (s.issue th i (groupOp g run))) : exec i s = .next (s.issue th i (plainOp run)) :=
  hx.trans (congrArg _ (issue_groupOp h hg i run))

/-- An operation on registers leaves the result that its function writes. -/
theorem leaves_of_regOp {f : Ctx → Ctx} (hx : exec i s = .next (s.issue th i (plainOp (regOp f)))) (hf : f x = written x r) :
    Leaves s th x i r :=
  ⟨_, hx, onlyTop_of_run h (hf ▸ Laws.regOp_done f (topCtx_issuing_of_ready h))⟩

/-- An operation on registers that might fault leaves the result that its function writes where it does not. -/
theorem leaves_of_regOrFault {f : Ctx → Except Nat Ctx} (hx : exec i s = .next (s.issue th i (plainOp (regOrFault f))))
    (hf : f x = .ok (written x r)) : Leaves s th x i r :=
  ⟨_, hx, onlyTop_of_run h (by simp only [regOrFault, topCtx_issuing_of_ready h, hf])⟩

/-- The same of an operation of an accepted group (R83). -/
theorem leaves_of_groupOp {g : Group} {f : Ctx → Ctx} (hg : (s.core th.core).accepts g = true)
    (hx : exec i s = .next (s.issue th i (groupOp g (regOp f)))) (hf : f x = written x r) : Leaves s th x i r :=
  leaves_of_regOp h (exec_of_groupOp h hg hx) hf

end Leaves

/-! ## The flag classes (R74) -/

theorem negBit_eq_msb (w : Word) : negBit w = w.msb := by
  rw [negBit, BitVec.msb_eq_getLsbD_last]

theorem logicFlags_eq_logicFlg (x : Ctx) (r : Word) : logicFlags x.flg r = logicFlg x r := by
  rw [logicFlags, mkFlg_eq_flg, negBit_eq_msb]
  rfl

theorem shiftFlags_eq_shiftFlg (x : Ctx) (r : Word) (n : Nat) (out : Bool) :
    shiftFlags x.flg r (if n = 0 then none else some out) = shiftFlg x r n out := by
  rw [shiftFlags, mkFlg_eq_flg, negBit_eq_msb]
  unfold shiftFlg
  split <;> rfl

/-- The sum with a carry, as the spec writes it (R91). -/
theorem addRes_carry (a b : Word) (c : Bool) : addRes a b c = a + b + BitVec.ofNat 32 c.toNat :=
  BitVec.eq_of_toNat_eq (by simp [addRes, sumNat])

/-- The sum with NOT b and a carry is the difference (R91). -/
theorem addRes_not (a b : Word) : addRes a (~~~b) true = a - b := by
  rw [addRes_carry, BitVec.sub_eq_add_neg, BitVec.neg_eq_not_add, BitVec.add_assoc]
  rfl

theorem addRes_eq_ofInt (a b : Word) (c : Bool) : addRes a b c = BitVec.ofInt 32 (sumInt a b c) := by
  rw [addRes_carry, sumInt, BitVec.ofInt_add, BitVec.ofInt_add, BitVec.ofInt_toInt, BitVec.ofInt_toInt, BitVec.ofInt_natCast]

theorem sumInt_bounds (a b : Word) (c : Bool) : -2 ^ 32 ≤ sumInt a b c ∧ sumInt a b c < 2 ^ 32 := by
  have ha := BitVec.toInt_lt (x := a)
  have hb := BitVec.toInt_lt (x := b)
  have ha' := BitVec.le_toInt a
  have hb' := BitVec.le_toInt b
  have hc := c.toNat_le
  unfold sumInt
  omega

/-- A sum differs from its word where it is no signed word: the overflow of R74. -/
theorem toInt_addRes_ne_iff (a b : Word) (c : Bool) :
    (addRes a b c).toInt ≠ sumInt a b c ↔ sumInt a b c < -2 ^ 31 ∨ 2 ^ 31 ≤ sumInt a b c := by
  obtain ⟨hlo, hhi⟩ := sumInt_bounds a b c
  rw [addRes_eq_ofInt, BitVec.toInt_ofInt, Int.bmod_def]
  split <;> omega

theorem addFlags_eq_sumFlg_carry (a b : Word) (c : Bool) : addFlags a b c = sumFlg a b c.toNat (addRes a b c) := by
  simp only [addFlags, mkFlg_eq_flg, negBit_eq_msb, toInt_addRes_ne_iff]
  rfl

theorem toInt_not (b : Word) : (~~~b).toInt = -b.toInt - 1 := by
  have hb := b.isLt
  simp only [BitVec.toInt_eq_toNat_cond, BitVec.toNat_not]
  split <;> split <;> omega

/-- The flags of a + NOT b + 1 are those of the difference: a carry is no borrow (R74). -/
theorem sumFlg_not (a b r : Word) : sumFlg a (~~~b) 1 r = diffFlg a b r := by
  have hint : a.toInt + (~~~b).toInt + (1 : Nat) = a.toInt - b.toInt := by rw [toInt_not]; omega
  have hborrow : 2 ^ 32 ≤ a.toNat + (~~~b).toNat + 1 ↔ b.toNat ≤ a.toNat := by
    have := b.isLt
    rw [BitVec.toNat_not]
    omega
  simp only [sumFlg, diffFlg, hint, hborrow]

/-! ## Results written -/

section Written

variable (x : Ctx) (d : DReg) (nf : Bool)

theorem setD_eq_written (r : Word) : x.setD d r = written x (plain x d r) := rfl

theorem setF_eq_written (r : Word) (f : BitVec 4) : (x.setD d r).setF nf f = written x (withNf x nf d r f) := by
  cases nf <;> rfl

theorem logic_eq_written (r : Word) : x.logic d nf r = written x (withNf x nf d r (logicFlg x r)) := by
  rw [Ctx.logic, logicFlags_eq_logicFlg, setF_eq_written]

theorem shift_eq_written (r : Word) (n : Nat) (out : Bool) :
    x.shift d nf (r, if n = 0 then none else some out) = written x (withNf x nf d r (shiftFlg x r n out)) := by
  rw [Ctx.shift, shiftFlags_eq_shiftFlg, setF_eq_written]

/-- A sum with a carry (R91). -/
theorem arith_carry_eq_written (a b : Word) (c : Bool) :
    let r := a + b + BitVec.ofNat 32 c.toNat
    x.arith d nf a b c = written x (withNf x nf d r (sumFlg a b c.toNat r)) := by
  rw [Ctx.arith, addFlags_eq_sumFlg_carry, addRes_carry, setF_eq_written]

/-- A difference, as the sum that the model makes of it (R91). -/
theorem arith_not_eq_written (a b : Word) : x.arith d nf a (~~~b) true = written x (withNf x nf d (a - b) (diffFlg a b (a - b))) := by
  rw [Ctx.arith, addFlags_eq_sumFlg_carry, addRes_not, Bool.toNat_true, sumFlg_not, setF_eq_written]

end Written

end Sys2Proof.Proofs
end

section
/-! PROOFS. Integer arithmetic, logic and shifts, constants, select and the plain phase operations (R69, R81, R91, R92, R95, R97). -/

namespace Sys2Proof.Proofs

open Sys2Proof.Machine Sys2Proof.Claims

/-! ## Integer operations -/

theorem minFirst_eq_not_slt (a b : Word) : minFirst a b = !b.slt a := by
  rw [minFirst, ← BitVec.sle_eq_decide, BitVec.sle_eq_not_slt]

theorem min_eq_ite_slt (a b : Word) : (if minFirst a b then a else b) = if b.slt a then b else a := by
  rw [minFirst_eq_not_slt]
  cases b.slt a <;> rfl

/-- A tie of the signed maximum goes to either operand: they are the same word. -/
theorem max_eq_ite_slt (a b : Word) : (if minFirst a b then b else a) = if a.slt b then b else a := by
  have hle : minFirst a b = decide (a.toInt ≤ b.toInt) := rfl
  rw [hle, BitVec.slt_eq_decide]
  rcases lt_trichotomy a.toInt b.toInt with hlt | heq | hgt
  · simp [hlt, hlt.le]
  · simp [BitVec.eq_of_toInt_eq heq]
  · simp [hgt.not_ge, hgt.not_gt]

theorem minu_eq_ite_lt (a b : Word) : (if a ≤ b then a else b) = if b < a then b else a := by
  simp only [← BitVec.not_le, ite_not]

theorem maxu_eq_ite_lt (a b : Word) : (if a ≤ b then b else a) = if a < b then b else a := by
  rcases lt_trichotomy a.toNat b.toNat with hlt | heq | hgt
  · simp [BitVec.le_def, BitVec.lt_def, hlt, hlt.le]
  · simp [BitVec.eq_of_toNat_eq heq]
  · simp [BitVec.le_def, BitVec.lt_def, hgt.not_ge, hgt.not_gt]

/-- A comparison writes the flags of a difference (R91). -/
theorem compare_eq_written (x : Ctx) (a b : Word) :
    { x with flg := addFlags a (~~~b) true } = written x (none, diffFlg a b (a - b)) := by
  rw [addFlags_eq_sumFlg_carry, addRes_not, Bool.toNat_true, sumFlg_not]
  rfl

/-- A test writes the flags of a logical result (R91). -/
theorem test_eq_written (x : Ctx) (r : Word) : { x with flg := logicFlags x.flg r } = written x (none, logicFlg x r) := by
  rw [logicFlags_eq_logicFlg]
  rfl

/-- Settles O1: each operation is one on registers, and writes its result by the rule of its flag class. -/
theorem integerResult : Obligations.IntegerResult := by
  intro s th x d a b imm i5 nf h
  refine ⟨leaves_of_regOp h rfl (setD_eq_written x d _), leaves_of_regOp h rfl (logic_eq_written x d nf _),
    leaves_of_regOp h rfl (setD_eq_written x d _), leaves_of_regOp h rfl (arith_carry_eq_written x d nf _ _ false),
    leaves_of_regOp h rfl (arith_carry_eq_written x d nf _ _ false), leaves_of_regOp h rfl (arith_not_eq_written x d nf _ _),
    leaves_of_regOp h rfl (arith_carry_eq_written x d nf _ _ (flgC x.flg)),
    leaves_of_regOp h rfl (arith_carry_eq_written x d nf _ _ (flgC x.flg)),
    leaves_of_regOp h rfl (arith_not_eq_written x d nf _ _), leaves_of_regOp h rfl (compare_eq_written x _ _),
    leaves_of_regOp h rfl (compare_eq_written x _ _), leaves_of_regOp h rfl (logic_eq_written x d nf _),
    leaves_of_regOp h rfl (logic_eq_written x d nf _), leaves_of_regOp h rfl (logic_eq_written x d nf _),
    leaves_of_regOp h rfl (logic_eq_written x d nf _), leaves_of_regOp h rfl (logic_eq_written x d nf _),
    leaves_of_regOp h rfl (logic_eq_written x d nf _), leaves_of_regOp h rfl (logic_eq_written x d nf _),
    leaves_of_regOp h rfl (test_eq_written x _), leaves_of_regOp h rfl (test_eq_written x _),
    leaves_of_regOp h rfl (logic_eq_written x d nf _), leaves_of_regOp h rfl (congrArg (x.setD d) (min_eq_ite_slt _ _)),
    leaves_of_regOp h rfl (congrArg (x.setD d) (max_eq_ite_slt _ _)), leaves_of_regOp h rfl (congrArg (x.setD d) (minu_eq_ite_lt _ _)),
    leaves_of_regOp h rfl (congrArg (x.setD d) (maxu_eq_ite_lt _ _))⟩

/-! ## Shifts, select, constants and phases -/

/-- A rotation by 0 keeps C, and any other puts bit 31 of its result there (R92). -/
theorem rotate_eq_written (x : Ctx) (d : DReg) (nf : Bool) (v : Word) (n : Nat) :
    x.shift d nf (rorRes v n) = written x (rotation x nf d v n) := by
  have hres : rorRes v n = (v.rotateRight n, if n = 0 then none else some (v.rotateRight n).msb) := by
    rw [← negBit_eq_msb]
    rfl
  rw [hres, shift_eq_written]
  rfl

/-- SEL picks an operand, and under NV has no effect (R75, R97). -/
theorem select_eq_written (x : Ctx) (d : DReg) (cond : BitVec 4) (v w : Word) :
    (if cond = 15#4 then x else x.setD d (if condHolds x.flg cond then v else w))
      = written x (if cond = 15#4 then (none, x.flg) else plain x d (if holds x cond then v else w)) := by
  rw [condHolds_eq_holds]
  split <;> rfl

theorem shiftLeft_seven (w : BitVec 17) : w.setWidth 32 <<< 7 = BitVec.ofNat 32 (w.toNat * 128) :=
  BitVec.eq_of_toNat_eq (by simp [Nat.shiftLeft_eq])

/-- LDI.HI keeps the lower half of its register (R69). -/
theorem ldiHi_eq_written (x : Ctx) (d : DReg) (hi : BitVec 16) :
    x.setD d (hi ++ (x.getD d).setWidth 16) = written x (plain x d (hi ++ x.d[d.val].extractLsb' 0 16)) := by
  rw [BitVec.setWidth_eq_extractLsb' (by decide)]
  rfl

/-- The Phase class keeps V (R74). -/
theorem phase_eq_written (x : Ctx) (d : DReg) (nf : Bool) (r : Word) (c : Bool) :
    (x.setD d r).setF nf (phaseFlags x.flg r c) = written x (withNf x nf d r (flg r.msb (decide (r = 0)) c (hasV x))) := by
  rw [setF_eq_written, phaseFlags, mkFlg_eq_flg, negBit_eq_msb]
  rfl

theorem ofInt_pdiff (a b : Word) : BitVec.ofInt 32 (pdiff a b) = a - b := BitVec.ofInt_toInt

/-- Settles O2: each operation is one on registers, and writes its result by the rule of its flag class. -/
theorem shiftResult : Obligations.ShiftResult := by
  intro s th x d a b amt cond w hi nf h
  refine ⟨leaves_of_regOp h rfl (shift_eq_written x d nf _ _ _), leaves_of_regOp h rfl (shift_eq_written x d nf _ _ _),
    leaves_of_regOp h rfl (shift_eq_written x d nf _ _ _), leaves_of_regOp h rfl (shift_eq_written x d nf _ _ _),
    leaves_of_regOp h rfl (shift_eq_written x d nf _ _ _), leaves_of_regOp h rfl (shift_eq_written x d nf _ _ _),
    leaves_of_regOp h rfl (rotate_eq_written x d nf _ _), leaves_of_regOp h rfl (rotate_eq_written x d nf _ _),
    leaves_of_regOp h rfl (select_eq_written x d cond _ _), leaves_of_regOp h rfl (setD_eq_written x d _),
    leaves_of_regOp h rfl (ldiHi_eq_written x d hi), leaves_of_regOp h rfl rfl,
    leaves_of_regOp h rfl (congrArg (x.setD d) (shiftLeft_seven w)), leaves_of_regOp h rfl (phase_eq_written x d nf _ _),
    leaves_of_regOp h rfl (phase_eq_written x d nf _ _), leaves_of_regOp h rfl (congrArg (x.setD d) (ofInt_pdiff _ _))⟩

end Sys2Proof.Proofs
end

section
/-! PROOFS. Products, accumulations, quotients and roots (R93, R94). -/

namespace Sys2Proof.Proofs

open Sys2Proof.Machine Sys2Proof.Claims

/-! ## Clamped values (R93) -/

/-- A clamped value is the nearest signed number of the width, and is marked where it is another. -/
theorem satInt_eq_clamp (n : Nat) (v : Int) :
    satInt (n + 1) v = (max (-2 ^ n) (min (2 ^ n - 1) v), decide (v < -2 ^ n ∨ 2 ^ n ≤ v)) := by
  have hpos : (0 : Int) < 2 ^ n := by positivity
  simp only [satInt, Nat.add_sub_cancel]
  split
  next hlo => simp [hlo, show min (2 ^ n - 1) v ≤ -2 ^ n by omega]
  next hlo =>
    split
    next hhi => simp [show 2 ^ n ≤ v by omega, show min (2 ^ n - 1) v = 2 ^ n - 1 by omega, show -2 ^ n ≤ (2 : Int) ^ n - 1 by omega]
    next hhi => simp [show ¬(v < -2 ^ n ∨ 2 ^ n ≤ v) by omega, show min (2 ^ n - 1) v = v by omega, show -2 ^ n ≤ v by omega]

theorem clamp32_eq_satInt (v : Int) : clamp32 v = (BitVec.ofInt 32 (satInt 32 v).1, (satInt 32 v).2) := by
  rw [satInt_eq_clamp 31]
  rfl

theorem clamp64_eq_satInt (v : Int) : clamp64 v = (BitVec.ofInt 64 (satInt 64 v).1, (satInt 64 v).2) := by
  rw [satInt_eq_clamp 63]
  rfl

/-! ## Products -/

/-- A shift of the exact product is a division (R93). -/
theorem mulQ30_eq_q30 (a b : Word) : mulQ30 a b = q30 a b := Int.fdiv_eq_ediv_of_nonneg _ (by decide)

theorem mulh_eq (a b : Word) :
    BitVec.ofInt 32 (floorDiv (mulInt a b) (2 ^ 32)) = ((a.signExtend 64 * b.signExtend 64) >>> 32).setWidth 32 := by
  have hprod : a.signExtend 64 * b.signExtend 64 = BitVec.ofInt 64 (mulInt a b) := by
    rw [mulInt, BitVec.ofInt_mul]
    rfl
  rw [hprod, floorDiv, Int.fdiv_eq_ediv_of_nonneg _ (by decide)]
  apply BitVec.eq_of_toNat_eq
  generalize mulInt a b = v
  simp only [BitVec.toNat_setWidth, BitVec.toNat_ushiftRight, BitVec.toNat_ofInt, Nat.shiftRight_eq_div_pow]
  omega

theorem mulhu_eq (a b : Word) :
    word (a.toNat * b.toNat / 2 ^ 32) = ((a.zeroExtend 64 * b.zeroExtend 64) >>> 32).setWidth 32 := by
  have hlt : a.toNat * b.toNat < 2 ^ 64 := by
    have := Nat.mul_lt_mul'' a.isLt b.isLt
    rwa [← pow_add] at this
  apply BitVec.eq_of_toNat_eq
  simp only [word, BitVec.toNat_ofNat, BitVec.toNat_setWidth, BitVec.toNat_ushiftRight, BitVec.toNat_mul, BitVec.truncate_eq_setWidth,
    Nat.shiftRight_eq_div_pow]
  rw [Nat.mod_eq_of_lt (a := a.toNat), Nat.mod_eq_of_lt (a := b.toNat), Nat.mod_eq_of_lt hlt]
  · exact b.isLt.trans (by decide)
  · exact a.isLt.trans (by decide)

theorem mulFlags_eq_flg (x : Ctx) (r : Word) (sat : Bool) : mulFlags x.flg r sat = flg r.msb (decide (r = 0)) (hasC x) sat := by
  rw [mulFlags, mkFlg_eq_flg, negBit_eq_msb]
  rfl

section Written

variable (x : Ctx) (d : DReg) (nf : Bool)

theorem product_eq_written (r : Word) (sat : Bool) : x.product d nf r sat = written x (product x nf d (r, sat)) := by
  rw [Ctx.product, mulFlags_eq_flg, setF_eq_written]
  rfl

theorem product32_eq_written (v : Int) : x.product32 d nf v = written x (product x nf d (clamp32 v)) := by
  rw [Ctx.product32, product_eq_written, clamp32_eq_satInt]

end Written

/-! ## The 64-bit accumulator (R93) -/

theorem highReg_of_even {d : DReg} (h : d.val % 2 = 0) : (highReg d).val = d.val + 1 := by
  have := d.isLt
  show (d.val + 1) % 16 = d.val + 1
  omega

theorem mulFlags64_eq_flg (x : Ctx) (r : BitVec 64) (sat : Bool) : mulFlags64 x.flg r sat = flg r.msb (decide (r = 0)) (hasC x) sat := by
  rw [mulFlags64, mkFlg_eq_flg, BitVec.msb_eq_getLsbD_last]
  rfl

/-- A context with a clamped accumulator in {d+1, d} and its flags. -/
def accumulated (x : Ctx) (d : DReg) (h : d.val % 2 = 0) (nf : Bool) (r : BitVec 64 × Bool) : Ctx :=
  { x with
    d := (x.d.set d.val (r.1.extractLsb' 0 32)).set (d.val + 1) (r.1.extractLsb' 32 32) (by have := d.isLt; omega)
    flg := if nf then x.flg else flg r.1.msb (decide (r.1 = 0)) (hasC x) r.2 }

theorem setAcc64_of_even (x : Ctx) {d : DReg} (h : d.val % 2 = 0) (nf : Bool) (v : Int) :
    x.setAcc64 d nf v = accumulated x d h nf (clamp64 v) := by
  have hhigh : highReg d = ⟨d.val + 1, by have := d.isLt; omega⟩ := Fin.ext (highReg_of_even h)
  rw [clamp64_eq_satInt, Ctx.setAcc64, mulFlags64_eq_flg, hhigh]
  cases nf <;> rfl

theorem acc64_of_even (x : Ctx) {d : DReg} (h : d.val % 2 = 0) :
    x.acc64 d = (x.d[d.val + 1]'(by have := d.isLt; omega) ++ x.d[d.val] : BitVec 64).toInt := by
  have hhigh : highReg d = ⟨d.val + 1, by have := d.isLt; omega⟩ := Fin.ext (highReg_of_even h)
  rw [Ctx.acc64, hhigh]
  rfl

/-- MAC.L and MSUB.L of a core that has accepted their group (R83, R93). -/
theorem answers_accumulation {s : State} {th : ThreadId} {x : Ctx} {d : DReg} {nf : Bool} {i : Instr} {v : Ctx → Int} {n : Int}
    (h : s.ready th = some x) (he : d.val % 2 = 0) (hg : accepted s th 3)
    (hx : exec i s = .next (s.issue th i (groupOp .mac (regOrFault (evenOnly d fun y => y.setAcc64 d nf (v y)))))) (hv : v x = n) :
    Answers i s fun t => OnlyTop s t th (nextParcel (accumulated x d he nf (clamp64 n))) := by
  have hset : evenOnly d (fun y => y.setAcc64 d nf (v y)) x = .ok (accumulated x d he nf (clamp64 n)) := by
    rw [evenOnly, if_pos he, setAcc64_of_even x he, hv]
  exact ⟨_, exec_of_groupOp (g := .mac) h hg hx, onlyTop_of_run h (by simp only [regOrFault, topCtx_issuing_of_ready h, hset])⟩

/-- Settles O3: the products by their widths, and the accumulations by their clamps. -/
theorem multiplyResult : Obligations.MultiplyResult := by
  intro s th x d a b imm nf h
  refine ⟨leaves_of_regOp h rfl (product_eq_written x d nf _ false), leaves_of_regOp h rfl (product_eq_written x d nf _ false),
    leaves_of_regOp h rfl ?_, leaves_of_regOp h rfl ?_, leaves_of_regOp h rfl ?_, fun hg => ⟨?_, ?_, ?_, ?_⟩, fun he hg => ⟨?_, ?_⟩⟩
  · rw [mulh_eq]; exact product_eq_written x d nf _ false
  · rw [mulhu_eq]; exact product_eq_written x d nf _ false
  · rw [mulQ30_eq_q30]; exact product32_eq_written x d nf _
  · exact leaves_of_groupOp (g := .mac) h hg rfl (product_eq_written x d nf _ false)
  · exact leaves_of_groupOp (g := .mac) h hg rfl (product_eq_written x d nf _ false)
  · exact leaves_of_groupOp (g := .mac) h hg rfl (by rw [mulQ30_eq_q30]; exact product32_eq_written x d nf _)
  · exact leaves_of_groupOp (g := .mac) h hg rfl (by rw [mulQ30_eq_q30]; exact product32_eq_written x d nf _)
  · exact answers_accumulation h he hg (v := fun x => x.acc64 d + mulInt (x.getD a) (x.getD b)) rfl (by rw [acc64_of_even x he]; rfl)
  · exact answers_accumulation h he hg (v := fun x => x.acc64 d - mulInt (x.getD a) (x.getD b)) rfl (by rw [acc64_of_even x he]; rfl)

/-! ## Quotients and remainders (R94) -/

/-- A division by a divisor that is not zero (R83, R94). -/
theorem leaves_of_divided {s : State} {th : ThreadId} {x : Ctx} {d b : DReg} {i : Instr} {f : Ctx → Word} (h : s.ready th = some x)
    (hg : accepted s th 1) (hb : x.d[b.val] ≠ 0) (hx : exec i s = .next (s.issue th i (groupOp .divsq (regOrFault (divided d b f))))) :
    Leaves s th x i (plain x d (f x)) :=
  leaves_of_regOrFault h (exec_of_groupOp (g := .divsq) h hg hx) (if_neg hb)

/-! ## Square roots (R94) -/

/-- One step of the root's search: bit i of the root is set where the square still fits. -/
def rootStep (n r i : Nat) : Nat := if (r + 2 ^ i) * (r + 2 ^ i) ≤ n then r + 2 ^ i else r

/-- The search over the bits below k, from a number whose square fits, finds the root where it lies less than 2^k above. -/
theorem isRoot_foldl_rootStep (n k : Nat) : ∀ r, r * r ≤ n → n < (r + 2 ^ k) * (r + 2 ^ k) →
    isRoot ((List.range k).reverse.foldl (rootStep n) r) n := by
  induction k with
  | zero => exact fun r hlo hhi => ⟨hlo, hhi⟩
  | succ k ih =>
    intro r hlo hhi
    rw [List.range_succ, List.reverse_append, List.reverse_singleton, List.singleton_append, List.foldl_cons, rootStep]
    split
    next hfits => exact ih _ hfits (by rwa [add_assoc, ← two_mul, ← pow_succ'])
    next hover => exact ih _ hlo (not_le.mp hover)

theorem isRoot_isqrt {n : Nat} (h : n < 2 ^ 66) : isRoot (isqrt n) n := isRoot_foldl_rootStep n 33 0 (Nat.zero_le n) (by simpa using h)

theorem sqrtQRes_eq_ite_msb (a : Word) : sqrtQRes a = if a.msb then 0 else BitVec.ofNat 32 (isqrt (a.toNat * 2 ^ 30)) := by
  simp only [sqrtQRes, word, BitVec.msb_eq_toInt, decide_eq_true_eq]

/-- Settles O10: the quotients are the model's own, and the roots are what the search of their bits finds. -/
theorem divisionResult : Obligations.DivisionResult := by
  intro s th x d a b h hg
  have hroot {f : Ctx → Ctx} {i : Instr} {r : Word} (hx : exec i s = .next (s.issue th i (groupOp .divsq (regOp f))))
      (hf : f x = x.setD d r) : Leaves s th x i (plain x d r) := leaves_of_groupOp (g := .divsq) h hg hx hf
  have hlt := x.d[a.val].isLt
  refine ⟨fun hb => ⟨?_, ?_, ?_, ?_, fun hva hvb => ⟨?_, ?_⟩⟩, ⟨isqrt x.d[a.val].toNat, isRoot_isqrt (by omega), hroot rfl rfl⟩,
    ⟨isqrt (x.d[a.val].toNat * 2 ^ 30), isRoot_isqrt (by omega), hroot rfl (congrArg (x.setD d) (sqrtQRes_eq_ite_msb _))⟩⟩
  · exact leaves_of_divided h hg hb (f := fun x => divRes (x.getD a) (x.getD b)) rfl
  · exact leaves_of_divided h hg hb (f := fun x => x.getD a / x.getD b) rfl
  · exact leaves_of_divided h hg hb (f := fun x => remRes (x.getD a) (x.getD b)) rfl
  · exact leaves_of_divided h hg hb (f := fun x => x.getD a % x.getD b) rfl
  · have hdiv : divRes x.d[a.val] x.d[b.val] = 0x80000000#32 := by rw [hva, hvb]; rfl
    exact hdiv ▸ leaves_of_divided h hg hb (f := fun x => divRes (x.getD a) (x.getD b)) rfl
  · have hrem : remRes x.d[a.val] x.d[b.val] = 0 := by rw [hva, hvb]; rfl
    exact hrem ▸ leaves_of_divided h hg hb (f := fun x => remRes (x.getD a) (x.getD b)) rfl

end Sys2Proof.Proofs
end

section
/-! PROOFS. Loads and stores as operations of a thread (R68, R70, R87, R98). -/

namespace Sys2Proof.Proofs

open Sys2Proof.Machine Sys2Proof.Claims

/-- The value that a load of so many bytes puts in its register (R98). -/
def extended (signed : Bool) (size : Nat) (w : Word) : Word :=
  if signed then (if size = 1 then (w.setWidth 8).signExtend 32 else if size = 2 then (w.setWidth 16).signExtend 32 else w) else w

theorem extended_byte : extended true 1 = sbyte :=
  funext fun _ => congrArg (BitVec.signExtend 32) (BitVec.setWidth_eq_extractLsb' (by decide))

theorem extended_half : extended true 2 = shalf :=
  funext fun _ => congrArg (BitVec.signExtend 32) (BitVec.setWidth_eq_extractLsb' (by decide))

theorem extended_unsigned (size : Nat) : extended false size = id := rfl

section Operations

variable {s : State} {th : ThreadId} {x : Ctx} {i : Instr} {c : CReg} {disp : Ctx → Int} {d : DReg} {short : Bool}
  (h : s.ready th = some x)
include h

/-- A load where its access answers (R87, R98). -/
theorem loads_of_loadOp {size : Nat} {signed : Bool} {ext : Word → Word} {q : Query}
    (hx : exec i s = .next (s.issue th i (plainOp (loadOp c disp size signed d short)))) (hext : extended signed size = ext)
    (hq : { query x c (disp x) size loads with short := short } = q) : Loads s th x d ext i q := by
  subst hext hq
  intro w s1 ha ht
  have hrun : loadOp c disp size signed d short th (issuing s th) = .done ((s1.setTop th (x.setD d (extended signed size w))).awaits th) := by
    unfold query at ha
    simp only [loadOp, topCtx_issuing_of_ready h, ha]
    rfl
  exact responds_of_run h hx ht hrun

/-- A word store where its access is accepted (R87, R98). -/
theorem stores_of_storeOp {q : Query} (hx : exec i s = .next (s.issue th i (plainOp (storeOp c disp d short))))
    (hq : { query x c (disp x) 4 stores with short := short } = q) : Stores s th x x.d[d.val] i q := by
  subst hq
  intro s1 ha ht
  have hrun : storeOp c disp d short th (issuing s th) = .done s1 := by
    unfold query at ha
    simp only [storeOp, topCtx_issuing_of_ready h, Ctx.getD, ha]
  exact posts_of_run h hx ht hrun

/-- An operation that leaves its thread's registers as `s1` has them waits for its response (R87). -/
theorem responds_of_run_idle {s1 : State} {z : Ctx} {run : Op} (hx : exec i s = .next (s.issue th i (plainOp run)))
    (ht : s1.topCtx th = some z) (hr : run th (issuing s th) = .done (s1.awaits th)) : Responds s s1 th i z := by
  refine ⟨_, hx, ?_⟩
  rw [issue_plainOp_done h hr]
  refine ⟨?_, ?_, ?_⟩
  · simp [Laws.topCtx_stepOver, ht, nextParcel]
  · simp [Awaits, State.awaits]
  · exact onlyCore_trans (onlyCore_modSlot s1 _ _ _) (onlyCore_trans (onlyCore_stepOver _ th) (onlyCore_keepBefore _ _ th))

/-- A byte or half-word store where its access succeeds (R44, R87, R98). -/
theorem merges_of_subStoreOp {size : Nat} {q : Query} (hx : exec i s = .next (s.issue th i (plainOp (subStoreOp c disp size d))))
    (hq : query x c (disp x) size stores = q) : Merges s th x x.d[d.val] i q := by
  subst hq
  intro s1 ha ht
  have hrun : subStoreOp c disp size d th (issuing s th) = .done (s1.awaits th) := by
    unfold query at ha
    simp only [subStoreOp, topCtx_issuing_of_ready h, Ctx.getD, ha]
  exact responds_of_run_idle h hx ht hrun

end Operations

/-- Settles O4: every load is one operation, which extends what its access answers. -/
theorem loadResult : Obligations.LoadResult := by
  intro s th x d c b disp k h
  exact ⟨loads_of_loadOp h rfl extended_byte rfl, loads_of_loadOp h rfl (extended_unsigned 1) rfl,
    loads_of_loadOp h rfl extended_half rfl, loads_of_loadOp h rfl (extended_unsigned 2) rfl,
    loads_of_loadOp h rfl (extended_unsigned 4) rfl, loads_of_loadOp h rfl (extended_unsigned 4) rfl,
    loads_of_loadOp h rfl extended_byte rfl, loads_of_loadOp h rfl (extended_unsigned 1) rfl,
    loads_of_loadOp h rfl extended_half rfl, loads_of_loadOp h rfl (extended_unsigned 2) rfl,
    loads_of_loadOp h rfl (extended_unsigned 4) rfl, loads_of_loadOp h rfl (extended_unsigned 4) rfl⟩

/-- Settles O5: every word store is one posted operation, and every byte and half-word store one that waits. -/
theorem storeResult : Obligations.StoreResult := by
  intro s th x d c b disp k h
  exact ⟨stores_of_storeOp h rfl rfl, stores_of_storeOp h rfl rfl, stores_of_storeOp h rfl rfl, stores_of_storeOp h rfl rfl,
    merges_of_subStoreOp h rfl rfl, merges_of_subStoreOp h rfl rfl, merges_of_subStoreOp h rfl rfl, merges_of_subStoreOp h rfl rfl⟩

end Sys2Proof.Proofs
end

section
/-! PROOFS. Sine and cosine (R82), and the operations that read a tide (R95, R96, R181). -/

namespace Sys2Proof.Proofs

open Sys2Proof.Machine Sys2Proof.Claims

/-! ## Sine and cosine -/

/-- The exact values at the quarter turns: the m-th quarter of a turn is a fraction with no rest (R82). -/
theorem sineFloor_of_quarter {f m : Nat} (hrest : f % 2 ^ 24 % 2 ^ 22 = 0) (hquarter : f % 2 ^ 24 / 2 ^ 22 = m) :
    sineFloor f = ([0, 2 ^ 30, 0, -(2 ^ 30)].getD m 0, true) := by
  have hm : m < 4 := by omega
  unfold sineFloor
  dsimp only
  rw [if_pos hrest, hquarter]
  interval_cases m <;> rfl

/-- PSIN and PCOS at a quarter turn. -/
theorem sineWord_of_quarter {cosine : Bool} {a : Word} {m : Nat}
    (hrest : (if cosine then fld a 23 0 + 2 ^ 22 else fld a 23 0) % 2 ^ 24 % 2 ^ 22 = 0)
    (hquarter : (if cosine then fld a 23 0 + 2 ^ 22 else fld a 23 0) % 2 ^ 24 / 2 ^ 22 = m) :
    sineWord cosine a = BitVec.ofInt 32 ([0, 2 ^ 30, 0, -(2 ^ 30)].getD m 0) := by
  unfold sineWord
  simp only [sineFloor_of_quarter hrest hquarter, if_true]

theorem sineWord_quarter (n : Fin 4) :
    let quarter : List Word := [0, 0x40000000#32, 0, 0xC0000000#32]
    sineWord false (word (n.val * 2 ^ 22)) = quarter.getD n.val 0
      ∧ sineWord true (word (n.val * 2 ^ 22)) = quarter.getD ((n.val + 1) % 4) 0 := by
  have hn := n.isLt
  have hfrac : fld (word (n.val * 2 ^ 22)) 23 0 = n.val * 2 ^ 22 := by
    simp only [fld, word, BitVec.toNat_ofNat, Nat.shiftRight_zero]
    omega
  have hsin := sineWord_of_quarter (cosine := false) (a := word (n.val * 2 ^ 22)) (m := n.val)
  have hcos := sineWord_of_quarter (cosine := true) (a := word (n.val * 2 ^ 22)) (m := (n.val + 1) % 4)
  simp only [hfrac, Bool.false_eq_true, if_false, if_true] at hsin hcos
  rw [hsin (by omega) (by omega), hcos (by omega) (by omega)]
  clear hn hfrac hsin hcos
  fin_cases n <;> exact ⟨rfl, rfl⟩

/-- The sine looks at FRAC only (R80, R82). -/
theorem sineWord_frac (cosine : Bool) (a : Word) : sineWord cosine a = sineWord cosine (word (a.toNat % 2 ^ 24)) := by
  have hfrac : fld (word (a.toNat % 2 ^ 24)) 23 0 = fld a 23 0 := by
    simp only [fld, word, BitVec.toNat_ofNat, Nat.shiftRight_zero]
    omega
  unfold sineWord
  rw [hfrac]

theorem sineResult : SineResult := by
  refine ⟨fun n => sineWord false (word n), fun n => sineWord true (word n),
    sineWord_quarter, fun s th x d a h hg => ⟨?_, ?_⟩⟩
  · exact leaves_of_groupOp (g := .phase) h hg rfl (congrArg (x.setD d) (sineWord_frac false _))
  · exact leaves_of_groupOp (g := .phase) h hg rfl (congrArg (x.setD d) (sineWord_frac true _))

/-! ## Reads of a tide -/

/-- Logging leaves the tides and the time. -/
theorem tides_of_recorded {s t : State} {k : Nat} (h : Recorded s t k) : (∀ n, t.tide n = s.tide n) ∧ ∀ n, t.tideWord n = s.tideWord n := by
  have ht := congrArg State.tides h.rest
  have ht : t.tides = s.tides := ht
  have hn := congrArg State.now h.rest
  have hn : t.now = s.now := hn
  have htide (n : Nat) : t.tide n = s.tide n := by simp only [State.tide, ht]
  exact ⟨htide, fun n => by simp only [State.tideWord, State.tidePhase, State.phaseAt, htide, hn]⟩

/-- The state that the Tide Table reads gives what the device gave before the parcel. -/
theorem tides_of_recorded_issuing {s u : State} {th : ThreadId} (h : Recorded (issuing s th) u th.core) (n : Nat) :
    u.tide n = s.tide n ∧ u.tideWord n = s.tideWord n := by
  obtain ⟨htide, hword⟩ := tides_of_recorded h
  exact ⟨htide n, hword n⟩

theorem pcvtTides_of_intervals {b : Word} (hs : bit b 4 = true) (hd : bit b 12 = true) : pcvtTides b = [] := by
  simp [pcvtTides, hs, hd]

theorem pcvtTides_of_tides {b : Word} (hs : bit b 4 = false) (hd : bit b 12 = false) : pcvtTides b = [fld b 3 0, fld b 11 8] := by
  simp [pcvtTides, hs, hd]

theorem pcvt_of_intervals (s : State) (a : Word) {b : Word} (hs : bit b 4 = true) (hd : bit b 12 = true) : s.pcvt a b = (a, s) := by
  simp [State.pcvt, hs, hd]

theorem pcvt_of_off {s : State} (a : Word) {b : Word} (hs : bit b 4 = false) (hd : bit b 12 = false)
    (hoff : (s.tide (fld b 3 0)).st = .off ∨ (s.tide (fld b 11 8)).st = .off) : s.pcvt a b = (0x80000000#32, s) := by
  simp [State.pcvt, hs, hd, hoff]

section Reads

variable {s : State} {th : ThreadId} {x : Ctx} (h : s.ready th = some x) (hq : quiet s)
include h hq

/-- PNOW where TIDE_AUTH names its tide (R95, R96). -/
theorem replies_pnow {d b : DReg} (hauth : tideAuthCheck x.tideAuth [fld x.d[b.val] 3 0] = .ok ()) :
    Replies s th (.pnow th d b) { x with d := x.d.set d.val (s.pnow (fld x.d[b.val] 3 0)) } := by
  have hx := topCtx_issuing_of_ready h
  have hu := recorded_asks_issuing h (fld x.d[b.val] 3 0) []
  obtain ⟨htide, hword⟩ := tides_of_recorded_issuing hu (fld x.d[b.val] 3 0)
  exact replies_of_answered (i := .pnow th d b) (put := fun y w => y.setD d w) h hq rfl hu
    (by simp only [hx, Ctx.getD, hauth]; rfl) (by simp only [State.pnow, htide, hword])

/-- PCVT where TIDE_AUTH names the tides that it names, and the conversion answers without a draw (R96). -/
theorem replies_pcvt {d a b : DReg} {w : Word} (hg : accepted s th 0)
    (hauth : pcvtTides x.d[b.val] = [] ∨ tideAuthCheck x.tideAuth (pcvtTides x.d[b.val]) = .ok ())
    (hw : ∀ u : State, (∀ n, u.tide n = s.tide n) → u.pcvt x.d[a.val] x.d[b.val] = (w, u)) :
    Replies s th (.pcvt th d a b) { x with d := x.d.set d.val w } := by
  have hx := topCtx_issuing_of_ready h
  have hu := recorded_asks_issuing h 0 [x.d[a.val], x.d[b.val]]
  have hconv := hw _ fun n => (tides_of_recorded_issuing hu n).1
  refine replies_of_answered (i := .pcvt th d a b) (put := fun y w => y.setD d w) h hq (exec_of_groupOp (g := .phase) h hg rfl) hu ?_
    (ask := fun t => (.ok (t.pcvt x.d[a.val] x.d[b.val]).1, (t.pcvt x.d[a.val] x.d[b.val]).2)) (by simp only [hconv])
  rcases hauth with hnone | hauth
  · simp only [hx, Ctx.getD, hnone, if_true]
    rfl
  · simp only [hx, Ctx.getD, hauth, ite_self]
    rfl

end Reads

theorem tideReads : TideReads := by
  intro s th x d a b h hq
  refine ⟨fun hauth => ?_, fun hg => ⟨fun hs hd => ?_, fun hs hd hauth hoff => ?_⟩⟩
  · have hnow := replies_pnow (d := d) h hq hauth
    exact ⟨fun hoff => by rwa [State.pnow, if_pos hoff] at hnow, fun hon => by rwa [State.pnow, if_neg hon] at hnow⟩
  · exact replies_pcvt h hq hg (.inl (pcvtTides_of_intervals hs hd)) fun u _ => pcvt_of_intervals u _ hs hd
  · exact replies_pcvt h hq hg (.inr (by rwa [pcvtTides_of_tides hs hd])) fun u hu => pcvt_of_off _ hs hd (by rwa [hu, hu])

/-- Settles O11. -/
theorem phaseResult : Obligations.PhaseResult := ⟨sineResult, tideReads⟩

end Sys2Proof.Proofs
end

section
/-! PROOFS. What the CGET forms and CGRAN read (R21, R24, R102). -/

namespace Sys2Proof.Proofs

open Sys2Proof.Machine Sys2Proof.Claims

/-! ## The CGET forms -/

/-- A field as a word, and as the bits of it. -/
theorem word_fld (w : Word) (hi lo : Nat) : word (fld w hi lo) = (w.extractLsb' lo (hi + 1 - lo)).setWidth 32 :=
  BitVec.eq_of_toNat_eq (by simp [word, fld])

theorem ofInt_pred_fld (w : Word) (hi lo : Nat) :
    BitVec.ofInt 32 ((fld w hi lo : Int) - 1) = (w.extractLsb' lo (hi + 1 - lo)).setWidth 32 - 1 := by
  rw [Int.sub_eq_add_neg, BitVec.ofInt_add, BitVec.ofInt_natCast, ← word_fld, BitVec.sub_eq_add_neg]
  rfl

/-- The CGET forms on one source, which answer whatever its bits are (R21, R102). -/
theorem leaves_cget {s : State} {th : ThreadId} {x : Ctx} (h : s.ready th = some x) (d : DReg) (src : CapSrc) :
    let c := x.source src
    let goes := fun (i : Instr) (r : Word) => Leaves s th x i (plain x d r)
    goes (.cgetC th d src) (if c.e = 31 then 0 else c.w0)
    ∧ goes (.cgetB th d src) (if c.e = 31 then (c.w0.extractLsb' 0 16).setWidth 32 else BitVec.ofInt 32 (decodeBounds c).base)
    ∧ goes (.cgetLast th d src) (if c.e = 31 then (c.w0.extractLsb' 16 16).setWidth 32 - 1 else BitVec.ofInt 32 ((decodeBounds c).top - 1))
    ∧ goes (.cgetR th d src) ((c.w1.extractLsb' 0 7).setWidth 32)
    ∧ goes (.cgetOt th d src) (if bit c.w1 6 then (c.w1.extractLsb' 7 6).setWidth 32 else 0)
    ∧ goes (.cgetTag th d src) (if c.tag then 1 else 0) := by
  intro c goes
  have reads {i : Instr} {f : Cap → Word} {r : Word} (hx : exec i s = .next (s.issue th i (plainOp (regOp fun x => x.setD d (f (x.source src))))))
      (hf : f c = r) : goes i r := leaves_of_regOp h hx (congrArg (x.setD d) hf)
  refine ⟨reads (f := capGetC) rfl ?_, reads (f := capGetB) rfl ?_, reads (f := capGetLast) rfl ?_, reads (f := capGetR) rfl (word_fld _ _ _),
    reads (f := capGetOt) rfl ?_, reads (f := capGetTag) rfl rfl⟩
  · simp only [capGetC, Cap.isSpace, decide_eq_true_eq]
  · simp only [capGetB, Cap.isSpace, decide_eq_true_eq, Cap.spBase, word_fld]
  · simp only [capGetLast, Cap.isSpace, decide_eq_true_eq, Cap.spLimit, ofInt_pred_fld]
  · simp only [capGetOt, Cap.sealed, Cap.otype, word_fld]

/-! ## CGRAN -/

/-- The search of CGRAN from an exponent on finds the smallest that needs at most 960 granules, or stops at 22 (R24). -/
theorem granFrom_smallest (len k : Nat) : ∃ e, e ≤ 22 ∧ granFrom len k = 2 ^ e ∧ ((len + 2 ^ e - 1) / 2 ^ e ≤ 960 ∨ e = 22)
    ∧ ∀ f, 22 - k ≤ f → f < e → 960 < (len + 2 ^ f - 1) / 2 ^ f := by
  induction k with
  | zero => exact ⟨22, le_refl _, rfl, .inr rfl, fun f h1 h2 => by omega⟩
  | succ k ih =>
    have hfits : (len + 2 ^ (21 - k) - 1) / 2 ^ (21 - k) * 2 ^ (21 - k) ≤ 960 * 2 ^ (21 - k)
        ↔ (len + 2 ^ (21 - k) - 1) / 2 ^ (21 - k) ≤ 960 := Nat.mul_le_mul_right_iff (by positivity)
    simp only [granFrom, hfits]
    split
    next h => exact ⟨21 - k, by omega, rfl, .inl h, fun f h1 h2 => by omega⟩
    next h =>
      obtain ⟨e, he, hg, hend, hsmall⟩ := ih
      refine ⟨e, he, hg, hend, fun f h1 h2 => ?_⟩
      by_cases hf : f = 21 - k
      · subst hf; omega
      · exact hsmall f (by omega) h2

/-- Settles O15: each form is an operation on registers that cannot fault, and CGRAN's search finds the smallest exponent. -/
theorem capabilityReads : Obligations.CapabilityReads := by
  intro s th x d a ca src h
  obtain ⟨e, he, hg, hend, hsmall⟩ := granFrom_smallest x.d[a.val].toNat 22
  have hgetE : Leaves s th x (.cgetE th d ca) (plain x d ((x.c[ca.val].w1.extractLsb' 27 5).setWidth 32)) :=
    leaves_of_regOp (f := fun x => x.setD d (capGetE (x.getC ca))) h rfl (congrArg (x.setD d) (word_fld _ 31 27))
  have hgran : Leaves s th x (.cgran th d a) (plain x d (BitVec.ofNat 32 (2 ^ e))) :=
    leaves_of_regOp (f := fun x => x.setD d (word (granule (x.getD a).toNat))) h rfl (congrArg (fun n => x.setD d (word n)) hg)
  obtain ⟨hC, hB, hLast, hR, hOt, hTag⟩ := leaves_cget h d src
  cases src <;> simp only [decide_eq_true_eq] <;>
    exact ⟨hC, hB, hLast, hR, hOt, hTag, hgetE, e, he, hgran, hend, fun f => hsmall f (Nat.zero_le f)⟩

end Sys2Proof.Proofs
end

section
/-! PROOFS. TRAP at level 0 (R104, R135 to R138). -/

namespace Sys2Proof.Proofs

open Sys2Proof.Machine Sys2Proof.Claims

/-- An entry to level 1 by TRAP, whose target is read, for which everything is in order (R135 to R138). -/
theorem enterLevel1_trap {s : State} {th : ThreadId} {x : Ctx} {n : Nat} {f : FaultInfo} {r : Vector Word 16} {l : List Cap}
    (target : Cap) (h : EntryReady s th x 0 n f r l) : ∃ t, s.enterLevel1 th x f n (some target) = .ok t
      ∧ t.topCtx th = some (x.handler 1 (l.getD 0 Cap.null) (l.getD 1 Cap.null) target (resumeAt x f.code) r)
      ∧ ((t.core th.core).slot th.slot).top = 1 ∧ ((t.core th.core).slot th.slot).buf = [] := by
  obtain ⟨s1, s2, s3, s4, pas, b, hrec, hcaps, hplaces, hbank, hb, hnone⟩ := h
  refine ⟨_, ?_, stackCtx_top (from_ := 0) _ hb hnone⟩
  simp only [State.enterLevel1, Option.isSome_some, if_true, hrec, hcaps, hplaces, hbank, Option.getD_some]

/-- A trap's record names no fault: its parcel is the trap's own, and CODE is 0 (R136, R138). -/
theorem ofParcel_noFault (parcel : Word) (op : Nat) :
    (plainFault 0).ofParcel parcel op = { plainFault 0 with parcel := parcel, op := op } := rfl

/-- A trap number in word 0 of a record that has KIND 0 and CODE 0. -/
theorem fields_of_trapno {w : Word} {n : Nat} (hn : n < 256) (h : w = at_ n 24) :
    fld w 5 0 = 0 ∧ fld w 19 18 = 0 ∧ fld w 23 22 = 0 ∧ fld w 31 24 = n := by
  have hw : w.toNat = n * 2 ^ 24 := by
    rw [h, at_, BitVec.toNat_ofNat, Nat.shiftLeft_eq]
    omega
  simp only [fld_eq_div_mod, hw]
  omega

/-- The record of a trap at level 0 (R136, R138). -/
theorem recorded_trap {s s1 : State} {x : Ctx} {n : BitVec 8} {parcel : Word} {r : Vector Word 16} (hl : x.ts.level = 0)
    (h : s.recordOf x 0 n.toNat 0 ((plainFault 0).ofParcel parcel 0) = (r, s1)) : Claims.Recorded r x 0 n.toNat 0 parcel := by
  obtain ⟨hword, hparcel, hmode, hstatus, htenant⟩ := recordOf_words h
  have hlevel : x.ts.level.toNat = 0 := by rw [hl]; rfl
  obtain ⟨hcode, hlev, hkind, htrapno⟩ := fields_of_trapno n.isLt (hword.trans (by
    rw [hlevel, ofParcel_noFault]
    simp [at_, plainFault]))
  exact ⟨hcode, hlev.trans hlevel.symm, hkind, htrapno, hparcel, hmode, hstatus, htenant⟩

/-- A plain operation that traps to a target that enters level 1 above its thread's context. -/
theorem issue_plainOp_trap {s u t : State} {th : ThreadId} {x y : Ctx} {i : Instr} {run : Op} {n : Nat} {target : Cap}
    (h : s.ready th = some x) (hr : run th (issuing s th) = .trap n target u) (hu : u.topCtx th = some y)
    (he : u.enterLevel1 th y ((plainFault 0).ofParcel (s.parcelNow x) 0) n (some target) = .ok t) :
    s.issue th i (plainOp run) = (issuing s th).keepBefore t th := by
  have hparcel : (issuing s th).parcelNow x = s.parcelNow x := rfl
  rw [issue_plainOp h, hr, hparcel]
  simp only [State.settleOp, State.settled, hu, he]

/-- TRAP at level 0 past the checks of its target (R138). -/
theorem run_trap {s s1 : State} {th : ThreadId} {x : Ctx} (h : s.ready th = some x) (hl : x.ts.level = 0) {n : BitVec 8} {c : Cap}
    (hload : (issuing s th).capLoad (issuerOf th x) (devQuery x.tvec (0x40 + 8 * (n.toNat : Int))) = (.ok c, s1))
    (htag : c.tag = true) (hseal : c.sealed = false) (hX : c.rX = true) :
    (opTrap n).run th (issuing s th) = .trap n.toNat c s1 := by
  simp only [opTrap, plainOp, topCtx_issuing_of_ready h, hl, hload, htag, hseal, hX]
  rfl

/-- Settles O19: the trap's checks pass, and its entry is in order. -/
theorem trapEntry : Obligations.TrapEntry := by
  intro s s1 th x n c r l h hl hload htag hseal hX htop hready
  have hrecord : Claims.Recorded r x 0 n.toNat 0 (s.parcelNow x) := by
    obtain ⟨s2, -, -, -, -, -, hrec, -⟩ := hready
    exact recorded_trap hl hrec
  obtain ⟨t, henter, htop', hslot, hbuf⟩ := enterLevel1_trap c hready
  have hissue := issue_plainOp_trap (i := .trap th n) (run := (opTrap n).run) h (run_trap h hl hload htag hseal hX) htop henter
  refine ⟨_, congrArg Host.Outcome.next hissue, x.handler 1 (l.getD 0 Cap.null) (l.getD 1 Cap.null) c (x.pcc.w0 + 1) r, ?_, rfl, rfl, hrecord⟩
  exact entered_handler _ _ _ _ _ ((topCtx_keepBefore _ t th).trans htop') ((top_keepBefore _ t th).trans hslot)
    ((buf_keepBefore _ t th th.core th.slot).trans hbuf)

end Sys2Proof.Proofs
end

section
/-! PROOFS. What the end of a parcel leaves in its core (R65), for operations that change more of the core than registers. -/

namespace Sys2Proof.Proofs

open Sys2Proof.Machine Sys2Proof.Claims

theorem core_issuing (s : State) (th : ThreadId) : (issuing s th).core th.core = (s.core th.core).touchBank th.slot :=
  Laws.core_modCore_self s _ _

/-- The core of a thread whose parcel ends: its context has gone on, and its slot holds nothing of an answer. -/
theorem core_stepOver {s : State} {th : ThreadId} {x : Ctx} (h : s.topCtx th = some x) :
    (s.stepOver th).core th.core
      = ((s.core th.core).setCtx th.slot ((s.core th.core).slot th.slot).top (nextParcel x)).setSlot th.slot
          { (s.core th.core).slot th.slot with answers := [], given := [], stale := false } := by
  unfold State.stepOver
  simp only [h]
  simp [State.setTop, State.modSlot, nextParcel]

theorem slot_stepOver_self {s : State} {th : ThreadId} {x : Ctx} (h : s.topCtx th = some x) :
    ((s.stepOver th).core th.core).slot th.slot = { (s.core th.core).slot th.slot with answers := [], given := [], stale := false } := by
  rw [core_stepOver h, Laws.slot_setSlot_self]

theorem slot_stepOver_ne {s : State} {th : ThreadId} {x : Ctx} (h : s.topCtx th = some x) {sl : Fin 8} (hne : sl ≠ th.slot) :
    ((s.stepOver th).core th.core).slot sl = (s.core th.core).slot sl := by
  rw [core_stepOver h, Laws.slot_setSlot, if_neg hne, Laws.slot_setCtx]

/-- Every context but the thread's top one stays as a parcel ends. -/
theorem ctx_stepOver_ne {s : State} {th : ThreadId} {x : Ctx} (h : s.topCtx th = some x) {sl : Fin 8} {lv : Fin 3}
    (hne : ¬(sl = th.slot ∧ lv = ((s.core th.core).slot th.slot).top)) :
    ((s.stepOver th).core th.core).ctx sl lv = (s.core th.core).ctx sl lv := by
  rw [core_stepOver h, Laws.ctx_setSlot, Laws.ctx_setCtx, if_neg hne]

theorem topCtx_stepOver_some {s : State} {th : ThreadId} {x : Ctx} (h : s.topCtx th = some x) :
    (s.stepOver th).topCtx th = some (nextParcel x) := by
  rw [Laws.topCtx_stepOver, h]
  rfl

theorem issue_plainOp_unwaited {s t : State} {th : ThreadId} {x : Ctx} {i : Instr} {run : Op} (h : s.ready th = some x)
    (hr : run th (issuing s th) = .done t) (hw : ((t.core th.core).slot th.slot).wait = .none) :
    s.issue th i (plainOp run) = t.stepOver th := by
  rw [issue_plainOp_done h hr, Laws.keepBefore_of_ready]
  rw [wait_stepOver, hw]
  rfl

theorem wait_issuing {s : State} {th : ThreadId} {x : Ctx} (h : s.ready th = some x) :
    (((issuing s th).core th.core).slot th.slot).wait = .none := by
  rw [slot_issuing, (ready_runs h).2]

/-- A parcel has ended on top of a state: the thread's context `y` has gone on, and nothing else has changed. -/
structure Ended (u t : State) (th : ThreadId) (y : Ctx) : Prop where
  top : t.topCtx th = some (nextParcel y)
  only : OnlyCore u t th.core
  slot : (t.core th.core).slot th.slot = { (u.core th.core).slot th.slot with answers := [], given := [], stale := false }
  others : ∀ sl, sl ≠ th.slot → (t.core th.core).slot sl = (u.core th.core).slot sl
  ctx : ∀ sl lv, ¬(sl = th.slot ∧ lv = ((u.core th.core).slot th.slot).top) → (t.core th.core).ctx sl lv = (u.core th.core).ctx sl lv

/-- A plain operation that completes and waits for nothing ends its parcel, and that is all. -/
theorem ended_of_run {s u : State} {th : ThreadId} {x y : Ctx} {i : Instr} {run : Op} (h : s.ready th = some x)
    (hx : exec i s = .next (s.issue th i (plainOp run))) (hr : run th (issuing s th) = .done u) (hy : u.topCtx th = some y)
    (hw : ((u.core th.core).slot th.slot).wait = .none) : Answers i s fun t => t = u.stepOver th ∧ Ended u t th y :=
  ⟨_, hx.trans (congrArg _ (issue_plainOp_unwaited h hr hw)), rfl, topCtx_stepOver_some hy, onlyCore_stepOver u th, slot_stepOver_self hy,
    fun _ => slot_stepOver_ne hy, fun _ _ => ctx_stepOver_ne hy⟩

/-- A plain operation that changes nothing but its core, to `g` of it, and leaves the thread's context and its wait. -/
theorem ended_of_run_modCore {s : State} {th : ThreadId} {x : Ctx} {i : Instr} {run : Op} {g : Core → Core} (h : s.ready th = some x)
    (hx : exec i s = .next (s.issue th i (plainOp run))) (hr : run th (issuing s th) = .done ((issuing s th).modCore th.core g))
    (hy : ((issuing s th).modCore th.core g).topCtx th = some x) (hw : ∀ c, ((g c).slot th.slot).wait = (c.slot th.slot).wait) :
    Answers i s fun t => OnlyCore s t th.core ∧ t = ((issuing s th).modCore th.core g).stepOver th
      ∧ Ended ((issuing s th).modCore th.core g) t th x := by
  obtain ⟨t, he, ht, hend⟩ := ended_of_run h hx hr hy (by rw [Laws.core_modCore_self, hw, wait_issuing h])
  exact ⟨t, he, onlyCore_trans (onlyCore_issuing s th) (onlyCore_trans (onlyCore_modCore _ _ g) hend.only), ht, hend⟩

/-- A change of its core that touches neither contexts nor slots leaves a thread's top context. -/
theorem topCtx_modCore_same {s : State} {th : ThreadId} {g : Core → Core} (hctx : ∀ c lv, (g c).ctx th.slot lv = c.ctx th.slot lv)
    (htop : ∀ c, ((g c).slot th.slot).top = (c.slot th.slot).top) : (s.modCore th.core g).topCtx th = s.topCtx th := by
  simp only [State.topCtx, Laws.core_modCore_self, hctx, htop]

end Sys2Proof.Proofs
end

section
/-! PROOFS. The moves from and to the system registers (R106, R117, R126, R133, R142, R161). -/

namespace Sys2Proof.Proofs

open Sys2Proof.Machine Sys2Proof.Claims

/-! ## Words of the data system registers -/

theorem coreSlotWord_eq (th : ThreadId) : coreSlotWord th = BitVec.ofNat 32 (th.core.val + 128 * th.slot.val) := by
  have hor := Nat.shiftLeft_add_eq_or_of_lt (i := 7) (b := th.core.val) th.core.isLt th.slot.val
  rw [coreSlotWord, at_, at_, ← BitVec.ofNat_or, Nat.shiftLeft_zero, Nat.or_comm, ← hor, Nat.shiftLeft_eq]
  exact congrArg _ (by omega)

/-- THREAD_STATE as MTS writes it (R133). -/
theorem moved_eq (t : ThreadState) (v : Word) :
    t.moved v = { t with m := bit v 0, h := bit v 1, pf := bit v 2, pcode := v.extractLsb' 6 6 } := by
  have hcode : BitVec.ofNat 6 (fld v 11 6) = v.extractLsb' 6 6 := BitVec.eq_of_toNat_eq (by simp [fld])
  rw [ThreadState.moved, hcode]

section Data

variable {s : State} {th : ThreadId} {x : Ctx} (h : s.ready th = some x)
include h

theorem leaves_mfs {d : DReg} {n : BitVec 13} {w : Word} (hr : (issuing s th).readData th x n.toNat = .ok w) :
    Leaves s th x (.mfs th d n) (plain x d w) :=
  ⟨_, rfl, onlyTop_of_run (y := x.setD d w) h (by simp only [topCtx_issuing_of_ready h, hr])⟩

/-- A write of a data system register that the context itself holds. -/
theorem onlyTop_mts {n : BitVec 13} {a : DReg} {y : Ctx}
    (hw : (issuing s th).writeData th x n.toNat (x.getD a) = .ok ((issuing s th).setTop th y)) :
    Answers (.mts th n a) s fun t => OnlyTop s t th (nextParcel y) :=
  ⟨_, rfl, onlyTop_of_run h (by simp only [topCtx_issuing_of_ready h, hw])⟩

/-- WHEEL written by a supervisor of the core page's owner (R117, R126). -/
theorem answers_mts_wheel {a : DReg} (hm : x.ts.m = true) (hsum : wheelSum x.d[a.val] ≤ 16)
    (hown : (s.frame (corePage th.core)).owner = x.cur) :
    Answers (.mts th 5 a) s fun t => (t.core th.core).arch.wheel = x.d[a.val] ∧ t.topCtx th = some (nextParcel x) ∧ OnlyCore s t th.core := by
  have ht := topCtx_issuing_of_ready h
  have hrun : (opMts 5 a).run th (issuing s th)
      = .done ((issuing s th).modCore th.core fun c => { c with arch := { c.arch with wheel := x.d[a.val] } }) := by
    have howns : (issuing s th).ownsCore th x = true := decide_eq_true hown
    simp only [opMts, plainOp, ht, State.writeData, BitVec.reduceToNat, hm, howns, Ctx.getD, not_lt.mpr hsum]
    rfl
  have hbefore := (topCtx_modCore_same (s := issuing s th) (g := fun c => { c with arch := { c.arch with wheel := x.d[a.val] } })
    (fun _ _ => rfl) fun _ => rfl).trans ht
  obtain ⟨t, he, honly, ht, hend⟩ := ended_of_run_modCore (i := .mts th 5 a) h rfl hrun hbefore fun _ => rfl
  refine ⟨t, he, ?_, hend.top, honly⟩
  rw [ht, core_stepOver hbefore, Laws.core_modCore_self]
  rfl

end Data

/-- Settles O25, register by register: each move is a read or a write of the context itself, or of the core for WHEEL and BANKWIN. -/
theorem dataSystemRegisters : Obligations.DataSystemRegisters := by
  intro s th x d a h
  have hcore := core_issuing s th
  refine ⟨⟨leaves_mfs h rfl, leaves_mfs h rfl, leaves_mfs h rfl, leaves_mfs h rfl, leaves_mfs h rfl,
      fun hm => ⟨leaves_mfs h ?_, leaves_mfs h ?_⟩, leaves_mfs h (congrArg Except.ok (coreSlotWord_eq th))⟩,
    onlyTop_mts h rfl, onlyTop_mts h rfl, fun hm hslot => onlyTop_mts h ?_,
    fun hm hwheel => answers_mts_wheel h hm hwheel.1 hwheel.2⟩
  · simp only [State.readData, BitVec.reduceToNat, hm, if_true, hcore]
    rfl
  · simp only [State.readData, BitVec.reduceToNat, hm, if_true, hcore]
    rfl
  · have hslot' : ¬(th.slot = 0 ∧ bit (x.getD a) 1 = true ∧ x.cur ≠ 0) := hslot
    simp only [State.writeData, BitVec.reduceToNat, hm, Bool.not_true, Bool.false_eq_true, if_false, hslot', moved_eq]
    rfl

/-! ## The capability system registers -/

section Caps

variable {s : State} {th : ThreadId} {x : Ctx} (h : s.ready th = some x)
include h

/-- A read of a register that the context itself holds. -/
theorem derives_mfsc {cd : CReg} {n : BitVec 13} {v : Cap} (hic : isIc n = false) (hr : (issuing s th).readCapReg th x n.toNat = .ok v) :
    Derives s th x cd (.mfsc th cd n) (.ok v) := by
  rintro c ⟨⟩
  exact ⟨_, rfl, onlyTop_of_run (y := x.setC cd v) h (by simp only [hic, topCtx_issuing_of_ready h, hr, Bool.false_eq_true, if_false])⟩

/-- A write of a register that the context itself holds. -/
theorem onlyTop_mtsc {n : BitVec 13} {ca : CReg} {y : Ctx} (hic : isIc n = false)
    (hw : (issuing s th).writeCapReg th x n.toNat x.c[ca.val] = .ok ((issuing s th).setTop th y)) :
    Answers (.mtsc th n ca) s fun t => OnlyTop s t th (nextParcel y) :=
  ⟨_, rfl, onlyTop_of_run h (by simp only [hic, topCtx_issuing_of_ready h, Ctx.getC, hw, Bool.false_eq_true, if_false])⟩

/-- ESC_STACK written by Headland's supervisor: it belongs to the slot and the level. -/
theorem answers_mtsc_esc {ca : CReg} (hm : x.ts.m = true) (hcur : x.cur = 0) :
    Answers (.mtsc th 1 ca) s fun t => (t.core th.core).esc th.slot x.ts.level.toNat = x.c[ca.val] ∧ t.topCtx th = some (nextParcel x)
      ∧ OnlyCore s t th.core := by
  have ht := topCtx_issuing_of_ready h
  have hrun : (opMtsc 1 ca).run th (issuing s th)
      = .done ((issuing s th).modCore th.core fun c => c.setEsc th.slot x.ts.level.toNat x.c[ca.val]) := by
    have hic : isIc 1 = false := rfl
    simp only [opMtsc, plainOp, hic, ht, State.writeCapReg, BitVec.reduceToNat, hm, hcur, Ctx.getC]
    rfl
  have hbefore := (topCtx_modCore_same (s := issuing s th) (g := fun c => c.setEsc th.slot x.ts.level.toNat x.c[ca.val])
    (fun _ _ => rfl) fun _ => rfl).trans ht
  obtain ⟨t, he, honly, ht, hend⟩ := ended_of_run_modCore (i := .mtsc th 1 ca) h rfl hrun hbefore fun _ => rfl
  refine ⟨t, he, ?_, hend.top, honly⟩
  rw [ht, core_stepOver hbefore, Laws.core_modCore_self]
  exact Laws.get_put_self _ _ _ _

end Caps

/-! ## The registers of the context below (R142) -/

theorem levelBelow_issuing (s : State) (th : ThreadId) : (issuing s th).levelBelow th = s.levelBelow th := by
  have hctx (lv : Fin 3) : ((issuing s th).core th.core).ctx th.slot lv = (s.core th.core).ctx th.slot lv := by
    rw [core_issuing, Laws.ctx_touchBank]
  simp only [State.levelBelow, State.fromLevel, State.anyCtx, slot_issuing, hctx]
  rfl

section Below

variable {s : State} {th : ThreadId} {x y : Ctx} (h : s.ready th = some x) (hm : x.ts.m = true) (hl : x.ts.level ≠ 0)
  (hy : Below s th (s.levelBelow th) y)
include h hm hl hy

/-- A move of IC0, IC6 or IC7 over a resident context below acts on it. -/
theorem icOp_resident (act : State → ThreadId → Ctx → Fin 3 → Ctx → State) :
    icOp act th (issuing s th) = .done (act (issuing s th) th x (s.levelBelow th) y) := by
  have hctx : ((issuing s th).core th.core).ctx th.slot (s.levelBelow th) = some y := by
    rw [core_issuing, Laws.ctx_touchBank]
    exact hy
  simp only [icOp, topCtx_issuing_of_ready h, hm, hl, levelBelow_issuing, hctx, Option.isSome_some, if_true, if_false, Bool.not_true,
    Bool.false_eq_true]

theorem derives_mfsc_below {cd : CReg} {n : BitVec 13} (hic : isIc n = true) :
    Derives s th x cd (.mfsc th cd n) (.ok (y.getC (icReg n.toNat))) := by
  rintro c ⟨⟩
  exact ⟨_, rfl, onlyTop_of_run (y := x.setC cd (y.getC (icReg n.toNat))) h (by simp only [hic, if_true, icOp_resident h hm hl hy])⟩

theorem answers_mtsc_below {ca : CReg} {n : BitVec 13} (hic : isIc n = true)
    (hne : s.levelBelow th ≠ ((s.core th.core).slot th.slot).top) :
    Answers (.mtsc th n ca) s fun t => Below t th (s.levelBelow th) (y.setC (icReg n.toNat) x.c[ca.val])
      ∧ t.topCtx th = some (nextParcel x) ∧ OnlyCore s t th.core := by
  have ht := topCtx_issuing_of_ready h
  have hrun : (opMtsc n ca).run th (issuing s th) = .done ((issuing s th).modCore th.core fun c =>
      c.setCtx th.slot (s.levelBelow th) (y.setC (icReg n.toNat) x.c[ca.val])) := by
    simp only [opMtsc, plainOp, hic, if_true, icOp_resident h hm hl hy, Ctx.getC]
  have hcore : ((issuing s th).modCore th.core fun c =>
      c.setCtx th.slot (s.levelBelow th) (y.setC (icReg n.toNat) x.c[ca.val])).core th.core
        = ((s.core th.core).touchBank th.slot).setCtx th.slot (s.levelBelow th) (y.setC (icReg n.toNat) x.c[ca.val]) := by
    rw [Laws.core_modCore_self, core_issuing]
  have hbefore : ((issuing s th).modCore th.core fun c =>
      c.setCtx th.slot (s.levelBelow th) (y.setC (icReg n.toNat) x.c[ca.val])).topCtx th = some x := by
    rw [State.topCtx, hcore, Laws.slot_setCtx, Laws.slot_touchBank, Laws.ctx_setCtx, if_neg fun hc => hne hc.2.symm, Laws.ctx_touchBank]
    exact Laws.topCtx_of_ready h
  obtain ⟨t, he, honly, -, hend⟩ := ended_of_run_modCore (i := .mtsc th n ca) h rfl hrun hbefore fun _ => rfl
  refine ⟨t, he, ?_, hend.top, honly⟩
  rw [Below, hend.ctx, hcore, Laws.ctx_setCtx_self, Laws.ctx_touchBank, show _ = some y from hy, Option.map_some]
  rw [hcore, Laws.slot_setCtx, Laws.slot_touchBank]
  exact fun hc => hne hc.2

end Below

/-- Settles O26, register by register: those of the context itself, ESC_STACK of its slot and level, and those of the context below. -/
theorem capabilitySystemRegisters : Obligations.CapabilitySystemRegisters := by
  intro s th x y cd ca h
  have hcore := core_issuing s th
  refine ⟨derives_mfsc h rfl rfl, fun hm => ⟨derives_mfsc h rfl ?_, derives_mfsc h rfl ?_, onlyTop_mtsc h rfl ?_, onlyTop_mtsc h rfl ?_⟩,
    fun hhead => ⟨derives_mfsc h rfl ?_, derives_mfsc h rfl ?_, onlyTop_mtsc h rfl ?_, answers_mtsc_esc h hhead.1 hhead.2⟩,
    fun hm hl hy hne n r hn => ?_⟩
  · simp only [State.readCapReg, BitVec.reduceToNat, hm, if_true]
  · simp only [State.readCapReg, BitVec.reduceToNat, hm, if_true]
    rfl
  · simp only [State.writeCapReg, BitVec.reduceToNat, hm]
    rfl
  · simp only [State.writeCapReg, BitVec.reduceToNat, hm]
    rfl
  · obtain ⟨hm, hcur⟩ := hhead
    simp only [State.readCapReg, BitVec.reduceToNat, hm, hcur, hcore]
    rfl
  · obtain ⟨hm, hcur⟩ := hhead
    simp only [State.readCapReg, BitVec.reduceToNat, hm, hcur]
    rfl
  · obtain ⟨hm, hcur⟩ := hhead
    simp only [State.writeCapReg, BitVec.reduceToNat, hm, hcur]
    rfl
  · obtain ⟨hic, hreg⟩ : isIc n = true ∧ icReg n.toNat = r := by
      rcases hn with ⟨rfl, rfl⟩ | ⟨rfl, rfl⟩ | ⟨rfl, rfl⟩ <;> exact ⟨rfl, rfl⟩
    subst hreg
    exact ⟨derives_mfsc_below h hm hl hy hic, answers_mtsc_below h hm hl hy hic hne⟩

end Sys2Proof.Proofs
end

section
/-! PROOFS. SLEEP and WAKE (R104, R105, R130, R134, R233). -/

namespace Sys2Proof.Proofs

open Sys2Proof.Machine Sys2Proof.Claims

/-! ## The wake-pending bit of a thread's contexts (R104) -/

/-- A context with WP set or cleared. -/
def withWp (on : Bool) (x : Ctx) : Ctx := { x with ts := { x.ts with wp := on } }

/-- WP of some of a slot's contexts, all in banks, has been written: nothing else has changed. -/
structure WpWritten (s t : State) (k : Nat) (sl : Fin 8) (on : Bool) (l : List (Fin 3)) : Prop where
  only : OnlyCore s t k
  slot : ∀ j, (t.core k).slot j = (s.core k).slot j
  ctx : ∀ i lv, (t.core k).ctx i lv = if i = sl ∧ lv ∈ l then ((s.core k).ctx i lv).map (withWp on) else (s.core k).ctx i lv

theorem wpWritten_setWp {s : State} {k : Nat} {sl : Fin 8} {lv : Fin 3} (on : Bool) (h : ((s.core k).ctx sl lv).isSome = true) :
    WpWritten s (s.setWp k sl lv on) k sl on [lv] := by
  obtain ⟨x, hx⟩ := Option.isSome_iff_exists.mp h
  have he : s.setWp k sl lv on = s.modCore k fun c => c.setCtx sl lv (withWp on x) := by
    simp only [State.setWp, hx]
    rfl
  rw [he]
  refine ⟨onlyCore_modCore s k _, fun j => by rw [Laws.core_modCore_self, Laws.slot_setCtx], fun i j => ?_⟩
  rw [Laws.core_modCore_self, Laws.ctx_setCtx]
  simp only [List.mem_singleton]
  split
  next hij =>
    obtain ⟨rfl, rfl⟩ := hij
    rw [hx]
    rfl
  · rfl

theorem wpWritten_cons {s t u : State} {k : Nat} {sl : Fin 8} {on : Bool} {lv : Fin 3} {l : List (Fin 3)}
    (h : WpWritten s t k sl on [lv]) (g : WpWritten t u k sl on l) : WpWritten s u k sl on (lv :: l) := by
  refine ⟨onlyCore_trans h.only g.only, fun j => (g.slot j).trans (h.slot j), fun i j => ?_⟩
  rw [g.ctx, h.ctx]
  have htwice (o : Option Ctx) : (o.map (withWp on)).map (withWp on) = o.map (withWp on) := by
    cases o <;> rfl
  by_cases hi : i = sl ∧ j = lv
  · obtain ⟨rfl, rfl⟩ := hi
    simp [htwice]
  · have hmem : (i = sl ∧ j ∈ lv :: l) ↔ i = sl ∧ j ∈ l := by
      rw [List.mem_cons]
      tauto
    simp only [List.mem_singleton, hi, if_false, hmem]

theorem wpWritten_foldl {k : Nat} {sl : Fin 8} (on : Bool) (l : List (Fin 3)) :
    ∀ s : State, (∀ lv ∈ l, ((s.core k).ctx sl lv).isSome = true) → WpWritten s (l.foldl (fun t lv => t.setWp k sl lv on) s) k sl on l := by
  induction l with
  | nil => exact fun s _ => ⟨onlyCore_refl s k, fun _ => rfl, fun i lv => by simp⟩
  | cons lv r ih =>
    intro s h
    have h1 := wpWritten_setWp on (h lv (List.mem_cons_self ..))
    refine wpWritten_cons h1 (ih _ fun j hj => ?_)
    have hs := h j (List.mem_cons_of_mem _ hj)
    rw [h1.ctx]
    split
    · rwa [Option.isSome_map]
    · exact hs

/-- WP of a thread all of whose contexts are in banks. -/
theorem wpWritten_threadWp {s : State} {k : Nat} {sl : Fin 8} (on : Bool) (h : ∀ lv ∈ s.levels k sl, ((s.core k).ctx sl lv).isSome = true) :
    WpWritten s (s.threadWp k sl on) k sl on (s.levels k sl) := wpWritten_foldl on _ s h

/-- A thread's top level is one of its levels. -/
theorem top_mem_levels (s : State) (k : Nat) (sl : Fin 8) : ((s.core k).slot sl).top ∈ s.levels k sl := by
  obtain h | h | h : ((s.core k).slot sl).top = 0 ∨ ((s.core k).slot sl).top = 1 ∨ ((s.core k).slot sl).top = 2 := by omega
  · simp [State.levels, h]
  · simp [State.levels, h]
  · simp only [State.levels, h]
    split <;> simp

/-! ## Slots and levels -/

theorem active_of_ready {s : State} {th : ThreadId} {x : Ctx} (h : s.ready th = some x) :
    ((s.core th.core).slot th.slot).st = .active := by
  unfold State.ready at h
  dsimp only at h
  split at h
  next hr =>
    simp only [Bool.and_eq_true, decide_eq_true_eq] at hr
    exact hr.1.2
  next => cases h

theorem anyCtx_issuing (s : State) (th : ThreadId) (sl : Fin 8) (lv : Fin 3) :
    (issuing s th).anyCtx th.core sl lv = s.anyCtx th.core sl lv := by
  simp only [State.anyCtx, core_issuing, Laws.ctx_touchBank]
  rfl

theorem levels_issuing (s : State) (th : ThreadId) (sl : Fin 8) : (issuing s th).levels th.core sl = s.levels th.core sl := by
  simp only [State.levels, State.fromLevel, anyCtx_issuing, slot_issuing]
  rfl

/-- The levels of a thread do not depend on its registers, but for the record of a context at level 2. -/
theorem levels_setTop {s : State} {th : ThreadId} {x z : Ctx} (h : s.topCtx th = some x) (hz : z.record = x.record) :
    (s.setTop th z).levels th.core th.slot = s.levels th.core th.slot := by
  have hfrom : (s.setTop th z).fromLevel th.core th.slot = s.fromLevel th.core th.slot := by
    by_cases h2 : 2 = ((s.core th.core).slot th.slot).top
    · have hctx : (s.core th.core).ctx th.slot 2 = some x := by rw [h2]; exact h
      have hctx' : ((s.setTop th z).core th.core).ctx th.slot 2 = some z := by
        rw [State.setTop, Laws.core_modCore_self, ← h2, Laws.ctx_setCtx_self, hctx]
        rfl
      simp only [State.fromLevel, State.anyCtx, hctx, hctx', hz]
    · have hctx : ((s.setTop th z).core th.core).ctx th.slot 2 = (s.core th.core).ctx th.slot 2 := by
        rw [State.setTop, Laws.core_modCore_self, Laws.ctx_setCtx, if_neg fun hc => h2 hc.2]
      simp only [State.fromLevel, State.anyCtx, hctx]
      rfl
  simp only [State.levels, hfrom, slot_setTop]

/-! ## SLEEP outside the event slot (R104, R134) -/

/-- A context with H clear. -/
def calmed (x : Ctx) : Ctx := { x with ts := { x.ts with h := false } }

/-- The state in which SLEEP has cleared H. -/
def calm (s : State) (th : ThreadId) (x : Ctx) : State := (issuing s th).setTop th (calmed x)

theorem slot_calm (s : State) (th : ThreadId) (x : Ctx) (sl : Fin 8) : ((calm s th x).core th.core).slot sl = (s.core th.core).slot sl := by
  rw [calm, slot_setTop, slot_issuing]

theorem onlyCore_calm (s : State) (th : ThreadId) (x : Ctx) : OnlyCore s (calm s th x) th.core :=
  onlyCore_trans (onlyCore_issuing s th) (onlyCore_setTop _ th _)

theorem isSome_ctx_calm (s : State) (th : ThreadId) (x : Ctx) (lv : Fin 3) :
    (((calm s th x).core th.core).ctx th.slot lv).isSome = ((s.core th.core).ctx th.slot lv).isSome := by
  rw [calm, State.setTop, Laws.core_modCore_self, Laws.ctx_setCtx, core_issuing, Laws.ctx_touchBank]
  split
  · exact Option.isSome_map
  · rfl

section Sleep

variable {s : State} {th : ThreadId} {x : Ctx} (h : s.ready th = some x)
include h

theorem topCtx_calm : (calm s th x).topCtx th = some (calmed x) := by
  rw [calm, Laws.topCtx_setTop, topCtx_issuing_of_ready h]
  rfl

theorem levels_calm : (calm s th x).levels th.core th.slot = s.levels th.core th.slot :=
  (levels_setTop (z := calmed x) (topCtx_issuing_of_ready h) rfl).trans (levels_issuing s th _)

/-- H cleared, SLEEP does one of two things by WP. -/
theorem run_sleep (hsl : th.slot ≠ 0) : opSleep.run th (issuing s th) =
    .done (if x.ts.wp then (calm s th x).threadWp th.core th.slot false
      else (calm s th x).modSlot th.core th.slot fun y => { y with st := .sleeping }) := by
  simp only [opSleep, plainOp, topCtx_issuing_of_ready h, hsl, if_false]
  rfl

/-- Without a pending wake the thread sleeps. -/
theorem sleeps (hsl : th.slot ≠ 0) (hwp : x.ts.wp = false) : Answers (.sleep th) s fun t =>
    t.topCtx th = some (nextParcel (withWp false (calmed x))) ∧ OnlyCore s t th.core
      ∧ ((t.core th.core).slot th.slot).st = .sleeping := by
  have hrun := run_sleep h hsl
  rw [if_neg (by rw [hwp]; decide)] at hrun
  have hslot := slot_modSlot_self (calm s th x) th.core th.slot fun y => { y with st := .sleeping }
  have htop := (topCtx_modSlot (calm s th x) th (fun y => { y with st := .sleeping }) fun _ => rfl).trans (topCtx_calm h)
  have honly := onlyCore_trans (onlyCore_calm s th x) (onlyCore_modSlot _ th.core th.slot fun y => { y with st := .sleeping })
  generalize (calm s th x).modSlot th.core th.slot (fun y => { y with st := .sleeping }) = u at hrun hslot htop honly
  rw [slot_calm] at hslot
  have hawake : calmed x = withWp false (calmed x) := by rw [calmed, withWp, ← hwp]
  rw [hawake] at htop
  obtain ⟨t, he, -, hend⟩ := ended_of_run (i := .sleep th) h rfl hrun htop (by rw [hslot]; exact (ready_runs h).2)
  exact ⟨t, he, hend.top, onlyCore_trans honly hend.only, by rw [hend.slot, hslot]⟩

/-- A pending wake is used up, and the thread goes on. -/
theorem sleeps_not (hsl : th.slot ≠ 0) (hwp : x.ts.wp = true)
    (hres : ∀ lv ∈ s.levels th.core th.slot, ((s.core th.core).ctx th.slot lv).isSome = true) :
    Answers (.sleep th) s fun t =>
      t.topCtx th = some (nextParcel (withWp false (calmed x))) ∧ OnlyCore s t th.core
        ∧ ((t.core th.core).slot th.slot).st = .active
        ∧ ∀ lv ∈ s.levels th.core th.slot, ∀ y, (t.core th.core).ctx th.slot lv = some y → y.ts.wp = false := by
  have hrun := run_sleep h hsl
  rw [if_pos hwp] at hrun
  have hwritten := wpWritten_threadWp (s := calm s th x) (k := th.core) (sl := th.slot) false fun lv hlv => by
    rw [isSome_ctx_calm]
    exact hres lv (levels_calm h ▸ hlv)
  rw [levels_calm h] at hwritten
  generalize (calm s th x).threadWp th.core th.slot false = u at hrun hwritten
  have htop : u.topCtx th = some (withWp false (calmed x)) := by
    have hmem := levels_calm h ▸ top_mem_levels (calm s th x) th.core th.slot
    have hcalm : ((calm s th x).core th.core).ctx th.slot (((calm s th x).core th.core).slot th.slot).top = some (calmed x) := topCtx_calm h
    rw [State.topCtx, hwritten.slot, hwritten.ctx, if_pos ⟨rfl, hmem⟩, hcalm]
    rfl
  have hslot : (u.core th.core).slot th.slot = (s.core th.core).slot th.slot := (hwritten.slot _).trans (slot_calm s th x _)
  obtain ⟨t, he, -, hend⟩ := ended_of_run (i := .sleep th) h rfl hrun htop (by rw [hslot]; exact (ready_runs h).2)
  refine ⟨t, he, hend.top, onlyCore_trans (onlyCore_calm s th x) (onlyCore_trans hwritten.only hend.only), ?_, fun lv hlv y hy => ?_⟩
  · rw [hend.slot, hslot]
    exact active_of_ready h
  · by_cases htoplv : lv = ((u.core th.core).slot th.slot).top
    · have hnext := hend.top
      rw [State.topCtx, hend.slot] at hnext
      rw [htoplv] at hy
      obtain rfl := Option.some.inj (hy.symm.trans hnext)
      rfl
    · rw [hend.ctx _ _ fun hc => htoplv hc.2, hwritten.ctx, if_pos ⟨rfl, hlv⟩] at hy
      obtain ⟨z, -, rfl⟩ := Option.map_eq_some_iff.mp hy
      rfl

end Sleep

end Sys2Proof.Proofs
end

section
/-! PROOFS. SLEEP in the event slot (R105, R130, R233), and WAKE (R104, R134). -/

namespace Sys2Proof.Proofs

open Sys2Proof.Machine Sys2Proof.Claims

/-! ## The event slot at the end of a service -/

theorem findCtx_drop (l : List (Option Bank)) (sl i : Fin 8) (lv j : Fin 3) :
    findCtx (l.map fun b =>
      match b with
      | some x => if x.slot = sl ∧ x.level = lv then none else some x
      | none => none) i j = if i = sl ∧ j = lv then none else findCtx l i j := by
  induction l with
  | nil => simp [findCtx]
  | cons b r ih =>
    cases b with
    | none => simpa [findCtx] using ih
    | some b =>
      by_cases hb : b.slot = sl ∧ b.level = lv
      · obtain ⟨rfl, rfl⟩ := hb
        by_cases he : i = b.slot ∧ j = b.level
        · obtain ⟨rfl, rfl⟩ := he
          simpa [findCtx] using ih
        · have hne : ¬(b.slot = i ∧ b.level = j) := fun hc => he ⟨hc.1.symm, hc.2.symm⟩
          simp [findCtx, ih, he, hne]
      · simp only [List.map_cons, hb, if_false, findCtx, ih]
        by_cases he : i = sl ∧ j = lv
        · obtain ⟨rfl, rfl⟩ := he
          simp [hb]
        · simp [he]

theorem ctx_dropCtx (c : Core) (sl i : Fin 8) (lv j : Fin 3) :
    (c.dropCtx sl lv).ctx i j = if i = sl ∧ j = lv then none else c.ctx i j := by
  simp only [Core.ctx, Core.dropCtx, Vector.toList_map]
  exact findCtx_drop _ _ _ _ _

theorem slot_dropCtx (c : Core) (sl i : Fin 8) (lv : Fin 3) : (c.dropCtx sl lv).slot i = c.slot i := rfl

/-- A thread stands at level 0 with context `y` and waits for nothing; its slot's state is `v`, and if `dropped` then it has no other
context in a bank. -/
structure AtBase (s : State) (th : ThreadId) (y : Ctx) (v : SlotState) (dropped : Prop) : Prop where
  level : ((s.core th.core).slot th.slot).top = 0
  st : ((s.core th.core).slot th.slot).st = v
  wait : ((s.core th.core).slot th.slot).wait = .none
  base : (s.core th.core).ctx th.slot 0 = some y
  above : dropped → ∀ lv, lv ≠ 0 → (s.core th.core).ctx th.slot lv = none

section Base

variable {s : State} {th : ThreadId} {y : Ctx} {v : SlotState} {dropped : Prop} (h : AtBase s th y v dropped)
include h

theorem topCtx_of_atBase : s.topCtx th = some y := by
  rw [State.topCtx, h.level, h.base]

theorem atBase_of_arch {t : State} (ht : (t.core th.core).arch = (s.core th.core).arch) : AtBase t th y v dropped := by
  have hslot (i : Fin 8) : (t.core th.core).slot i = (s.core th.core).slot i := by simp only [Core.slot, ht]
  have hctx (i : Fin 8) (j : Fin 3) : (t.core th.core).ctx i j = (s.core th.core).ctx i j := by simp only [Core.ctx, ht]
  exact ⟨by rw [hslot, h.level], by rw [hslot, h.st], by rw [hslot, h.wait], by rw [hctx, h.base], fun hd lv hlv => by
    rw [hctx, h.above hd lv hlv]⟩

theorem atBase_setTop (z : Ctx) : AtBase (s.setTop th z) th z v dropped := by
  have hctx (j : Fin 3) : ((s.setTop th z).core th.core).ctx th.slot j
      = if j = 0 then ((s.core th.core).ctx th.slot j).map fun _ => z else (s.core th.core).ctx th.slot j := by
    rw [State.setTop, Laws.core_modCore_self, Laws.ctx_setCtx, h.level]
    simp
  refine ⟨by rw [slot_setTop, h.level], by rw [slot_setTop, h.st], by rw [slot_setTop, h.wait], ?_, fun hd lv hlv => ?_⟩
  · rw [hctx, if_pos rfl, h.base, Option.map_some]
  · rw [hctx, if_neg hlv, h.above hd lv hlv]

theorem atBase_modSlot (f : Slot → Slot) {w : SlotState} (hf : ∀ u, (f u).top = u.top) (hw : ∀ u, (f u).wait = u.wait)
    (hst : ∀ u : Slot, u.st = v → (f u).st = w) : AtBase (s.modSlot th.core th.slot f) th y w dropped := by
  have hctx (j : Fin 3) : ((s.modSlot th.core th.slot f).core th.core).ctx th.slot j = (s.core th.core).ctx th.slot j := by
    simp [State.modSlot]
  exact ⟨by rw [slot_modSlot_self, hf, h.level], by rw [slot_modSlot_self, hst _ h.st], by rw [slot_modSlot_self, hw, h.wait],
    by rw [hctx, h.base], fun hd lv hlv => by rw [hctx, h.above hd lv hlv]⟩

end Base

theorem served_setTop (s : State) (th : ThreadId) (z : Ctx) : ((s.setTop th z).core th.core).served = (s.core th.core).served := by
  rw [State.setTop, Laws.core_modCore_self]; rfl

theorem served_modSlot (s : State) (k : Nat) (sl : Fin 8) (f : Slot → Slot) : ((s.modSlot k sl f).core k).served = (s.core k).served := by
  rw [State.modSlot, Laws.core_modCore_self]; rfl

theorem replaying_setTop (s : State) (th : ThreadId) (z : Ctx) : (s.setTop th z).replaying th.core = s.replaying th.core := by
  rw [State.replaying, State.setTop, Laws.core_modCore_self]; rfl

theorem replaying_modSlot (s : State) (k : Nat) (sl : Fin 8) (f : Slot → Slot) : (s.modSlot k sl f).replaying k = s.replaying k := by
  rw [State.replaying, State.modSlot, Laws.core_modCore_self]; rfl

/-- What the end of a service leaves of the handlers above level 0. -/
def belowHandlers (s : State) (th : ThreadId) : State :=
  if ((s.core th.core).slot th.slot).top = 0 then s else s.dropHandlers th.core th.slot

theorem atBase_belowHandlers {s : State} {th : ThreadId} {x y : Ctx} (h : s.ready th = some x) (hy : Below s th 0 y) :
    AtBase (belowHandlers (issuing s th) th) th y .active (((s.core th.core).slot th.slot).top ≠ 0) := by
  have hctx : ((issuing s th).core th.core).ctx th.slot 0 = some y := by
    rw [core_issuing, Laws.ctx_touchBank]
    exact hy
  unfold belowHandlers
  rw [slot_issuing]
  split
  next h0 =>
    exact ⟨by rw [slot_issuing, h0], by rw [slot_issuing, active_of_ready h], wait_issuing h, hctx, fun hne => absurd h0 hne⟩
  next h0 =>
    have hcore := Laws.core_modCore_self (issuing s th) th.core fun c =>
      ((c.dropCtx th.slot 1).dropCtx th.slot 2).setSlot th.slot
        { ((c.dropCtx th.slot 1).dropCtx th.slot 2).slot th.slot with top := 0, buf := [], answers := [], given := [], wait := .none }
    have hdrop : (issuing s th).dropHandlers th.core th.slot = (issuing s th).modCore th.core _ := rfl
    rw [← hdrop] at hcore
    refine ⟨by rw [hcore, Laws.slot_setSlot_self], ?_, by rw [hcore, Laws.slot_setSlot_self], ?_, fun _ lv hlv => ?_⟩
    · rw [hcore, Laws.slot_setSlot_self, slot_dropCtx, slot_dropCtx, slot_issuing, active_of_ready h]
    · simp [hcore, Laws.ctx_setSlot, ctx_dropCtx, hctx]
    · have hlv' : lv = 1 ∨ lv = 2 := by omega
      rcases hlv' with rfl | rfl <;> simp [hcore, Laws.ctx_setSlot, ctx_dropCtx]

theorem served_belowHandlers (s : State) (th : ThreadId) :
    ((belowHandlers (issuing s th) th).core th.core).served = (s.core th.core).served := by
  unfold belowHandlers
  split
  · rw [core_issuing]; rfl
  · rw [State.dropHandlers, Laws.core_modCore_self, core_issuing]; rfl

theorem replaying_belowHandlers (s : State) (th : ThreadId) :
    (belowHandlers (issuing s th) th).replaying th.core = (issuing s th).replaying th.core := by
  unfold belowHandlers
  split
  · rfl
  · simp only [State.replaying, State.dropHandlers, Laws.core_modCore_self]
    rfl

/-! ## The end of a service (R233) -/

theorem served_endService (s : State) (k : Nat) : ((s.endService k).core k).served = none := by
  unfold State.endService
  split
  next hnone => exact hnone
  · rw [Laws.core_modCore_self]

theorem arch_endService (s : State) (k : Nat) : ((s.endService k).core k).arch = (s.core k).arch := by
  unfold State.endService
  split
  · rfl
  · rw [Laws.core_modCore_self]
    rfl

theorem svc_setSource (s : State) (i : Fin 2048) (x : Source) : ((s.setSource i x).source i).svc = x.svc := by
  rw [State.source, State.setSource, Laws.get_put_self]
  split
  · unfold Source.age_
    dsimp only
    split <;> rfl
  · rfl

theorem svc_endService {s : State} {k : Nat} {v : Served} (h : (s.core k).served = some v) : ((s.endService k).source v.src).svc = .idle := by
  unfold State.endService
  simp only [h]
  refine (svc_setSource s _ _).trans ?_
  split <;> rfl

theorem served_of_coreLogged {c c' : Core} (h : CoreLogged c c') : c'.served = c.served := by
  unfold CoreLogged at h
  have hs := congrArg Core.served h
  exact hs

/-! ## The end of a transfer of control (R119, R143) -/

section Jumped

variable {s : State} {th : ThreadId} {y : Ctx} (h : s.topCtx th = some y)
include h

theorem jumped_eq : s.jumped th = (s.setTop th { y with progValid := false }).modSlot th.core th.slot fun u =>
    { u with buf := [], answers := [], given := [], stale := false } := by
  simp only [State.jumped, h]

theorem served_jumped : ((s.jumped th).core th.core).served = (s.core th.core).served := by
  rw [jumped_eq h]
  simp only [State.modSlot, State.setTop, Laws.core_modCore_self]
  rfl

theorem source_jumped (i : Nat) : (s.jumped th).source i = s.source i := by
  rw [jumped_eq h]
  rfl

end Jumped

/-- A context at the entry of its handler, with H and WP clear. -/
def atEntry (y : Ctx) : Ctx := { y with pcc := y.entry, ts := { y.ts with h := false, wp := false } }

/-- The state in which SLEEP has put the event slot to sleep at its entry. -/
def retired (s : State) (th : ThreadId) (y : Ctx) : State :=
  ((belowHandlers (issuing s th) th).setTop th (atEntry y)).modSlot th.core th.slot fun u => { u with st := .sleeping }

section Event

variable {s : State} {th : ThreadId} {x y : Ctx} (h : s.ready th = some x) (hy : Below s th 0 y)
include h hy

theorem atBase_retired : AtBase (retired s th y) th (atEntry y) .sleeping (((s.core th.core).slot th.slot).top ≠ 0) :=
  atBase_modSlot (atBase_setTop (atBase_belowHandlers h hy) _) _ (fun _ => rfl) (fun _ => rfl) fun _ _ => rfl

theorem run_sleep_event (hsl : th.slot = 0) :
    opSleep.run th (issuing s th) = .jump (((retired s th y).logRelease th.core 5 0 0 []).endService th.core) := by
  have hlive : (retired s th y).replaying th.core = false := by
    rw [retired, replaying_modSlot, replaying_setTop, replaying_belowHandlers]
    exact issuing_not_replaying h
  have hend : (issuing s th).endHandler th = (retired s th y).emit th.core 5 0 0 [] fun t => t.endService th.core := by
    have hbase : (if (((issuing s th).core th.core).slot th.slot).top = 0 then issuing s th
        else (issuing s th).dropHandlers th.core th.slot).topCtx th = some y := topCtx_of_atBase (atBase_belowHandlers h hy)
    simp only [State.endHandler, hbase]
    rfl
  simp only [opSleep, plainOp, topCtx_issuing_of_ready h, if_pos hsl, hend, emit_live hlive]

/-- SLEEP in the event slot, at any level. -/
theorem sleeps_event (hsl : th.slot = 0) :
    Answers (.sleep th) s fun t => AtBase t th { atEntry y with progValid := false } .sleeping (((s.core th.core).slot th.slot).top ≠ 0)
      ∧ (t.core th.core).served = none ∧ ∀ v, (s.core th.core).served = some v → (t.source v.src).svc = .idle := by
  have hrun := run_sleep_event h hy hsl
  have hlog := recorded_logRelease (retired s th y) th.core.isLt 5 0 0 []
  have hserved : ((retired s th y).core th.core).served = (s.core th.core).served := by
    rw [retired, served_modSlot, served_setTop, served_belowHandlers]
  generalize (retired s th y).logRelease th.core 5 0 0 [] = r at hlog hrun
  have hbase := atBase_of_arch (atBase_retired h hy) ((arch_endService r th.core).trans (arch_of_recorded hlog th.core))
  have htop := topCtx_of_atBase hbase
  have hend : AtBase ((r.endService th.core).jumped th) th { atEntry y with progValid := false } .sleeping
      (((s.core th.core).slot th.slot).top ≠ 0) := by
    rw [jumped_eq htop]
    exact atBase_modSlot (atBase_setTop hbase _) _ (fun _ => rfl) (fun _ => rfl) fun _ hst => hst
  refine ⟨_, congrArg Host.Outcome.next ((issue_plainOp_jump h hrun).trans (Laws.keepBefore_of_ready _ _ _ (by rw [hend.wait]; rfl))), hend,
    (served_jumped htop).trans (served_endService r _), fun v hv => ?_⟩
  rw [source_jumped htop]
  exact svc_endService (((served_of_coreLogged hlog.core).trans hserved).trans hv)

end Event

/-- What SLEEP does, by the slot and by WP. -/
theorem sleepResult : SleepResult := by
  intro s th x h
  refine ⟨sleeps h, sleeps_not h, fun hsl _ y hy => ?_⟩
  obtain ⟨t, he, hbase, hserved, hsvc⟩ := sleeps_event h hy hsl
  exact ⟨t, he, topCtx_of_atBase hbase, hbase.st, hserved, hsl ▸ hbase.level, fun hne lv hlv => hsl ▸ hbase.above hne lv hlv, hsvc⟩

/-! ## WAKE (R104, R134) -/

section Wake

variable {s : State} {th : ThreadId} {x : Ctx} {a : DReg} {sl : Fin 8} (h : s.ready th = some x) (hsl : sl.val = x.d[a.val].toNat % 8)
include h hsl

theorem run_wake : (opWake a).run th (issuing s th) = .done ((issuing s th).wakeBy x.cur th.core sl) := by
  have hof : slotOf (x.getD a).toNat = sl := Fin.ext hsl.symm
  simp only [opWake, plainOp, topCtx_issuing_of_ready h, hof]

theorem leaves_wake (hidle : (issuing s th).wakeBy x.cur th.core sl = issuing s th) : Leaves s th x (.wake th a) (none, x.flg) :=
  ⟨_, rfl, onlyTop_of_run_idle h ((run_wake h hsl).trans (congrArg _ hidle))⟩

end Wake

theorem curOf_issuing (s : State) (th : ThreadId) (sl : Fin 8) : (issuing s th).curOf th.core sl = s.curOf th.core sl := by
  rw [State.curOf, anyCtx_issuing, State.curOf]

/-- A slot whose thread has been woken. -/
def roused (y : Slot) : Slot := { y with st := .active }

/-- A wake of a sleeper of the same tenant. -/
theorem wakeBy_sleeper {s : State} {th : ThreadId} {sl : Fin 8} {ten : TenantId} (h0 : sl ≠ 0)
    (hst : ((s.core th.core).slot sl).st = .sleeping) (hcur : s.curOf th.core sl = ten)
    (hh : (s.anyCtx th.core sl ((s.core th.core).slot sl).top).ts.h = false) :
    (issuing s th).wakeBy ten th.core sl = (issuing s th).modSlot th.core sl roused := by
  simp only [State.wakeBy, curOf_issuing, hcur, State.wakeThread, slot_issuing, anyCtx_issuing, h0, hst, hh, if_true]
  rfl

/-- A wake of a thread of the same tenant that does not sleep is kept in WP. -/
theorem wakeBy_kept {s : State} {th : ThreadId} {sl : Fin 8} {ten : TenantId} (h0 : sl ≠ 0)
    (hst : ((s.core th.core).slot sl).st = .waiting ∨ ((s.core th.core).slot sl).st = .active) (hcur : s.curOf th.core sl = ten) :
    (issuing s th).wakeBy ten th.core sl = (issuing s th).threadWp th.core sl true := by
  simp only [State.wakeBy, curOf_issuing, hcur, State.wakeThread, slot_issuing, anyCtx_issuing, h0, if_true]
  rcases hst with hst | hst <;> simp [hst]

/-- What WAKE does, by the slot that it names. -/
theorem wakeResult : WakeResult := by
  intro s th x y a sl h hsl
  refine ⟨fun hidle => leaves_wake h hsl ?_, fun hne => leaves_wake h hsl ?_, fun h0 hst hcur hh => ?_, fun h0 hne hst hcur hres lv hlv hy => ?_⟩
  · simp only [State.wakeBy, State.wakeThread, slot_issuing, if_pos hidle, ite_self]
  · rw [State.wakeBy, curOf_issuing, if_neg hne]
  · have hrun := (run_wake h hsl).trans (congrArg OpOut.done (wakeBy_sleeper h0 hst hcur hh))
    have hne : th.slot ≠ sl := by
      rintro rfl
      rw [active_of_ready h] at hst
      cases hst
    rw [State.modSlot] at hrun
    have hbefore := (topCtx_modCore_same (s := issuing s th) (g := fun c => c.setSlot sl (roused (c.slot sl)))
      (fun _ _ => rfl) fun c => by rw [Laws.slot_setSlot, if_neg hne]).trans (topCtx_issuing_of_ready h)
    have hslot (j : Fin 8) : (((issuing s th).modCore th.core fun c => c.setSlot sl (roused (c.slot sl))).core th.core).slot j
        = if j = sl then roused ((s.core th.core).slot sl) else (s.core th.core).slot j := by
      rw [Laws.core_modCore_self, Laws.slot_setSlot, slot_issuing, slot_issuing]
    obtain ⟨t, he, honly, -, hend⟩ := ended_of_run_modCore (i := .wake th a) h rfl hrun hbefore fun c => by
      rw [Laws.slot_setSlot, if_neg hne]
    exact ⟨t, he, (hend.others _ hne.symm).trans ((hslot sl).trans (if_pos rfl)), hend.top, honly,
      fun j hj hjt => (hend.others _ hjt).trans ((hslot j).trans (if_neg hj))⟩
  · have hrun := (run_wake h hsl).trans (congrArg OpOut.done (wakeBy_kept h0 hst hcur))
    have hwritten := wpWritten_threadWp (s := issuing s th) (k := th.core) (sl := sl) true fun j hj => by
      rw [core_issuing, Laws.ctx_touchBank]
      exact hres j (levels_issuing s th sl ▸ hj)
    rw [levels_issuing] at hwritten
    generalize (issuing s th).threadWp th.core sl true = u at hrun hwritten
    have hslot (j : Fin 8) : (u.core th.core).slot j = (s.core th.core).slot j := (hwritten.slot j).trans (slot_issuing s th j)
    have hctx (i : Fin 8) (j : Fin 3) : (u.core th.core).ctx i j
        = if i = sl ∧ j ∈ s.levels th.core sl then ((s.core th.core).ctx i j).map (withWp true) else (s.core th.core).ctx i j := by
      rw [hwritten.ctx, core_issuing, Laws.ctx_touchBank]
    have htop : u.topCtx th = some x := by
      rw [State.topCtx, hslot, hctx, if_neg fun hc => hne hc.1.symm]
      exact Laws.topCtx_of_ready h
    obtain ⟨t, he, -, hend⟩ := ended_of_run (i := .wake th a) h rfl hrun htop (by rw [hslot]; exact (ready_runs h).2)
    refine ⟨t, he, ?_, fun j hj => (hend.others j hj).trans (hslot j), hend.top,
      onlyCore_trans (onlyCore_issuing s th) (onlyCore_trans hwritten.only hend.only)⟩
    rw [hend.ctx _ _ fun hc => hne hc.1, hctx, if_pos ⟨rfl, hlv⟩, hy]
    rfl

/-- Settles O23: SLEEP by the slot and by WP, WAKE by the slot that it names. -/
theorem sleepAndWake : Obligations.SleepAndWake := ⟨sleepResult, wakeResult⟩

end Sys2Proof.Proofs
end

section
/-! PROOFS. Waits on tides and their ends (R104, R105, R182), and TMARK (R206). -/

namespace Sys2Proof.Proofs

open Sys2Proof.Machine Sys2Proof.Claims

/-! ## WAIT.TIDE and WAIT.TIDE.R -/

theorem next_at_fraction {n frac : Nat} (hn : n < 4294967296) (hf : frac < 16777216) :
    let target := (n + (frac + 16777216 - n % 16777216) % 16777216 % 4294967296) % 4294967296
    target % 16777216 = frac ∧ (4294967296 - n + target) % 4294967296 < 16777216 := by
  omega

/-- The target of a wait lies less than a turn ahead, at the fraction asked for (R182). -/
theorem waitTarget_next (s : State) (i : Nat) {frac : Nat} (hf : frac < 2 ^ 24) :
    (s.waitTarget i frac).toNat % 2 ^ 24 = frac ∧ (s.waitTarget i frac - s.tideWord i).toNat < 2 ^ 24 := by
  rw [State.waitTarget]
  generalize s.tideWord i = now
  have hfld : fld now 23 0 = now.toNat % 2 ^ 24 := by rw [fld_eq_div_mod, Nat.pow_zero, Nat.div_one]
  rw [hfld, BitVec.toNat_sub, BitVec.toNat_add, word, BitVec.toNat_ofNat]
  exact next_at_fraction now.isLt hf

/-- What a wait on a tide is when its thread begins it. -/
def freshWait (s : State) (i : Fin 16) (frac : Nat) : TideWait :=
  { tide := i, target := s.waitTarget i frac, done := (s.tide i).still || decide (s.waitTarget i frac = s.tideWord i) }

/-- A slot that waits on a tide. -/
def waits (w : TideWait) (y : Slot) : Slot := { y with st := .waiting, tideWait := some w }

theorem freshWait_issuing (s : State) (th : ThreadId) (i : Fin 16) (frac : Nat) :
    freshWait (issuing s th) i frac = freshWait s i frac := by
  obtain ⟨htide, hword⟩ := tides_of_recorded_issuing (recorded_refl (issuing s th) th.core) i
  simp only [freshWait, State.waitTarget, htide, hword]
  rfl

section Wait

variable {s : State} {th : ThreadId} {x : Ctx} (h : s.ready th = some x)
include h

theorem run_waitOp {tideFrac : Ctx → Nat × Nat} {i : Fin 16} {frac : Nat} (htf : tideFrac x = (i.val, frac)) (hsl : th.slot ≠ 0)
    (hauth : tideAuthCheck x.tideAuth [i.val] = .ok ()) :
    waitOp tideFrac th (issuing s th) = .done ((issuing s th).modSlot th.core th.slot (waits (freshWait s i frac))) := by
  rw [← freshWait_issuing s th]
  simp only [waitOp, topCtx_issuing_of_ready h, htf, Nat.mod_eq_of_lt i.isLt, Fin.eta, if_neg hsl, hauth, issuing_not_replaying h]
  rfl

/-- A wait begins: the slot is WAITING for the next moment of the fraction. -/
theorem answers_waitOp {c : Instr} {tideFrac : Ctx → Nat × Nat} {i : Fin 16} {frac : Nat}
    (hx : exec c s = .next (s.issue th c (plainOp (waitOp tideFrac)))) (htf : tideFrac x = (i.val, frac)) (hsl : th.slot ≠ 0)
    (hauth : tideAuthCheck x.tideAuth [i.val] = .ok ()) :
    Answers c s fun t => t.topCtx th = some (nextParcel x) ∧ OnlyCore s t th.core ∧ ((t.core th.core).slot th.slot).st = .waiting
      ∧ ((t.core th.core).slot th.slot).tideWait = some (freshWait s i frac) := by
  have hrun := run_waitOp h htf hsl hauth
  have htop := (topCtx_modSlot (issuing s th) th (waits (freshWait s i frac)) fun _ => rfl).trans (topCtx_issuing_of_ready h)
  have hslot := slot_modSlot_self (issuing s th) th.core th.slot (waits (freshWait s i frac))
  obtain ⟨t, he, -, hend⟩ := ended_of_run h hx hrun htop (by rw [hslot]; exact wait_issuing h)
  refine ⟨t, he, hend.top, onlyCore_trans (onlyCore_issuing s th) (onlyCore_trans (onlyCore_modSlot _ _ _ _) hend.only), ?_, ?_⟩
  · rw [hend.slot, hslot]; rfl
  · rw [hend.slot, hslot]; rfl

end Wait

/-! ## TMARK -/

/-- The Tidemark's step and the number of its checkpoint stay as records are written. -/
theorem step_of_coreLogged {c c' : Core} (h : CoreLogged c c') : c'.tm.st = c.tm.st ∧ c'.tm.seq = c.tm.seq := by
  unfold CoreLogged at h
  have hst := congrArg (fun d : Core => d.tm.st) h
  have hseq := congrArg (fun d : Core => d.tm.seq) h
  exact ⟨hst, hseq⟩

/-- Two states of a core at one step of its Tidemark, with one number of its checkpoint. -/
def SameStep (s t : State) (k : Nat) : Prop := (t.core k).tm.st = (s.core k).tm.st ∧ (t.core k).tm.seq = (s.core k).tm.seq

theorem sameStep_trans {s t u : State} {k : Nat} (h : SameStep s t k) (g : SameStep t u k) : SameStep s u k :=
  ⟨g.1.trans h.1, g.2.trans h.2⟩

theorem sameStep_logRecord (s : State) {k : Nat} (hk : k < 128) (r : LogRec) : SameStep s (s.logRecord k r) k :=
  step_of_coreLogged (recorded_logRecord s hk r).core

theorem sameStep_modCore (s : State) (k : Nat) {f : Core → Core} (hst : ∀ c, (f c).tm.st = c.tm.st) (hseq : ∀ c, (f c).tm.seq = c.tm.seq) :
    SameStep s (s.modCore k f) k := by
  rw [SameStep, Laws.core_modCore_self]
  exact ⟨hst _, hseq _⟩

theorem sameStep_flushIssues (s : State) {k : Nat} (hk : k < 128) : SameStep s (s.flushIssues k) k := by
  unfold State.flushIssues
  dsimp only
  split
  · exact ⟨rfl, rfl⟩
  · exact sameStep_trans (sameStep_logRecord s hk _) (sameStep_modCore _ k (fun _ => rfl) fun _ => rfl)

/-- A checkpoint is pending from its start on, under the next number (R206). -/
theorem step_checkpoint {s : State} {k : Nat} (hk : k < 128) (hruns : s.coreRuns k = true) (hst : (s.core k).tm.st = .run) :
    ((s.checkpoint k).core k).tm.st = .commit ∧ ((s.checkpoint k).core k).tm.seq = (s.core k).tm.seq + 1 := by
  unfold State.checkpoint
  extract_lets c s1
  have hdue : (s.coreRuns k && decide (c.tm.st = .run)) = true := by simp [hruns, c, hst]
  rw [if_pos hdue]
  have hlogged := sameStep_trans (sameStep_flushIssues s1 hk) (sameStep_logRecord (s1.flushIssues k) hk (.mark (c.tm.seq + 1) c.tm.pos))
  generalize ((s1.flushIssues k).logRecord k (.mark (c.tm.seq + 1) c.tm.pos)) = u at hlogged
  obtain ⟨hst', hseq'⟩ := sameStep_trans hlogged
    (sameStep_modCore u k (f := fun c => { c with tm := { c.tm with regularRun := 0 } }) (fun _ => rfl) fun _ => rfl)
  have hs1 : (s1.core k).tm.st = .commit ∧ (s1.core k).tm.seq = (s.core k).tm.seq + 1 := by
    rw [Laws.core_modCore_self]
    exact ⟨rfl, rfl⟩
  exact ⟨hst'.trans hs1.1, hseq'.trans hs1.2⟩

/-- A slot whose thread waits for a commit. -/
def waitsCommit (y : Slot) : Slot := { y with wait := .commit, answers := [], given := [] }

/-- The state in which TMARK takes its checkpoint. -/
def marking (s : State) (th : ThreadId) (x : Ctx) : State :=
  ((issuing s th).setTop th (nextParcel x)).modSlot th.core th.slot waitsCommit

theorem tm_marking (s : State) (th : ThreadId) (x : Ctx) : ((marking s th x).core th.core).tm = (s.core th.core).tm := by
  rw [marking, State.modSlot, Laws.core_modCore_self, State.setTop, Laws.core_modCore_self, core_issuing]
  rfl

theorem coreRuns_marking (s : State) (th : ThreadId) (x : Ctx) : (marking s th x).coreRuns th.core = s.coreRuns th.core := by
  rw [State.coreRuns, marking, State.modSlot, Laws.core_modCore_self, State.setTop, Laws.core_modCore_self, core_issuing]
  rfl

theorem slot_marking (s : State) (th : ThreadId) (x : Ctx) :
    ((marking s th x).core th.core).slot th.slot = waitsCommit ((s.core th.core).slot th.slot) := by
  rw [marking, slot_modSlot_self, slot_setTop, slot_issuing]

section Tmark

variable {s : State} {th : ThreadId} {x : Ctx} (h : s.ready th = some x)
include h

theorem topCtx_marking : (marking s th x).topCtx th = some (nextParcel x) := by
  rw [marking, topCtx_modSlot _ _ waitsCommit fun _ => rfl, Laws.topCtx_setTop, topCtx_issuing_of_ready h]
  rfl

theorem run_tmark (hst : (s.core th.core).tm.st = .run) :
    opTmark.run th (issuing s th) = .stay ((marking s th x).checkpoint th.core) := by
  have hst' : ((issuing s th).core th.core).tm.st = .run := by rw [core_issuing]; exact hst
  simp only [opTmark, supOp, topCtx_issuing_of_ready h, hst', if_true]
  rfl

theorem answers_tmark (hm : x.ts.m = true) (hst : (s.core th.core).tm.st = .run) : Answers (.tmark th) s fun t =>
    t.topCtx th = some (nextParcel x) ∧ ((t.core th.core).slot th.slot).wait = .commit ∧ (t.core th.core).tm.st = .commit
      ∧ (t.core th.core).tm.seq = (s.core th.core).tm.seq + 1 := by
  have hbooked := booked_checkpoint (marking s th x) th.core.isLt
  have hwait : ((((marking s th x).checkpoint th.core).core th.core).slot th.slot).wait = .commit := by
    rw [hbooked.slot, slot_marking]; rfl
  obtain ⟨hcommit, hseq⟩ := step_checkpoint th.core.isLt ((coreRuns_marking s th x).trans (ready_runs h).1) (by rw [tm_marking, hst])
  rw [tm_marking] at hseq
  have hissue : s.issue th (.tmark th) opTmark = (marking s th x).checkpoint th.core := by
    refine (issue_supOp h hm (.tmark th) opTmark.run).trans ((issue_plainOp h _ _).trans ?_)
    rw [run_tmark h hst]
    exact Laws.keepBefore_of_ready _ _ _ (by rw [State.settled, hwait]; rfl)
  exact ⟨_, congrArg Host.Outcome.next hissue, (topCtx_of_booked hbooked).trans (topCtx_marking h), hwait, hcommit, hseq⟩

end Tmark

/-! ## The end of a wait -/

theorem core_advance (s : State) (at_ k : Nat) : (s.advance at_).core k = s.core k := rfl

theorem takesInput_of_claim {s : State} {k : Nat} (h : TakesInput s k) : s.takesInput k = true := by
  obtain ⟨hphase, hrestore, hreplay, hcopy, hgated⟩ := h
  simp [State.takesInput, hphase, hrestore, hreplay, hcopy, hgated]

/-- A group that takes inputs logs them. -/
theorem recorded_logInput {s : State} {k : Nat} (hk : k < 128) (r : LogRec) : Recorded s (s.logInput k r) k := by
  unfold State.logInput
  split
  · exact recorded_refl s k
  · exact recorded_logRecord s hk r

/-- A thread whose wait ends goes on. -/
theorem answers_waitComplete {s : State} {th : ThreadId} {at_ : Nat} {w : TideWait}
    (hw : ((s.core th.core).slot th.slot).tideWait = some w) (hst : ((s.core th.core).slot th.slot).st = .waiting) (hq : quiet s)
    (htakes : TakesInput s th.core)
    (hover : w.done = true ∨ (s.tide w.tide).still = true ∨ 0 ≤ pdiff ((s.advance at_).tideWord w.tide) w.target) :
    Answers (.waitComplete th at_) s fun t => ((t.core th.core).slot th.slot).st = .active
      ∧ ((t.core th.core).slot th.slot).tideWait = none ∧ OnlyLogged (s.advance at_) t th.core ∧ t.topCtx th = s.topCtx th := by
  have hends : exec (.waitComplete th at_) s = .next ((s.advance at_).waitEnds th.core th.slot) := by
    have hgo : (w.done || ((s.advance at_).tide w.tide).still || (s.advance at_).reached w.tide w.target) = true := by
      have hstill : (s.advance at_).tide w.tide = s.tide w.tide := rfl
      simpa [State.reached, hstill, or_assoc] using hover
    have hin : (s.advance at_).takesInput th.core = true := takesInput_of_claim htakes
    show execWaitComplete th at_ s = _
    simp only [execWaitComplete, core_advance, hw, hgo, hin, if_true, Bool.not_true, Bool.false_eq_true, if_false]
  have hlog := recorded_logInput (s := s.advance at_) th.core.isLt (.thread th.slot 1 none (s.core th.core).tm.pos)
  have hslot : (((s.advance at_).waitEnds th.core th.slot).core th.core).slot th.slot = ((s.core th.core).slot th.slot).waitOver := by
    have harch := arch_of_recorded hlog th.core
    rw [State.waitEnds, slot_modSlot_self]
    simp only [core_advance, Core.slot, harch]
  have hover' : ((s.core th.core).slot th.slot).waitOver = { (s.core th.core).slot th.slot with st := .active, tideWait := none } := by
    rw [Slot.waitOver, if_pos hst]
  rw [hover'] at hslot
  refine ⟨_, hends, by rw [hslot], by rw [hslot], onlyLogged_of_recorded hlog hq (onlyCore_modSlot _ _ _ _), ?_⟩
  have htop : ∀ y : Slot, y.waitOver.top = y.top := fun y => by
    unfold Slot.waitOver
    repeat' split
    all_goals rfl
  exact (topCtx_modSlot _ th _ htop).trans (topCtx_of_recorded hlog th)

/-- Settles O24: both forms begin the same wait, for a tide and a fraction that fit it; TMARK and the end of a wait are apart. -/
theorem waitResult : Obligations.WaitResult := by
  intro s th x a b i imm at_
  refine ⟨fun h => ⟨fun c tide frac hc hsl hauth => ?_, fun _ hm hst => answers_tmark h hm hst⟩,
    fun w hw hst hq htakes hover => answers_waitComplete hw hst hq htakes hover⟩
  obtain ⟨j, hj, hfrac, t, he, htop, honly, hwaiting, hwait⟩ : ∃ j : Fin 16, j.val = tide ∧ frac < 2 ^ 24 ∧ Answers c s fun t =>
      t.topCtx th = some (nextParcel x) ∧ OnlyCore s t th.core ∧ ((t.core th.core).slot th.slot).st = .waiting
        ∧ ((t.core th.core).slot th.slot).tideWait = some (freshWait s j frac) := by
    rcases hc with ⟨rfl, rfl, rfl⟩ | ⟨rfl, rfl, rfl⟩
    · exact ⟨i, rfl, by omega, answers_waitOp h rfl rfl hsl hauth⟩
    · refine ⟨⟨x.d[a.val].toNat % 16, Nat.mod_lt _ (by decide)⟩, rfl, Nat.mod_lt _ (by decide), answers_waitOp h rfl ?_ hsl hauth⟩
      simp [Ctx.getD, fld_eq_div_mod]
  subst hj
  obtain ⟨htarget, hnext⟩ := waitTarget_next s j hfrac
  exact ⟨t, he, htop, honly, hwaiting, _, hwait, rfl, htarget, hnext, by simp [freshWait]⟩

end Sys2Proof.Proofs
end

section
/-! PROOFS. TLBI: the entries that it invalidates, and where it goes (R107, R164, R165). -/

namespace Sys2Proof.Proofs

open Sys2Proof.Machine Sys2Proof.Claims

/-! ## Invalidation (R164) -/

theorem cellsFind_mapValues {α : Type} (f : α → α) (l : List (Nat × α)) (k : Nat) :
    cellsFind (l.map fun p => (p.1, f p.2)) k = (cellsFind l k).map f := by
  induction l with
  | nil => rfl
  | cons e r ih =>
    simp only [List.map_cons, cellsFind, ih]
    split <;> rfl

theorem v_cleared (w : Word) : bit (clearBits w 0x80000000#32) 31 = false := by
  have hmask : (~~~0x80000000#32).getLsbD 31 = false := by decide
  show (w &&& ~~~0x80000000#32).getLsbD 31 = false
  rw [BitVec.getLsbD_and, hmask, Bool.and_false]

/-- An entry that an invalidation names is no longer valid, and any other stays. -/
theorem words_invalidated (form : Nat) (ten : TenantId) (va : Nat) (global : Bool) (e : TlbEntry) :
    if e.words.named form ten va global then (e.invalidated form ten va global).words.v = false
    else (e.invalidated form ten va global).words = e.words := by
  unfold TlbEntry.invalidated
  split
  · exact v_cleared _
  · rfl

theorem words_invalidate (c : Core) (form : Nat) (ten : TenantId) (va : Nat) (global : Bool) (j : Nat) :
    if (c.tlbEntry j).words.named form ten va global then ((c.invalidate form ten va global).tlbEntry j).words.v = false
    else ((c.invalidate form ten va global).tlbEntry j).words = (c.tlbEntry j).words := by
  unfold Core.tlbEntry Core.invalidate Tbl.get
  simp only [cellsFind_mapValues]
  cases cellsFind c.arch.tlb.cells j with
  | none => dsimp only [Option.map_none]; split <;> rfl
  | some e => exact words_invalidated form ten va global e

/-- A state whose core has invalidated the entries, and has them as they are then. -/
theorem invalidated_of_tlb {s t : State} {k form : Nat} {ten : TenantId} {va : Nat} {global : Bool}
    (h : (t.core k).arch.tlb = ((s.core k).invalidate form ten va global).arch.tlb) : Invalidated s t k form ten va global := fun j => by
  have hj := words_invalidate (s.core k) form ten va global j
  simp only [tlbWords, Core.tlbEntry, h] at *
  exact hj

/-- Entries that were the same before are invalidated the same. -/
theorem invalidated_congr {s s' t : State} {k form : Nat} {ten : TenantId} {va : Nat} {global : Bool}
    (hs : (s'.core k).arch.tlb = (s.core k).arch.tlb) (h : Invalidated s' t k form ten va global) : Invalidated s t k form ten va global :=
  fun j => by
    have hj := h j
    rw [tlbWords_of_tlb hs] at hj
    exact hj

/-! ## Packets leave the cores (R244) -/

theorem cores_undertowSends (l : List Nat) (cls : Nat) (s : State) :
    (l.foldl (fun t k => t.undertowSend cls k) s).cores = s.cores ∧ (l.foldl (fun t k => t.undertowSend cls k) s).tlbis = s.tlbis := by
  induction l generalizing s with
  | nil => exact ⟨rfl, rfl⟩
  | cons p r ih => exact ih (s.undertowSend cls p)

/-- Cores that discard their TLBs leave the others, and nothing else changes. -/
theorem dropTlbs (l : List Nat) (s : State) :
    let t := l.foldl (fun t k => t.modCore k Core.dropTlb) s
    (∀ k, k ∉ l → t.core k = s.core k) ∧ t.tlbis = s.tlbis := by
  induction l generalizing s with
  | nil => exact ⟨fun _ _ => rfl, rfl⟩
  | cons p r ih =>
    obtain ⟨hcore, htlbis⟩ := ih (s.modCore p Core.dropTlb)
    refine ⟨fun k hk => ?_, htlbis⟩
    obtain ⟨hp, hr⟩ := not_or.mp (mt List.mem_cons.mpr hk)
    rw [List.foldl_cons, hcore k hr, Laws.core_modCore, if_neg hp]

/-- Where a TLBI of a core goes: to every other leader and to the Churn (R165). -/
def receivers (s : State) (k : Nat) : List Nat := (s.allLeaders.filter fun j => decide (j ≠ k)) ++ [notACore]

theorem receivers_of_coves {s t : State} (h : t.coves = s.coves) (k : Nat) : receivers t k = receivers s k := by
  simp only [receivers, State.allLeaders, State.isLeader, State.role, State.cove, h]
  rfl

/-- What sending a TLBI leaves: the sender as it was, if it leads a group, and the TLBI on its way. -/
theorem tlbiSend_of_leader {s : State} {k : Nat} (h : s.isLeader k = true) (form : Nat) (va : Word) (ten : TenantId) (global : Bool)
    (slot : Nat) :
    (s.tlbiSend form va ten global k slot).core k = s.core k
      ∧ (s.tlbiSend form va ten global k slot).tlbis = s.tlbis ++ [Tlbi.mk form va ten global k slot (receivers s k)] := by
  unfold State.tlbiSend
  extract_lets out s0 sent s1
  obtain ⟨hcore, htlbis⟩ := dropTlbs out s
  obtain ⟨hsent, hsent'⟩ := cores_undertowSends sent 1 s0
  have hout : k ∉ out := by
    simp only [State.isLeader, Bool.or_eq_true, decide_eq_true_eq] at h
    rcases h with h | h <;> simp [out, h]
  refine ⟨(congrArg (fun c : Tbl Core => c.get _ k) hsent).trans (hcore k hout), ?_⟩
  exact congrArg (fun l : List Tlbi => l ++ [Tlbi.mk form va ten global k slot sent]) (hsent'.trans htlbis)

/-! ## TLBI issued by a thread -/

/-- The state in which a core has applied the TLBI that its thread issues. -/
def struck (s : State) (th : ThreadId) (form : Nat) (ten : TenantId) (va : Nat) (headland : Bool) : State :=
  (issuing s th).modCore th.core fun c => c.invalidate form ten va headland

section Struck

variable (s : State) (th : ThreadId) (form : Nat) (ten : TenantId) (va : Nat) (headland : Bool)

theorem core_struck : (struck s th form ten va headland).core th.core = ((s.core th.core).touchBank th.slot).invalidate form ten va headland := by
  rw [struck, Laws.core_modCore_self, core_issuing]

theorem topCtx_struck : (struck s th form ten va headland).topCtx th = (issuing s th).topCtx th :=
  topCtx_modCore_same (g := fun c => c.invalidate form ten va headland) (fun _ _ => rfl) fun _ => rfl

theorem replaying_struck : (struck s th form ten va headland).replaying th.core = (issuing s th).replaying th.core := by
  rw [State.replaying, struck, Laws.core_modCore_self]
  rfl

end Struck

/-- Logging leaves the roles of the cores and the invalidations on their way. -/
theorem sends_of_recorded {s t : State} {k : Nat} (h : Recorded s t k) :
    t.tlbis = s.tlbis ∧ (∀ j, t.isLeader j = s.isLeader j) ∧ ∀ j, receivers t j = receivers s j := by
  have htlbis := congrArg State.tlbis h.rest
  have hcoves := congrArg State.coves h.rest
  have hcoves : t.coves = s.coves := hcoves
  exact ⟨htlbis, fun j => by simp only [State.isLeader, State.role, State.cove, hcoves]; rfl, receivers_of_coves hcoves⟩

section Send

variable {s : State} {th : ThreadId} {x : Ctx} (h : s.ready th = some x)
include h

theorem isLeader_of_ready : s.isLeader th.core = true := by
  have hruns := (ready_runs h).1
  simp only [State.coreRuns, Bool.and_eq_true] at hruns
  obtain ⟨⟨⟨⟨⟨-, hleads⟩, -⟩, -⟩, -⟩, -⟩ := hruns
  exact hleads

/-- A TLBI that its core has applied leaves it. -/
theorem send_struck (form : Nat) (va : Word) (ten : TenantId) (headland : Bool) :
    let u := struck s th form ten va.toNat headland
    let t := (u.logRelease th.core 9 va.toNat form [ten.setWidth 32]).tlbiSend form va ten headland th.core th.slot
    (t.core th.core).arch = (u.core th.core).arch
      ∧ t.tlbis = s.tlbis ++ [Tlbi.mk form va ten headland th.core th.slot (receivers s th.core)] := by
  intro u t
  have hlog := recorded_logRelease u th.core.isLt 9 va.toNat form [ten.setWidth 32]
  obtain ⟨htlbis, hleads, hreceivers⟩ := sends_of_recorded hlog
  have hleader := isLeader_of_ready h
  obtain ⟨hcore, hsent⟩ := tlbiSend_of_leader (k := th.core) ((hleads _).trans hleader) form va ten headland th.slot
  rw [htlbis, hreceivers] at hsent
  exact ⟨(congrArg Core.arch hcore).trans (arch_of_recorded hlog th.core), hsent⟩

/-- A TLBI with authority is applied at its own core, leaves, and ends its parcel. -/
theorem answers_tlbiOp {i : Instr} {form : Nat} {cd : CReg} {ten : Ctx → Option TenantId} {va : Ctx → Word} {t0 : TenantId} {w : Word}
    (hm : x.ts.m = true) (hx : exec i s = .next (s.issue th i (supOp (tlbiOp form cd ten va)))) (hten : (ten x).getD 0 = t0)
    (hva : va x = w) (hauth : ten x = some x.cur ∨ tlbiCheck x.c[cd.val] (ten x) = .ok ()) :
    Answers i s fun t => Invalidated s t th.core form t0 w.toNat (decide (x.cur = 0)) ∧ t.topCtx th = some (nextParcel x)
      ∧ t.tlbis = s.tlbis ++ [Tlbi.mk form w t0 (decide (x.cur = 0)) th.core th.slot (receivers s th.core)] := by
  rw [issue_supOp h hm] at hx
  have hok : (if ten x = some x.cur then Except.ok () else tlbiCheck (x.getC cd) (ten x)) = .ok () := by
    split
    · rfl
    next hne => exact hauth.resolve_left hne
  have hlive := (replaying_struck s th form t0 w.toNat (decide (x.cur = 0))).trans (issuing_not_replaying h)
  have hrun : tlbiOp form cd ten va th (issuing s th)
      = .done (((struck s th form t0 w.toNat (decide (x.cur = 0))).logRelease th.core 9 w.toNat form [t0.setWidth 32]).tlbiSend form w t0
          (decide (x.cur = 0)) th.core th.slot) := by
    rw [← emit_live hlive 9 w.toNat form _ fun u => u.tlbiSend form w t0 (decide (x.cur = 0)) th.core th.slot]
    simp only [tlbiOp, topCtx_issuing_of_ready h, hok, hten, hva]
    rfl
  obtain ⟨harch, hsent⟩ := send_struck h form w t0 (decide (x.cur = 0))
  have htop := (topCtx_struck s th form t0 w.toNat (decide (x.cur = 0))).trans (topCtx_issuing_of_ready h)
  have hcore := core_struck s th form t0 w.toNat (decide (x.cur = 0))
  generalize struck s th form t0 w.toNat (decide (x.cur = 0)) = u at *
  generalize State.tlbiSend _ _ _ _ _ _ _ = v at *
  have hvtop : v.topCtx th = some x := by
    rw [← htop]
    simp only [State.topCtx, Core.ctx, Core.slot, harch]
  have hwait : ((v.core th.core).slot th.slot).wait = .none := by
    rw [Core.slot, harch, hcore]
    exact (ready_runs h).2
  obtain ⟨t, he, rfl, hend⟩ := ended_of_run h hx hrun hvtop hwait
  obtain ⟨hrest, -⟩ := hend.only
  have htlbis := congrArg State.tlbis hrest
  refine ⟨_, he, invalidated_of_tlb ?_, hend.top, Eq.trans htlbis hsent⟩
  rw [tlb_stepOver, harch, hcore]
  rfl

end Send

/-! ## TLBI received (R165) -/

/-- A core that takes part invalidates what a TLBI names as it receives it. -/
theorem tlbiAtCore_live {s : State} {k : Fin 128} (m : Tlbi) (hlive : s.dropsTlb k = false)
    (hst : (s.core k).tm.st = .run ∨ (s.core k).tm.st = .commit) :
    (s.tlbiAtCore k m).tlbis = s.tlbis ∧ Invalidated s (s.tlbiAtCore k m) k m.form m.ten m.va.toNat m.headland
      ∧ ∀ j, j ≠ k.val → (s.tlbiAtCore k m).core j = s.core j := by
  have hgo : s.tlbiAtCore k m = (s.logInput k (.tlbi m.va m.form m.ten m.headland (s.core k).tm.pos)).modCore k
      fun c => c.invalidate m.form m.ten m.va.toNat m.headland := by
    rcases hst with hst | hst <;> simp [State.tlbiAtCore, hlive, hst]
  have hlog := recorded_logInput (s := s) k.isLt (.tlbi m.va m.form m.ten m.headland (s.core k).tm.pos)
  rw [hgo]
  generalize s.logInput k _ = u at *
  obtain ⟨htlbis, -, -⟩ := sends_of_recorded hlog
  refine ⟨htlbis, invalidated_of_tlb ?_, fun j hj => ?_⟩
  · rw [Laws.core_modCore_self]
    simp only [Core.invalidate, arch_of_recorded hlog]
  · rw [Laws.core_modCore, if_neg hj, hlog.others j hj]

/-- Settles O33: the three forms are one operation, and a receiver takes the oldest TLBI on its way to it. -/
theorem tlbiResult : Obligations.TlbiResult := by
  intro s th x cd a b k m r _
  refine ⟨fun h hm => ⟨fun hauth => ⟨answers_tlbiOp h hm rfl rfl rfl ?_, answers_tlbiOp h hm rfl rfl rfl ?_⟩,
      fun hauth => answers_tlbiOp h hm rfl rfl rfl (.inr hauth)⟩,
    fun htake hlive hst => ?_, fun htake => ?_⟩
  · exact hauth.imp (congrArg some) id
  · exact hauth.imp (congrArg some) id
  · refine ⟨_, ?_, tlbiAtCore_live (s := ({ s with tlbis := r } : State).undertowSend 1 (if m.core < 128 then m.core else sysPort)) m hlive hst⟩
    show execTlbiReceive (some k) s = _
    simp only [execTlbiReceive, htake]
  · refine ⟨(({ s with tlbis := r } : State).undertowSend 1 (if m.core < 128 then m.core else sysPort)).churnTlbi m.form m.ten m.va.toNat,
      ?_, rfl, rfl⟩
    show execTlbiReceive none s = _
    simp only [execTlbiReceive, htake]

end Sys2Proof.Proofs
end

section
/-! PROOFS. A load's fault has a code of R54: none is 0, which is a trap's (R135, R136). -/

namespace Sys2Proof.Proofs

open Sys2Proof.Machine Sys2Proof.Claims

theorem capCheck_code {c : Cap} {k : AccessKind} {v : Option Cap} {code : Nat} (h : capCheck c k v = .error code) : code ≠ 0 := by
  unfold capCheck at h
  split at h
  · cases h; decide
  split at h
  · cases h; decide
  split at h
  · cases h; decide
  · cases h

theorem formAddress_code {am : BitVec 24} {n : Fin 8} {c : Cap} {disp : Int} {size code : Nat} {va : Option Word}
    (h : formAddress am n c disp size = .error (code, va)) : code ≠ 0 := by
  unfold formAddress at h
  dsimp only at h
  split at h
  · cases h; decide
  split at h
  · cases h; decide
  split at h
  · cases h; decide
  split at h
  · cases h; decide
  · cases h

theorem permit_code {e : EntryWords} {load store : Bool} {code : Nat} (h : e.permit load store = .error code) : code ≠ 0 := by
  unfold EntryWords.permit at h
  split at h
  · cases h; decide
  split at h
  · cases h; decide
  split at h
  · cases h; decide
  · cases h

theorem translate_code {s s1 : State} {i : Issuer} {q : Query} {va : Nat} {f : FaultInfo} (h : s.translate i q va = (.error f, s1)) :
    f.code ≠ 0 := by
  unfold State.translate at h
  dsimp only at h
  split at h
  · cases h
  split at h
  · cases h; exact (by decide : fTLB_MISS ≠ 0)
  split at h
  next hp => cases h; exact permit_code hp
  split at h
  · cases h; exact (by decide : fMPU ≠ 0)
  · cases h

theorem locate_code {s s1 : State} {i : Issuer} {q : Query} {f : FaultInfo} (h : s.locate i q = (.error f, s1)) : f.code ≠ 0 := by
  unfold State.locate at h
  split at h
  next hc => cases h; exact capCheck_code hc
  split at h
  next ha => cases h; exact formAddress_code ha
  split at h
  · split at h
    · cases h; exact (by decide : fBUS_ERROR ≠ 0)
    · cases h
  next ht => cases h; exact translate_code ht

theorem memLoad_code {s s1 : State} {n : Nat} {p : Place} {ten : TenantId} {code : Nat} (h : s.memLoad n p ten = (.error code, s1)) :
    code ≠ 0 := by
  unfold State.memLoad State.judgeTag at h
  dsimp only at h
  split at h
  · cases h
  next hj =>
    cases h
    split at hj
    · cases hj; decide
    · split at hj <;> cases hj
      decide
    · cases hj

theorem outsideLoad_code {s s1 : State} {i : Issuer} {pcie : Bool} {p : Place} {size code : Nat}
    (h : s.outsideLoad i pcie p size = (.error code, s1)) : code ≠ 0 := by
  unfold State.outsideLoad at h
  split at h
  next a _ _ => cases a <;> cases h <;> decide
  · cases h
    repeat' split
    all_goals decide

theorem targetLoad_code {s s1 : State} {i : Issuer} {p : Place} {size code : Nat} (h : s.targetLoad i p size = (.error code, s1)) :
    code ≠ 0 := by
  unfold State.targetLoad at h
  dsimp only at h
  split at h
  · split at h
    · cases h
    · cases h; decide
  · cases h
  · exact outsideLoad_code h
  · exact outsideLoad_code h
  · cases h; decide
  · split at h
    · cases h; decide
    split at h
    next hm => cases h; exact memLoad_code hm
    · cases h

theorem respond_code {s s1 : State} {k : Nat} {sl : Fin 8} {second : Bool} {live : State → Except Nat (Word × Tag) × State} {code : Nat}
    (hlive : ∀ e t, live s = (.error e, t) → e ≠ 0) (h : s.respond k sl second live = (.error code, s1)) : code ≠ 0 := by
  unfold State.respond at h
  split at h
  · split at h
    · cases h
    next hne => cases h; exact hne
  split at h
  · cases h
  next hl => cases h; exact hlive _ _ hl

theorem groupLoad_code {s s1 : State} {i : Issuer} {p : Place} {size code : Nat} {second : Bool}
    (h : s.groupLoad i p size second = (.error code, s1)) : code ≠ 0 := by
  unfold State.groupLoad at h
  split at h
  · exact targetLoad_code h
  · exact respond_code (fun e t he => targetLoad_code he) h

theorem dataLoad_code {s s1 : State} {i : Issuer} {q : Query} {f : FaultInfo} (h : s.dataLoad i q = (.error f, s1)) : f.code ≠ 0 := by
  unfold State.dataLoad at h
  split at h
  next hl => cases h; exact locate_code hl
  split at h
  · cases h; decide
  split at h
  · cases h
  next hg => cases h; exact groupLoad_code hg

end Sys2Proof.Proofs
end

section
/-! PROOFS. Answers from outside the device (R87, R290, R292). -/

namespace Sys2Proof.Proofs

open Sys2Proof.Machine Sys2Proof.Claims

/-! ## The parcel that waits runs again -/

/-- A parcel of one plain operation. -/
theorem settleOps_plain {s : State} {th : ThreadId} {x : Ctx} {i : Instr} {run : Op} (ht : s.topCtx th = some x)
    (hop : operationOf i = some (plainOp run)) (parcel : Word) :
    s.settleOps th parcel [i] = s.settleOp th parcel 0 false [i] (run th s) := by
  have hrun : runNth [i] 0 th s = run th s := by
    simp [runNth, hop, Operation.checked, ht, plainOp, Core.accepts]
  have hblock : blockOps [i] = false := by
    simp only [blockOps, hop]
    rfl
  simp only [State.settleOps, runOps, hrun, hblock]

/-- What an answer leaves of the slot once the parcel has run with it. -/
def settledSlot (y : Slot) : Slot :=
  let z := if y.wait = .access then y.answered else y
  match z.wait with
  | .outside _ _ => z
  | _ => { z with given := [] }

theorem settledSlot_keeps (y : Slot) : (settledSlot y).top = y.top ∧ (settledSlot y).buf = y.buf := by
  unfold settledSlot
  dsimp only
  repeat' split
  all_goals exact ⟨rfl, rfl⟩

theorem wait_settledSlot {y : Slot} (h : y.wait = .access) : (settledSlot y).wait = .none := by
  simp [settledSlot, h, Slot.answered]

/-- A thread's slot as its answer comes. -/
def withAnswer (s : State) (th : ThreadId) (a : Answer) : State :=
  s.modSlot th.core th.slot fun y => { y with wait := .none, answers := [a] }

theorem topCtx_withAnswer (s : State) (th : ThreadId) (a : Answer) : (withAnswer s th a).topCtx th = s.topCtx th :=
  topCtx_modSlot s th _ fun _ => rfl

theorem wait_withAnswer (s : State) (th : ThreadId) (a : Answer) : (((withAnswer s th a).core th.core).slot th.slot).wait = .none := by
  rw [withAnswer, slot_modSlot_self]

/-- What an answer leaves where the waiting operation of a plain parcel ends in `out`. -/
def resumed (s : State) (th : ThreadId) (parcel : Word) (i : Instr) (out : OpOut) : State :=
  (s.settleOp th parcel 0 false [i] out).modSlot th.core th.slot settledSlot

/-- The first answer of a wait runs the operation that waits. -/
theorem answerOutside_plain {s : State} {th : ThreadId} {x : Ctx} {pcie : Bool} {a : Answer} {i : Instr} {run : Op}
    (hw : ((s.core th.core).slot th.slot).wait = .outside pcie [i]) (hno : ((s.core th.core).slot th.slot).answers = [])
    (ht : s.topCtx th = some x) (hop : operationOf i = some (plainOp run)) :
    s.answerOutside th pcie a = resumed (withAnswer s th a) th (s.waitingParcel th x) i (run th (withAnswer s th a)) := by
  have hfirst : (s.modSlot th.core th.slot fun y => { y with wait := .none, answers := y.answers ++ [a] }) = withAnswer s th a := by
    simp only [withAnswer, State.modSlot, State.modCore, hno, List.nil_append]
  rw [resumed, ← settleOps_plain ((topCtx_withAnswer s th a).trans ht) hop]
  simp only [State.answerOutside, hw, ht, hfirst, ne_eq, not_true_eq_false, if_false]
  rfl

/-- The instructions by which an answer comes do the same (R290, R292). -/
theorem exec_answer {s : State} {th : ThreadId} {pcie : Bool} {a : Answer} {i : Instr} {l : List Instr}
    (hw : ((s.core th.core).slot th.slot).wait = .outside pcie l)
    (hi : i = .accessResponse th a ∨ (i = .pcieOutboundCompletion th a ∧ pcie = true) ∨ (i = .xspiWindowRead th a ∧ pcie = false)
      ∨ (i = .pcieCompletionTimeout th ∧ pcie = true ∧ a = .error)) : exec i s = .next (s.answerOutside th pcie a) := by
  rcases hi with rfl | ⟨rfl, rfl⟩ | ⟨rfl, rfl⟩ | ⟨rfl, rfl, rfl⟩
  · show execAccessResponse th a s = _
    simp only [execAccessResponse, hw]
  · rfl
  · rfl
  · rfl

/-! ## A load that waits -/

section Load

variable {s u : State} {th : ThreadId} {x : Ctx} {d : DReg} {c : CReg} {disp : BitVec 14} (ht : s.topCtx th = some x)
include ht

theorem run_ldW_data {w : Word} (ha : s.dataLoad (issuerOf th x) (query x c disp.toInt 4 loads) = (.ok w, u)) :
    (opLdW d c disp).run th s = .done ((u.setTop th (x.setD d w)).awaits th) := by
  have ha' : s.dataLoad (issuerOf th x) { regQuery x c disp.toInt 4 loads none with short := false } = (.ok w, u) := ha
  simp only [opLdW, plainOp, loadOp, ht, ha', Bool.false_eq_true, if_false]

theorem run_ldW_fault {f : FaultInfo} (ha : s.dataLoad (issuerOf th x) (query x c disp.toInt 4 loads) = (.error f, u)) :
    (opLdW d c disp).run th s = .fault f u := by
  have ha' : s.dataLoad (issuerOf th x) { regQuery x c disp.toInt 4 loads none with short := false } = (.error f, u) := ha
  simp only [opLdW, plainOp, loadOp, ht, ha']

end Load

/-- A load whose data has come completes: it has had its response. -/
theorem resumed_done (s : State) {u : State} {th : ThreadId} {x : Ctx} (y : Ctx) (i : Instr) (parcel : Word) (hu : u.topCtx th = some x) :
    let t := resumed s th parcel i (.done ((u.setTop th y).awaits th))
    t.topCtx th = some (nextParcel y) ∧ ((t.core th.core).slot th.slot).wait = .none ∧ OnlyCore u t th.core := by
  have hy : ((u.setTop th y).awaits th).topCtx th = some y := by
    rw [topCtx_awaits, Laws.topCtx_setTop, hu]
    rfl
  have hend : resumed s th parcel i (.done ((u.setTop th y).awaits th))
      = (s.keepBefore (((u.setTop th y).awaits th).stepOver th) th).modSlot th.core th.slot settledSlot := rfl
  rw [hend]
  refine ⟨?_, ?_, ?_⟩
  · rw [topCtx_modSlot _ _ settledSlot fun y => (settledSlot_keeps y).1, topCtx_keepBefore, topCtx_stepOver_some hy]
  · rw [slot_modSlot_self, wait_settledSlot]
    rw [wait_keepBefore, wait_stepOver, State.awaits, slot_modSlot_self]
  · exact onlyCore_trans (onlyCore_trans (onlyCore_setTop u th y) (onlyCore_modSlot _ _ _ _))
      (onlyCore_trans (onlyCore_stepOver _ th) (onlyCore_trans (onlyCore_keepBefore s _ th) (onlyCore_modSlot _ _ _ settledSlot)))

/-! ## A load that ends in a fault -/

/-- Where a fault goes at level 0 with PF clear (R139): to level 1. -/
theorem takeFault_unsuppressed {s : State} {th : ThreadId} {x : Ctx} {f : FaultInfo} (ht : s.topCtx th = some x) (hl : x.ts.level = 0)
    (hpf : x.ts.pf = false) (keep : Bool) : s.takeFault th f keep = s.enterLevel1 th x f 0 none := by
  have hlevel : x.ts.level.toNat = 0 := by rw [hl]; rfl
  simp [State.takeFault, ht, hpf, hlevel]

theorem code_ofParcel (f : FaultInfo) (parcel : Word) (op : Nat) : (f.ofParcel parcel op).code = f.code := by
  unfold FaultInfo.ofParcel
  split <;> rfl

theorem low6_at (v : Nat) {n : Nat} (hn : 6 ≤ n) : (at_ v n).toNat % 2 ^ 6 = 0 := by
  obtain ⟨m, rfl⟩ := Nat.exists_eq_add_of_le hn
  rw [at_, BitVec.toNat_ofNat, Nat.shiftLeft_eq, Nat.mod_mod_of_dvd _ (by decide), Nat.pow_add, Nat.mul_left_comm]
  exact Nat.mul_mod_right _ _

/-- CODE in word 0 of a record (R136). -/
theorem fld_code {trapno kind op level code2 code : Nat} (hcode : code < 64) :
    fld (at_ trapno 24 ||| at_ kind 22 ||| at_ op 20 ||| at_ level 18 ||| at_ code2 12 ||| at_ code 0) 5 0 = code := by
  have hlow : (at_ code 0).toNat = code := by
    rw [at_, BitVec.toNat_ofNat, Nat.shiftLeft_zero]
    omega
  simp only [fld_eq_div_mod, Nat.pow_zero, Nat.div_one, BitVec.toNat_or, Nat.or_mod_two_pow, Nat.reduceAdd, Nat.reduceSub, low6_at, hlow,
    Nat.reduceLeDiff, Nat.or_self, Nat.zero_or]
  omega

/-- A fault at level 0 of a parcel that ran with an answer enters the handler. -/
theorem resumed_fault (s : State) {u : State} {th : ThreadId} {x : Ctx} {f : FaultInfo} {r : Vector Word 16} {l : List Cap} (i : Instr)
    {parcel : Word} (hu : u.topCtx th = some x) (hcode : f.code < 64) (hne : f.code ≠ 0) (hpf : x.ts.pf = false) (hl : x.ts.level = 0)
    (hready : EntryReady u th x 1 0 (f.ofParcel parcel 0) r l) :
    ∃ y, Entered (resumed s th parcel i (.fault f u)) th x y 1 (l.getD 0 Cap.null) (l.getD 1 Cap.null) (l.getD 3 Cap.null) x.pcc.w0
      ∧ y.record = r ∧ fld r[0] 5 0 = f.code := by
  have hrecord : fld r[0] 5 0 = f.code := by
    obtain ⟨s2, -, -, -, -, -, hrec, -⟩ := hready
    obtain ⟨hword, -⟩ := recordOf_words hrec
    rw [hword, code_ofParcel, Nat.mod_eq_of_lt hcode]
    exact fld_code hcode
  obtain ⟨v, henter, htop, hslot, hbuf⟩ := enterLevel1_ready hready
  have hend : resumed s th parcel i (.fault f u) = (s.keepBefore v th).modSlot th.core th.slot settledSlot := by
    have hlow : ¬notYet ≤ f.code := by
      have : notYet = 256 := rfl
      omega
    simp only [resumed, State.settleOp, State.settled, if_neg hlow, takeFault_unsuppressed hu hl hpf, henter]
  rw [code_ofParcel, resumeAt, if_neg hne] at htop
  rw [hend]
  refine ⟨_, entered_handler _ _ _ _ r ?_ ?_ ?_, rfl, hrecord⟩
  · rw [topCtx_modSlot _ _ settledSlot fun y => (settledSlot_keeps y).1, topCtx_keepBefore, htop]
  · rw [slot_modSlot_self, (settledSlot_keeps _).1, top_keepBefore, hslot]
  · rw [slot_modSlot_self, (settledSlot_keeps _).2, buf_keepBefore, hbuf]

/-- Settles O38: the parcel that waits runs as its load would. -/
theorem outsideAnswers : Obligations.OutsideAnswers := by
  intro s s2 th x d c disp pcie a i slot s1 hw hno ht hi
  have ht1 := (topCtx_withAnswer s th a).trans ht
  have hexec := (exec_answer hw hi).trans (congrArg Host.Outcome.next
    (answerOutside_plain hw hno ht (i := .ldW th d c disp) (run := (opLdW d c disp).run) rfl))
  refine ⟨fun w ha htop => ?_, fun f r l ha htop hcode hpf hl hready => ?_⟩
  · rw [run_ldW_data ht1 ha] at hexec
    exact ⟨_, hexec, resumed_done _ _ _ _ htop⟩
  · rw [run_ldW_fault ht1 ha] at hexec
    exact ⟨_, hexec, resumed_fault _ _ htop hcode (dataLoad_code ha) hpf hl hready⟩

end Sys2Proof.Proofs
end

section
/-! PROOFS. The placement of the wheel's shares (R114, R115): every slot gets as many positions as its share says. -/

namespace Sys2Proof.Proofs

open Sys2Proof.Machine Sys2Proof.Claims

/-! ## The largest credit -/

/-- The better of two entries by their credits: the first, unless the second has more (R115). -/
def better (credit : List Int) (best i : Nat) : Nat := if credit.getD best 0 < credit.getD i 0 then i else best

theorem le_better (credit : List Int) (b i : Nat) :
    credit.getD b 0 ≤ credit.getD (better credit b i) 0 ∧ credit.getD i 0 ≤ credit.getD (better credit b i) 0 := by
  unfold better
  split <;> omega

theorem le_foldl_better (credit : List Int) (l : List Nat) (b : Nat) :
    ∀ j ∈ b :: l, credit.getD j 0 ≤ credit.getD (l.foldl (better credit) b) 0 := by
  induction l generalizing b with
  | nil => simp
  | cons a r ih =>
    obtain ⟨hb, ha⟩ := le_better credit b a
    have hbest := ih (better credit b a) _ List.mem_cons_self
    intro j hj
    rcases List.mem_cons.mp hj with rfl | hj
    · exact hb.trans hbest
    · rcases List.mem_cons.mp hj with rfl | hj
      · exact ha.trans hbest
      · exact ih _ j (List.mem_cons_of_mem _ hj)

theorem foldl_better_lt (credit : List Int) {n : Nat} (l : List Nat) (b : Nat) (h : ∀ j ∈ b :: l, j < n) : l.foldl (better credit) b < n := by
  induction l generalizing b with
  | nil => exact h b List.mem_cons_self
  | cons a r ih =>
    simp only [List.forall_mem_cons] at h ih
    obtain ⟨hb, ha, hr⟩ := h
    refine ih _ ⟨?_, hr⟩
    unfold better
    split <;> assumption

theorem largestCredit_lt (credit : List Int) : largestCredit credit < 9 :=
  foldl_better_lt credit (List.range 9) 0 (by decide)

theorem le_largestCredit (credit : List Int) {j : Nat} (hj : j < 9) : credit.getD j 0 ≤ credit.getD (largestCredit credit) 0 :=
  le_foldl_better credit (List.range 9) 0 j (List.mem_cons_of_mem _ (List.mem_range.mpr hj))

/-! ## Credits -/

theorem getD_zipWith_add {a b : List Int} (h : a.length = b.length) (j : Nat) :
    (List.zipWith (· + ·) a b).getD j 0 = a.getD j 0 + b.getD j 0 := by
  by_cases hj : j < a.length
  · simp [List.getD_eq_getElem?_getD, hj, h ▸ hj]
  · have hb : b.length ≤ j := by omega
    simp [List.getD_eq_getElem?_getD, hj, hb]

theorem getD_set (c : List Int) {i : Nat} (hi : i < c.length) (v : Int) (j : Nat) :
    (c.set i v).getD j 0 = if j = i then v else c.getD j 0 := by
  by_cases h : j = i
  · subst h; simp [List.getD_eq_getElem?_getD, hi]
  · simp [List.getD_eq_getElem?_getD, h, Ne.symm h]

/-- What holds of every entry holds of every member. -/
theorem forall_mem_of_getD {l : List Int} {p : Int → Prop} (h : ∀ j, j < l.length → p (l.getD j 0)) : ∀ v ∈ l, p v := by
  intro v hv
  obtain ⟨j, hj, rfl⟩ := List.mem_iff_getElem.mp hv
  rw [← List.getD_eq_getElem l 0 hj]
  exact h j hj

/-- The shares of the wheel's 16 positions among nine entries. -/
structure Shares (k : List Int) : Prop where
  length : k.length = 9
  sum : k.sum = 16
  nonneg : ∀ j, 0 ≤ k.getD j 0

/-- The credits between two positions: they sum to nothing, and none is a whole revolution behind. -/
structure Balanced (credit : List Int) : Prop where
  length : credit.length = 9
  sum : credit.sum = 0
  bound : ∀ j, -16 < credit.getD j 0

theorem balanced_zero : Balanced (List.replicate 9 0) := by
  refine ⟨rfl, rfl, fun j => ?_⟩
  rw [List.getD_eq_getElem?_getD, List.getElem?_replicate]
  split <;> decide

/-- The credits as the next position is given out (R115). -/
def credited (k credit : List Int) : List Int := List.zipWith (· + ·) credit k

/-- The credits once the position has been given out (R115). -/
def debited (c : List Int) : List Int := c.set (largestCredit c) (c.getD (largestCredit c) 0 - 16)

section Position

variable {k credit : List Int} (hk : Shares k) (hc : Balanced credit)
include hk hc

theorem length_credited : (credited k credit).length = 9 := by simp [credited, hk.length, hc.length]

theorem getD_credited (j : Nat) : (credited k credit).getD j 0 = credit.getD j 0 + k.getD j 0 :=
  getD_zipWith_add (hc.length.trans hk.length.symm) j

theorem sum_credited : (credited k credit).sum = 16 := by
  have h := List.sum_add_sum_eq_sum_zipWith_of_length_eq credit k (hc.length.trans hk.length.symm)
  rw [hc.sum, hk.sum] at h
  exact h.symm

/-- Credits that sum to 16 are not all 0 or less. -/
theorem largest_credited_pos : 0 < (credited k credit).getD (largestCredit (credited k credit)) 0 := by
  by_contra hle
  have hall : ∀ v ∈ credited k credit, v ≤ 0 :=
    forall_mem_of_getD fun j hj => (le_largestCredit _ (length_credited hk hc ▸ hj)).trans (not_lt.mp hle)
  have hsum := List.sum_le_card_nsmul _ 0 hall
  rw [sum_credited hk hc, smul_zero] at hsum
  omega

theorem getD_debited (j : Nat) : (debited (credited k credit)).getD j 0
    = credit.getD j 0 + k.getD j 0 - if j = largestCredit (credited k credit) then 16 else 0 := by
  have hlt : largestCredit (credited k credit) < (credited k credit).length := length_credited hk hc ▸ largestCredit_lt _
  rw [debited, getD_set _ hlt]
  split
  next h => rw [← h, getD_credited hk hc]
  next => rw [getD_credited hk hc, sub_zero]

theorem balanced_debited : Balanced (debited (credited k credit)) := by
  have hlen := length_credited hk hc
  have hlt : largestCredit (credited k credit) < (credited k credit).length := hlen ▸ largestCredit_lt _
  refine ⟨(List.length_set ..).trans hlen, ?_, fun j => ?_⟩
  · rw [debited, List.sum_set', dif_pos hlt, List.getD_eq_getElem _ _ hlt, sum_credited hk hc]
    omega
  · have hpos := largest_credited_pos hk hc
    rw [getD_credited hk hc] at hpos
    rw [getD_debited hk hc]
    have hshare := hk.nonneg j
    have hcredit := hc.bound j
    split
    next h => rw [← h] at hpos; omega
    next => omega

end Position

/-! ## The placement -/

/-- The entry that a position belongs to: a slot's number, or 8 where it is free (R115). -/
def entryOf : Option (Fin 8) → Nat
  | some sl => sl.val
  | none => 8

theorem entryOf_owner {i : Nat} (hi : i < 9) : entryOf (if h : i < 8 then some ⟨i, h⟩ else none) = i := by
  split
  · rfl
  · show 8 = i
    omega

theorem map_entryOf_placeFrom (k credit : List Int) (n : Nat) : (placeFrom k credit (n + 1)).map entryOf
    = largestCredit (credited k credit) :: (placeFrom k (debited (credited k credit)) n).map entryOf := by
  simp only [placeFrom, List.map_cons]
  rw [entryOf_owner (largestCredit_lt _)]
  rfl

theorem length_placeFrom (k credit : List Int) (n : Nat) : (placeFrom k credit n).length = n := by
  induction n generalizing credit with
  | zero => rfl
  | succ n ih => simp [placeFrom, ih]

/-- After so many positions every entry's credit has grown by its share for each, and fallen by 16 for each that it got. -/
theorem credits_after {k : List Int} (hk : Shares k) (n : Nat) {credit : List Int} (hc : Balanced credit) :
    ∃ last, Balanced last ∧ ∀ j, last.getD j 0
      = credit.getD j 0 + n * k.getD j 0 - 16 * (((placeFrom k credit n).map entryOf).count j : Int) := by
  induction n generalizing credit with
  | zero => exact ⟨credit, hc, fun j => by simp [placeFrom]⟩
  | succ n ih =>
    obtain ⟨last, hlast, hcredits⟩ := ih (balanced_debited hk hc)
    refine ⟨last, hlast, fun j => ?_⟩
    rw [hcredits, getD_debited hk hc, map_entryOf_placeFrom, List.count_cons]
    simp only [beq_iff_eq, eq_comm (a := j)]
    push_cast
    split <;> ring

/-- Over a revolution every entry gets as many positions as its share says: its credit is a multiple of 16, none is as low as -16, and
they sum to 0, so each is 0. -/
theorem count_placeFrom {k : List Int} (hk : Shares k) {j : Nat} (hj : j < 9) :
    (((placeFrom k (List.replicate 9 0) 16).map entryOf).count j : Int) = k.getD j 0 := by
  obtain ⟨last, ⟨hlen, hsum, hbound⟩, hcredits⟩ := credits_after hk 16 balanced_zero
  have hzero (i : Nat) : (List.replicate 9 (0 : Int)).getD i 0 = 0 := by
    rw [List.getD_eq_getElem?_getD, List.getElem?_replicate]
    split <;> rfl
  have hnonneg : ∀ v ∈ last, 0 ≤ v := forall_mem_of_getD fun i _ => by
    have hi := hbound i
    rw [hcredits i, hzero] at hi ⊢
    omega
  have hj' : j < last.length := hlen ▸ hj
  have hle : last.getD j 0 ≤ last.sum := List.single_le_sum hnonneg _ (by rw [List.getD_eq_getElem _ _ hj']; exact List.getElem_mem hj')
  have hge := hnonneg (last.getD j 0) (by rw [List.getD_eq_getElem _ _ hj']; exact List.getElem_mem hj')
  rw [hsum, hcredits j, hzero] at hle
  rw [hcredits j, hzero] at hge
  omega

/-! ## The shares of WHEEL -/

/-- The shares of WHEEL with that of the free positions (R115). -/
def sharesOf (w : Word) : List Int := ((List.range 8).map fun i => (wheelShare w i : Int)) ++ [16 - (wheelSum w : Int)]

theorem getD_sharesOf (w : Word) (sl : Fin 8) : (sharesOf w).getD sl.val 0 = wheelShare w sl := by
  rw [sharesOf, List.getD_append _ _ _ _ (by simp), List.getD_eq_getElem _ _ (by simp)]
  simp

theorem shares_sharesOf {w : Word} (h : wheelSum w ≤ 16) : Shares (sharesOf w) := by
  have hcast : ((List.range 8).map fun i => (wheelShare w i : Int)).sum = (wheelSum w : Int) := by
    rw [wheelSum, Nat.cast_list_sum, List.map_map]
    rfl
  refine ⟨by simp [sharesOf], ?_, fun j => ?_⟩
  · rw [sharesOf, List.sum_append, hcast]
    simp
  · rcases Nat.lt_trichotomy j 8 with hj | rfl | hj
    · rw [getD_sharesOf w ⟨j, hj⟩]
      omega
    · rw [sharesOf, List.getD_append_right _ _ _ _ (by simp)]
      simpa using h
    · rw [List.getD_eq_default _ _ (by simp [sharesOf]; omega)]

/-- The positions of a slot are those of its entry. -/
theorem length_filter_owner (l : List (Option (Fin 8))) (sl : Fin 8) :
    (l.filter fun o => decide (o = some sl)).length = (l.map entryOf).count sl.val := by
  rw [← List.countP_eq_length_filter, List.count, List.countP_map]
  refine List.countP_congr fun o _ => ?_
  cases o with
  | none => simp [entryOf]; omega
  | some i => simp [entryOf, Fin.ext_iff]

/-- Settles O28: credits stay balanced, so that after a revolution every entry has what its share says. -/
theorem wheelPlacement : Obligations.WheelPlacement := by
  intro v sl h
  refine ⟨length_placeFrom _ _ 16, ?_⟩
  have hcount := count_placeFrom (shares_sharesOf h) (j := sl.val) (by omega)
  rw [getD_sharesOf] at hcount
  rw [length_filter_owner]
  exact_mod_cast hcount

end Sys2Proof.Proofs
end

section
/-! PROOFS. Images of contexts (R122, R124): what a spill stores is what a fill reads. -/

namespace Sys2Proof.Proofs

open Sys2Proof.Machine Sys2Proof.Claims

/-! ## Fields of a word -/

theorem getLsbD_at (v lo : Nat) {i : Nat} (hi : i < 32) : (at_ v lo).getLsbD i = (decide (lo ≤ i) && v.testBit (i - lo)) := by
  rw [at_, BitVec.getLsbD_ofNat, decide_eq_true hi, Bool.true_and, Nat.testBit_shiftLeft]

/-- A number placed in a word is read from its field. -/
theorem extract_at_self {n lo : Nat} (v : BitVec n) (h : lo + n ≤ 32) : (at_ v.toNat lo).extractLsb' lo n = v := by
  refine BitVec.eq_of_getLsbD_eq fun i hi => ?_
  rw [BitVec.getLsbD_extractLsb', getLsbD_at _ _ (by omega), Nat.add_sub_cancel_left, BitVec.testBit_toNat]
  simp [hi]

/-- A field above a placed number is 0. -/
theorem extract_at_below {m lo lo' n : Nat} (v : BitVec m) (h : lo' + m ≤ lo) (hn : lo + n ≤ 32) :
    (at_ v.toNat lo').extractLsb' lo n = 0#n := by
  refine BitVec.eq_of_getLsbD_eq fun i hi => ?_
  rw [BitVec.getLsbD_extractLsb', getLsbD_at _ _ (by omega), BitVec.testBit_toNat, BitVec.getLsbD_of_ge v _ (by omega)]
  simp

/-- A field below a placed number is 0. -/
theorem extract_at_above {lo lo' n : Nat} (v : Nat) (h : lo + n ≤ lo') (hn : lo + n ≤ 32) : (at_ v lo').extractLsb' lo n = 0#n := by
  refine BitVec.eq_of_getLsbD_eq fun i hi => ?_
  rw [BitVec.getLsbD_extractLsb', getLsbD_at _ _ (by omega), decide_eq_false (by omega : ¬lo' ≤ lo + i)]
  simp

/-- A flag is a number of one bit. -/
theorem flagAt_eq_at (b : Bool) (n : Nat) : flagAt b n = at_ (BitVec.ofBool b).toNat n := by
  cases b <;> simp [flagAt, at_]

theorem bit_eq_extract (w : Word) (i : Nat) : bit w i = (w.extractLsb' i 1).getLsbD 0 := by
  simp [bit, BitVec.testBit_toNat]

/-- A field read as a number of its width. -/
theorem ofNat_fld (w : Word) (n lo : Nat) {hi : Nat} (hn : hi + 1 - lo = n) : BitVec.ofNat n (fld w hi lo) = w.extractLsb' lo n :=
  BitVec.eq_of_toNat_eq (by simp [fld, hn])

/-- THREAD_STATE is read as it was written (R133). -/
theorem ofWord_toWord (t : ThreadState) : ThreadState.ofWord t.toWord = t := by
  rw [ThreadState.ofWord, ofNat_fld _ 7 16 rfl, ofNat_fld _ 2 12 rfl, ofNat_fld _ 6 6 rfl]
  simp (disch := omega) only [bit_eq_extract, ThreadState.toWord, flagAt_eq_at, BitVec.extractLsb'_or, extract_at_self, extract_at_below,
    extract_at_above, BitVec.or_zero, BitVec.zero_or, BitVec.getLsbD_ofBool]
  simp

/-- TENANT is read as it was written (R132). -/
theorem fields_tenantWord (home cur : TenantId) :
    BitVec.ofNat 12 (fld (tenantWord home cur) 27 16) = home ∧ BitVec.ofNat 12 (fld (tenantWord home cur) 11 0) = cur := by
  rw [ofNat_fld _ 12 16 rfl, ofNat_fld _ 12 0 rfl]
  simp (disch := omega) [tenantWord, BitVec.extractLsb'_or, extract_at_self, extract_at_below, extract_at_above]

/-- PROG is read as it was written (R143). -/
theorem fields_progWord (x : Ctx) : bit (progWord x) 31 = x.progValid ∧ (progWord x).setWidth 30 = x.progDone := by
  rw [bit_eq_extract, BitVec.setWidth_eq_extractLsb' (by decide)]
  simp (disch := omega) only [progWord, flagAt_eq_at, BitVec.extractLsb'_or, extract_at_self, extract_at_below, extract_at_above,
    BitVec.or_zero, BitVec.zero_or, BitVec.getLsbD_ofBool]
  simp

/-! ## Words with their tags in the coves' SRAM -/

/-- A span of the coves' SRAM (R39). -/
def InSram (pa n : Nat) : Prop := 0xE000000000 ≤ pa ∧ pa + n ≤ 0xE002000000

theorem region_of_inSram {pa n : Nat} (h : InSram pa n) (hn : 0 < n) : ∃ m, region pa = .sram m := by
  obtain ⟨h1, h2⟩ := h
  refine ⟨(pa - 0xE000000000) / 0x200000, ?_⟩
  rw [region, if_neg (by omega), if_pos (by omega)]

/-- Words stored with their tags from an address on. -/
def storeCells (s : State) (pa : Nat) : List (Word × Tag) → State
  | [] => s
  | c :: r => storeCells (s.putWord pa c.1 c.2) (pa + 4) r

/-- The words and the tags from an address on are those of a list. -/
def CellsAt (s : State) (pa : Nat) : List (Word × Tag) → Prop
  | [] => True
  | c :: r => (s.wordAt pa = c.1 ∧ s.tagAt pa = c.2) ∧ CellsAt s (pa + 4) r

theorem storeCells_append (s : State) (pa : Nat) (l m : List (Word × Tag)) :
    storeCells s pa (l ++ m) = storeCells (storeCells s pa l) (pa + 4 * l.length) m := by
  induction l generalizing s pa with
  | nil => rfl
  | cons c r ih =>
    simp only [List.cons_append, storeCells, ih, List.length_cons]
    congr 1
    omega

theorem cellsAt_append (s : State) (pa : Nat) (l m : List (Word × Tag)) :
    CellsAt s pa (l ++ m) ↔ CellsAt s pa l ∧ CellsAt s (pa + 4 * l.length) m := by
  induction l generalizing pa with
  | nil => simp [CellsAt]
  | cons c r ih =>
    rw [List.cons_append, CellsAt, CellsAt, ih, List.length_cons, and_assoc (c := CellsAt s _ m),
      show pa + 4 + 4 * r.length = pa + 4 * (r.length + 1) by omega]

/-- A store of a word into SRAM where no injection waits (R43). -/
theorem putWord_sram {s : State} {pa n : Nat} (hr : region pa = .sram n) (hq : quiet s) (w : Word) (t : Tag) :
    s.putWord pa w t = ((s.putBytes4 pa w).putTag pa t).putEcc pa Ecc.clean :=
  (putWord_of_ring (.inl ⟨n, hr⟩) s w t).trans (injectStore_quiet (s := ((s.putBytes4 pa w).putTag pa t).putEcc pa Ecc.clean) pa hq)

/-- What a store of cells leaves: the cells, and everything else but check bits and tags as it was. -/
structure CellsStored (s t : State) (pa : Nat) (l : List (Word × Tag)) : Prop where
  rest : { t with mem := s.mem, tags := s.tags, ecc := s.ecc } = s
  bytes : ∀ a, ¬(pa ≤ a ∧ a < pa + 4 * l.length) → t.byteAt a = s.byteAt a
  below : ∀ a, a + 4 ≤ pa → t.tagAt a = s.tagAt a
  cells : CellsAt t pa l

/-- Cells that are stored into SRAM are there. The tags need no order of their table, as no stored word is Unwritten. -/
theorem cellsStored_storeCells {l : List (Word × Tag)} (hl : ∀ c ∈ l, c.2 ≠ .unwritten) {s : State} {pa : Nat}
    (hin : InSram pa (4 * l.length)) (hq : quiet s) (hwf : Memory.wf s.mem = true) : CellsStored s (storeCells s pa l) pa l := by
  induction l generalizing s pa with
  | nil => exact ⟨rfl, fun _ _ => rfl, fun _ _ => rfl, trivial⟩
  | cons c r ih =>
    obtain ⟨hc, hr⟩ := List.forall_mem_cons.mp hl
    simp only [List.length_cons] at hin ⊢
    obtain ⟨m, hm⟩ := region_of_inSram hin (by omega)
    obtain ⟨hlo, hhi⟩ := hin
    have hput := putWord_sram hm hq c.1 c.2
    generalize hs1 : s.putWord pa c.1 c.2 = s1 at hput
    have hq1 : quiet s1 := by rw [hput]; exact hq
    have hwf1 : Memory.wf s1.mem = true := by rw [hput]; exact Laws.wf_putBytes4 s pa c.1 hwf
    obtain ⟨hrest, hbytes, hbelow, hcells⟩ := ih hr (s := s1) (pa := pa + 4) ⟨by omega, by omega⟩ hq1 hwf1
    have hword : s1.wordAt pa = c.1 := by rw [hput]; exact Laws.wordAt_putBytes4_self s pa c.1 hwf
    have htag : s1.tagAt pa = c.2 := by rw [hput]; exact get_set_of_ne tagDefault s.tags (pa / 4) hc
    have hother (a : Nat) (ha : ¬(pa ≤ a ∧ a < pa + 4)) : s1.byteAt a = s.byteAt a := by
      rw [hput]; exact Laws.byteAt_putBytes4_ne s pa c.1 a ha
    have hothertag (a : Nat) (ha : a + 4 ≤ pa) : s1.tagAt a = s.tagAt a := by
      rw [hput]; exact Laws.tagAt_putTag_ne (s.putBytes4 pa c.1) c.2 (by omega)
    rw [storeCells, hs1]
    refine ⟨?_, fun a ha => ?_, fun a ha => ?_, ⟨⟨?_, ?_⟩, hcells⟩⟩
    · have hrest1 : { s1 with mem := s.mem, tags := s.tags, ecc := s.ecc } = s := by rw [hput]; rfl
      exact (congrArg (fun u : State => { u with mem := s.mem, tags := s.tags, ecc := s.ecc }) hrest).trans hrest1
    · rw [List.length_cons] at ha
      rw [hbytes a (by omega), hother a (by omega)]
    · rw [hbelow a (by omega), hothertag a ha]
    · rw [← hword, State.wordAt, State.wordAt, hbytes _ (by omega), hbytes _ (by omega), hbytes _ (by omega), hbytes _ (by omega)]
    · rw [hbelow pa (le_refl _), htag]

/-! ## Lists of data words and of capabilities -/

/-- Data words as they are stored (R43). -/
def wordCells (l : List Word) : List (Word × Tag) := l.map fun w => (w, .written)

/-- The tag of both words of a stored capability (R43). -/
def capTag (c : Cap) : Tag := if c.tag then .capability else .written

/-- Capabilities as they are stored (R43). -/
def capCells : List Cap → List (Word × Tag)
  | [] => []
  | c :: r => (c.w0, capTag c) :: (c.w1, capTag c) :: capCells r

theorem length_wordCells (l : List Word) : (wordCells l).length = l.length := List.length_map ..

theorem length_capCells (l : List Cap) : (capCells l).length = 2 * l.length := by
  induction l with
  | nil => rfl
  | cons c r ih => simp only [capCells, List.length_cons, ih]; omega

theorem written_wordCells (l : List Word) : ∀ c ∈ wordCells l, c.2 ≠ Tag.unwritten := by simp [wordCells]

theorem written_capCells (l : List Cap) : ∀ c ∈ capCells l, c.2 ≠ Tag.unwritten := by
  have htag (c : Cap) : capTag c ≠ .unwritten := by unfold capTag; split <;> decide
  induction l with
  | nil => simp [capCells]
  | cons c r ih => exact List.forall_mem_cons.mpr ⟨htag c, List.forall_mem_cons.mpr ⟨htag c, ih⟩⟩

theorem storeWords_eq (s : State) (pa : Nat) (l : List Word) : s.storeWords pa l = storeCells s pa (wordCells l) := by
  induction l generalizing s pa with
  | nil => rfl
  | cons w r ih => exact ih _ _

theorem storeCaps_eq {pa : Nat} {l : List Cap} (hin : InSram pa (8 * l.length)) (s : State) :
    s.storeCaps pa l = storeCells s pa (capCells l) := by
  induction l generalizing s pa with
  | nil => rfl
  | cons c r ih =>
    simp only [List.length_cons] at hin
    obtain ⟨m, hm⟩ := region_of_inSram hin (by omega)
    have hpair : s.storeCap pa c = (s.putWord pa c.w0 (capTag c)).putWord (pa + 4) c.w1 (capTag c) := by
      simp only [State.storeCap, State.putPair, hm, capTag]
    rw [State.storeCaps, hpair, ih ⟨by unfold InSram at hin; omega, by unfold InSram at hin; omega⟩]
    rfl

/-- Stored data words are read back. -/
theorem wordAt_of_cellsAt {s : State} {pa : Nat} {l : List Word} (h : CellsAt s pa (wordCells l)) {i : Nat} (hi : i < l.length) :
    s.wordAt (pa + 4 * i) = l[i] := by
  induction l generalizing pa i with
  | nil => cases hi
  | cons w r ih =>
    obtain ⟨⟨hw, -⟩, hr⟩ := h
    cases i with
    | zero => exact hw
    | succ i => rw [List.getElem_cons_succ, ← ih hr (by simpa using hi)]; congr 1; omega

/-- Stored capabilities are read back with their tags (R16). -/
theorem capAt_of_cellsAt {s : State} {pa : Nat} {l : List Cap} (h : CellsAt s pa (capCells l)) {i : Nat} (hi : i < l.length) :
    s.capAt (pa + 8 * i) = l[i] := by
  induction l generalizing pa i with
  | nil => cases hi
  | cons c r ih =>
    obtain ⟨⟨hw0, ht0⟩, ⟨hw1, ht1⟩, hr⟩ := h
    cases i with
    | zero =>
      obtain ⟨w0, w1, tag⟩ := c
      simp only [Nat.mul_zero, Nat.add_zero, State.capAt, hw0, hw1, ht0, ht1, List.getElem_cons_zero, capTag]
      cases tag <;> rfl
    | succ i => rw [List.getElem_cons_succ, ← ih hr (by simpa using hi)]; congr 1; omega

/-! ## The image -/

/-- An image lies in its cove's SRAM (R122). -/
theorem inSram_image {k sl lv : Nat} (hk : k < 128) (hsl : sl < 8) (hlv : lv < 3) : InSram (imageAddr k sl lv) 0x100 := by
  unfold InSram imageAddr coveBase
  omega

/-- The 64 words of the image of a context (R122). -/
def imageCells (x : Ctx) : List (Word × Tag) :=
  wordCells x.d.toList ++ (capCells (x.c.toList ++ [x.pcc])
    ++ (wordCells [x.flg.setWidth 32, x.addrmode.setWidth 32, progWord x, x.ts.toWord, tenantWord x.home x.cur, 0]
      ++ (capCells [x.tideAuth, x.tvec, x.xstk, x.entry] ++ wordCells x.record.toList)))

theorem length_imageCells (x : Ctx) : (imageCells x).length = 64 := by
  simp [imageCells, length_wordCells, length_capCells]

theorem written_imageCells (x : Ctx) : ∀ c ∈ imageCells x, c.2 ≠ Tag.unwritten := by
  simp only [imageCells, List.forall_mem_append]
  exact ⟨written_wordCells _, written_capCells _, written_wordCells _, written_capCells _, written_wordCells _⟩

theorem writeImage_eq {k sl lv : Nat} (hk : k < 128) (hsl : sl < 8) (hlv : lv < 3) (s : State) (x : Ctx) :
    s.writeImage k sl lv x = storeCells s (imageAddr k sl lv) (imageCells x) := by
  obtain ⟨hlo, hhi⟩ := inSram_image hk hsl hlv
  have hcaps : InSram (imageAddr k sl lv + 0x40) (8 * (x.c.toList ++ [x.pcc]).length) := by
    simp only [List.length_append, Vector.length_toList, List.length_singleton]
    exact ⟨by omega, by omega⟩
  have htail : InSram (imageAddr k sl lv + 0xA0) (8 * [x.tideAuth, x.tvec, x.xstk, x.entry].length) := ⟨by omega, by simp; omega⟩
  simp only [State.writeImage, storeWords_eq, storeCaps_eq hcaps, storeCaps_eq htail, imageCells, storeCells_append, length_wordCells,
    length_capCells, List.length_append, Vector.length_toList, List.length_cons, List.length_nil, Nat.add_assoc, Nat.reduceMul, Nat.reduceAdd]

/-- What a write of an image leaves, where no injection waits. -/
theorem cellsStored_writeImage {k sl lv : Nat} (hk : k < 128) (hsl : sl < 8) (hlv : lv < 3) {s : State} (hq : quiet s)
    (hwf : Memory.wf s.mem = true) (x : Ctx) : CellsStored s (s.writeImage k sl lv x) (imageAddr k sl lv) (imageCells x) := by
  rw [writeImage_eq hk hsl hlv]
  refine cellsStored_storeCells (written_imageCells x) ?_ hq hwf
  rw [length_imageCells]
  exact inSram_image hk hsl hlv

/-- A vector of stored data words is read back. -/
theorem ofFn_wordAt {t : State} {pa n : Nat} {v : Vector Word n} (h : CellsAt t pa (wordCells v.toList)) :
    (Vector.ofFn fun i : Fin n => t.wordAt (pa + 4 * i.val)) = v := Vector.ext fun i hi => by
  rw [Vector.getElem_ofFn, wordAt_of_cellsAt h (by simpa using hi), Vector.getElem_toList]

/-- A vector of stored capabilities and one behind it are read back. -/
theorem ofFn_capAt {t : State} {pa n : Nat} {v : Vector Cap n} {c : Cap} (h : CellsAt t pa (capCells (v.toList ++ [c]))) :
    (Vector.ofFn fun i : Fin n => t.capAt (pa + 8 * i.val)) = v ∧ t.capAt (pa + 8 * n) = c := by
  refine ⟨Vector.ext fun i hi => ?_, ?_⟩
  · rw [Vector.getElem_ofFn, capAt_of_cellsAt h (by simp; omega), List.getElem_append_left (by simpa using hi), Vector.getElem_toList]
  · rw [capAt_of_cellsAt h (by simp), List.getElem_append_right (by simp)]
    simp

/-- The words of an image are read as the context they are of (R122). -/
theorem imageCtx_of_cellsAt {t : State} {k sl lv : Nat} {x : Ctx} (h : CellsAt t (imageAddr k sl lv) (imageCells x)) :
    t.imageCtx k sl lv = x := by
  simp only [imageCells, cellsAt_append, length_wordCells, length_capCells, List.length_append, Vector.length_toList, List.length_cons,
    List.length_nil, Nat.add_assoc, Nat.reduceMul, Nat.reduceAdd] at h
  unfold State.imageCtx
  generalize imageAddr k sl lv = a at h ⊢
  obtain ⟨hd, hc, hsys, hcaps, hrecord⟩ := h
  obtain ⟨hregs, hpcc⟩ := ofFn_capAt hc
  have hword (i : Nat) (hi : i < 6) := wordAt_of_cellsAt hsys (i := i) hi
  have hcap (i : Nat) (hi : i < 4) := capAt_of_cellsAt hcaps (i := i) hi
  have hpcc : t.capAt (a + 0x80) = x.pcc := hpcc
  have hflg : t.wordAt (a + 0x88) = x.flg.setWidth 32 := hword 0 (by decide)
  have hmode : t.wordAt (a + 0x8C) = x.addrmode.setWidth 32 := hword 1 (by decide)
  have hprog : t.wordAt (a + 0x90) = progWord x := hword 2 (by decide)
  have hts : t.wordAt (a + 0x94) = x.ts.toWord := hword 3 (by decide)
  have hten : t.wordAt (a + 0x98) = tenantWord x.home x.cur := hword 4 (by decide)
  have htide : t.capAt (a + 0xA0) = x.tideAuth := hcap 0 (by decide)
  have htvec : t.capAt (a + 0xA8) = x.tvec := hcap 1 (by decide)
  have hxstk : t.capAt (a + 0xB0) = x.xstk := hcap 2 (by decide)
  have hentry : t.capAt (a + 0xB8) = x.entry := hcap 3 (by decide)
  obtain ⟨hhome, hcur⟩ := fields_tenantWord x.home x.cur
  obtain ⟨hvalid, hdone⟩ := fields_progWord x
  simp only [ofFn_wordAt hd, hregs, ofFn_wordAt hrecord, hpcc, hflg, hmode, hprog, hts, hten, htide, htvec, hxstk, hentry, hhome, hcur,
    hvalid, hdone, ofWord_toWord, BitVec.setWidth_setWidth_of_le, BitVec.setWidth_eq, Nat.reduceLeDiff]

/-- An image is read as what was written to it (R122, R124). -/
theorem imageCtx_writeImage {k sl lv : Nat} (hk : k < 128) (hsl : sl < 8) (hlv : lv < 3) {s : State} (hq : quiet s)
    (hwf : Memory.wf s.mem = true) (x : Ctx) : (s.writeImage k sl lv x).imageCtx k sl lv = x :=
  imageCtx_of_cellsAt (cellsStored_writeImage hk hsl hlv hq hwf x).cells

/-- Settles O27: the cells of an image are read back field by field, and no byte outside it is stored to. -/
theorem imageRoundTrip : Obligations.ImageRoundTrip := by
  intro s k sl lv x hwf hq
  have hbytes := (cellsStored_writeImage k.isLt sl.isLt lv.isLt hq hwf x).bytes
  rw [length_imageCells] at hbytes
  exact ⟨imageCtx_writeImage k.isLt sl.isLt lv.isLt hq hwf x, hbytes⟩

end Sys2Proof.Proofs
end

section
/-! PROOFS. WHEEL and the bank window of a core page (R114, R117, R124 to R126). -/

namespace Sys2Proof.Proofs

open Sys2Proof.Machine Sys2Proof.Claims

/-! ## Changes of one core and of memory -/

theorem onlyCoreAndMemory_trans {s t u : State} {k : Nat} (h : OnlyCoreAndMemory s t k) (g : OnlyCoreAndMemory t u k) :
    OnlyCoreAndMemory s u k := by
  obtain ⟨hrest, hcores⟩ := h
  obtain ⟨grest, gcores⟩ := g
  refine ⟨?_, fun j hj => (gcores j hj).trans (hcores j hj)⟩
  exact (congrArg (fun r : State => { r with cores := s.cores, mem := s.mem, tags := s.tags, ecc := s.ecc }) grest).trans hrest

theorem onlyCoreAndMemory_modCore (s : State) (k : Nat) (f : Core → Core) : OnlyCoreAndMemory s (s.modCore k f) k :=
  ⟨rfl, fun j hj => by rw [Laws.core_modCore, if_neg hj]⟩

theorem cores_of_cellsStored {s t : State} {pa : Nat} {l : List (Word × Tag)} (h : CellsStored s t pa l) : t.cores = s.cores := by
  have hcores := congrArg State.cores h.rest
  exact hcores

/-- A write of an image leaves every core. -/
theorem core_writeImage (s : State) (k : Nat) (sl lv : Nat) (x : Ctx) (j : Nat) : (s.writeImage k sl lv x).core j = s.core j := by
  have hwords (l : List Word) : ∀ (u : State) (pa : Nat), (u.storeWords pa l).cores = u.cores := by
    induction l with
    | nil => exact fun _ _ => rfl
    | cons w r ih => exact fun u pa => (ih _ _).trans (cores_putWord u pa w .written)
  have hcaps (l : List Cap) : ∀ (u : State) (pa : Nat), (u.storeCaps pa l).cores = u.cores := by
    induction l with
    | nil => exact fun _ _ => rfl
    | cons c r ih => exact fun u pa => (ih _ _).trans (cores_putPair u pa _ _ _ _)
  simp only [State.core, State.writeImage, hwords, hcaps]

theorem onlyCoreAndMemory_writeImage {s : State} {k sl lv : Nat} (hk : k < 128) (hsl : sl < 8) (hlv : lv < 3) (hq : quiet s)
    (hwf : Memory.wf s.mem = true) (x : Ctx) : OnlyCoreAndMemory s (s.writeImage k sl lv x) k := by
  have hrest := (cellsStored_writeImage hk hsl hlv hq hwf x).rest
  exact ⟨congrArg (fun r : State => { r with cores := s.cores }) hrest, fun j _ => core_writeImage s k sl lv x j⟩

/-! ## A write to a core page by its owner -/

theorem ifLeaderPage_own {s : State} {k : Nat} (h : ownPage s k) (f : State → State) : s.ifLeaderPage k f = f s := if_pos h

theorem ifOwner_owns {s : State} {who : Agent} {page : Nat} (h : Owns s who page) (f : State → State) : s.ifOwner who page f = f s := by
  obtain ⟨hq, hown⟩ := h
  simp [State.ifOwner, Laws.takeInj_quiet _ _ _ _ hq, hown]

theorem wheelWrite : WheelWrite := by
  intro s who k v howns hpage
  have hexec : exec (.wheelWrite who k v) s = .next (s.wheelStore k v) := by
    show Host.Outcome.next _ = _
    rw [ifLeaderPage_own hpage, ifOwner_owns howns]
  refine ⟨fun hle => ?_, fun hlt => ?_⟩
  · rw [State.wheelStore, if_neg (Nat.not_lt.mpr hle)] at hexec
    exact ⟨_, hexec, onlyCore_modCore s k _, Laws.core_modCore_self s k _⟩
  · rw [State.wheelStore, if_pos hlt] at hexec
    exact ⟨_, hexec, rfl⟩

/-! ## Commands of the bank window -/

/-- SLOT and LEVEL of the bank window as a command names them (R125). -/
def addressed (s : State) (k : Nat) (sl : Fin 8) (lv : Fin 3) : State :=
  s.modCore k fun c => { c with bankSlot := sl, bankLevel := BitVec.ofNat 2 lv.val }

/-- A command of the bank window has done its work on a state: SLOT and LEVEL stand, and only the core and memory have changed. -/
structure Working (s t : State) (k : Nat) (sl : Fin 8) (lv : Fin 3) : Prop where
  only : OnlyCoreAndMemory s t k
  slot : (t.core k).bankSlot = sl
  level : (t.core k).bankLevel = BitVec.ofNat 2 lv.val

theorem working_addressed (s : State) (k : Nat) (sl : Fin 8) (lv : Fin 3) : Working s (addressed s k sl lv) k sl lv :=
  ⟨onlyCoreAndMemory_modCore s k _, by simp [addressed], by simp [addressed]⟩

theorem working_modCore {s t : State} {k : Nat} {sl : Fin 8} {lv : Fin 3} (h : Working s t k sl lv) {f : Core → Core}
    (hslot : ∀ c, (f c).bankSlot = c.bankSlot) (hlevel : ∀ c, (f c).bankLevel = c.bankLevel) : Working s (t.modCore k f) k sl lv :=
  ⟨onlyCoreAndMemory_trans h.only (onlyCoreAndMemory_modCore t k f), by rw [Laws.core_modCore_self, hslot, h.slot],
    by rw [Laws.core_modCore_self, hlevel, h.level]⟩

theorem working_modSlot {s t : State} {k : Nat} {sl : Fin 8} {lv : Fin 3} (h : Working s t k sl lv) (i : Fin 8) (f : Slot → Slot) :
    Working s (t.modSlot k i f) k sl lv := working_modCore h (fun _ => rfl) fun _ => rfl

theorem working_runSlot {s t : State} {k : Nat} {sl : Fin 8} {lv : Fin 3} (h : Working s t k sl lv) (i : Fin 8) :
    Working s (t.runSlot k i) k sl lv := by
  unfold State.runSlot
  exact working_modSlot h i _

theorem working_writeImage {s t : State} {k : Nat} (hk : k < 128) {sl : Fin 8} {lv : Fin 3} (h : Working s t k sl lv) (hq : quiet t)
    (hwf : Memory.wf t.mem = true) {i j : Nat} (hi : i < 8) (hj : j < 3) (x : Ctx) : Working s (t.writeImage k i j x) k sl lv :=
  ⟨onlyCoreAndMemory_trans h.only (onlyCoreAndMemory_writeImage hk hi hj hq hwf x), by rw [core_writeImage, h.slot],
    by rw [core_writeImage, h.level]⟩

/-- An image is no core's. -/
theorem imageCtx_modCore (s : State) (j : Nat) (f : Core → Core) (k sl lv : Nat) : (s.modCore j f).imageCtx k sl lv = s.imageCtx k sl lv := rfl

theorem imageCtx_modSlot (s : State) (j : Nat) (i : Fin 8) (f : Slot → Slot) (k sl lv : Nat) :
    (s.modSlot j i f).imageCtx k sl lv = s.imageCtx k sl lv := rfl

theorem imageCtx_bankResult (s : State) (j r k sl lv : Nat) : (s.bankResult j r).imageCtx k sl lv = s.imageCtx k sl lv := rfl

theorem core_bankResult (s : State) (k r : Nat) : (s.bankResult k r).core k = { s.core k with bankResult := BitVec.ofNat 2 r } :=
  Laws.core_modCore_self s k _

theorem slot_bankResult (s : State) (k r : Nat) (sl : Fin 8) : ((s.bankResult k r).core k).slot sl = (s.core k).slot sl := by
  rw [core_bankResult]; rfl

theorem ctx_bankResult (s : State) (k r : Nat) (sl : Fin 8) (lv : Fin 3) : ((s.bankResult k r).core k).ctx sl lv = (s.core k).ctx sl lv := by
  rw [core_bankResult]; rfl

theorem bankDone_bankResult {s t : State} {k : Nat} {sl : Fin 8} {lv : Fin 3} (h : Working s t k sl lv) :
    BankDone (t.bankResult k 0) k sl (BitVec.ofNat 2 lv.val) 0 ∧ OnlyCoreAndMemory s (t.bankResult k 0) k := by
  rw [BankDone, core_bankResult]
  exact ⟨⟨rfl, h.slot, h.level⟩, onlyCoreAndMemory_trans h.only (onlyCoreAndMemory_modCore t k _)⟩

section Window

variable {s : State} {who : Agent} {k : Fin 128} {sl : Fin 8} {lv : Fin 3} (howns : Owns s who (corePage k)) (hpage : ownPage s k)
  (hjob : (s.core k).arch.bankJob = none)
include howns hpage

theorem bankPage_own (cmd lv : Nat) : s.bankPage who k cmd lv sl = s.bankCommand k cmd lv sl := by
  rw [State.bankPage, ifLeaderPage_own hpage, ifOwner_owns howns]

include hjob

/-- What a command does while the window is not BUSY (R125). -/
theorem bankPage_open :
    s.bankPage who k 1 (BitVec.ofNat 2 lv.val).toNat sl = (addressed s k sl lv).bankHold k sl lv
      ∧ s.bankPage who k 2 (BitVec.ofNat 2 lv.val).toNat sl = (addressed s k sl lv).bankRelease k sl
      ∧ s.bankPage who k 3 (BitVec.ofNat 2 lv.val).toNat sl = (addressed s k sl lv).bankRun k sl
      ∧ s.bankPage who k 4 (BitVec.ofNat 2 lv.val).toNat sl = (addressed s k sl lv).bankCreate k sl lv
      ∧ s.bankPage who k 5 (BitVec.ofNat 2 lv.val).toNat sl = (addressed s k sl lv).bankDiscard k sl := by
  have hlv : (BitVec.ofNat 2 lv.val).toNat = lv.val := by simp; omega
  simp [bankPage_own howns hpage, hlv, State.bankCommand, hjob, addressed]

end Window

/-- A command of the bank window answers 0 with only its core and memory changed (R125). -/
def BankAnswers (i : Instr) (s : State) (k : Fin 128) (sl : Fin 8) (lv : Fin 3) (P : State → Prop) : Prop :=
  Answers i s fun t => BankDone t k sl (BitVec.ofNat 2 lv.val) 0 ∧ OnlyCoreAndMemory s t k ∧ P t

/-- A command that has done its work on a state answers 0. -/
theorem answers_bank {s u : State} {k : Fin 128} {sl : Fin 8} {lv : Fin 3} {i : Instr} {P : State → Prop}
    (hexec : exec i s = .next (u.bankResult k 0)) (hwork : Working s u k sl lv) (hP : P (u.bankResult k 0)) : BankAnswers i s k sl lv P := by
  obtain ⟨hdone, honly⟩ := bankDone_bankResult hwork
  exact ⟨_, hexec, hdone, honly, hP⟩

theorem core_addressed (s : State) (k : Nat) (sl : Fin 8) (lv : Fin 3) :
    (addressed s k sl lv).core k = { s.core k with bankSlot := sl, bankLevel := BitVec.ofNat 2 lv.val } :=
  Laws.core_modCore_self s k _

theorem slot_addressed (s : State) (k : Nat) (sl i : Fin 8) (lv : Fin 3) : ((addressed s k sl lv).core k).slot i = (s.core k).slot i := by
  rw [core_addressed]; rfl

theorem ctx_addressed (s : State) (k : Nat) (sl i : Fin 8) (lv j : Fin 3) :
    ((addressed s k sl lv).core k).ctx i j = (s.core k).ctx i j := by
  rw [core_addressed]; rfl

theorem curOf_addressed (s : State) (k : Nat) (sl i : Fin 8) (lv : Fin 3) : (addressed s k sl lv).curOf k i = s.curOf k i := by
  rw [State.curOf, State.anyCtx, ctx_addressed]; rfl

/-- The words that a group puts out beside its parcels go out where no injection waits (R122, R204). -/
theorem voted_quiet {s : State} (h : quiet s) (k : Nat) (f : State → State) : s.voted k f = f s := by
  simp only [State.voted, injectCompare_quiet h]

theorem exec_hold_quiet {s : State} (h : quiet s) (who : Agent) (k : Fin 128) (sl : Fin 8) (level : BitVec 2) :
    exec (.hold who k sl level) s = .next (s.bankPage who k 1 level.toNat sl) := by
  show Host.Outcome.next (if _ then s.voted k (fun t => t.bankPage who k 1 level.toNat sl) else s.bankPage who k 1 level.toNat sl) = _
  rw [voted_quiet h, ite_self]

/-- A slot that HOLD holds (R125). -/
def heldSlot (y : Slot) : Slot := if y.st = .held then y else { y with st := .held, prior := y.st, made := false }

/-- A core without a context that has gone to its image, a spill but for that of bank 0 (R125). -/
def droppedCtx (sl : Fin 8) (lv : Fin 3) (c : Core) : Core :=
  { c.dropCtx sl lv with spillCnt := if sl = 0 ∧ lv = 0 then c.spillCnt else satInc c.spillCnt }

theorem slot_droppedCtx (c : Core) (sl i : Fin 8) (lv : Fin 3) : (droppedCtx sl lv c).slot i = c.slot i := rfl

theorem ctx_droppedCtx (c : Core) (sl : Fin 8) (lv : Fin 3) : (droppedCtx sl lv c).ctx sl lv = none :=
  (ctx_dropCtx c sl sl lv lv).trans (if_pos ⟨rfl, rfl⟩)

/-- A context in its image and in no bank, its slot held (R125). -/
def evicted (s : State) (k : Nat) (sl : Fin 8) (lv : Fin 3) (x : Ctx) : State :=
  ((s.writeImage k sl lv x).modCore k (droppedCtx sl lv)).modSlot k sl heldSlot

theorem working_evicted {s t : State} {k : Nat} (hk : k < 128) {sl : Fin 8} {lv : Fin 3} (h : Working s t k sl lv) (hq : quiet t)
    (hwf : Memory.wf t.mem = true) (x : Ctx) : Working s (evicted t k sl lv x) k sl lv :=
  have hdrop := working_modCore (working_writeImage hk h hq hwf sl.isLt lv.isLt x) (f := droppedCtx sl lv) (fun _ => rfl) fun _ => rfl
  working_modSlot hdrop sl heldSlot

theorem bankHold_resident {s : State} {k : Nat} {sl : Fin 8} {lv : Fin 3} {x : Ctx} (hlv : lv ≤ ((s.core k).slot sl).top)
    (hx : (s.core k).ctx sl lv = some x)
    (hst : ((s.core k).slot sl).st = .sleeping ∨ (sl ≠ 0 ∧ (((s.core k).slot sl).st = .waiting ∨ ((s.core k).slot sl).st = .parked))) :
    s.bankHold k sl lv = (evicted s k sl lv x).bankResult k 0 := by
  have hexists : ¬(((s.core k).slot sl).st = .empty ∨ ((s.core k).slot sl).top < lv) := by
    rintro (he | hlt)
    · rcases hst with h | ⟨-, h | h⟩ <;> rw [h] at he <;> cases he
    · exact absurd hlv (not_le.mpr hlt)
  have hevent : ¬(sl = 0 ∧ ((s.core k).slot sl).st ≠ .sleeping ∧ ((s.core k).slot sl).st ≠ .held) := by
    rintro ⟨h0, hs, -⟩
    rcases hst with h | ⟨h, -⟩
    · exact hs h
    · exact h h0
  have hactive : ¬(((s.core k).slot sl).st = .active ∧ ((s.core k).slot sl).top = lv) := by
    rintro ⟨he, -⟩
    rcases hst with h | ⟨-, h | h⟩ <;> rw [h] at he <;> cases he
  rw [State.bankHold]
  dsimp only
  rw [if_neg hexists, if_neg hevent, if_neg hactive, State.evict, hx]
  rfl

/-- BUSY of the bank window (R125). -/
theorem bit_bankWord_of_busy {c : Core} (h : c.arch.bankJob.isSome = true) : bit c.bankWord 31 = true := by
  have hbusy : (flagAt true 31).toNat.testBit 31 = true := by decide
  simp only [bit, Core.bankWord, h, BitVec.toNat_or, Nat.testBit_or, hbusy, Bool.true_or]

/-- A thread that CREATE makes: its image, and its slot held with nothing in a bank (R125). -/
def created (s : State) (k : Nat) (sl : Fin 8) : State :=
  (s.writeImage k sl 0 Ctx.fresh).modSlot k sl fun _ => { Slot.fresh with st := .held, prior := .parked, made := true }

theorem bankCreate_empty {s : State} {k : Nat} {sl : Fin 8} (h : ((s.core k).slot sl).st = .empty) :
    s.bankCreate k sl 0 = (created s k sl).bankResult k 0 := by
  rw [State.bankCreate, if_neg (by rw [h]; decide)]
  rfl

section Window

variable {s : State} {who : Agent} {k : Fin 128} {sl : Fin 8} {lv : Fin 3} {x : Ctx} (howns : Owns s who (corePage k))
  (hpage : ownPage s k) (hjob : (s.core k).arch.bankJob = none)
include howns hpage hjob

theorem hold_resident (hwf : Memory.wf s.mem = true) (hlv : lv ≤ ((s.core k).slot sl).top) (hx : (s.core k).ctx sl lv = some x)
    (hst : ((s.core k).slot sl).st = .sleeping ∨ (sl ≠ 0 ∧ (((s.core k).slot sl).st = .waiting ∨ ((s.core k).slot sl).st = .parked))) :
    BankAnswers (.hold who k sl (BitVec.ofNat 2 lv.val)) s k sl lv fun t =>
      (t.core k).slot sl = { (s.core k).slot sl with st := .held, prior := ((s.core k).slot sl).st, made := false }
      ∧ (t.core k).ctx sl lv = none ∧ t.imageCtx k sl lv = x := by
  obtain ⟨hhold, -⟩ := bankPage_open (sl := sl) (lv := lv) howns hpage hjob
  have hq : quiet (addressed s k sl lv) := howns.1
  have himage := imageCtx_writeImage k.isLt sl.isLt lv.isLt (s := addressed s k sl lv) hq hwf x
  have hnot : ((s.core k).slot sl).st ≠ .held := by
    rcases hst with h | ⟨-, h | h⟩ <;> rw [h] <;> decide
  rw [bankHold_resident (x := x) (by rwa [slot_addressed]) (by rwa [ctx_addressed]) (by simpa only [slot_addressed] using hst)] at hhold
  refine answers_bank ((exec_hold_quiet howns.1 who k sl _).trans (congrArg _ hhold))
    (working_evicted k.isLt (working_addressed s k sl lv) hq hwf x) ⟨?_, ?_, ?_⟩
  · rw [slot_bankResult, evicted, slot_modSlot_self, Laws.core_modCore_self, slot_droppedCtx, core_writeImage, slot_addressed, heldSlot,
      if_neg hnot]
  · rw [ctx_bankResult, evicted, State.modSlot, Laws.core_modCore_self, Laws.ctx_setSlot, Laws.core_modCore_self, ctx_droppedCtx]
  · rw [imageCtx_bankResult, evicted, imageCtx_modSlot, imageCtx_modCore, himage]

theorem release_held (hst : ((s.core k).slot sl).st = .held) (h0 : ¬(sl = 0 ∧ ((s.core k).slot sl).top = 0)) :
    BankAnswers (.release who k sl (BitVec.ofNat 2 lv.val)) s k sl lv fun t =>
      (t.core k).slot sl = { (s.core k).slot sl with st := ((s.core k).slot sl).prior, prior := .empty, made := false }
      ∧ t.mem = s.mem := by
  obtain ⟨-, hrelease, -⟩ := bankPage_open (sl := sl) (lv := lv) howns hpage hjob
  rw [State.bankRelease] at hrelease
  simp only [slot_addressed, hst, ne_eq, not_true, if_false, h0] at hrelease
  refine answers_bank (congrArg Host.Outcome.next hrelease) (working_modSlot (working_addressed s k sl lv) sl _) ⟨?_, rfl⟩
  rw [slot_bankResult, slot_modSlot_self, slot_addressed]
  rfl

theorem release_event (hst : ((s.core k).slot sl).st = .held) (h0 : sl = 0) (htop : ((s.core k).slot sl).top = 0) :
    BankAnswers (.release who k sl (BitVec.ofNat 2 lv.val)) s k sl lv fun t =>
      (t.core k).slot sl = (s.core k).slot sl ∧ (t.core k).vvalid = false ∧ bit (t.core k).bankWord 31 = true ∧ t.mem = s.mem := by
  obtain ⟨-, hrelease, -⟩ := bankPage_open (sl := sl) (lv := lv) howns hpage hjob
  rw [State.bankRelease] at hrelease
  simp only [slot_addressed, hst, ne_eq, not_true, if_false] at hrelease
  rw [if_pos ⟨h0, htop⟩] at hrelease
  refine answers_bank (congrArg Host.Outcome.next hrelease)
    (working_modCore (working_addressed s k sl lv) (fun _ => rfl) fun _ => rfl) ?_
  rw [core_bankResult, State.releaseEvent, Laws.core_modCore_self, core_addressed]
  exact ⟨rfl, rfl, bit_bankWord_of_busy rfl, rfl⟩

theorem release_run (hst : ((s.core k).slot sl).st = .held) (hprior : ((s.core k).slot sl).prior = .parked) (h0 : sl ≠ 0)
    (hten : (s.tenant (s.curOf k sl).toNat).st = .running) :
    BankAnswers (.releaseRun who k sl (BitVec.ofNat 2 lv.val)) s k sl lv fun t =>
      (t.core k).slot sl
          = { (s.core k).slot sl with st := .active, prior := .empty, under := .empty, made := false, crossing := none }
      ∧ t.mem = s.mem := by
  obtain ⟨-, -, hrun, -⟩ := bankPage_open (sl := sl) (lv := lv) howns hpage hjob
  have hten' : ((addressed s k sl lv).tenant ((addressed s k sl lv).curOf k sl).toNat).st = .running := by
    rw [curOf_addressed]; exact hten
  rw [State.bankRun] at hrun
  simp only [slot_addressed, hst, hprior, ne_eq, not_true, or_self, if_false, h0, false_and] at hrun
  refine answers_bank (congrArg Host.Outcome.next hrun) (working_runSlot (working_addressed s k sl lv) sl) ⟨?_, rfl⟩
  rw [slot_bankResult, State.runSlot]
  simp only [hten', decide_true, if_true, h0, if_false, slot_modSlot_self, slot_addressed]

theorem create_empty (hwf : Memory.wf s.mem = true) (hst : ((s.core k).slot sl).st = .empty) (hlv : lv = 0) :
    BankAnswers (.create who k sl (BitVec.ofNat 2 lv.val)) s k sl lv fun t =>
      (t.core k).slot sl = { Slot.fresh with st := .held, prior := .parked, made := true } ∧ t.imageCtx k sl 0 = Ctx.fresh := by
  obtain ⟨-, -, -, hcreate, -⟩ := bankPage_open (sl := sl) (lv := lv) howns hpage hjob
  subst hlv
  have hq : quiet (addressed s k sl 0) := howns.1
  have himage := imageCtx_writeImage (lv := 0) k.isLt sl.isLt (by decide) (s := addressed s k sl 0) hq hwf Ctx.fresh
  have hwork : Working s (created (addressed s k sl 0) k sl) k sl 0 :=
    working_modSlot (working_writeImage k.isLt (working_addressed s k sl 0) hq hwf sl.isLt (by decide) Ctx.fresh) sl _
  have hexec := hcreate.trans (bankCreate_empty (by rw [slot_addressed, hst]))
  refine answers_bank (congrArg Host.Outcome.next hexec) hwork ⟨?_, ?_⟩
  · rw [slot_bankResult, created, slot_modSlot_self]
  · rw [imageCtx_bankResult, created, imageCtx_modSlot]
    exact himage

theorem discard_parked (hst : ((s.core k).slot sl).st = .held) (hprior : ((s.core k).slot sl).prior = .parked) :
    BankAnswers (.discard who k sl (BitVec.ofNat 2 lv.val)) s k sl lv fun t =>
      (t.core k).slot sl = Slot.fresh ∧ (∀ j, (t.core k).ctx sl j = none) ∧ t.mem = s.mem := by
  obtain ⟨-, -, -, -, hdiscard⟩ := bankPage_open (sl := sl) (lv := lv) howns hpage hjob
  rw [State.bankDiscard] at hdiscard
  simp only [slot_addressed, hst, hprior, ne_eq, not_true, or_self, if_false] at hdiscard
  have hwork := working_modSlot (working_modCore (working_addressed s k sl lv)
    (f := fun c => ((c.dropCtx sl 0).dropCtx sl 1).dropCtx sl 2) (fun _ => rfl) fun _ => rfl) sl fun _ => Slot.fresh
  refine answers_bank (congrArg Host.Outcome.next hdiscard) hwork ⟨?_, fun j => ?_, rfl⟩
  · rw [slot_bankResult, State.dropSlot, slot_modSlot_self]
  · rw [ctx_bankResult, State.dropSlot, State.modSlot, Laws.core_modCore_self, Laws.ctx_setSlot, Laws.core_modCore_self]
    simp only [ctx_dropCtx]
    fin_cases j <;> rfl

end Window

theorem bankWindow : BankWindow := by
  intro s who k sl lv x howns hpage hjob
  exact ⟨hold_resident howns hpage hjob, release_held howns hpage hjob, release_event howns hpage hjob, release_run howns hpage hjob,
    create_empty howns hpage hjob, discard_parked howns hpage hjob⟩

/-- Settles O29: the writes of WHEEL, and the commands of the bank window. -/
theorem corePageWrites : Obligations.CorePageWrites := ⟨wheelWrite, bankWindow⟩

end Sys2Proof.Proofs
end

section
/-! PROOFS. Spills and fills of banks (R123, R124). -/

namespace Sys2Proof.Proofs

open Sys2Proof.Machine Sys2Proof.Claims

theorem mem_slots8 (sl : Fin 8) : sl ∈ slots8 := by revert sl; decide

/-- Where no injection waits, a group's work on its banks is done, whether or not it spills (R122). -/
theorem bankWork_quiet {s : State} (h : quiet s) (k : Nat) (f : State → State) : s.bankWork k f = f s := by
  rw [State.bankWork, voted_quiet h, ite_self]

/-! ## A spill -/

/-- The bank that a spill takes is one of the twelve (R123). -/
theorem victimBank_lt {c : Core} {i : Nat} {b : Bank} (h : c.victimBank = some (i, b)) : i < 12 := by
  rcases mem_of_best (fun best q => by
    cases best with
    | none => exact .inl rfl
    | some p => exact ite_eq_or_eq _ _ _) _ h with hm | hm
  · obtain ⟨j, hj, hbank⟩ := List.mem_filterMap.mp hm
    have hji : j = i := by
      split at hbank
      · split at hbank
        · exact (Prod.mk.inj (Option.some.inj hbank)).1
        · cases hbank
      · cases hbank
    exact hji ▸ List.mem_range.mp hj
  · cases hm

theorem takeBank_spills {s : State} {k i : Nat} {b : Bank} (hfree : (s.core k).freeBank = none)
    (hvictim : (s.core k).victimBank = some (i, b)) : s.takeBank k = (some i, s.spill k i b) := by
  simp only [State.takeBank, hfree, hvictim]

/-- A spilled bank is free, and the spill is counted. -/
theorem core_spill (s : State) (k i : Nat) (b : Bank) :
    (s.spill k i b).core k = { (s.core k).putBank i none with spillCnt := satInc (s.core k).spillCnt } := by
  rw [State.spill, Laws.core_modCore_self, core_writeImage]

theorem bank_putBank (c : Core) {i : Nat} (hi : i < 12) (b : Option Bank) : (c.putBank i b).arch.banks.toList[i]? = some b := by
  simp [Core.putBank, Vector.toList_setIfInBounds, hi]

theorem bankSpill_victim {s : State} {k : Fin 128} {sl : Fin 8} {i : Nat} {b : Bank} (hq : quiet s)
    (hneeds : (s.core k).needsFill sl = true) (hfree : (s.core k).freeBank = none) (hvictim : (s.core k).victimBank = some (i, b))
    (hwf : Memory.wf s.mem = true) :
    Answers (.bankSpill k) s fun t => (t.core k).arch.banks.toList[i]? = some none ∧ t.imageCtx k b.slot b.level = b.ctx
      ∧ (t.core k).spillCnt = satInc (s.core k).spillCnt ∧ OnlyCoreAndMemory s t k := by
  have hexec : exec (.bankSpill k) s = .next (s.spill k i b) := by
    show Host.Outcome.next (if slots8.any (s.core k).needsFill then s.bankWork k fun t => (t.takeBank k).2 else s) = _
    rw [if_pos (List.any_eq_true.mpr ⟨sl, mem_slots8 sl, hneeds⟩), bankWork_quiet hq, takeBank_spills hfree hvictim]
  refine ⟨_, hexec, ?_, ?_, ?_, ?_⟩
  · rw [core_spill]
    exact bank_putBank _ (victimBank_lt hvictim) none
  · rw [State.spill, imageCtx_modCore, imageCtx_writeImage k.isLt b.slot.isLt b.level.isLt hq hwf]
  · rw [core_spill]
  · exact onlyCoreAndMemory_trans (onlyCoreAndMemory_writeImage k.isLt b.slot.isLt b.level.isLt hq hwf b.ctx) (onlyCoreAndMemory_modCore _ k _)

/-! ## A fill -/

theorem freeBank_lt {c : Core} {i : Nat} (h : c.freeBank = some i) : i < 12 :=
  List.mem_range.mp (List.mem_of_find?_eq_some h)

theorem injectFill_quiet {s : State} (h : quiet s) (k : Nat) (sl : Fin 8) (lv : Fin 3) : s.injectFill k sl lv = (false, s) := by
  simp only [State.injectFill, Laws.takeInj_quiet _ _ _ _ h]

/-- The check of an image in order finds nothing (R124). -/
theorem checkImage_good {s : State} {k sl lv : Nat} (hk : k < 128) (hsl : sl < 8) (hlv : lv < 3) (h : goodImage s k sl lv) :
    s.checkImage k sl lv = (true, s) := by
  have hcheck (n : Nat) (hn : n < 64) : s.checkWord (imageAddr k sl lv + 4 * n) false = s := by
    obtain ⟨hlo, hhi⟩ := inSram_image hk hsl hlv
    obtain ⟨m, hm⟩ := region_of_inSram (pa := imageAddr k sl lv + 4 * n) (n := 4) ⟨by omega, by omega⟩ (by decide)
    exact checkWord_clean hm (h n hn).1 false
  have hfold : ∀ l : List Nat, (∀ n ∈ l, n < 64) →
      (l.map fun i => imageAddr k sl lv + 4 * i).foldl (fun t pa => t.checkWord pa false) s = s := by
    intro l
    induction l with
    | nil => exact fun _ => rfl
    | cons n r ih =>
      intro hl
      obtain ⟨hn, hr⟩ := List.forall_mem_cons.mp hl
      rw [List.map_cons, List.foldl_cons, hcheck n hn, ih hr]
  have hrange : ∀ n ∈ List.range 64, n < 64 := fun n => List.mem_range.mp
  rw [State.checkImage]
  simp only [hfold _ hrange, List.all_map]
  refine congrArg (·, s) (List.all_eq_true.mpr fun n hn => ?_)
  simpa using (h n (hrange n hn)).2

/-- A fill is counted, and its context is kept as committed where the commit has none of its slot and level (R123, R206). -/
def countedFill (sl : Fin 8) (lv : Fin 3) (x : Ctx) (c : Core) : Core :=
  { c with
    fillCnt := satInc c.fillCnt
    tm := { c.tm with extra := if c.tm.extra.any fun e => e.1 = (sl.val + 8 * c.tm.seq, lv.val) then c.tm.extra
                               else c.tm.extra ++ [((sl.val + 8 * c.tm.seq, lv.val), x)] } }

/-- A context that a fill has put into a bank (R121, R123). -/
def filled (s : State) (k i : Nat) (sl : Fin 8) (lv : Fin 3) : State :=
  (s.placeCtx k i sl lv (s.imageCtx k sl lv)).modCore k (countedFill sl lv (s.imageCtx k sl lv))

theorem core_filled (s : State) (k i : Nat) (sl : Fin 8) (lv : Fin 3) : (filled s k i sl lv).core k = countedFill sl lv (s.imageCtx k sl lv)
    ((s.core k).putBank i (some { slot := sl, level := lv, used := (s.core k).cyc, ctx := s.imageCtx k sl lv })) := by
  rw [filled, Laws.core_modCore_self, State.placeCtx, Laws.core_modCore_self]

theorem onlyCoreAndMemory_filled (s : State) (k i : Nat) (sl : Fin 8) (lv : Fin 3) : OnlyCoreAndMemory s (filled s k i sl lv) k :=
  onlyCoreAndMemory_trans (onlyCoreAndMemory_modCore s k _) (onlyCoreAndMemory_modCore _ k _)

theorem ctx_filled {s : State} {k i : Nat} {sl : Fin 8} {lv : Fin 3} (hnone : (s.core k).ctx sl lv = none) (hi : i < 12) :
    ((filled s k i sl lv).core k).ctx sl lv = some (s.imageCtx k sl lv) := by
  rw [core_filled]
  exact ctx_putBank hnone hi _ _

/-- A fill from an image in order with a free bank. The event slot's level 0 has bank 0 (R121). -/
theorem fill_good {s : State} (hq : quiet s) {k i : Nat} (hk : k < 128) {sl : Fin 8} {lv : Fin 3} (hgood : goodImage s k sl lv)
    (hfree : (s.core k).freeBank = some i) : ∃ j, j < 12 ∧ s.fill k sl lv = filled s k j sl lv := by
  obtain ⟨j, hj, hbank⟩ : ∃ j, j < 12 ∧ s.bankFor k sl lv = (some j, s) := by
    rw [State.bankFor]
    split
    · exact ⟨0, by decide, rfl⟩
    · exact ⟨i, freeBank_lt hfree, by simp only [State.takeBank, hfree]⟩
  refine ⟨j, hj, ?_⟩
  simp only [State.fill, injectFill_quiet hq, checkImage_good hk sl.isLt lv.isLt hgood, hbank, Bool.not_true, Bool.false_eq_true, if_false]
  rfl

/-- A fill that puts its context into a bank loses no core (R153). -/
theorem fillTop_good {s : State} {k : Fin 128} {j : Nat} {sl : Fin 8} {lv : Fin 3} (hfill : s.fill k sl lv = filled s k j sl lv)
    (hctx : ((filled s k j sl lv).core k).ctx sl lv = some (s.imageCtx k sl lv)) :
    s.fillTop { core := k, slot := sl } lv = filled s k j sl lv := by
  rw [State.fillTop]
  simp only [hfill]
  refine if_neg fun hlost => ?_
  obtain ⟨rfl, hnone, -⟩ := hlost
  rw [hctx] at hnone
  cases hnone

theorem bankFill_good {s : State} {k : Fin 128} {sl : Fin 8} {i : Nat} (hq : quiet s) (hneeds : (s.core k).needsFill sl = true)
    (hgood : goodImage s k sl ((s.core k).slot sl).top) (hfree : (s.core k).freeBank = some i) :
    Answers (.bankFill k sl) s fun t =>
      (t.core k).ctx sl ((s.core k).slot sl).top = some (s.imageCtx k sl ((s.core k).slot sl).top)
      ∧ (t.core k).fillCnt = satInc (s.core k).fillCnt ∧ (t.core k).slot sl = (s.core k).slot sl ∧ OnlyCoreAndMemory s t k := by
  obtain ⟨j, hj, hfill⟩ := fill_good hq k.isLt hgood hfree
  have hnone : (s.core k).ctx sl ((s.core k).slot sl).top = none := by
    simpa using (Bool.and_eq_true_iff.mp hneeds).2
  have hctx := ctx_filled hnone hj
  have hexec : exec (.bankFill k sl) s = .next (filled s k j sl ((s.core k).slot sl).top) := by
    show execBankFill k sl s = _
    rw [execBankFill]
    simp only [hneeds, if_true, bankWork_quiet hq, fillTop_good hfill hctx]
  refine ⟨_, hexec, hctx, ?_, ?_, onlyCoreAndMemory_filled ..⟩
  · rw [core_filled]; rfl
  · rw [core_filled]; rfl

/-- Settles O30: the spill of the victim bank, and the fill from an image in order. -/
theorem spillAndFill : Obligations.SpillAndFill := fun _ _ _ _ _ hq hneeds =>
  ⟨bankSpill_victim hq hneeds, bankFill_good hq hneeds⟩

end Sys2Proof.Proofs
end

section
/-! PROOFS. The vector buffer and the dispatch of a delivery (R120, R130, R131). -/

namespace Sys2Proof.Proofs

open Sys2Proof.Machine Sys2Proof.Claims

/-! ## The vector buffer -/

/-- Only one core has changed, and its vector buffer stands (R120). -/
structure VectorKept (s t : State) (k : Nat) : Prop where
  only : OnlyCore s t k
  valid : (t.core k).vvalid = (s.core k).vvalid
  buf : (t.core k).vbuf = (s.core k).vbuf

theorem vectorKept_refl (s : State) (k : Nat) : VectorKept s s k := ⟨onlyCore_refl s k, rfl, rfl⟩

theorem vectorKept_trans {s t u : State} {k : Nat} (h : VectorKept s t k) (g : VectorKept t u k) : VectorKept s u k :=
  ⟨onlyCore_trans h.only g.only, g.valid.trans h.valid, g.buf.trans h.buf⟩

theorem vectorKept_modCore (s : State) (k : Nat) {f : Core → Core} (hvalid : ∀ c, (f c).vvalid = c.vvalid) (hbuf : ∀ c, (f c).vbuf = c.vbuf) :
    VectorKept s (s.modCore k f) k :=
  ⟨onlyCore_modCore s k f, by rw [Laws.core_modCore_self, hvalid], by rw [Laws.core_modCore_self, hbuf]⟩

theorem vectorKept_modSlot (s : State) (k : Nat) (sl : Fin 8) (f : Slot → Slot) : VectorKept s (s.modSlot k sl f) k :=
  vectorKept_modCore s k (fun _ => rfl) fun _ => rfl

theorem vectorKept_runSlot (s : State) (k : Nat) (sl : Fin 8) : VectorKept s (s.runSlot k sl) k := by
  unfold State.runSlot
  exact vectorKept_modSlot s k sl _

theorem vectorKept_bankResult (s : State) (k r : Nat) : VectorKept s (s.bankResult k r) k :=
  vectorKept_modCore s k (fun _ => rfl) fun _ => rfl

/-- The end of a release of slot 0 changes the slot and the bank window (R125). -/
theorem vectorKept_endRelease (s : State) (k : Nat) : VectorKept s (s.endRelease k) k := by
  unfold State.endRelease
  split
  · exact vectorKept_refl s k
  next run _ =>
    extract_lets s1
    have h1 : VectorKept s s1 k := vectorKept_modCore s k (fun _ => rfl) fun _ => rfl
    split
    · exact h1
    · refine vectorKept_trans h1 (vectorKept_trans ?_ (vectorKept_bankResult _ k 0))
      split
      · exact vectorKept_runSlot s1 k 0
      · exact vectorKept_modSlot s1 k 0 _

/-- The four parcels at an address as the code store has them (R120). -/
def fourParcels (s : State) (adr : Nat) : List Fetched :=
  (List.range 4).map fun n => { adr := adr + n, bits := s.parcelAt (adr + n), bad := false }

/-- A reload of the vector buffer from parcels in order (R120). -/
theorem reloadVector_clean {s : State} {k : Nat} {x : Ctx} (hx : (s.core k).ctx 0 0 = some x)
    (hecc : ∀ n, n < 4 → s.codeEccAt (x.entry.w0.toNat + n) = Ecc.clean) :
    s.reloadVector k = s.modCore k fun c => { c with vbuf := fourParcels s x.entry.w0.toNat, vvalid := true } := by
  have hcheck (n : Nat) (hn : n < 4) := checkParcel_clean (hecc n hn) false
  simp only [State.reloadVector, hx, State.loadVector, Nat.reduceSub, hcheck 0 (by decide), hcheck 1 (by decide), hcheck 2 (by decide),
    hcheck 3 (by decide)]
  rfl

/-- A handler that waits for the vector buffer has it as its fetch buffer, and issues next (R131). -/
def handlerFed (c : Core) : Core :=
  { (c.setSlot 0 { c.slot 0 with buf := c.vbuf }) with firstIssue := some (max (c.firstIssue.getD 0) c.cyc) }

/-- A reload of the vector buffer, and what ends with it (R125, R131). -/
def reloaded (s : State) (k : Nat) : State :=
  (if (s.core k).awaitsVector 0 then (s.reloadVector k).modCore k handlerFed else s.reloadVector k).endRelease k

theorem vectorKept_reloaded (s : State) (k : Nat) : VectorKept (s.reloadVector k) (reloaded s k) k := by
  refine vectorKept_trans ?_ (vectorKept_endRelease _ k)
  split
  · exact vectorKept_modCore _ k (fun _ => rfl) fun _ => rfl
  · exact vectorKept_refl _ k

theorem vectorReload {s : State} {k : Fin 128} {x : Ctx} (hvalid : (s.core k).vvalid = false) (hx : (s.core k).ctx 0 0 = some x)
    (hecc : ∀ n, n < 4 → s.codeEccAt (x.entry.w0.toNat + n) = Ecc.clean) :
    Answers (.vectorBufferReload k) s fun t => OnlyCore s t k ∧ (t.core k).vvalid = true
      ∧ (t.core k).vbuf = fourParcels s x.entry.w0.toNat := by
  have hexec : exec (.vectorBufferReload k) s = .next (reloaded s k) := if_neg (by simp [hvalid, hx])
  obtain ⟨honly, hkvalid, hkbuf⟩ := vectorKept_reloaded s k
  rw [reloadVector_clean hx hecc] at honly hkvalid hkbuf
  rw [Laws.core_modCore_self] at hkvalid hkbuf
  exact ⟨_, hexec, onlyCore_trans (onlyCore_modCore s k _) honly, hkvalid, hkbuf⟩

/-! ## The dispatch -/

/-- A block instruction that is abandoned leaves its core's vector buffer (R110). -/
theorem abandon_keeps (c : Core) (sl : Fin 8) : (c.abandon sl).vvalid = c.vvalid ∧ (c.abandon sl).vbuf = c.vbuf := by
  unfold Core.abandon
  extract_lets x c1
  split
  · exact ⟨rfl, rfl⟩
  · split
    · split <;> exact ⟨rfl, rfl⟩
    · exact ⟨rfl, rfl⟩

/-- What a dispatch leaves of slot 0 (R130, R131). -/
theorem dispatchEvent_slot (c : Core) : ((c.dispatchEvent).slot 0).st = .active
    ∧ ((c.dispatchEvent).slot 0).buf = (if c.vvalid then c.vbuf else []) ∧ c.dispatchEvent.firstIssue = some (c.cyc + 3) := by
  unfold Core.dispatchEvent
  extract_lets c0 c1
  have h0 : c0.vvalid = c.vvalid ∧ c0.vbuf = c.vbuf := by
    unfold c0
    split
    · exact abandon_keeps c _
    · exact ⟨rfl, rfl⟩
  obtain ⟨hvalid, hbuf⟩ := h0
  rw [Laws.slot_setSlot_self]
  refine ⟨rfl, ?_, rfl⟩
  show (if c0.vvalid then c0.vbuf else []) = _
  rw [hvalid, hbuf]

/-- Logging leaves the vector buffer and the cycle. -/
theorem vector_of_coreLogged {c c' : Core} (h : CoreLogged c c') : c'.vvalid = c.vvalid ∧ c'.vbuf = c.vbuf ∧ c'.cyc = c.cyc := by
  unfold CoreLogged at h
  have hv := congrArg Core.vvalid h
  have hb := congrArg Core.vbuf h
  have hc := congrArg Core.cyc h
  exact ⟨hv, hb, hc⟩

theorem eventDispatch_idle {s : State} {k : Fin 128} {v : Served} (hq : quiet s) (hserved : (s.core k).served = some v) (hnew : v.dispatched = false)
    (hstill : s.stillTarget k = true) :
    Answers (.eventDispatch k) s fun t => OnlyLogged s t k ∧ (t.core k).served = some { v with dispatched := true }
      ∧ ((t.core k).slot 0).st = .active ∧ ((t.core k).slot 0).buf = (if (s.core k).vvalid then (s.core k).vbuf else [])
      ∧ (t.core k).firstIssue = some ((s.core k).cyc + 3) := by
  have hexec : exec (.eventDispatch k) s = .next ((s.logInput k (.event v.src (s.core k).tm.pos)).modCore k fun c =>
      { c.dispatchEvent with served := some { v with dispatched := true } }) := by
    show execEventDispatch k s = _
    simp only [execEventDispatch, hserved, hnew, Bool.false_eq_true, if_false, hstill, if_true]
  have hrec := recorded_logInput (s := s) k.isLt (.event v.src (s.core k).tm.pos)
  obtain ⟨hvalid, hbuf, hcyc⟩ := vector_of_coreLogged hrec.core
  obtain ⟨hst, hslot, hfirst⟩ := dispatchEvent_slot ((s.logInput k (.event v.src (s.core k).tm.pos)).core k)
  rw [hvalid, hbuf] at hslot
  rw [hcyc] at hfirst
  refine ⟨_, hexec, onlyLogged_of_recorded hrec hq (onlyCore_modCore _ k _), ?_⟩
  rw [Laws.core_modCore_self]
  exact ⟨rfl, hst, hslot, hfirst⟩

/-- Settles O31: the reload of the vector buffer, and the dispatch. -/
theorem eventSlot : Obligations.EventSlot := fun _ _ _ _ hq =>
  ⟨vectorReload, eventDispatch_idle hq⟩

end Sys2Proof.Proofs
end

section
/-! PROOFS. Entry to level 2 (R150, R151) where the store of its record fails, so that the core is lost (R153, R208), and O20. -/

namespace Sys2Proof.Proofs

open Sys2Proof.Machine Sys2Proof.Claims

/-! ## A core whose escalation record lies in another group's own region (R208) -/

/-- A Headland thread at the first parcels of cove 1. -/
def faultingCtx : Ctx := { Ctx.fresh with pcc := callerPcc }

/-- Group 8, whose slot 1 waits to escalate. Its descriptor's entries end page 6, its own region, and the record begins
page 7. -/
def escalatingCore : Core :=
  ({ Core.reset 8 with
    tm := { Tidemark.reset 8 with priv := 0x00060006#32 }
    arch := { Arch.reset with
      slots := Arch.reset.slots.set 1 { Slot.fresh with st := .active, wait := .escalate (plainFault 0x18) 0 1 }
      banks := Arch.reset.banks.set 1 (some { slot := 1, level := 0, used := 0, ctx := faultingCtx }) } }).setEsc 1 0 (spanCap 0x6FE0#32)

/-- Group 9 of the same cove, whose own region is page 7. -/
def neighbourCore : Core := { Core.reset 9 with tm := { Tidemark.reset 9 with priv := 0x00070007#32 } }

/-- The device: the descriptor's ENTRY is the code capability of `callerPcc`, its DATA and STACK are null. -/
def walledOff : State := { State.reset with
  phase := .run, cores := ⟨[(8, escalatingCore), (9, neighbourCore)]⟩
  mem := [(0xE000206FE0, 0x01), (0xE000206FE2, 0x04), (0xE000206FE4, 0x04), (0xE000206FE6, 0x01)]
  tags := ⟨tagsFrom 0xE000206FE0 6 [0, 1]⟩ }

/-- What the entry's record holds, and the state once its free words are drawn (R136). -/
def walledRecord : Vector Word 16 × State := walledOff.recordOf faultingCtx 2 0 1 (plainFault 0x18)

/-- The descriptor reads as it was written, and the read leaves everything as it was (R150). -/
theorem ownCaps_walledOff : walledRecord.2.ownCaps (issuerOf insider faultingCtx) [0x6FE0, 0x6FE8, 0x6FF0]
    = (.ok [callerPcc, Cap.null, Cap.null], walledRecord.2) := by
  exact rfl

/-- All that EscalationReady asks for is in order: it asks nothing of the places of the record. -/
theorem escalationReady_walledOff : EscalationReady walledOff insider faultingCtx (plainFault 0x18) 0 1 walledRecord.1
    [callerPcc, Cap.null, Cap.null] := by
  refine ⟨by decide +kernel, walledRecord.2, walledRecord.2, walledRecord.2, 2, rfl, ownCaps_walledOff, by exact rfl, by decide, ?_⟩
  decide +kernel

/-- No other slot waits for level 2 or is there (R151). -/
theorem others_walledOff (j : Fin 8) (h : j ≠ 1) :
    ((walledOff.core 8).slot j).wait = .none ∧ ((walledOff.core 8).slot j).top ≠ 2 := by
  revert j; decide +kernel

/-- The level of the thread after a command, and whether its core is lost. -/
def levelAndLoss (i : Instr) (s : State) : Option (Fin 3 × Bool) :=
  match exec i s with
  | .next t => some (((t.core 8).slot 1).top, (t.core 8).lost)
  | _ => none

/-- The entry loses the core, and the thread stays at level 0 (R153). -/
theorem escalationEntry_walledOff : levelAndLoss (.escalationEntry 8) walledOff = some (0, true) := by decide +kernel

/-- Refutes O20: the record's place may lie in another group's own region, whose cove refuses the store; the core is then lost
(R153, R208), and the thread does not reach level 2. -/
theorem not_escalationEntryResult : ¬ Obligations.EscalationEntryResult := by
  unfold Obligations.EscalationEntryResult
  intro h
  obtain ⟨t, hexec, y, ⟨-, htop, -⟩, -⟩ := h walledOff insider faultingCtx (plainFault 0x18) 0 1 walledRecord.1
    [callerPcc, Cap.null, Cap.null] (by decide +kernel) (by decide +kernel) (by decide +kernel) (by decide +kernel)
    (fun j hj f n c2 he => by
      have hnone := (others_walledOff j (ne_of_lt hj)).1
      have hnone : ((walledOff.core insider.core).slot j).wait = .none := hnone
      rw [hnone] at he
      cases he)
    (fun j hj => (others_walledOff j hj).2) escalationReady_walledOff
  have hlost := escalationEntry_walledOff
  have hexec : exec (.escalationEntry 8) walledOff = .next t := hexec
  have htop : ((t.core 8).slot 1).top = 2 := htop
  rw [levelAndLoss, hexec] at hlost
  simp [htop] at hlost

end Sys2Proof.Proofs
end

section
/-! PROOFS. RFE over a resident context below (R141), and O21. -/

namespace Sys2Proof.Proofs

open Sys2Proof.Machine Sys2Proof.Claims

/-! ## The registers that the context below takes -/

/-- c1 to c5 are the handler's, c0, c6 and c7 the context's own. -/
theorem c_resumed (y x : Ctx) (i : Fin 8) : (y.resumed x).c[i.val] = if 1 ≤ i.val ∧ i.val ≤ 5 then x.c[i.val] else y.c[i.val] := by
  fin_cases i <;> simp [Ctx.resumed]

/-! ## The return -/

/-- The core once its handler's context is dropped: the one below, at its level, has the registers `z` (R141). -/
def returned (sl : Fin 8) (top lv : Fin 3) (z : Ctx) (c : Core) : Core :=
  let c1 := (c.dropCtx sl top).setCtx sl lv z
  c1.setSlot sl { c1.slot sl with top := lv, buf := [], answers := [], given := [] }

theorem slot_returned (sl : Fin 8) (top lv : Fin 3) (z : Ctx) (c : Core) :
    (returned sl top lv z c).slot sl = { c.slot sl with top := lv, buf := [], answers := [], given := [] } := by
  rw [returned, Laws.slot_setSlot_self]
  rfl

theorem ctx_returned (sl : Fin 8) (top lv : Fin 3) (z : Ctx) (c : Core) (j : Fin 3) : (returned sl top lv z c).ctx sl j
    = if j = lv then (if j = top then none else c.ctx sl j).map fun _ => z else if j = top then none else c.ctx sl j := by
  simp only [returned, Laws.ctx_setSlot, Laws.ctx_setCtx, ctx_dropCtx, true_and]

/-- The return of an escalation parks no thread where no tenant is stopped (R35). -/
theorem parkStopped_none {s : State} (h : ∀ n, (s.tenant n).st ≠ .stopped) (th : ThreadId) : s.parkStopped th = s :=
  if_neg fun hc => h _ hc.2

/-- The device once a thread's handler has returned to the level below, whose context takes the registers `z`. -/
def rfeDone (s : State) (th : ThreadId) (z : Ctx) : State :=
  (issuing s th).modCore th.core (returned th.slot ((s.core th.core).slot th.slot).top (s.levelBelow th) z)

theorem core_rfeDone (s : State) (th : ThreadId) (z : Ctx) : (rfeDone s th z).core th.core
    = returned th.slot ((s.core th.core).slot th.slot).top (s.levelBelow th) z ((s.core th.core).touchBank th.slot) := by
  rw [rfeDone, Laws.core_modCore_self, core_issuing]

theorem slot_rfeDone (s : State) (th : ThreadId) (z : Ctx) : ((rfeDone s th z).core th.core).slot th.slot
    = { (s.core th.core).slot th.slot with top := s.levelBelow th, buf := [], answers := [], given := [] } := by
  rw [core_rfeDone, slot_returned, Laws.slot_touchBank]

section Rfe

variable {s : State} {th : ThreadId} {x y : Ctx}

theorem topCtx_rfeDone (hy : Below s th (s.levelBelow th) y) (hne : s.levelBelow th ≠ ((s.core th.core).slot th.slot).top) (z : Ctx) :
    (rfeDone s th z).topCtx th = some z := by
  rw [State.topCtx, slot_rfeDone, core_rfeDone, ctx_returned, if_pos rfl, if_neg hne, Laws.ctx_touchBank, hy]
  rfl

theorem ctx_rfeDone_handler (hne : s.levelBelow th ≠ ((s.core th.core).slot th.slot).top) (z : Ctx) :
    ((rfeDone s th z).core th.core).ctx th.slot ((s.core th.core).slot th.slot).top = none := by
  rw [core_rfeDone, ctx_returned, if_neg (Ne.symm hne), if_pos rfl]

/-- RFE's checks pass, and the context below is in a bank (R141). -/
theorem run_rfe (h : s.ready th = some x) (hl : x.ts.level ≠ 0) (hj : jumpCheck (x.getC 7) (th.core / 8) = .ok ())
    (hy : Below s th (s.levelBelow th) y) (hst : ∀ n, (s.tenant n).st ≠ .stopped) :
    opRfe.run th (issuing s th) = .stay (rfeDone s th (y.resumed x)) := by
  have hctx : ((issuing s th).core th.core).ctx th.slot (s.levelBelow th) = some y := by
    rw [core_issuing, Laws.ctx_touchBank]
    exact hy
  have hpark := parkStopped_none (s := rfeDone s th (y.resumed x)) hst th
  simp only [opRfe, supOp, topCtx_issuing_of_ready h, hl, if_false, hj, levelBelow_issuing, slot_issuing, hctx, Option.isSome_some, if_true]
  refine congrArg OpOut.stay ?_
  split
  · exact hpark
  · rfl

theorem issue_rfe (h : s.ready th = some x) (hm : x.ts.m = true) (hl : x.ts.level ≠ 0) (hj : jumpCheck (x.getC 7) (th.core / 8) = .ok ())
    (hy : Below s th (s.levelBelow th) y) (hst : ∀ n, (s.tenant n).st ≠ .stopped) :
    s.issue th (.rfe th) opRfe = rfeDone s th (y.resumed x) := by
  refine (issue_supOp h hm (.rfe th) opRfe.run).trans ((issue_plainOp h _ _).trans ?_)
  rw [run_rfe h hl hj hy hst]
  refine Laws.keepBefore_of_ready _ (rfeDone s th (y.resumed x)) th ?_
  rw [slot_rfeDone, (ready_runs h).2]
  rfl

end Rfe

/-- Settles O21: the checks pass, and the device is `rfeDone` with the registers that the context below takes. -/
theorem handlerReturn : Obligations.HandlerReturn := by
  intro s th x y h hm hl hj hy hne hst
  refine ⟨_, congrArg Host.Outcome.next (issue_rfe h hm hl hj hy hst), y.resumed x, topCtx_rfeDone hy hne _,
    onlyCore_trans (onlyCore_issuing s th) (onlyCore_modCore _ _ _), rfl, rfl, rfl, fun n h1 h5 => ?_,
    c_resumed y x 0, c_resumed y x 6, c_resumed y x 7, rfl, rfl, rfl, rfl, ?_, ctx_rfeDone_handler hne _⟩
  · exact (c_resumed y x n).trans (if_pos ⟨h1, h5⟩)
  · rw [slot_rfeDone]

end Sys2Proof.Proofs
end

section
/-! PROOFS. Words and capabilities that the device itself stores in a cove's SRAM (R138, R145): what they leave unchanged. -/

namespace Sys2Proof.Proofs

open Sys2Proof.Machine Sys2Proof.Claims

/-! ## Stores by their targets -/

/-- A store that touches no core, and no byte but those from `lo` on below `hi`. -/
structure BytesStored (s t : State) (lo hi : Nat) : Prop where
  cores : t.cores = s.cores
  bytes : ∀ a, ¬(lo ≤ a ∧ a < hi) → t.byteAt a = s.byteAt a

theorem bytesStored_refl (s : State) (lo hi : Nat) : BytesStored s s lo hi := ⟨rfl, fun _ _ => rfl⟩

theorem bytesStored_trans {s t u : State} {lo hi : Nat} (h : BytesStored s t lo hi) (g : BytesStored t u lo hi) : BytesStored s u lo hi :=
  ⟨g.cores.trans h.cores, fun a ha => (g.bytes a ha).trans (h.bytes a ha)⟩

section Bounds

variable {pa n lo hi : Nat}

theorem bytesStored_putWord (hr : (∃ m, region pa = .sram m) ∨ region pa = .nowhere) (hlo : lo ≤ pa) (hhi : pa + 4 ≤ hi)
    (s : State) (w : Word) (t : Tag) : BytesStored s (s.putWord pa w t) lo hi := by
  obtain ⟨hrest, -, hbytes⟩ := stored_putWord hr s w t
  have hcores := congrArg State.cores hrest
  exact ⟨hcores, fun a ha => hbytes a fun hin => ha ⟨by omega, by omega⟩⟩

theorem bytesStored_storeWord (hr : region pa = .sram n) (hlo : lo ≤ pa) (hhi : pa + 4 ≤ hi) (s : State) (w : Word) :
    BytesStored s (s.storeWord pa w) lo hi := by
  unfold State.storeWord
  extract_lets mate s0 s1
  have h0 : s0 = s := if_neg (by rw [hr]; exact Region.noConfusion)
  have h1 : BytesStored s s1 lo hi := by
    unfold s1
    rw [h0]
    split <;> exact ⟨rfl, fun _ _ => rfl⟩
  exact bytesStored_trans h1 (bytesStored_putWord (.inl ⟨n, hr⟩) hlo hhi s1 w .written)

theorem bytesStored_storeCap (hr : region pa = .sram n) (hlo : lo ≤ pa) (hhi : pa + 8 ≤ hi) (s : State) (c : Cap) :
    BytesStored s (s.storeCap pa c) lo hi := by
  simp only [State.storeCap, State.putPair, hr]
  exact bytesStored_trans (bytesStored_putWord (.inl ⟨n, hr⟩) hlo (by omega) s _ _)
    (bytesStored_putWord (region_next_of_sram hr) (by omega) (by omega) _ _ _)

end Bounds

section Targets

variable {i : Issuer} {p : Place} {n lo hi : Nat}

theorem bytesStored_targetStore (hr : region p.pa = .sram n) (hlo : lo ≤ p.pa) (hhi : p.pa + 4 ≤ hi) (s : State) (w : Word) :
    BytesStored s (s.targetStore i p w) lo hi := by
  simp only [State.targetStore, hr, State.memStore, not_viaCache_of_sram hr, pastCache_of_sram hr, Bool.false_eq_true, if_false]
  exact bytesStored_storeWord hr hlo hhi s w

theorem bytesStored_targetCap (hr : region p.pa = .sram n) (hlo : lo ≤ p.pa) (hhi : p.pa + 8 ≤ hi) (s : State) (c : Cap) :
    BytesStored s (s.targetCap i p c) lo hi := by
  simp only [State.targetCap, hr, Region.tagged, if_true, State.memCap, not_viaCache_of_sram hr, pastCache_of_sram hr, Bool.false_eq_true,
    if_false]
  exact bytesStored_storeCap hr hlo hhi s c

end Targets

/-! ## Stores of a group, with what it logs of them (R207) -/

/-- A group has stored at bytes from `lo` on below `hi`: no core's contexts or slots change, its log stays where it is, and no byte
changes but those and the log's. -/
structure FrameStored (s t : State) (k lo hi : Nat) : Prop where
  arch : ∀ j, (t.core j).arch = (s.core j).arch
  ring : (t.core k).tm.logBase = (s.core k).tm.logBase ∧ (t.core k).tm.ctrl = (s.core k).tm.ctrl
  replaying : t.replaying k = s.replaying k
  bytes : ∀ a, ¬(lo ≤ a ∧ a < hi) → ¬inItsLog s k a → t.byteAt a = s.byteAt a

section Frames

variable {s t u : State} {k lo hi : Nat}

theorem inItsLog_of_frameStored (h : FrameStored s t k lo hi) (a : Nat) : inItsLog t k a ↔ inItsLog s k a := by
  obtain ⟨hbase, hctrl⟩ := h.ring
  simp only [inItsLog, Tidemark.logOffset, Tidemark.logSize, hbase, hctrl]

theorem topCtx_of_frameStored (h : FrameStored s t k lo hi) (th : ThreadId) : t.topCtx th = s.topCtx th := by
  simp only [State.topCtx, Core.ctx, Core.slot, h.arch]

theorem frameStored_trans (h : FrameStored s t k lo hi) (g : FrameStored t u k lo hi) : FrameStored s u k lo hi where
  arch j := (g.arch j).trans (h.arch j)
  ring := ⟨g.ring.1.trans h.ring.1, g.ring.2.trans h.ring.2⟩
  replaying := g.replaying.trans h.replaying
  bytes a ha hl := (g.bytes a ha fun hin => hl ((inItsLog_of_frameStored h a).mp hin)).trans (h.bytes a ha hl)

theorem frameStored_of_recorded (h : Recorded s t k) : FrameStored s t k lo hi := by
  obtain ⟨hbase, hctrl, -⟩ := tm_of_coreLogged h.core
  exact ⟨arch_of_recorded h, ⟨hbase, hctrl⟩, replaying_of_recorded h, fun a _ => h.bytes a⟩

theorem frameStored_of_bytesStored (h : BytesStored s t lo hi) : FrameStored s t k lo hi := by
  have hcore (j : Nat) : t.core j = s.core j := by simp only [State.core, h.cores]
  exact ⟨fun j => by rw [hcore], by rw [hcore]; exact ⟨rfl, rfl⟩, by simp only [State.replaying, hcore], fun a ha _ => h.bytes a ha⟩

/-- What touches neither cores nor memory stores nothing. -/
theorem frameStored_of_same (hc : t.cores = s.cores) (hm : t.mem = s.mem) : FrameStored s t k lo hi :=
  frameStored_of_bytesStored ⟨hc, fun a _ => congrArg (fun m => Tbl.get byteDefault ⟨m⟩ a) hm⟩

theorem frameStored_passWords (s : State) (k : Nat) (l : List Nat) : FrameStored s (s.passWords k l) k lo hi := by
  have hself := Laws.core_modCore_self s k fun c =>
    { c with tm := { c.tm with restored := l.foldl (fun l p => l.erase (sramOff p / 4)) c.tm.restored } }
  refine ⟨fun j => ?_, ?_, ?_, fun _ _ _ => rfl⟩
  · rw [State.passWords, Laws.core_modCore]
    split
    next hj => subst hj; rfl
    · rfl
  · rw [State.passWords, hself]; exact ⟨rfl, rfl⟩
  · rw [State.replaying, State.passWords, hself]; rfl

/-- What a store of a group logs: undo records, or its digest. -/
theorem recorded_logStore (s : State) (hk : k < 128) (pa be : Nat) (data : List Word) : Recorded s (s.logStore k pa be data) k := by
  have hfold (l : List Nat) : ∀ t : State, Recorded t (l.foldl (fun u a => u.logUndo k a) t) k := by
    induction l with
    | nil => exact fun t => recorded_refl t k
    | cons a r ih => exact fun t => recorded_trans (recorded_logRecord t hk _) (ih _)
  unfold State.logStore
  split
  · exact hfold _ s
  · exact recorded_logRelease s hk _ _ _ _

theorem frameStored_outStore (hk : k < 128) (hlive : s.replaying k = false) {act : State → State}
    (hact : ∀ u, BytesStored u (act u) lo hi) (kind pa be : Nat) (data : List Word) : FrameStored s (s.outStore k kind pa be data act) k lo hi := by
  unfold State.outStore
  split
  · exact frameStored_trans (frameStored_trans (frameStored_of_recorded (recorded_logStore s hk pa be data))
      (frameStored_of_bytesStored (hact _))) (frameStored_passWords _ k _)
  · rw [emit_live hlive]
    exact frameStored_trans (frameStored_of_recorded (recorded_logRelease s hk kind pa be data)) (frameStored_of_bytesStored (hact _))

end Frames

/-! ## Stores that no core waits for (R87, R138) -/

section Device

variable {i : Issuer} {lo hi : Nat}

/-- The cove's judgement of a store to its SRAM uses up at most an injection (R208, R342). -/
theorem foreignWrite_state (s : State) (k pa : Nat) :
    (s.foreignWrite k pa).2 = s ∨ ∃ page d ok, (s.foreignWrite k pa).2 = (s.takeInj page d ok).2 := by
  unfold State.foreignWrite
  split
  · extract_lets grp
    split
    next he => exact .inr ⟨_, _, _, (congrArg Prod.snd he).symm⟩
    next he => exact .inr ⟨_, _, _, (congrArg Prod.snd he).symm⟩
  · exact .inl rfl

theorem frameStored_postedKind {p : Place} {n : Nat} (hr : region p.pa = .sram n) (s : State) :
    FrameStored s (s.postedKind i p).2 i.core lo hi := by
  have hkind : (s.postedKind i p).2 = (s.foreignWrite i.core p.pa).2 := by simp only [State.postedKind, hr]
  rw [hkind]
  rcases foreignWrite_state s i.core p.pa with hsame | ⟨page, d, ok, htaken⟩
  · rw [hsame]
    exact frameStored_of_same rfl rfl
  · rw [htaken]
    have hcores := congrArg State.cores (takeInj_rest s page d ok)
    exact frameStored_of_same hcores (Laws.sameMem_takeInj s page d ok).1

/-- The error of a posted store that failed at an SRAM is counted, and no more (R87). -/
theorem frameStored_postedError {x : Posted} {n : Nat} (hr : region x.pa = .sram n) (s : State) (k : Nat) :
    FrameStored s (s.postedError x) k lo hi := by
  simp only [State.postedError, servingPage, hr, reduceCtorEq, if_false]
  exact frameStored_of_same (detect_errStatus s _ _ _).2 (Laws.sameMem_detect s _ _ _).1

theorem frameStored_deviceStore {s : State} {p : Place} {n : Nat} (hr : region p.pa = .sram n) (hlive : s.replaying i.core = false)
    {act : State → State} (hact : ∀ u, BytesStored u (act u) lo hi) (kind be : Nat) (data : List Word) :
    FrameStored s (s.deviceStore i p kind be data act) i.core lo hi := by
  have hkind := frameStored_postedKind (i := i) (lo := lo) (hi := hi) hr s
  unfold State.deviceStore
  split
  next pk inj s1 he =>
    rw [he] at hkind
    have hlive1 : s1.replaying i.core = false := hkind.replaying.trans hlive
    split
    · exact frameStored_trans hkind (frameStored_outStore i.core.isLt hlive1 hact _ _ _ _)
    · exact frameStored_trans (frameStored_trans hkind
        (frameStored_outStore (act := id) i.core.isLt hlive1 (fun u => bytesStored_refl u lo hi) _ _ _ _))
        (frameStored_postedError (x := { pa := p.pa, kind := pk, inj := inj, slot := i.slot, dev := p.dev, data := [] }) hr _ _)

/-- A place of a cove's SRAM that holds `n` bytes between two bounds. -/
def PlaceIn (p : Place) (n lo hi : Nat) : Prop := (∃ m, region p.pa = .sram m) ∧ lo ≤ p.pa ∧ p.pa + n ≤ hi

theorem frameStored_deviceWords {l : List (Place × Word)} (h : ∀ e ∈ l, PlaceIn e.1 4 lo hi) :
    ∀ {s : State}, s.replaying i.core = false → FrameStored s (s.deviceWords i l) i.core lo hi := by
  induction l with
  | nil => exact fun _ => frameStored_of_bytesStored (bytesStored_refl _ lo hi)
  | cons e r ih =>
    intro s hlive
    obtain ⟨⟨m, hr⟩, hlo, hhi⟩ := h e List.mem_cons_self
    have hfirst := frameStored_deviceStore hr hlive (fun u => bytesStored_targetStore (i := i) hr hlo hhi u e.2) 1 0xF [e.2]
    exact frameStored_trans hfirst (ih (fun e' he' => h e' (List.mem_cons_of_mem e he')) (hfirst.replaying.trans hlive))

theorem frameStored_deviceCaps {l : List (Place × Cap)} (h : ∀ e ∈ l, PlaceIn e.1 8 lo hi) :
    ∀ {s : State}, s.replaying i.core = false → FrameStored s (s.deviceCaps i l) i.core lo hi := by
  induction l with
  | nil => exact fun _ => frameStored_of_bytesStored (bytesStored_refl _ lo hi)
  | cons e r ih =>
    intro s hlive
    obtain ⟨⟨m, hr⟩, hlo, hhi⟩ := h e List.mem_cons_self
    have hfirst := frameStored_deviceStore hr hlive (fun u => bytesStored_targetCap (i := i) hr hlo hhi u e.2) 2 0xFF [e.2.w0, e.2.w1]
    exact frameStored_trans hfirst (ih (fun e' he' => h e' (List.mem_cons_of_mem e he')) (hfirst.replaying.trans hlive))

end Device

end Sys2Proof.Proofs
end

section
/-! PROOFS. Gate calls and gate returns (R144 to R149), and O22. -/

namespace Sys2Proof.Proofs

open Sys2Proof.Machine Sys2Proof.Claims

/-! ## Crossing frames (R145, R148) -/

/-- A frame that XSTK lets the device at lies in the cove's SRAM. -/
theorem bounds_of_frameOk {c : Cap} {o : Int} (h : frameOk c o = true) : 0 ≤ o ∧ o + 64 ≤ 0x200000 := by
  simp only [frameOk, physOk, Bool.and_eq_true, decide_eq_true_eq] at h
  omega

theorem region_ownPlace {k off : Nat} (hk : k < 128) (h : off < 0x200000) : region (ownPlace k off).pa = .sram (k / 8) := by
  have hpa : (ownPlace k off).pa = 0xE000000000 + k / 8 * 0x200000 + off := by simp only [ownPlace, coveBase]
  have hcove : (0xE000000000 + k / 8 * 0x200000 + off - 0xE000000000) / 0x200000 = k / 8 := by omega
  rw [hpa, region, if_neg (by omega), if_pos (by omega), hcove]

/-- The frame that GCALL writes is all that its stores change (R148). -/
theorem frameStored_frameStore {s : State} {i : Issuer} {x : Ctx} (hlive : s.replaying i.core = false)
    (hok : frameOk x.xstk x.xstk.w0.toNat = true) (g : Gate96) :
    FrameStored s (s.frameStore i x g) i.core (coveBase (i.core / 8) + x.xstk.w0.toNat) (coveBase (i.core / 8) + x.xstk.w0.toNat + 64) := by
  obtain ⟨-, htop⟩ := bounds_of_frameOk hok
  have hplace (off n : Nat) (h1 : x.xstk.w0.toNat ≤ off) (h2 : off + n ≤ x.xstk.w0.toNat + 64) (hn : 0 < n) :
      PlaceIn (ownPlace i.core off) n (coveBase (i.core / 8) + x.xstk.w0.toNat) (coveBase (i.core / 8) + x.xstk.w0.toNat + 64) :=
    ⟨⟨_, region_ownPlace i.core.isLt (by omega)⟩, by simp only [ownPlace]; omega, by simp only [ownPlace]; omega⟩
  unfold State.frameStore
  extract_lets a caps words s1
  have hcaps : FrameStored s s1 i.core _ _ := frameStored_deviceCaps (fun e he => by
    obtain ⟨n, hn, rfl⟩ := List.mem_mapIdx.mp he
    have hn : n < 6 := hn
    exact hplace (a + 8 * n) 8 (by omega) (by omega) (by decide)) hlive
  refine frameStored_trans hcaps (frameStored_deviceWords (fun e he => ?_) (hcaps.replaying.trans hlive))
  obtain ⟨n, hn, rfl⟩ := List.mem_mapIdx.mp he
  have hn : n < 4 := hn
  exact hplace (a + 0x30 + 4 * n) 4 (by omega) (by omega) (by decide)

/-! ## The contexts on the two sides of a gate -/

theorem ofInt_toNat_add {n : Nat} (w : BitVec n) (m : Int) : BitVec.ofInt n ((w.toNat : Int) + m) = w + BitVec.ofInt n m := by
  rw [BitVec.ofInt_add, BitVec.ofInt_natCast, BitVec.ofNat_toNat, BitVec.setWidth_eq]

/-- Passing arguments reads and writes the capability registers only (R147). -/
theorem passArgs_of_regs {x y : Ctx} (h : y.c = x.c) (n : Nat) (l : List ArgCheck) :
    passArgs y n l = { y with c := (passArgs x n l).c } := by
  induction l generalizing n x y with
  | nil => rw [passArgs, passArgs, ← h]
  | cons k r ih =>
    have hset : ∀ i : CReg, (y.setC i (k.pass (y.getC i))).c = (x.setC i (k.pass (x.getC i))).c := fun i => by
      simp only [Ctx.setC, Ctx.getC, h]
    exact ih (hset _) (n + 1)

/-- The callee's context (R148). -/
theorem cross_eq (x : Ctx) (g : Gate96) : x.cross g = { x with
    pcc := g.entry, c := (((passArgs x 1 g.args).c.set 0 g.data).set 6 g.stack).set 7 Cap.null, tvec := g.tvec, tideAuth := g.tide
    cur := tagTenant g.callee, addrmode := 0, xstk := x.xstk.withCursor (x.xstk.w0 + 64)
    ts := { x.ts with m := bit g.mode 0, xdepth := x.ts.xdepth + 1 } } := by
  have hcur : BitVec.ofInt 32 ((x.xstk.w0.toNat : Int) + 64 * 1) = x.xstk.w0 + 64 := ofInt_toNat_add _ _
  have hdepth : BitVec.ofInt 7 ((x.ts.xdepth.toNat : Int) + 1) = x.ts.xdepth + 1 := ofInt_toNat_add _ _
  rw [Ctx.cross, passArgs_of_regs (x := x) (y := x.moveStack 1) rfl]
  simp only [Ctx.moveStack, hcur, hdepth]
  rfl

/-- The caller's context again (R149). -/
theorem uncross_eq (x : Ctx) (f : Crossing) : x.uncross f f.pcc.w0 = { x with
    pcc := f.pcc, c := ((x.c.set 0 f.c0).set 6 f.c6).set 7 f.c7, tvec := f.tvec, tideAuth := f.tide, cur := tagTenant f.caller
    addrmode := f.addrmode.setWidth 24, xstk := x.xstk.withCursor (x.xstk.w0 - 64)
    ts := { x.ts with h := bit f.state 1, m := bit f.state 0, xdepth := x.ts.xdepth - 1 } } := by
  have hcur : BitVec.ofInt 32 ((x.xstk.w0.toNat : Int) + 64 * -1) = x.xstk.w0 - 64 := by
    rw [ofInt_toNat_add, BitVec.sub_eq_add_neg]; rfl
  have hdepth : BitVec.ofInt 7 ((x.ts.xdepth.toNat : Int) + -1) = x.ts.xdepth - 1 := by
    rw [ofInt_toNat_add, BitVec.sub_eq_add_neg]; rfl
  simp only [Ctx.uncross, Ctx.moveStack, hcur, hdepth]
  rfl

/-! ## The question whether a tenant's generation is current (R146, R149) -/

/-- A question that leaves the group and its answer, both logged (R207). -/
def answeredLive (s : State) (th : ThreadId) (n : Nat) (data : List Word) (v : Word) : State :=
  (s.asks th.core n data).logValue th.core th.slot v .written 0 false

theorem recorded_answeredLive {s : State} {th : ThreadId} (hlive : s.replaying th.core = false) (n : Nat) (data : List Word) (v : Word) :
    Recorded s (answeredLive s th n data v) th.core :=
  recorded_trans (recorded_asks th.core.isLt hlive n data) (recorded_logValue _ th.core.isLt _ _ _ _ _)

theorem respond_asked {s : State} {th : ThreadId} {n : Nat} {data : List Word} {v : Word}
    {live : State → Except Nat (Word × Tag) × State} (hlive : s.replaying th.core = false) (hl : live (s.asks th.core n data) = (.ok (v, .written), s.asks th.core n data)) :
    (s.asks th.core n data).respond th.core th.slot false live = (.ok (v, .written), answeredLive s th n data v) :=
  respond_live ((replaying_of_recorded (recorded_asks th.core.isLt hlive n data)).trans hlive) hl th.slot false

/-- Logging leaves the tenants. -/
theorem tenant_of_recorded {s t : State} {k : Nat} (h : Recorded s t k) (n : Nat) : t.tenant n = s.tenant n := by
  have htenants := congrArg State.tenants h.rest
  have htenants : t.tenants = s.tenants := htenants
  rw [State.tenant, State.tenant, htenants]

theorem tagLive_of_recorded {s t : State} {k : Nat} (h : Recorded s t k) (w : Word) : t.tagLive w = s.tagLive w := by
  rw [State.tagLive, State.tagLive, State.tenantTag, State.tenantTag, tenant_of_recorded h]

theorem tagLive_asks {s : State} {th : ThreadId} (hlive : s.replaying th.core = false) (n : Nat) (data : List Word) (w : Word) :
    (s.asks th.core n data).tagLive w = s.tagLive w := tagLive_of_recorded (recorded_asks th.core.isLt hlive n data) w

/-- A crossing to a tenant that runs does not park (R35). -/
theorem not_crossingParks {s : State} {k : Nat} {n : TenantId} {call : Bool} (hstop : (s.tenant n.toNat).st ≠ .stopped)
    (hbuild : call = true → (s.tenant n.toNat).st ≠ .building) : s.crossingParks k n call = false := by
  cases call with
  | false => simp [State.crossingParks, hstop]
  | true => simp [State.crossingParks, hstop, hbuild rfl]

/-- A group that logs as it did at the issue of a thread's parcel does not replay. -/
theorem not_replaying_of_st {s s1 : State} {th : ThreadId} {x : Ctx} (h : s.ready th = some x)
    (hst : (s1.core th.core).tm.st = (s.core th.core).tm.st) : s1.replaying th.core = false := by
  rw [State.replaying, hst]
  exact not_replaying_of_ready h

/-! ## The end of a crossing -/

theorem topCtx_jumped {s : State} {th : ThreadId} {y : Ctx} (h : s.topCtx th = some y) :
    (s.jumped th).topCtx th = some { y with progValid := false } := by
  rw [jumped_eq h, topCtx_modSlot]
  · rw [Laws.topCtx_setTop, h]; rfl
  · exact fun _ => rfl

theorem onlyCore_jumped {s : State} {th : ThreadId} {y : Ctx} (h : s.topCtx th = some y) : OnlyCore s (s.jumped th) th.core := by
  rw [jumped_eq h]
  exact onlyCore_trans (onlyCore_setTop s th _) (onlyCore_modSlot _ _ _ _)

/-- A plain operation that goes on at other registers `y`, on top of what it did to the device, `u`. -/
theorem crosses_of_run {s u : State} {th : ThreadId} {x z y : Ctx} {i : Instr} {run : Op} (h : s.ready th = some x)
    (hx : exec i s = .next (s.issue th i (plainOp run))) (hz : u.topCtx th = some z) (hr : run th (issuing s th) = .jump (u.setTop th y)) :
    Answers i s fun t => t.topCtx th = some { y with progValid := false } ∧ OnlyCore u t th.core := by
  have htop : (u.setTop th y).topCtx th = some y := by rw [Laws.topCtx_setTop, hz]; rfl
  refine ⟨_, hx, ?_⟩
  rw [issue_plainOp_jump h hr]
  exact ⟨(topCtx_keepBefore _ _ th).trans (topCtx_jumped htop),
    onlyCore_trans (onlyCore_setTop u th y) (onlyCore_trans (onlyCore_jumped htop) (onlyCore_keepBefore _ _ th))⟩

/-! ## The two crossings -/

/-- GCALL past its checks: the question, the frame and the callee's context (R146, R148). -/
theorem run_gcall {s s1 : State} {th : ThreadId} {x : Ctx} {ca : CReg} {g : Gate96} (h : s.ready th = some x) (hl : x.ts.level = 0)
    (hgate : gateCheck (x.getC ca) = .ok ()) (hread : (issuing s th).gateRead (issuerOf th x) ca (x.getC ca).w0.toNat = (.ok g, s1))
    (hreplay : s1.replaying th.core = false) (hlive : s1.tagLive g.callee = true)
    (hrun : (s1.tenant (tagTenant g.callee).toNat).st = .running) (hdepth : x.ts.xdepth.toNat < 64)
    (hok : frameOk x.xstk x.xstk.w0.toNat = true) (hargs : firstFailing x 1 g.args = none) :
    (opGcall ca).run th (issuing s th) = .jump (((answeredLive s1 th (tagTenant g.callee).toNat [g.callee] 0).frameStore
      (issuerOf th x) x g).setTop th (x.cross g)) := by
  have hrec := recorded_answeredLive hreplay (tagTenant g.callee).toNat [g.callee] 0
  have hanswer := respond_asked (v := 0) (live := fun t => (if t.tagLive g.callee then .ok (0, .written) else .error fCAP_TAG, t)) hreplay
    (n := (tagTenant g.callee).toNat) (data := [g.callee]) (by simp only [tagLive_asks hreplay, hlive, if_true])
  have hst := (congrArg Tenant.st (tenant_of_recorded hrec (tagTenant g.callee).toNat)).trans hrun
  have hparks := not_crossingParks (k := th.core) (call := true) (by rw [hst]; decide) (fun _ => by rw [hst]; decide)
  have hsteps : ¬64 ≤ x.ts.xdepth.toNat := by omega
  simp only [opGcall, plainOp, topCtx_issuing_of_ready h, hl, ne_eq, not_true, if_false, hgate, hread, hanswer, hparks, Bool.false_eq_true,
    gateCross, hsteps, hok, Bool.not_true, hargs]

theorem gateCall : GateCall := by
  intro s s1 th x ca g h hl hgate hread htop _ hst hlive hrun hdepth hok hargs
  have hreplay := not_replaying_of_st h hst
  have hrec := recorded_answeredLive hreplay (tagTenant g.callee).toNat [g.callee] 0
  have hframe := frameStored_trans (frameStored_of_recorded hrec)
    (frameStored_frameStore (i := issuerOf th x) ((replaying_of_recorded hrec).trans hreplay) hok g)
  obtain ⟨t, hexec, htop', honly⟩ := crosses_of_run (i := .gcall th ca) h rfl ((topCtx_of_frameStored hframe th).trans htop)
    (run_gcall h hl hgate hread hreplay hlive hrun hdepth hok hargs)
  rw [cross_eq] at htop'
  refine ⟨t, hexec, htop', fun a ha hlog => ?_⟩
  have hmem := (sameMem_of_onlyCore honly).1
  rw [State.byteAt, hmem]
  exact hframe.bytes a ha hlog

/-- GRET past its checks, with its caller current: the question and the caller's context (R149). -/
theorem run_gret {s s1 : State} {th : ThreadId} {x : Ctx} {f : Crossing} (h : s.ready th = some x) (hl : x.ts.level = 0)
    (hdepth : x.ts.xdepth ≠ 0) (hok : frameOk x.xstk ((x.xstk.w0.toNat : Int) - 64) = true)
    (hread : (issuing s th).frameAt (issuerOf th x) (x.xstk.w0.toNat - 64) = (.ok f, s1)) (hreplay : s1.replaying th.core = false)
    (hlive : s1.tagLive f.caller = true) (hstop : (s1.tenant (tagTenant f.caller).toNat).st ≠ .stopped) :
    opGret.run th (issuing s th)
      = .jump ((answeredLive s1 th (tagTenant f.caller).toNat [f.caller] 1).setTop th (x.uncross f f.pcc.w0)) := by
  have hoff : ((x.xstk.w0.toNat : Int) - 64).toNat = x.xstk.w0.toNat - 64 := by omega
  have hanswer := respond_asked (v := 1) (live := fun t => (.ok (if t.tagLive f.caller then 1 else 0, .written), t)) hreplay
    (n := (tagTenant f.caller).toNat) (data := [f.caller]) (by simp only [tagLive_asks hreplay, hlive, if_true])
  have hparks := not_crossingParks (k := th.core) (call := false) hstop (fun hc => by cases hc)
  simp only [opGret, plainOp, topCtx_issuing_of_ready h, hl, hdepth, hok, hoff, hread, hparks, hanswer, ne_eq, not_true, if_false,
    Bool.not_true, Bool.false_eq_true]
  rfl

theorem gateReturn : GateReturn := by
  intro s s1 th x f h hl hdepth hok hread htop hq hst hlive hstop
  have hreplay := not_replaying_of_st h hst
  have hrec := recorded_answeredLive hreplay (tagTenant f.caller).toNat [f.caller] 1
  obtain ⟨t, hexec, htop', honly⟩ := crosses_of_run (i := .gret th) h rfl ((topCtx_of_recorded hrec th).trans htop)
    (run_gret h hl hdepth hok hread hreplay hlive hstop)
  rw [uncross_eq] at htop'
  exact ⟨t, hexec, htop', onlyLogged_of_recorded hrec hq honly⟩

/-- Settles O22: each crossing is a question that the log records, the frame's stores or reads, and a transfer of control. -/
theorem gateCrossings : Obligations.GateCrossings := ⟨gateCall, gateReturn⟩

end Sys2Proof.Proofs
end
